-- ==== Sys2Proof/Word.lean ====
section
/-! DEFINITION. The word types of the machine: bytes, halves, 32-bit registers, 64-bit words (R2, R22). -/

namespace Sys2Proof

/-- One byte. -/
abbrev Byte := BitVec 8

/-- A 16-bit half register. -/
abbrev Half := BitVec 16

/-- A 32-bit register. -/
abbrev Word := BitVec 32

/-- A 64-bit value: an instruction word, a pc, a register pair. -/
abbrev Dword := BitVec 64

end Sys2Proof
end

