-- ==== Sys2Proof/Syntax.lean ====
section
/-! DEFINITION. The steps of the machine as syntax: one constructor of `Instr` per row of the table of operations
and events. An instruction row carries the fields of its format (R36–R40), an event row names what it happens to. -/

namespace Sys2Proof

/-- The V format (R36). -/
structure VFmt where
  g : BitVec 4
  d : Byte
  a : Byte
  b : Byte
  c : Byte
  m : BitVec 12
  ka : Bool
  kb : Bool
  kc : Bool
  f : BitVec 5
  deriving DecidableEq, Repr, Inhabited

/-- The I format (R37). -/
structure IFmt where
  g : BitVec 4
  d : Byte
  a : Byte
  ka : Bool
  f3 : BitVec 3
  imm : Word
  deriving DecidableEq, Repr, Inhabited

/-- The M format (R38); `rsv` is bits [6:5]. -/
structure MFmt where
  g : BitVec 4
  t : Byte
  a : Byte
  s : Byte
  imm : BitVec 12
  sp : BitVec 3
  w : BitVec 3
  cp : BitVec 3
  rsv : BitVec 2
  f : BitVec 5
  deriving DecidableEq, Repr, Inhabited

/-- The E format (R39). -/
structure EFmt where
  g : BitVec 4
  d : Byte
  p : Byte
  h : Byte
  v : Byte
  x : Byte
  imm : Byte
  ru : Bool
  f : BitVec 3
  deriving DecidableEq, Repr, Inhabited

/-- The B format (R40). -/
structure BFmt where
  g : BitVec 4
  s : Byte
  f : BitVec 4
  off : BitVec 40
  deriving DecidableEq, Repr, Inhabited

/-- The clause classes of R25, in which the class decides what an instruction's fields name (R12, R35). -/
inductive ClauseClass where
  | vec | uni | mem | eng | ctl | mix
  deriving DecidableEq, Repr, Inhabited

/-- Names a flight: flight `fl` of resident workgroup `w`, or the control program of a partition on a die (R169). -/
inductive FlightRef where
  | wg (w fl : Nat)
  | ctl (die part : Nat)
  deriving DecidableEq, Repr, Inhabited

/-- A resource that a LAZY context still holds on a core (R342). -/
inductive LazyRes where
  | rows (wg : Nat)
  | scratch (wg : Nat)
  | tile (quad tile : Nat)
  | latch (quad latch : Nat)
  deriving DecidableEq, Repr, Inhabited

/-- Where a command comes from: launch queue `q` of a partition, or the PF command queue (R373, R377). -/
inductive CmdSrc where
  | vf (part q : Nat)
  | pf
  deriving DecidableEq, Repr, Inhabited

/-- A ring table: a partition's or the PF's (R376). -/
inductive RingTable where
  | part (k : Nat)
  | pf
  deriving DecidableEq, Repr, Inhabited

/-- The registers and record fields that BAR2 lets software write (R338, R339, R376, R377, R382); `portRelease` is the host's software letting
go its contained port (R362; PRESUMED, log 24). -/
inductive RegTarget where
  | pcap
  | portRelease
  | ringBase (table : RingTable) (ring : Nat)
  | ringSize (table : RingTable) (ring : Nat)
  | ringProd (table : RingTable) (ring : Nat)
  | ringCons (table : RingTable) (ring : Nat)
  | stopPc (r : FlightRef)
  | ix (r : FlightRef)
  | rngctr (r : FlightRef)
  | fsr (r : FlightRef)
  | qpred (r : FlightRef)
  | cb (r : FlightRef) (i : Nat)
  | sreg (r : FlightRef) (i : Nat)
  | pc (r : FlightRef) (lane : Nat)
  | mr (r : FlightRef) (lane : Nat)
  | pred (r : FlightRef) (lane : Nat)
  deriving DecidableEq, Repr, Inhabited

/-- The configuration image (R193, R356, R378, R385; log 8): enabled cores, trims and speed bin, each die's twin window and count plane, the
spare frames, the scan patterns, the device's index; `pool` is how many private regions a partition's pool has on each die (R177). -/
structure Image where
  cores : BitVec 512
  trims : List Byte
  bin : Nat
  pool : Nat
  twlo : List Nat
  twsize : Nat
  cpbase : List Nat
  spares : List Nat
  patterns : List Byte
  devIdx : Byte
  deriving DecidableEq, Repr, Inhabited

/-- An image that a boot step reads (R378): whether its Ed25519 and its ML-DSA-65 signature verify, its version, and what a configuration
image holds. -/
structure BootImage where
  ed25519 : Bool
  mldsa : Bool
  version : Nat
  content : Image
  deriving DecidableEq, Repr, Inhabited

/-- What the boot steps of R379 found: the images that steps 1 and 2 read (hub firmware, its second copy, configuration image, the last one
that booted OK, which flash keeps), which steps passed otherwise (in their first or fallback form), the dies and stacks that trained, the
cores whose scan turn failed, and the step at which the boot was interrupted, if it was. -/
structure BootReport where
  images : List BootImage
  first : List Bool
  fallback : List Bool
  dieOk : List Bool
  stackOk : List Bool
  badCores : List Nat
  cut : Option Nat
  deriving DecidableEq, Repr, Inhabited

/-- What uncorrectable data reaches (R361): a flight, the host, or nothing: it stays in a line as poison. -/
inductive Consumer where
  | flight (r : FlightRef)
  | host
  | nobody
  deriving DecidableEq, Repr, Inhabited

/-- An uncorrectable error: what its data reaches, and its sector of HBM, where it has one (R359, R361). -/
structure Uncorrectable where
  who : Consumer
  sector : Option Nat
  deriving DecidableEq, Repr, Inhabited

/-- A corrected error: what it is, and its sector of HBM, where it has one (R359, R362). -/
structure Corrected where
  what : Nat
  sector : Option Nat
  deriving DecidableEq, Repr, Inhabited

/-- What the boot steps of a die that rejoins have found (R379, R380): the die, which of its stacks trained, the cores that failed their turn. -/
structure Rejoin where
  die : Nat
  stackOk : List Bool
  badCores : List Nat
  deriving DecidableEq, Repr, Inhabited

/-- The kinds of operation that travel between devices (R387, R391); `probe` is SEAL's test of pages and reading of bytes (R203, R218). -/
inductive RemKind where
  | load
  | store
  | atom (op : BitVec 3) (ty : BitVec 2)
  | acas
  | pstp
  | ldf (cnt : Bool)
  | sta (fmt : Nat) (cnt : Bool)
  | lda (early : Bool)
  | twReset
  | twQuery
  | copyRead
  | copyWrite
  | spoolReturn
  | spoolRelease
  | probe
  deriving DecidableEq, Repr, Inhabited

/-- One operation sent to another device: its kind, the virtual address and length, the second address of a PSTP, the bytes it
carries (store data; compare then new for ACAS), and, for a twin operation, the parts of the instruction's lanes in one line:
address, length and data of each, in lane order (R249). -/
structure RemOp where
  kind : RemKind
  va : Dword
  va2 : Dword
  len : Nat
  data : List Byte
  parts : List (Dword × (Nat × List Byte))
  deriving DecidableEq, Repr, Inhabited

/-- A request packet as a target receives it (R387, R391, R392): its source, a name of the flight there (R395), the time of its operation's
first sending, ns. -/
structure RemoteReq where
  srcDev : Nat
  srcPart : Nat
  flight : Nat
  sent : Nat
  domid : BitVec 16
  epoch : Word
  seq : Word
  create : Bool
  pts : Nat
  op : RemOp
  deriving DecidableEq, Repr, Inhabited

/-- A target's answer: data with the home's Wts, a fault (cause, sub-code), HOME_DOWN, an LDA refused because a granule
is OPEN, or a fault-queue park at the target (R207, R387, R395). -/
inductive RemoteAns where
  | data (bytes : List Byte) (wts : Nat) (flags : Byte)
  | fault (cause sub : Byte) (va : Dword)
  | homeDown (die : Nat)
  | twinOpen
  | parked
  deriving DecidableEq, Repr, Inhabited

/-- The rows of the table of operations and events. -/
inductive Instr where
  /-- NOP (R55). -/
  | nop (o : VFmt)
  /-- MOV (R55). -/
  | mov (o : VFmt)
  /-- MOV_LIFT (R55). -/
  | movLift (o : VFmt)
  /-- MOVI (R55). -/
  | movi (o : IFmt)
  /-- IADD (R56). -/
  | iadd (o : VFmt)
  /-- ISUB (R56). -/
  | isub (o : VFmt)
  /-- IADDI (R56). -/
  | iaddi (o : IFmt)
  /-- IADD64 (R56). -/
  | iadd64 (o : VFmt)
  /-- ISUB64 (R56). -/
  | isub64 (o : VFmt)
  /-- IADDC (R57). -/
  | iaddc (o : VFmt)
  /-- IMUL (R58). -/
  | imul (o : VFmt)
  /-- IMULH (R58). -/
  | imulh (o : VFmt)
  /-- IMAD (R58). -/
  | imad (o : VFmt)
  /-- IMADW (R58). -/
  | imadw (o : VFmt)
  /-- IDOT4 (R59). -/
  | idot4 (o : VFmt)
  /-- IMINMAX (R60). -/
  | iminmax (o : VFmt)
  /-- IABSNEG (R60). -/
  | iabsneg (o : VFmt)
  /-- LEA64 (R61). -/
  | lea64 (o : VFmt)
  /-- AND (R62). -/
  | and (o : VFmt)
  /-- OR (R62). -/
  | or (o : VFmt)
  /-- XOR (R62). -/
  | xor (o : VFmt)
  /-- ANDN (R62). -/
  | andn (o : VFmt)
  /-- NOT (R62). -/
  | not (o : VFmt)
  /-- TRIO (R63). -/
  | trio (o : VFmt)
  /-- LOGI (R62). -/
  | logi (o : IFmt)
  /-- SHL (R64). -/
  | shl (o : VFmt)
  /-- SHR (R64). -/
  | shr (o : VFmt)
  /-- SHRA (R64). -/
  | shra (o : VFmt)
  /-- ROTL (R64). -/
  | rotl (o : VFmt)
  /-- SHI (R64). -/
  | shi (o : IFmt)
  /-- SHF (R65). -/
  | shf (o : VFmt)
  /-- BFX (R66). -/
  | bfx (o : VFmt)
  /-- BFI (R66). -/
  | bfi (o : VFmt)
  /-- POPC (R67). -/
  | popc (o : VFmt)
  /-- CLZ (R67). -/
  | clz (o : VFmt)
  /-- BREV (R67). -/
  | brev (o : VFmt)
  /-- FFS (R67). -/
  | ffs (o : VFmt)
  /-- ICMP (R68). -/
  | icmp (o : VFmt)
  /-- ICMP64 (R68). -/
  | icmp64 (o : VFmt)
  /-- ICMPI (R68). -/
  | icmpi (o : IFmt)
  /-- SEL (R69). -/
  | sel (o : VFmt)
  /-- PLOP (R69). -/
  | plop (o : VFmt)
  /-- PMOV (R70). -/
  | pmov (o : VFmt)
  /-- RNG (R71). -/
  | rng (o : VFmt)
  /-- BRA (R73). -/
  | bra (o : BFmt)
  /-- BRAX (R73). -/
  | brax (o : BFmt)
  /-- CALL (R73). -/
  | call (o : BFmt)
  /-- CALLX (R73). -/
  | callx (o : BFmt)
  /-- RET (R73). -/
  | ret (o : BFmt)
  /-- LOOP (R73). -/
  | loop (o : BFmt)
  /-- EXIT (R78). -/
  | exit (o : BFmt)
  /-- FADD (R106). -/
  | fadd (o : VFmt)
  /-- FSUB (R106). -/
  | fsub (o : VFmt)
  /-- FMUL (R106). -/
  | fmul (o : VFmt)
  /-- FFMA (R106). -/
  | ffma (o : VFmt)
  /-- FMIN (R107). -/
  | fmin (o : VFmt)
  /-- FMAX (R107). -/
  | fmax (o : VFmt)
  /-- FABS (R108). -/
  | fabs (o : VFmt)
  /-- FNEG (R108). -/
  | fneg (o : VFmt)
  /-- FOPI (R109). -/
  | fopi (o : IFmt)
  /-- FCMP (R110). -/
  | fcmp (o : VFmt)
  /-- DCMP (R110). -/
  | dcmp (o : VFmt)
  /-- FCLASS (R111). -/
  | fclass (o : VFmt)
  /-- FRND (R112). -/
  | frnd (o : VFmt)
  /-- HADD2 (R113). -/
  | hadd2 (o : VFmt)
  /-- HSUB2 (R113). -/
  | hsub2 (o : VFmt)
  /-- HMUL2 (R113). -/
  | hmul2 (o : VFmt)
  /-- HFMA2 (R113). -/
  | hfma2 (o : VFmt)
  /-- HMIN2 (R114). -/
  | hmin2 (o : VFmt)
  /-- HMAX2 (R114). -/
  | hmax2 (o : VFmt)
  /-- HCMP2 (R114). -/
  | hcmp2 (o : VFmt)
  /-- FDOT2 (R115). -/
  | fdot2 (o : VFmt)
  /-- DADD (R116). -/
  | dadd (o : VFmt)
  /-- DMUL (R116). -/
  | dmul (o : VFmt)
  /-- DFMA (R116). -/
  | dfma (o : VFmt)
  /-- RCP (R117). -/
  | rcp (o : VFmt)
  /-- RSQ (R117). -/
  | rsq (o : VFmt)
  /-- SQRT (R117). -/
  | sqrt (o : VFmt)
  /-- EXP2 (R117). -/
  | exp2 (o : VFmt)
  /-- LOG2 (R117). -/
  | log2 (o : VFmt)
  /-- SINPI (R117). -/
  | sinpi (o : VFmt)
  /-- COSPI (R117). -/
  | cospi (o : VFmt)
  /-- TANH (R117). -/
  | tanh (o : VFmt)
  /-- CVTFI (R118). -/
  | cvtfi (o : VFmt)
  /-- CVTIF (R119). -/
  | cvtif (o : VFmt)
  /-- CVTFF (R120). -/
  | cvtff (o : VFmt)
  /-- SCLQ (R121). -/
  | sclq (o : VFmt)
  /-- PACKN (R122). -/
  | packn (o : VFmt)
  /-- UNPKN (R123). -/
  | unpkn (o : VFmt)
  /-- CBLD (R124). -/
  | cbld (o : VFmt)
  /-- CBLK (R125). -/
  | cblk (o : VFmt)
  /-- CBNR (R125). -/
  | cbnr (o : VFmt)
  /-- SHFLI (R136). -/
  | shfli (o : VFmt)
  /-- VOTE (R137). -/
  | vote (o : VFmt)
  /-- REDUX (R138). -/
  | redux (o : VFmt)
  /-- SCANX (R139). -/
  | scanx (o : VFmt)
  /-- MATCH (R140). -/
  | matchLanes (o : VFmt)
  /-- ELECT (R141). -/
  | elect (o : VFmt)
  /-- SORTK (R143). -/
  | sortk (o : VFmt)
  /-- MEET (R132). -/
  | meet (o : BFmt)
  /-- SETMR (R133). -/
  | setmr (o : VFmt)
  /-- LD (R209). -/
  | ld (o : MFmt)
  /-- ST (R210). -/
  | st (o : MFmt)
  /-- ATOM (R211). -/
  | atom (o : MFmt)
  /-- ACAS (R212). -/
  | acas (o : MFmt)
  /-- PSTP (R213). -/
  | pstp (o : MFmt)
  /-- PREF (R214). -/
  | pref (o : MFmt)
  /-- RESID (R214). -/
  | resid (o : MFmt)
  /-- SEAL (R218). -/
  | seal (o : EFmt)
  /-- UNSEAL (R220). -/
  | unseal (o : EFmt)
  /-- WAIT (R221). -/
  | wait (o : IFmt)
  /-- FENCEX (R222). -/
  | fencex (o : IFmt)
  /-- FENCEP (R223). -/
  | fencep (o : IFmt)
  /-- NPBEGIN (R224). -/
  | npbegin (o : VFmt)
  /-- NPEND (R224). -/
  | npend (o : VFmt)
  /-- BAR (R163). -/
  | bar (o : VFmt)
  /-- BART (R163). -/
  | bart (o : VFmt)
  /-- YIELD (R164). -/
  | yield (o : VFmt)
  /-- LAUNCH (R166). -/
  | launch (o : EFmt)
  /-- CANCEL (R167). -/
  | cancel (o : EFmt)
  /-- CANCEL_IDX (R167). -/
  | cancelIdx (o : EFmt)
  /-- CSIG (R168). -/
  | csig (o : EFmt)
  /-- CSIG_IDX (R168). -/
  | csigIdx (o : EFmt)
  /-- CSIG_ARM (R168). -/
  | csigArm (o : EFmt)
  /-- GETS (R170). -/
  | gets (o : IFmt)
  /-- GETS_CLR (R170). -/
  | getsClr (o : IFmt)
  /-- LDF (R251). -/
  | ldf (o : MFmt)
  /-- STA (R252). -/
  | sta (o : MFmt)
  /-- LDA (R253). -/
  | lda (o : MFmt)
  /-- TWCTL_RESET (R254). -/
  | twctlReset (o : MFmt)
  /-- TWCTL_QUERY (R254). -/
  | twctlQuery (o : MFmt)
  /-- CPY (R263). -/
  | cpy (o : EFmt)
  /-- CPYG (R265). -/
  | cpyg (o : EFmt)
  /-- CPYS (R265). -/
  | cpys (o : EFmt)
  /-- SPINIT (R268). -/
  | spinit (o : EFmt)
  /-- SPWAIT (R271). -/
  | spwait (o : EFmt)
  /-- SPREL (R272). -/
  | sprel (o : EFmt)
  /-- SPPOS (R273). -/
  | sppos (o : EFmt)
  /-- MMA (R297). -/
  | mma (o : EFmt)
  /-- MMAS (R297). -/
  | mmas (o : EFmt)
  /-- ACCZ (R294). -/
  | accz (o : EFmt)
  /-- ACCST (R299). -/
  | accst (o : EFmt)
  /-- ACCLD (R300). -/
  | accld (o : EFmt)
  /-- ACCREL (R300). -/
  | accrel (o : EFmt)
  /-- MXCHK (R304). -/
  | mxchk (o : IFmt)
  /-- DRAW (R325). -/
  | draw (o : EFmt)
  /-- ESMP (R326). -/
  | esmp (o : EFmt)
  /-- ESMP_POST (R326). -/
  | esmpPost (o : EFmt)
  /-- ESTAT (R327). -/
  | estat (o : EFmt)
  /-- ESTOP (R328). -/
  | estop (o : EFmt)
  /-- TRAP (R346). -/
  | trap (o : IFmt)
  /-- BKPT (R346). -/
  | bkpt (o : IFmt)
  /-- TIMER_ARM (R346). -/
  | timerArm (o : IFmt)
  /-- TIMER_READ (R346). -/
  | timerRead (o : IFmt)
  /-- TIMER_CANCEL (R346). -/
  | timerCancel (o : IFmt)
  /-- TOKCHK (R346). -/
  | tokchk (o : EFmt)
  /-- TOKCHK_N (R346). -/
  | tokchkN (o : EFmt)
  /-- CLAUSE_FETCH (R30). -/
  | clauseFetch (r : FlightRef)
  /-- CLAUSE_COMPLETE (R32). -/
  | clauseComplete (r : FlightRef)
  /-- LOAD_DATA_ARRIVAL (R209). -/
  | loadDataArrival (r : FlightRef) (acc : Nat) (lines : Dword)
  /-- STORE_EFFECT (R210). -/
  | storeEffect (r : FlightRef) (acc : Nat) (lines : Dword)
  /-- TICK (R171). -/
  | tick (part : Nat)
  /-- FORCED_EXCHANGE (R161). -/
  | forcedExchange (core disp slot : Nat)
  /-- FLIGHT_END (R146). -/
  | flightEnd (r : FlightRef)
  /-- TETHER_PLACE (R156). -/
  | tetherPlace (launch : Nat) (cores : List Nat)
  /-- MIGRATE (R157). -/
  | migrate (wg core : Nat)
  /-- TWIN_COMMIT (R244). -/
  | twinCommit (launch tether idx : Nat)
  /-- COUNTER_SIGNAL (R149). -/
  | counterSignal (part slot idx state : Nat) (child : Option Nat) (cores : List Nat)
  /-- MXE_GRANT (R282). -/
  | mxeGrant (quad entry : Nat)
  /-- MXE_PRIO_RAISE (R282). -/
  | mxePrioRaise (quad entry : Nat)
  /-- TILE_OP_COMPLETE (R295). -/
  | tileOpComplete (quad entry : Nat)
  /-- MATRIX_FAULT (R298). -/
  | matrixFault (quad entry : Nat) (va : Dword)
  /-- COPY_COMPLETE (R269). -/
  | copyComplete (core copy : Nat)
  /-- COPY_FAIL (R276). -/
  | copyFail (core copy words : Nat)
  /-- STREAMER_FAULT (R278). -/
  | streamerFault (core copy words : Nat)
  /-- SHADOW_FETCH (R274). -/
  | shadowFetch (r : FlightRef) (record : Option (List Byte))
  /-- SLOT_RETURN (R274). -/
  | slotReturn (part : Nat) (name : Dword) (rd : Word)
  /-- SPOOL_TIMEOUT (R277). -/
  | spoolTimeout (r : FlightRef)
  /-- ESTIMATOR_APPLY (R324). -/
  | estimatorApply (op : Nat)
  /-- LDA_WAKE (R253). -/
  | ldaWake (r : FlightRef)
  /-- REMOTE_LDA_POLL (R395). -/
  | remoteLdaPoll (r : FlightRef)
  /-- TWIN_WAIT_TIMEOUT (R253). -/
  | twinWaitTimeout (r : FlightRef)
  /-- DIRLOCK_RETRY (R196). -/
  | dirlockRetry (r : FlightRef)
  /-- WORKGROUP_HALT (R333). -/
  | workgroupHalt (wg : Nat)
  /-- HALT_DRAIN_COMPLETE (R333). -/
  | haltDrainComplete (wg : Nat)
  /-- TIMER_EXPIRY (R346). -/
  | timerExpiry (r : FlightRef)
  /-- SLICE_EXPIRY (R341). -/
  | sliceExpiry (part : Nat)
  /-- DEBUG_HALT (R335). -/
  | debugHalt (wg : Nat)
  /-- DDEAD_EXPIRY (R342). -/
  | ddeadExpiry (part : Nat)
  /-- NP_WATCHDOG (R345). -/
  | npWatchdog (r : FlightRef)
  /-- LAZY_CLAIM_SPILL (R342). -/
  | lazyClaimSpill (part slot : Nat) (res : LazyRes)
  /-- CONTEXT_RESTORE (R342). -/
  | contextRestore (part slot : Nat)
  /-- SCRUB (R352). -/
  | scrub (part : Nat)
  /-- TOKEN_RECORD (R355). -/
  | tokenRecord (part : Nat)
  /-- TETHER_KILL (R363). -/
  | tetherKill (launch tether reason : Nat)
  /-- UNCORR_CONSUMED (R361). -/
  | uncorrConsumed (error : Uncorrectable)
  /-- CORRECTED_ERROR (R362). -/
  | correctedError (error : Corrected)
  /-- FATAL_ERROR (R362). -/
  | fatalError (what : Nat)
  /-- PAGE_RETIRE (R360). -/
  | pageRetire (frame : Nat) (spare : Option Nat) (lost : Word)
  /-- SCAN_TURN_START (R356). -/
  | scanTurnStart (core : Nat)
  /-- SCAN_TURN_END (R356). -/
  | scanTurnEnd (core : Nat)
  /-- SCAN_TURN_FAIL (R358). -/
  | scanTurnFail (core : Nat)
  /-- VF_DISABLE (R350). -/
  | vfDisable (part : Nat)
  /-- LAUNCH_DOORBELL (R373). -/
  | launchDoorbell (src : CmdSrc) (prod : Word)
  /-- RING_CONS_WRITE (R376). -/
  | ringConsWrite (table : RingTable) (ring : Nat) (cons : Word)
  /-- REGISTER_WRITE (R377). -/
  | registerWrite (target : RegTarget) (value : Dword)
  /-- LAUNCH_COMMAND (R152). -/
  | launchCommand (src : CmdSrc)
  /-- INVAL (R194). -/
  | inval (src : CmdSrc)
  /-- FRESUME (R195). -/
  | fresume (src : CmdSrc)
  /-- TRAPRES (R337). -/
  | trapres (src : CmdSrc)
  /-- ARM (R149). -/
  | arm (src : CmdSrc)
  /-- TOKREQ (R355). -/
  | tokreq (src : CmdSrc)
  /-- TOKREAD (R355). -/
  | tokread (src : CmdSrc)
  /-- CLEARLOST (R360). -/
  | clearlost (src : CmdSrc)
  /-- LOGPUT (R365). -/
  | logput (src : CmdSrc)
  /-- CAPTURE (R366). -/
  | capture (src : CmdSrc)
  /-- PREEMPT (R342). -/
  | preempt (src : CmdSrc)
  /-- DIERESET (R380). -/
  | diereset (src : CmdSrc)
  /-- PARTSET (R348). -/
  | partset (src : CmdSrc)
  /-- CTXSET (R351). -/
  | ctxset (src : CmdSrc)
  /-- REGSET (R377). -/
  | regset (src : CmdSrc)
  /-- CTXRUN (R377). -/
  | ctxrun (src : CmdSrc)
  /-- RINGSET (R376). -/
  | ringset (src : CmdSrc)
  /-- CTLRUN (R169). -/
  | ctlrun (src : CmdSrc)
  /-- BOOT (R379). -/
  | boot (report : BootReport)
  /-- DIE_FAULT (R380). -/
  | dieFault (die : Nat)
  /-- DIE_FENCING_DONE (R380). -/
  | dieFencingDone (die : Nat)
  /-- DIE_FLUSH_DONE (R380). -/
  | dieFlushDone (die : Nat)
  /-- DIE_RESET_DONE (R380). -/
  | dieResetDone (die : Nat)
  /-- DIE_TRAINING_DONE (R380). -/
  | dieTrainingDone (die : Nat) (trained : Bool)
  /-- DIE_REJOIN_DONE (R380). -/
  | dieRejoinDone (report : Rejoin)
  /-- READMISSION_MESSAGE (R381). -/
  | readmissionMessage (dev : Nat)
  /-- HOME_DOWN_RETRY (R381). -/
  | homeDownRetry (r : FlightRef)
  /-- CLOCK_THROTTLE (R382). -/
  | clockThrottle (hot : Bool)
  /-- PLANE_DOWN (R389). -/
  | planeDown (plane : Nat)
  /-- PLANE_UP (R383). -/
  | planeUp (plane : Nat)
  /-- SPAN_WRITE_RELEASE (R389). -/
  | spanWriteRelease (plane : Nat)
  /-- REMOTE_REQUEST (R387). -/
  | remoteRequest (req : RemoteReq)
  /-- REMOTE_REPLY (R392). -/
  | remoteReply (part dev : Nat) (epoch seq : Word) (reply : RemoteAns)
  /-- CREATE_PACKET (R392). -/
  | createPacket (dev part : Nat) (epoch : Word)
  /-- RESEND (R392). -/
  | resend (part dev : Nat) (seq : Word) (plane : Nat)
  /-- DELIVERY_FAIL (R393). -/
  | deliveryFail (part dev : Nat)
  /-- QUIET_EXPIRY (R392). -/
  | quietExpiry (source : Bool) (part dev : Nat)
  /-- PACKET_EXPIRY (R391). -/
  | packetExpiry (part dev : Nat) (seq : Word)
  /-- LINK_STOP (R394). -/
  | linkStop (port lane : Nat)
  /-- LINK_GO (R394). -/
  | linkGo (port lane : Nat)
  /-- TWIN_WAKEUP (R395). -/
  | twinWakeup (r : FlightRef)
  /-- DEBUGGER_RELEASE (R337). -/
  | debuggerRelease (wg : Nat)
  /-- EVENT_QUEUE_CONSUME (R376). -/
  | eventQueueConsume (die count : Nat)
  deriving DecidableEq, Repr, Inhabited

end Sys2Proof
end

