-- ==== Sys2Proof/Machine/Bits.lean ====
section
/-! DEFINITION. Bit fields, byte order, bit counts and the clause CRC: the small helpers every other definition uses. -/

namespace Sys2Proof.Machine

/-- Bits h down to l of a number, as a number (x[h:l] of R5). -/
def bits (x h l : Nat) : Nat := x / 2 ^ l % 2 ^ (h + 1 - l)

/-- Bit i of a number. -/
def bitAt (x i : Nat) : Bool := x / 2 ^ i % 2 == 1

/-- Two's-complement value of an n-bit pattern (Sg of R52). -/
def signed (n x : Nat) : Int := if x % 2 ^ n < 2 ^ (n - 1) then (x % 2 ^ n : Nat) else (x % 2 ^ n : Nat) - (2 ^ n : Nat)

/-- Wrap(x, n) of R52, as a number. -/
def wrap (n : Nat) (x : Int) : Nat := (x % (2 ^ n : Nat)).toNat

/-- Little-endian bytes of a number (R2). -/
def toBytes : Nat → Nat → List Byte
  | 0, _ => []
  | n + 1, x => BitVec.ofNat 8 x :: toBytes n (x / 256)

/-- The number whose little-endian bytes are given (R2). -/
def ofBytes : List Byte → Nat
  | [] => 0
  | b :: bs => b.toNat + 256 * ofBytes bs

/-- Number of 1 bits among the low n bits. -/
def popCount : Nat → Nat → Nat
  | 0, _ => 0
  | n + 1, x => x % 2 + popCount n (x / 2)

/-- Index of the lowest 1 bit among the low n bits, if any. -/
def lowestBit : Nat → Nat → Option Nat
  | 0, _ => none
  | n + 1, x => if x % 2 = 1 then some 0 else (lowestBit n (x / 2)).map (· + 1)

/-- The low n bits in reverse order. -/
def revBits : Nat → Nat → Nat
  | 0, _ => 0
  | n + 1, x => (x % 2) * 2 ^ n + revBits n (x / 2)

/-- The lanes of a flight, ascending. -/
def lanes : List Nat := List.range 32

/-- The lanes whose bit is set in a mask, ascending. -/
def maskLanes (m : Word) : List Nat := lanes.filter (fun l => m.getLsbD l)

/-- The mask with exactly the given lanes. -/
def laneMask (ls : List Nat) : Word := ls.foldl (fun m l => m ||| (1#32 <<< l)) 0#32

/-- The mask of the lanes that satisfy a test. -/
def maskOf (p : Nat → Bool) : Word := laneMask (lanes.filter p)

/-- One bit of the CRC-16/CCITT register (polynomial 0x1021), most significant bit first (R26). -/
def crcBit (c : Nat) (b : Bool) : Nat :=
  let top := bitAt c 15
  let sh := c * 2 % 65536
  if top != b then Nat.xor sh 0x1021 else sh

/-- The CRC register after one byte. -/
def crcByte (c : Nat) (b : Byte) : Nat :=
  [7, 6, 5, 4, 3, 2, 1, 0].foldl (fun c i => crcBit c (b.getLsbD i)) c

/-- CRC-16/CCITT of a byte sequence: initial value 0xFFFF, no reflection, no final XOR (R26). -/
def crc16 (bs : List Byte) : Half := BitVec.ofNat 16 (bs.foldl crcByte 0xFFFF)

/-- The CRC of a clause: its instruction words in address order, each least significant byte first (R26). -/
def clauseCrc (ws : List Dword) : Half := crc16 (ws.flatMap (fun w => toBytes 8 w.toNat))

/-- High and low halves of an exact 64-bit product of two 32-bit numbers (R72). -/
def mulHiLo (x y : Nat) : Nat × Nat := (x * y / 2 ^ 32, x * y % 2 ^ 32)

/-- One round of Philox (R72). -/
def philoxRound (k0 k1 : Nat) (x : Nat × Nat × Nat × Nat) : Nat × Nat × Nat × Nat :=
  let (x0, x1, x2, x3) := x
  let (h0, g0) := mulHiLo 0xD2511F53 x0
  let (h1, g1) := mulHiLo 0xCD9E8D57 x2
  (Nat.xor (Nat.xor h1 x1) k0, g1, Nat.xor (Nat.xor h0 x3) k1, g0)

/-- The given number of Philox rounds, the key advancing between consecutive rounds. -/
def philoxRounds : Nat → Nat → Nat → Nat × Nat × Nat × Nat → Nat × Nat × Nat × Nat
  | 0, _, _, x => x
  | n + 1, k0, k1, x =>
    philoxRounds n ((k0 + 0x9E3779B9) % 2 ^ 32) ((k1 + 0xBB67AE85) % 2 ^ 32) (philoxRound k0 k1 x)

/-- Philox4x32_10 (R72): the four result words, in order. -/
def philox (x0 x1 x2 x3 k0 k1 : Nat) : List Word :=
  let (y0, y1, y2, y3) := philoxRounds 10 k0 k1 (x0, x1, x2, x3)
  [BitVec.ofNat 32 y0, BitVec.ofNat 32 y1, BitVec.ofNat 32 y2, BitVec.ofNat 32 y3]

end Sys2Proof.Machine
end

