-- ==== Sys2Proof/Machine/Flags.lean ====
section
/-! DEFINITION. The flags of the flight status register, conditions, and the integer results that raise SAT (R23, R44, R52). -/

namespace Sys2Proof.Machine

/-- fsr flags as bits (R23). -/
def fIV : Byte := 0x01
def fDZ : Byte := 0x02
def fOF : Byte := 0x04
def fUF : Byte := 0x08
def fNX : Byte := 0x10
def fSAT : Byte := 0x20
def fNANF : Byte := 0x40
def fESR : Byte := 0x80

/-- The flag when a condition holds. -/
def flagIf (b : Bool) (f : Byte) : Byte := if b then f else 0

/-- V(x) of R52: an n-bit pattern read as signed or unsigned. -/
def valOf (sg : Bool) (n x : Nat) : Int := if sg then signed n x else (x : Int)

/-- Lower end of Range32 or Range64 (R52). -/
def rangeLo (sg : Bool) (n : Nat) : Int := if sg then -(2 ^ (n - 1) : Nat) else 0

/-- Upper end of Range32 or Range64 (R52). -/
def rangeHi (sg : Bool) (n : Nat) : Int := if sg then (2 ^ (n - 1) : Nat) - 1 else (2 ^ n : Nat) - 1

/-- Clip of R52: the value limited to a range, and SAT when it limits. -/
def clip (x lo hi : Int) : Int × Byte := if x < lo then (lo, fSAT) else if hi < x then (hi, fSAT) else (x, 0)

/-- An exact integer narrowed to n bits: clipped to the range of its type under sat, else wrapped (R56, R58). -/
def narrow (sat sg : Bool) (n : Nat) (x : Int) : Nat × Byte :=
  if sat then
    let c := clip x (rangeLo sg n) (rangeHi sg n)
    (wrap n c.1, c.2)
  else (wrap n x, 0)

/-- Integer condition (R44). -/
def intCond (c : Nat) (x y : Int) : Bool :=
  match c with
  | 0 => x == y
  | 1 => x != y
  | 2 => decide (x < y)
  | 3 => decide (x ≤ y)
  | 4 => decide (y < x)
  | _ => decide (y ≤ x)

end Sys2Proof.Machine
end

