-- ==== Sys2Proof/Config.lean ====
section
/-! DEFINITION. What the spec leaves to the machine: free values, which nothing in the model can evaluate (log 4). -/

namespace Sys2Proof.Config

/-- The n-th free 32-bit value. -/
opaque freeWord : Nat → Word

/-- The n-th free byte. -/
opaque freeByte : Nat → Byte

/-- The n-th free choice. -/
opaque freeBool : Nat → Bool

/-- The n-th free natural number. -/
opaque freeNat : Nat → Nat

/-- The values that run n of a checked pass gets wrong: position in the tile, value (R302; log 4). -/
opaque arrayError : Nat → List (Nat × Word)

/-- PHASE of the entries of a completion ring's first pass (R375). -/
opaque firstPhase : Bool

/-- Which content of a word of code that its launch has changed fetch n gives, by the word's key (R33; log 31). -/
opaque staleCode : Nat → Nat → Nat

/-- Byte i of the pointers of a spool whose record a store has changed, at the n-th reading (R266; log 31). -/
opaque spoolByte : Nat → Nat → Byte

/-- Where a partition's context window presents the record of a workgroup, or of a control program (R338). -/
opaque windowAddr : Nat → Nat → Dword

/-- Which byte of a resource, in the model's order, its image in a save area holds at byte i: 0 a row, 1 a tile, 2 a staging entry (R340,
R242; log 4). -/
opaque imageOrder : Nat → Nat → Nat

/-- Byte i of the device's Ed25519 public key, of 32 bytes (R354; log 18). -/
opaque ed25519Key : Nat → Byte

/-- Byte i of the device's ML-DSA-65 public key, of 1,952 bytes (R354; log 18). -/
opaque mldsaKey : Nat → Byte

/-- Byte i of the Ed25519 signature over some bytes under the private key of a public key (R354; log 18). -/
opaque ed25519Sign : List Byte → List Byte → Nat → Byte

/-- Byte i of the ML-DSA-65 signature over some bytes, with an empty context string, under the private key of a public key (R354; log
18). -/
opaque mldsaSign : List Byte → List Byte → Nat → Byte

end Sys2Proof.Config
end

