-- ==== Sys2Proof/Machine/Assoc.lean ====
section
/-! DEFINITION. Tables as sorted lists of (key, value) pairs, in one canonical form: keys strictly rising and, where
the table has a default, no entry equal to it. Memory, register files and the tables of named records are all held so. -/

namespace Sys2Proof.Machine

/-- The entry at a key. -/
def look {α : Type} : List (Nat × α) → Nat → Option α
  | [], _ => none
  | (k, v) :: m, i => if i = k then some v else look m i

/-- The table with one entry set. -/
def put {α : Type} : List (Nat × α) → Nat → α → List (Nat × α)
  | [], i, x => [(i, x)]
  | (k, v) :: m, i, x => if i < k then (i, x) :: (k, v) :: m else if i = k then (i, x) :: m else (k, v) :: put m i x

/-- The table without the entry at a key. -/
def del {α : Type} : List (Nat × α) → Nat → List (Nat × α)
  | [], _ => []
  | (k, v) :: m, i => if i = k then del m i else (k, v) :: del m i

/-- Reading a table with a default. -/
def sget {α : Type} (d : α) (m : List (Nat × α)) (i : Nat) : α := (look m i).getD d

/-- Writing a table with a default: writing the default removes the entry. -/
def sput {α : Type} [DecidableEq α] (d : α) (m : List (Nat × α)) (i : Nat) (x : α) : List (Nat × α) :=
  if x = d then del m i else put m i x

/-- Every key of the table lies above i. -/
def keysAbove {α : Type} (i : Nat) (m : List (Nat × α)) : Bool := m.all (fun p => decide (i < p.1))

/-- Keys strictly rising. -/
def sorted {α : Type} : List (Nat × α) → Bool
  | [] => true
  | (k, _) :: m => keysAbove k m && sorted m

/-- The canonical form of a table with a default. -/
def swf {α : Type} [DecidableEq α] (d : α) (m : List (Nat × α)) : Bool :=
  sorted m && m.all (fun p => decide (p.2 ≠ d))

/-- Changes the entry at a key, if there is one. -/
def alter {α : Type} (m : List (Nat × α)) (i : Nat) (f : α → α) : List (Nat × α) :=
  match look m i with
  | some x => put m i (f x)
  | none => m

/-- Applies a change to every entry. -/
def mapVals {α : Type} (m : List (Nat × α)) (f : Nat → α → α) : List (Nat × α) := m.map (fun p => (p.1, f p.1 p.2))

/-- A table with the entries of another added. -/
def putAll {α : Type} (m ms : List (Nat × α)) : List (Nat × α) := ms.foldl (fun t (p : Nat × α) => put t p.1 p.2) m

/-- Changes the element of a list at an index, if there is one. -/
def modAt {α : Type} (l : List α) (i : Nat) (f : α → α) : List α :=
  match l[i]? with
  | some x => l.set i (f x)
  | none => l

/-- An element put before the first one whose key is not lower. -/
def insertBy {α : Type} (key : α → Nat) (x : α) : List α → List α
  | [] => [x]
  | y :: ys => if key x ≤ key y then x :: y :: ys else y :: insertBy key x ys

/-- A list in ascending order of a key; equal elements keep their order. -/
def orderBy {α : Type} (key : α → Nat) (l : List α) : List α := l.foldr (insertBy key) []

end Sys2Proof.Machine
end

