-- ==== Sys2Proof/Machine/Legal.lean ====
section
/-! DEFINITION. Which instructions are legal, and with which sub-code of ILLEGAL_OP each other one traps (R35, R41–R50
and the instruction entries): three verdicts per instruction, ranked by R42. -/

namespace Sys2Proof.Machine

/-- What legality depends on besides the word: the clause class and the flight's allocation of v registers. -/
structure DecodeCtx where
  cls : ClauseClass
  alloc : Nat
  deriving DecidableEq, Repr, Inhabited

/-- The widest context: a mix clause with all 256 v registers. -/
def DecodeCtx.widest : DecodeCtx := { cls := .mix, alloc := 256 }

/-- Whether a clause of the class runs on the uniform path or names s registers throughout (R35). -/
def uniformClass : ClauseClass → Bool
  | .uni | .ctl => true
  | _ => false

/-- The verdicts behind sub-codes 0x2, 0x3 and 0x4: each is true when its row of R42 applies. -/
structure Verdict where
  r2 : Bool
  r3 : Bool
  r4 : Bool
  deriving DecidableEq, Repr

/-- The first row that applies decides the sub-code (R42). -/
def Verdict.sub (v : Verdict) : Option Byte :=
  if v.r2 then some 2#8 else if v.r3 then some 3#8 else if v.r4 then some 4#8 else none

/-- How an instruction uses a register field: not at all, as registers (span and alignment), as a predicate, as
registers that are uniform whatever the class, or as a code checked elsewhere. -/
inductive Use where
  | none
  | reg (span align : Nat)
  | pred
  | code
  deriving DecidableEq, Repr

/-- The registers of a vector span lie in the allocation and the base is aligned (R42). -/
def vBad (cx : DecodeCtx) (n span align : Nat) : Bool := decide (cx.alloc < n + span) || n % align != 0

/-- The registers of a uniform span lie in s0–s159 and the base is aligned (R42). -/
def sBad (n span align : Nat) : Bool := decide (160 < n + span) || n % align != 0

/-- Range fault of a V- or I-format register field, K bit given (R35). -/
def useBad (cx : DecodeCtx) (u : Use) (n : Nat) (k : Bool) : Bool :=
  match u with
  | .reg span align => if uniformClass cx.cls || k then sBad n span align else vBad cx n span align
  | _ => false

/-- An unused field is zero and a predicate field has bits [7:3] zero (R35). -/
def useDirty (u : Use) (n : Byte) : Bool :=
  match u with
  | .none => n != 0#8
  | .pred => decide (7 < n.toNat)
  | _ => false

/-- A K bit stands on a field the instruction does not read as a register (R53). DESIGN CHOICE (log 33): in a uni or ctl clause R53
gives 0x3 to any K bit and R42 gives 0x2 to an unused field; the first row of R42 that applies is taken, 0x2. -/
def kDirty (u : Use) (k : Bool) : Bool :=
  match u with
  | .reg _ _ => false
  | _ => k

/-- What M is in an instruction. -/
inductive MUse where
  | unused
  | modifier
  | table
  deriving DecidableEq, Repr

/-- The values of M that R41 refuses on an instruction that reads a register through B. -/
def modBad (cx : DecodeCtx) (m : BitVec 12) (kb : Bool) : Bool :=
  let x := m.toNat
  let md := bits x 11 10
  let sz := bits x 9 7
  bitAt x 0 || decide (6 ≤ sz) || (md == 0 && x != 0) || (bitAt x 1 && md != 1) ||
    decide (2 ^ sz ≤ bits x 6 2) && md != 0 || (x != 0 && kb) || (x != 0 && uniformClass cx.cls)

/-- Verdicts of a V-format instruction from the uses of D, A, B, C, the use of M, the mask of its F bits and the
reserved values of its own. -/
def vCheck (cx : DecodeCtx) (o : VFmt) (d a b c : Use) (mu : MUse) (fmask : Nat) (bad4 : Bool) : Verdict where
  r2 := useDirty d o.d || useDirty a o.a || useDirty b o.b || useDirty c o.c || kDirty a o.ka || kDirty b o.kb ||
    kDirty c o.kc || Nat.land o.f.toNat (31 - fmask) != 0 ||
    (match mu with
     | .unused => o.m != 0#12
     | .modifier => false
     | .table => bits o.m.toNat 3 0 != 0)
  r3 := (uniformClass cx.cls && (o.ka || o.kb || o.kc)) || useBad cx d o.d.toNat false || useBad cx a o.a.toNat o.ka ||
    useBad cx b o.b.toNat o.kb || useBad cx c o.c.toNat o.kc
  r4 := bad4 || (mu == .modifier && modBad cx o.m o.kb)

/-- rm values 5–7 are reserved (R44). -/
def rmBad (f : BitVec 5) : Bool := decide (4 < bits f.toNat 2 0)

/-- Integer condition values 6 and 7 are reserved (R44). -/
def condBad (x : Nat) : Bool := decide (5 < x)

/-- Format codes of the four IEEE formats (R118). -/
def ieeeCode (x : Nat) : Bool := x == 0 || x == 1 || x == 2 || x == 9

/-- Format codes of the integer formats (R118). -/
def intCode (x : Nat) : Bool := x == 8 || x == 10 || x == 11

/-- Format codes of CVTFF (R120). -/
def floatCode (x : Nat) : Bool := decide (x ≤ 6) || x == 9

/-- Format codes of PACKN, UNPKN and SCLQ (R121–R123). -/
def narrowCode (x : Nat) : Bool := decide (3 ≤ x) && decide (x ≤ 7)

/-- Registers of a packed row of eight elements (R122). DESIGN CHOICE (log 33): no length is given for a row of a reserved narrow
code, which counts two registers, so that at the last register of the allocation it reports 0x3 and not 0x4. -/
def packedRegs (fmt : Nat) : Nat := if fmt = 7 then 1 else 2

/-- Opcode numbers of the reductions that need an integer rtype (R47). -/
def redBad (f : BitVec 5) : Bool :=
  let red := bits f.toNat 2 0
  let ty := bits f.toNat 4 3
  decide (5 < red) || ty == 3 || (decide (3 ≤ red) && ty == 2)

/-- Adds a verdict to another. -/
def Verdict.or (u v : Verdict) : Verdict := { r2 := u.r2 || v.r2, r3 := u.r3 || v.r3, r4 := u.r4 || v.r4 }

/-- A verdict with one row only. -/
def Verdict.mk2 (b : Bool) : Verdict := { r2 := b, r3 := false, r4 := false }

/-- A verdict with one row only. -/
def Verdict.mk3 (b : Bool) : Verdict := { r2 := false, r3 := b, r4 := false }

/-- RNG, SORTK, MEET and SETMR take vector operands only: sub-code 0x3 in a uni clause (R50). -/
def uniBad (cx : DecodeCtx) : Verdict := Verdict.mk3 (uniformClass cx.cls)

/-- A used register of one word. -/
def r1 : Use := .reg 1 1

/-- A used even pair. -/
def rp : Use := .reg 2 2

/-- Verdicts of an I-format instruction. -/
def iCheck (cx : DecodeCtx) (o : IFmt) (d a : Use) (bad2 bad4 : Bool) : Verdict where
  r2 := useDirty d o.d || useDirty a o.a || kDirty a o.ka || bad2
  r3 := (uniformClass cx.cls && o.ka) || useBad cx d o.d.toNat false || useBad cx a o.a.toNat o.ka
  r4 := bad4

/-- The I-format words whose D, A, KA and F3 are zero and whose IMM32 has zero bits above a width. -/
def iZero (o : IFmt) (immWidth : Nat) (dUsed : Bool) : Verdict where
  r2 := (!dUsed && o.d != 0#8) || o.a != 0#8 || o.ka || o.f3 != 0#3 || decide (2 ^ immWidth ≤ o.imm.toNat)
  r3 := false
  r4 := false

/-- The T span and its alignment for a width code (R205). -/
def tSpan (w : Nat) : Nat := if w = 3 then 2 else if w = 4 then 4 else 1

/-- Verdicts common to the M-format instructions (R38, R205): reserved bits, S, SP, W, CP, T and A. -/
def mCheck (cx : DecodeCtx) (o : MFmt) (tUsed : Bool) (fmask : Nat) (bad4 : Bool) : Verdict where
  r2 := o.rsv != 0#2 || (o.sp != 0#3 && o.s != 0#8) || (!tUsed && o.t != 0#8) ||
    Nat.land o.f.toNat (31 - fmask) != 0
  r3 := (o.sp == 0#3 && sBad o.s.toNat 8 8) || (tUsed && vBad cx o.t.toNat (tSpan o.w.toNat) (tSpan o.w.toNat)) ||
    vBad cx o.a.toNat 1 1
  r4 := decide (4 < o.sp.toNat) || decide (4 < o.w.toNat) ||
    (decide (1 ≤ o.sp.toNat) && decide (o.sp.toNat ≤ 3) && o.cp != 0#3) || bad4

/-- Verdicts of the adjoint instructions (R250): spaces 1 to 4 give sub-code 0x4 whatever S holds, so S is no unused field there. -/
def adjCheck (cx : DecodeCtx) (o : MFmt) (tUsed : Bool) (fmask : Nat) (bad4 : Bool) : Verdict :=
  let o' := if decide (1 ≤ o.sp.toNat) && decide (o.sp.toNat ≤ 4) then { o with s := 0#8 } else o
  mCheck cx o' tUsed fmask (o.sp != 0#3 || bad4)

/-- The combinations of ATOM that R211 lists. -/
def atomBad (o : MFmt) : Bool :=
  let op := bits o.f.toNat 2 0
  let ty := bits o.f.toNat 4 3
  op == 7 || ty == 3 || (decide (3 ≤ op) && ty != 0) || !(o.w == 2#3 || o.w == 3#3)

/-- How an E-format field is used: zero, an s register span, a v register span, or a literal. -/
inductive EUse where
  | zero
  | s (span align : Nat)
  | v (span align : Nat)
  | lit
  deriving DecidableEq, Repr

/-- An E-format field that must be zero is not. -/
def eDirty (u : EUse) (n : Byte) : Bool :=
  match u with
  | .zero => n != 0#8
  | _ => false

/-- An E-format register field is out of its range. -/
def eBad (cx : DecodeCtx) (u : EUse) (n : Nat) : Bool :=
  match u with
  | .s span align => sBad n span align
  | .v span align => vBad cx n span align
  | _ => false

/-- Verdicts of an E-format instruction from the uses of D, P, H, V, X, the mask of the bits its IMM8 may set, whether
RU may be set and the mask of its F bits. -/
def eCheck (cx : DecodeCtx) (o : EFmt) (d p h v x : EUse) (immMask : Nat) (ru : Bool) (fmask : Nat) (bad4 : Bool) :
    Verdict where
  r2 := eDirty d o.d || eDirty p o.p || eDirty h o.h || eDirty v o.v || eDirty x o.x ||
    Nat.land o.imm.toNat (255 - immMask) != 0 || (!ru && o.ru) || Nat.land o.f.toNat (7 - fmask) != 0
  r3 := eBad cx d o.d.toNat || eBad cx p o.p.toNat || eBad cx h o.h.toNat || eBad cx v o.v.toNat || eBad cx x o.x.toNat
  r4 := bad4

/-- Verdicts of a branch (R73): the span and alignment of S, and whether OFF is used. -/
def bCheck (o : BFmt) (s : EUse) (offUsed : Bool) : Verdict where
  r2 := eDirty s o.s || o.f != 0#4 || (!offUsed && o.off != 0#40)
  r3 := eBad DecodeCtx.widest s o.s.toNat
  r4 := false

/-- Verdicts of a word all of whose operand fields are zero. -/
def vNone (cx : DecodeCtx) (o : VFmt) : Verdict := vCheck cx o .none .none .none .none .unused 0 false

/-- An empty verdict. -/
def Verdict.ok : Verdict := { r2 := false, r3 := false, r4 := false }

/-- Verdict that IMM8 holds a given value in the bits of a mask, as the form of the mnemonic asks. -/
def immIs (o : EFmt) (mask v : Nat) : Verdict := Verdict.mk2 (Nat.land o.imm.toNat mask != v)

/-- The verdict on an instruction. Event rows have no encoding and are always legal. -/
def verdict (cx : DecodeCtx) : Instr → Verdict
  | .nop o => vNone cx o
  | .mov o =>
    let sz := if o.f.getLsbD 0 then rp else r1
    (vCheck cx o sz sz .none .code .unused 1 false).or (Verdict.mk2 (o.c != 0#8))
  | .movLift o =>
    let two := o.f.getLsbD 0
    let src : Use := if two then rp else r1
    let base := vCheck cx o .code src .none .code .unused 1 (decide (1 < o.c.toNat))
    let bad2 := base.r2 || o.c == 0#8 || (o.c == 1#8 && (o.ka || uniformClass cx.cls))
    let n := if two then 2 else 1
    let badD := if 1 < o.c.toNat then useBad cx (.reg n n) o.d.toNat false else sBad o.d.toNat n n
    { r2 := bad2, r3 := base.r3 || badD, r4 := base.r4 }
  | .movi o => iCheck cx o (if o.f3 == 1#3 || o.f3 == 2#3 then rp else r1) .none false (decide (2 < o.f3.toNat))
  | .iadd o => vCheck cx o r1 r1 r1 .none .modifier 3 false
  | .isub o => vCheck cx o r1 r1 r1 .none .modifier 3 false
  | .iaddi o => iCheck cx o r1 r1 (decide (3 < o.f3.toNat)) false
  | .iadd64 o => vCheck cx o rp rp rp .none .modifier 3 false
  | .isub64 o => vCheck cx o rp rp rp .none .modifier 3 false
  | .iaddc o => vCheck cx o rp r1 r1 r1 .modifier 1 false
  | .imul o => vCheck cx o r1 r1 r1 .none .modifier 3 false
  | .imulh o => vCheck cx o r1 r1 r1 .none .modifier 1 false
  | .imad o => vCheck cx o r1 r1 r1 r1 .modifier 3 false
  | .imadw o => vCheck cx o rp r1 r1 rp .modifier 1 false
  | .idot4 o => vCheck cx o r1 r1 r1 r1 .modifier 7 false
  | .iminmax o => vCheck cx o r1 r1 r1 .none .modifier 3 false
  | .iabsneg o => vCheck cx o r1 r1 .none .none .unused 3 false
  | .lea64 o => vCheck cx o rp rp r1 .none .modifier 15 false
  | .and o => vCheck cx o r1 r1 r1 .none .modifier 0 false
  | .or o => vCheck cx o r1 r1 r1 .none .modifier 0 false
  | .xor o => vCheck cx o r1 r1 r1 .none .modifier 0 false
  | .andn o => vCheck cx o r1 r1 r1 .none .modifier 0 false
  | .not o => vCheck cx o r1 r1 .none .none .unused 0 false
  | .trio o => vCheck cx o r1 r1 r1 r1 .table 0 false
  | .logi o => iCheck cx o r1 r1 false (decide (3 < o.f3.toNat))
  | .shl o => vCheck cx o r1 r1 r1 .none .modifier 1 false
  | .shr o => vCheck cx o r1 r1 r1 .none .modifier 1 false
  | .shra o => vCheck cx o r1 r1 r1 .none .modifier 1 false
  | .rotl o => vCheck cx o r1 r1 r1 .none .modifier 0 false
  | .shi o => iCheck cx o r1 r1 (decide (31 < o.imm.toNat)) (decide (3 < o.f3.toNat))
  | .shf o => vCheck cx o r1 r1 r1 r1 .modifier 3 false
  | .bfx o => vCheck cx o r1 r1 r1 .none .modifier 1 false
  | .bfi o => vCheck cx o r1 r1 r1 r1 .modifier 0 false
  | .popc o => vCheck cx o r1 r1 .none .none .unused 0 false
  | .clz o => vCheck cx o r1 r1 .none .none .unused 0 false
  | .brev o => vCheck cx o r1 r1 .none .none .unused 0 false
  | .ffs o => vCheck cx o r1 r1 .none .none .unused 0 false
  | .icmp o => vCheck cx o .pred r1 r1 .none .modifier 15 (condBad (bits o.f.toNat 2 0))
  | .icmp64 o => vCheck cx o .pred rp rp .none .modifier 15 (condBad (bits o.f.toNat 2 0))
  | .icmpi o => iCheck cx o .code r1 (decide (15 < o.d.toNat)) (condBad o.f3.toNat)
  | .sel o => vCheck cx o r1 r1 r1 .pred .modifier 0 false
  | .plop o => vCheck cx o .pred .pred .pred .pred .table 0 false
  | .pmov o =>
    if o.f.getLsbD 0 then vCheck cx o .none r1 .none .none .unused 1 false
    else vCheck cx o r1 .none .none .none .unused 1 false
  | .rng o => (vCheck cx o (.reg 4 4) .none .none .none .unused 0 false).or (uniBad cx)
  | .bra o => bCheck o .zero true
  | .brax o => bCheck o (.s 2 2) false
  | .call o => bCheck o (.s 2 2) true
  | .callx o => bCheck o (.s 4 4) false
  | .ret o => bCheck o (.s 2 2) false
  | .loop o => bCheck o (.s 1 1) true
  | .exit o => bCheck o .zero false
  | .fadd o => vCheck cx o r1 r1 r1 .none .modifier 7 (rmBad o.f)
  | .fsub o => vCheck cx o r1 r1 r1 .none .modifier 7 (rmBad o.f)
  | .fmul o => vCheck cx o r1 r1 r1 .none .modifier 7 (rmBad o.f)
  | .ffma o => vCheck cx o r1 r1 r1 r1 .modifier 7 (rmBad o.f)
  | .fmin o => vCheck cx o r1 r1 r1 .none .modifier 0 false
  | .fmax o => vCheck cx o r1 r1 r1 .none .modifier 0 false
  | .fabs o => vCheck cx o r1 r1 .none .none .unused 0 false
  | .fneg o => vCheck cx o r1 r1 .none .none .unused 0 false
  | .fopi o => iCheck cx o r1 r1 false (decide (3 < o.f3.toNat))
  | .fcmp o => vCheck cx o .pred r1 r1 .none .modifier 7 false
  | .dcmp o => vCheck cx o .pred rp rp .none .modifier 7 false
  | .fclass o => vCheck cx o r1 r1 .none .none .unused 0 false
  | .frnd o => vCheck cx o r1 r1 .none .none .unused 7 (rmBad o.f)
  | .hadd2 o => vCheck cx o r1 r1 r1 .none .modifier 15 (rmBad o.f)
  | .hsub2 o => vCheck cx o r1 r1 r1 .none .modifier 15 (rmBad o.f)
  | .hmul2 o => vCheck cx o r1 r1 r1 .none .modifier 15 (rmBad o.f)
  | .hfma2 o => vCheck cx o r1 r1 r1 r1 .modifier 15 (rmBad o.f)
  | .hmin2 o => vCheck cx o r1 r1 r1 .none .modifier 8 false
  | .hmax2 o => vCheck cx o r1 r1 r1 .none .modifier 8 false
  | .hcmp2 o => (vCheck cx o .pred r1 r1 .none .modifier 15 false).or (Verdict.mk3 (decide (5 < o.d.toNat)))
  | .fdot2 o => vCheck cx o r1 r1 r1 r1 .modifier 15 (rmBad o.f)
  | .dadd o => vCheck cx o rp rp rp .none .modifier 7 (rmBad o.f)
  | .dmul o => vCheck cx o rp rp rp .none .modifier 7 (rmBad o.f)
  | .dfma o => vCheck cx o rp rp rp rp .modifier 7 (rmBad o.f)
  | .rcp o => vCheck cx o r1 r1 .none .none .unused 0 false
  | .rsq o => vCheck cx o r1 r1 .none .none .unused 0 false
  | .sqrt o => vCheck cx o r1 r1 .none .none .unused 7 (rmBad o.f)
  | .exp2 o => vCheck cx o r1 r1 .none .none .unused 0 false
  | .log2 o => vCheck cx o r1 r1 .none .none .unused 0 false
  | .sinpi o => vCheck cx o r1 r1 .none .none .unused 0 false
  | .cospi o => vCheck cx o r1 r1 .none .none .unused 0 false
  | .tanh o => vCheck cx o r1 r1 .none .none .unused 0 false
  | .cvtfi o =>
    let dst := bits o.c.toNat 7 4
    let src := bits o.c.toNat 3 0
    vCheck cx o r1 (if src = 9 then rp else r1) .none .code .unused 15 (rmBad o.f || !intCode dst || !ieeeCode src)
  | .cvtif o =>
    let dst := bits o.c.toNat 7 4
    let src := bits o.c.toNat 3 0
    vCheck cx o (if dst = 9 then rp else r1) r1 .none .code .unused 15
      (rmBad o.f || !ieeeCode dst || !intCode src || o.f.getLsbD 3)
  | .cvtff o =>
    let dst := bits o.c.toNat 7 4
    let src := bits o.c.toNat 3 0
    vCheck cx o (if dst = 9 then rp else r1) (if src = 9 then rp else r1) .none .code .unused 15
      (rmBad o.f || !floatCode dst || !floatCode src || (o.f.getLsbD 3 && dst != 4))
  | .sclq o =>
    let dst := bits o.c.toNat 7 4
    let base := vCheck cx o r1 (.reg 8 1) .none .code .unused 0
      (!narrowCode dst || (dst != 7 && bits o.c.toNat 1 0 != 1))
    base.or (Verdict.mk2 (bits o.c.toNat 3 2 != 0 || o.ka))
  | .packn o =>
    let dst := bits o.c.toNat 7 4
    (vCheck cx o (.reg (packedRegs dst) 1) (.reg 8 1) r1 .code .modifier 15
      (rmBad o.f || !narrowCode dst || (o.f.getLsbD 3 && dst != 4))).or (Verdict.mk2 (bits o.c.toNat 3 0 != 0))
  | .unpkn o =>
    let src := bits o.c.toNat 3 0
    (vCheck cx o (.reg 8 1) (.reg (packedRegs src) 1) r1 .code .modifier 0 (!narrowCode src)).or
      (Verdict.mk2 (bits o.c.toNat 7 4 != 0))
  | .cbld o =>
    let base := vCheck cx o .none .code .none .none .unused 0 false
    let uni := uniformClass cx.cls
    { r2 := useDirty .none o.d || useDirty .none o.b || useDirty .none o.c || o.m != 0#12 || o.kb || o.kc ||
        o.f != 0#5 || (!uni && !o.ka)
      r3 := base.r3 || (uni && o.ka) || sBad o.a.toNat 8 8
      r4 := false }
  | .cblk o => vCheck cx o r1 r1 .none .none .unused 0 false
  | .cbnr o => vCheck cx o r1 r1 .none .none .unused 0 false
  | .shfli o => vCheck cx o r1 r1 r1 .none .modifier 3 false
  | .vote o =>
    let mask := bits o.f.toNat 1 0 == 2
    vCheck cx o (if mask then r1 else .pred) .pred .none .none .unused 15 (o.f.getLsbD 3 && !mask)
  | .redux o => vCheck cx o r1 r1 .none .none .unused 31 (redBad o.f)
  | .scanx o => (vCheck cx o r1 r1 .none .code .unused 31 (redBad o.f)).or (Verdict.mk2 (decide (1 < o.c.toNat)))
  | .matchLanes o => vCheck cx o r1 (if o.f.getLsbD 1 then rp else r1) .none .none .unused 3 false
  | .elect o => vCheck cx o .pred .none .none .none .unused 0 false
  | .sortk o =>
    { r2 := o.d != 0#8 || o.c != 0#8 || o.m != 0#12 || o.kc || o.f != 0#5
      r3 := uniformClass cx.cls || useBad cx r1 o.a.toNat o.ka || sBad o.b.toNat 1 1
      r4 := !o.kb || o.g != 7#4 }
  | .meet o =>
    { r2 := o.f != 0#4, r3 := uniformClass cx.cls || vBad cx o.s.toNat 2 2, r4 := false }
  | .setmr o => (vCheck cx o .none rp .none .none .unused 0 false).or (uniBad cx)
  | .ld o => mCheck cx o true 3 (o.f.getLsbD 1 && decide (1 < o.w.toNat))
  | .st o => mCheck cx o true 0 false
  | .atom o => mCheck cx o true 31 (atomBad o)
  | .acas o =>
    let n := if o.w == 3#3 then 4 else if o.w == 2#3 then 2 else 1
    let base := mCheck cx o true 0 (!(o.w == 2#3 || o.w == 3#3))
    { base with r3 := base.r3 || vBad cx o.t.toNat n n }
  | .pstp o =>
    let base := mCheck cx o true 0 (o.sp != 0#3 || decide (3 < o.w.toNat))
    { base with r2 := base.r2 || o.imm != 0#12, r3 := base.r3 || vBad cx o.a.toNat 2 2 }
  | .pref o => mCheck cx o false 0 (!(o.sp == 0#3 || o.sp == 4#3))
  | .resid o =>
    (mCheck cx o false 0 (!(o.sp == 0#3 || o.sp == 4#3))).or (Verdict.mk2 (o.cp != 0#3))
  | .seal o =>
    (eCheck cx o (.s 1 1) (.s 16 16) .zero .zero .zero 0 false 0 false)
  | .unseal o => eCheck cx o .zero .zero (.s 1 1) .zero .zero 0 false 0 false
  | .wait o => iZero o 20 false
  | .fencex o => iZero o 8 false
  | .fencep o => (iZero o 0 true).or (Verdict.mk3 (sBad o.d.toNat 8 8))
  | .npbegin o => vNone cx o
  | .npend o => vNone cx o
  | .bar o => vNone cx o
  | .bart o => vNone cx o
  | .yield o => vNone cx o
  | .launch o => eCheck cx o (.s 1 1) (.s 4 4) .zero .zero .zero 0 false 0 false
  | .cancel o => eCheck cx o (.s 1 1) .zero .zero .zero .zero 3 false 0 false
  | .cancelIdx o => (eCheck cx o (.s 1 1) .zero (.s 1 1) .zero .zero 4 false 0 false).or (immIs o 4 4)
  | .csig o => (eCheck cx o (.s 1 1) .zero .zero .zero (.s 1 1) 15 false 0 (bits o.imm.toNat 3 2 == 3)).or
      (Verdict.mk2 (bits o.imm.toNat 3 2 != 0 && bits o.imm.toNat 3 2 != 3))
  | .csigIdx o => (eCheck cx o (.s 1 1) .zero (.s 1 1) .zero (.s 1 1) 4 false 0 false).or (immIs o 12 4)
  | .csigArm o => (eCheck cx o (.s 1 1) .zero (.s 1 1) .zero (.s 2 2) 8 false 0 false).or (immIs o 12 8)
  | .gets o =>
    let sel := o.imm.toNat
    let pair := sel == 8 || sel == 9 || sel == 10 || sel == 16
    iCheck cx o (if pair then rp else r1) .none false (decide (16 < sel) || o.f3 != 0#3)
  | .getsClr o => iCheck cx o r1 .none false (o.imm != 13#32 || o.f3 != 1#3)
  | .ldf o => adjCheck cx o true 1 false
  | .sta o =>
    let ty := bits o.f.toNat 1 0
    adjCheck cx o true 3 (ty == 3 || o.w == 0#3 || (ty == 0 && o.w == 1#3))
  | .lda o => adjCheck cx o true 0 false
  | .twctlReset o => (adjCheck cx o false 1 (o.w != 2#3)).or (Verdict.mk2 (o.f.getLsbD 0))
  | .twctlQuery o => (adjCheck cx o true 1 (o.w != 2#3)).or (Verdict.mk2 (!o.f.getLsbD 0))
  | .cpy o => eCheck cx o (.s 1 1) (.s 24 4) (.s 1 1) .zero (.s 1 1) 0 false 0 false
  | .cpyg o => eCheck cx o (.s 1 1) (.s 24 4) (.s 1 1) (.v 1 1) (.s 1 1) 0 false 0 false
  | .cpys o => eCheck cx o (.s 1 1) (.s 24 4) (.s 1 1) (.v 1 1) (.s 1 1) 0 false 0 false
  | .spinit o => eCheck cx o (.s 1 1) (.s 8 4) .zero .zero .zero 0 false 0 false
  | .spwait o => eCheck cx o (.s 1 1) .zero .zero .zero (.s 2 2) 0 false 0 false
  | .sprel o => eCheck cx o (.s 1 1) .zero .zero .zero (.s 2 2) 0 false 0 false
  | .sppos o => eCheck cx o (.s 2 2) .zero .zero .zero (.s 2 2) 0 false 0 false
  | .mma o => eCheck cx o .zero (.s 4 4) (.s 1 1) (.v 32 8) .zero 0 true 0 false
  | .mmas o => eCheck cx o .zero (.s 4 4) (.s 1 1) (.v 32 8) (.v 1 1) 15 true 0 false
  | .accz o => eCheck cx o .zero .zero .zero .zero .zero 7 false 0 false
  | .accst o => eCheck cx o .zero (.s 4 4) (.s 1 1) .zero .zero 0 false 1 false
  | .accld o => eCheck cx o .zero (.s 4 4) (.s 1 1) .zero .zero 0 false 0 false
  | .accrel o => eCheck cx o .zero .zero .zero .zero .zero 7 false 0 false
  | .mxchk o => { iZero o 32 false with r4 := decide (65535 < o.imm.toNat) }
  | .draw o =>
    (eCheck cx o (.s 1 1) .zero .zero (.v 4 4) .lit 7 false 0 false).or (Verdict.mk2 (decide (7 < o.x.toNat)))
  | .esmp o => eCheck cx o (.s 1 1) .zero .zero (.v 2 2) (.v 1 1) 15 false 0 false
  | .esmpPost o => (eCheck cx o .zero .zero .zero (.v 2 2) (.v 1 1) 24 false 0 false).or (immIs o 16 16)
  | .estat o => eCheck cx o (.s 12 4) .zero .zero .zero .zero 1 false 0 false
  | .estop o => eCheck cx o .zero .zero .zero .zero .zero 0 false 0 false
  | .trap o => iZero o 32 false
  | .bkpt o => iZero o 32 false
  | .timerArm o =>
    { r2 := o.a != 0#8 || o.ka, r3 := sBad o.d.toNat 1 1, r4 := o.f3 != 0#3 }
  | .timerRead o =>
    { r2 := o.a != 0#8 || o.ka || o.imm != 0#32, r3 := sBad o.d.toNat 1 1, r4 := o.f3 != 1#3 }
  | .timerCancel o =>
    { r2 := o.a != 0#8 || o.ka || o.imm != 0#32, r3 := sBad o.d.toNat 1 1, r4 := o.f3 != 2#3 }
  | .tokchk o => eCheck cx o (.s 1 1) .zero .zero .zero .zero 0 false 0 false
  | .tokchkN o => (eCheck cx o (.s 1 1) (.s 8 8) .zero .zero .zero 1 false 0 false).or (immIs o 1 1)
  | .clauseFetch _ => .ok
  | .clauseComplete _ => .ok
  | .loadDataArrival _ _ _ => .ok
  | .storeEffect _ _ _ => .ok
  | .tick _ => .ok
  | .forcedExchange _ _ _ => .ok
  | .flightEnd _ => .ok
  | .tetherPlace _ _ => .ok
  | .migrate _ _ => .ok
  | .twinCommit _ _ _ => .ok
  | .counterSignal _ _ _ _ _ _ => .ok
  | .mxeGrant _ _ => .ok
  | .mxePrioRaise _ _ => .ok
  | .tileOpComplete _ _ => .ok
  | .copyComplete _ _ => .ok
  | .copyFail _ _ _ => .ok
  | .streamerFault _ _ _ => .ok
  | .shadowFetch _ _ => .ok
  | .slotReturn _ _ _ => .ok
  | .spoolTimeout _ => .ok
  | .estimatorApply _ => .ok
  | .ldaWake _ => .ok
  | .twinWaitTimeout _ => .ok
  | .dirlockRetry _ => .ok
  | .workgroupHalt _ => .ok
  | .haltDrainComplete _ => .ok
  | .timerExpiry _ => .ok
  | .sliceExpiry _ => .ok
  | .debugHalt _ => .ok
  | .ddeadExpiry _ => .ok
  | .npWatchdog _ => .ok
  | .lazyClaimSpill _ _ _ => .ok
  | .contextRestore _ _ => .ok
  | .scrub _ => .ok
  | .tokenRecord _ => .ok
  | .tetherKill _ _ _ => .ok
  | .uncorrConsumed _ => .ok
  | .correctedError _ => .ok
  | .pageRetire _ _ _ => .ok
  | .scanTurnStart _ => .ok
  | .scanTurnEnd _ => .ok
  | .scanTurnFail _ => .ok
  | .vfDisable _ => .ok
  | .launchDoorbell _ _ => .ok
  | .ringConsWrite _ _ _ => .ok
  | .registerWrite _ _ => .ok
  | .launchCommand _ => .ok
  | .inval _ => .ok
  | .fresume _ => .ok
  | .trapres _ => .ok
  | .arm _ => .ok
  | .tokreq _ => .ok
  | .tokread _ => .ok
  | .clearlost _ => .ok
  | .logput _ => .ok
  | .capture _ => .ok
  | .preempt _ => .ok
  | .diereset _ => .ok
  | .partset _ => .ok
  | .ctxset _ => .ok
  | .regset _ => .ok
  | .ctxrun _ => .ok
  | .ringset _ => .ok
  | .ctlrun _ => .ok
  | .boot _ => .ok
  | .dieFault _ => .ok
  | .dieFencingDone _ => .ok
  | .dieFlushDone _ => .ok
  | .dieResetDone _ => .ok
  | .dieTrainingDone _ _ => .ok
  | .dieRejoinDone _ => .ok
  | .readmissionMessage _ => .ok
  | .homeDownRetry _ => .ok
  | .clockThrottle _ => .ok
  | .planeDown _ => .ok
  | .planeUp _ => .ok
  | .spanWriteRelease _ => .ok
  | .remoteRequest _ => .ok
  | .remoteReply _ _ _ _ _ => .ok
  | .createPacket _ _ _ => .ok
  | .resend _ _ _ _ => .ok
  | .deliveryFail _ _ => .ok
  | .quietExpiry _ _ _ => .ok
  | .packetExpiry _ _ _ => .ok
  | .linkStop _ _ => .ok
  | .linkGo _ _ => .ok
  | .twinWakeup _ => .ok
  | .remoteLdaPoll _ => .ok
  | .debuggerRelease _ => .ok
  | .matrixFault _ _ _ => .ok
  | .eventQueueConsume _ _ => .ok
  | .fatalError _ => .ok

/-- The sub-code with which ILLEGAL_OP refuses an instruction, if it does (R42). -/
def illegal (cx : DecodeCtx) (i : Instr) : Option Byte := (verdict cx i).sub

end Sys2Proof.Machine
end

