-- ==== Sys2Proof/Machine/State.lean ====
section
/-! DEFINITION. The state of the device as plain data: every piece of state the spec gives it, the agenda that says which
agent moves next, and the state after reset. -/

namespace Sys2Proof.Machine

/-- Why a fault stops the model. The device itself reports every error by a trap, which is a next state. -/
inductive Fault where
  /-- An instruction row was asked for while no flight has the issue (raised by the meanings of instruction rows). The
  step never raises it: it decodes an instruction only for the flight it names. Safe: the model stops. -/
  | noIssuer
  deriving DecidableEq, Repr, Inhabited

/-- Why the model gives no meaning. -/
inductive Refusal where
  /-- The row has no meaning in this model yet (raised by the dispatch). Safe: the model stops. -/
  | notModelled (mnemonic : String)
  deriving DecidableEq, Repr, Inhabited

/-- One move of an agent, as the agenda names it: an issue of a flight, an event, time passing, or, within a tick of a partition,
the turns of its slots and the end of the tick (R171; log 1, log 13). -/
inductive Move where
  | issue (r : FlightRef)
  | event (i : Instr)
  | time (ns : Nat)
  | turns (part : Nat)
  | tickEnd (part : Nat)
  deriving DecidableEq, Repr, Inhabited

/-- A clause as fetched: its header's address, class, yield bit and instruction words (R25, R30). -/
structure Clause where
  addr : Dword
  cls : ClauseClass
  yieldHint : Bool
  words : List Dword
  deriving DecidableEq, Repr, Inhabited

/-- What the next instruction of a flight is held for (R160, R207, R332): `counts` is the wait test of a clause start or a WAIT, `drain`
any other hold that ends as operations of the workgroup complete, `op` the effect tick of a thread-path operation that holds its flight
until its answer (R173, R218), `far` the answer of another device to a spool operation. -/
inductive Wait where
  | ready
  | counts
  | drain
  | op
  | far
  | bar
  | bart
  | sort
  | spool (name : Dword)
  | copySlot (name : Dword)
  | shadow (name : Dword)
  | reply (op : Nat)
  | remote (acc : Nat)
  | fault (page : Nat)
  | homeDown (die : Nat)
  | dirLock
  | twin (granules : List Nat)
  | token
  | mxe
  | staging
  deriving DecidableEq, Repr, Inhabited

/-- What an access does when it takes its place. -/
inductive AccKind where
  | load (signExt : Bool) (split : Bool)
  | store
  | atom (op : BitVec 3) (ty : BitVec 2)
  | acas
  | pstp
  | ldf (cnt : Bool) (split : Bool)
  | sta (ty : Nat) (cnt : Bool)
  | lda
  | twReset
  | twQuery
  | unseal (h : Word)
  deriving DecidableEq, Repr, Inhabited

/-- One event of a lane's access: the part of it in one line (R208), with the flat key of each byte. `tid` is the thread of the lane
(R226), `first` the index of its first byte in the lane's access, `dev` the device of a remote line, `sent` and `back` whether that has been sent and whether its answer is here (R174), `span`
that of a SPAN line (R388), `due` its effect tick E, `locked` that it was issued under the directory lock (R196, R237), `refused` why it took no effect: 0 it did, 1
an LDA's line is open, 2 poisoned (R253), 3 a fault was found at its target, from 4 on its home is down and the flight waits for it under
that name (R207, R381). -/
structure Piece where
  lane : Nat
  tid : Word
  first : Nat
  va : Dword
  len : Nat
  keys : List Nat
  dev : Option Nat
  sent : Bool
  back : Bool
  span : Bool
  due : Nat
  locked : Bool
  done : Bool
  refused : Nat
  deriving DecidableEq, Repr, Inhabited

/-- An outstanding thread-path access of a flight (R27, R209–R213): its lanes, bytes per lane, destination, pieces, the
bytes each lane stores and the bytes each lane has read, the lanes whose data has arrived, the twin granules of each lane,
the early bit of an LDA's record, the lease of its policy, the registers that hold their data already, by lane × 256 + register
(R29), and the fault that a target reported: cause, sub-code, INFO (R207). -/
structure Acc where
  id : Nat
  kind : AccKind
  bytes : Nat
  t : Nat
  lanes : Word
  pieces : List Piece
  out : List (Nat × List Byte)
  got : List (Nat × List Byte)
  arrived : Word
  granules : List (Nat × List Nat)
  early : Bool
  lease : Nat
  landed : List Nat
  fault : Option (Byte × (Byte × Dword))
  deriving DecidableEq, Repr, Inhabited

/-- A trap (R332): cause, sub-code, kind, INFO, and the clause and index of the originating instruction of a deferred one. -/
structure TrapInfo where
  cause : Byte
  sub : Byte
  kind : BitVec 2
  info : Dword
  org : Option (Dword × Nat)
  deriving DecidableEq, Repr, Inhabited

/-- One flight: the state of its 32 threads and its own (R22, R126, R339). Registers are sparse tables keyed by
lane × 256 + register (v), by register (s) and by predicate (preds, each a mask of lanes), with default 0. `readySince` is the cycle or
tick at which a pending flight became ready, `lastIssue` the cycle of its last issue (R158–R161), `opDue` the effect tick of an operation
that holds it and `opBuf` what that has read so far (R173, R218), `known` what SEAL has learned from other devices (R218), `pastC` and `pastM` memory as it stood before each of its own writes that no FENCEX has
placed before later copies or tile operations, whose snapshots may precede them (R227, R228), `opFlags` the float flags of lanes of the held instruction that are done
(R23, R207), `lateHdrs` the header at which each late thread waits (R134), `trapAt` the device time of its trap (R336). -/
structure Flight where
  vrows : Nat
  pc : List Dword
  mr : List Dword
  exited : Word
  held : Word
  late : Word
  preds : List (Nat × Word)
  qpred : Byte
  vregs : List (Nat × Word)
  sregs : List (Nat × Word)
  cb : List Half
  fsr : Word
  rngctr : Dword
  tids : List Word
  clause : Option Clause
  ix : Nat
  sg : Word
  brMask : Word
  brTarget : Dword
  callTo : Option Dword
  skid : Nat
  stopped : Bool
  nLoads : Nat
  nStores : Nat
  nCopies : Nat
  nTiles : Nat
  nEst : Nat
  accs : List Acc
  peer : BitVec 256
  retired : Dword
  wtime : Dword
  timerOn : Bool
  timerRem : Word
  tpend : Bool
  spend : Bool
  npOpen : Bool
  npClk : Dword
  stopPc : Dword
  stopIx : Nat
  cause : Byte
  sub : Byte
  kind : BitVec 2
  info : Dword
  org : Option (Dword × Nat)
  lateHdrs : List (Nat × Dword)
  trapAt : Nat
  doneMask : Dword
  opFlags : Byte
  ldaData : List (Nat × List Byte)
  twinPark : Option Nat
  parkAt : Nat
  copyHeld : Option Nat
  deferred : Option TrapInfo
  wait : Wait
  disp : Nat
  slot : Option Nat
  readySince : Option Nat
  lastIssue : Nat
  yielded : Bool
  opDue : Option Nat
  opBuf : Option (List Byte)
  known : List ((Nat × Nat) × List Byte)
  pastC : List (List Host.Cell)
  pastM : List (List Host.Cell)
  lastE : Nat
  lastCopyE : Nat
  lastEstE : Nat
  busy : Nat
  ended : Bool
  deriving DecidableEq, Repr, Inhabited

/-- States of a workgroup (R333, R338, R363): running, halting until its operations have drained, halted, switched out, and
killed with accesses that have still to take their place. -/
inductive WgState where
  | running
  | halting
  | halted
  | switchedOut
  | killed
  deriving DecidableEq, Repr, Inhabited

/-- A copy a streamer runs (R258–R265, R269): who issued it, its parameter block, mask and sealed handles as captured at issue,
the slot count it claimed, with the displacement and the address of its slot word, the ticks of its snapshot and of its effect in deterministic mode (R279), the traffic of its remote
sides: whether it has one, the reads answered, how far it has come (0 at the start, 1 remote words sent, 2 slot word written or sent, of
a remote spool 3 slot DONE, 4 an advance of WR sent), and how many writes are unanswered; a page it is paused at; the device whose path was lost; the place in T of its snapshot, where that is an earlier one: memory as it stood then (R228); its snapshot of the source, by address; and the
aligned words it has delivered, by address ÷ 4 (R228, R276). -/
structure Copy where
  owner : FlightRef
  part : Nat
  ctx : Nat
  lid : Word
  pc : Dword
  ix : Nat
  op : Nat
  block : List Word
  rows : List Nat
  src : List Byte
  dst : List Byte
  spool : Option Dword
  count : Word
  disp : Nat
  wordAt : Nat
  due : Nat
  far : Bool
  got : List (Nat × List Byte)
  stage : Nat
  left : Nat
  paused : Option Nat
  lost : Option Nat
  snapAt : Nat
  past : Option (List Host.Cell)
  snap : Option (List (Nat × Byte))
  given : List Nat
  deriving DecidableEq, Repr, Inhabited

/-- An accumulator tile (R292): the workgroup and name it was zeroed for, whether its ACCZ has been granted, whether the name
is still bound to it, the operations that resolved to it and have not completed, its 64 × 128 values row by row, the tick of its last
operation's effect (R301), and the number of the physical tile that it has had from its grant on, its image's index (R338, R340). -/
structure Tile where
  wg : Nat
  name : Nat
  granted : Bool
  bound : Bool
  ops : Nat
  vals : List Word
  eff : Nat
  phys : Nat
  deriving DecidableEq, Repr, Inhabited

/-- A tile operation in a matrix engine (R282, R296): its captured operands, its tile, its place in the table, once granted the tick at
which it completes, a page it is paused at, and the traffic of a side on another device: whether it has been sent, the reads answered,
the writes unanswered, the device whose path was lost; the aligned words it has delivered, by address ÷ 4 (R228, R298); memory
as it stood at the place in T of its snapshot, where that is an earlier one. -/
structure MxeEntry where
  owner : FlightRef
  part : Nat
  ctx : Nat
  lid : Word
  pc : Dword
  ix : Nat
  op : Nat
  quant : Bool
  block : List Word
  handle : List Byte
  a : List Byte
  scales : List Byte
  cb : List Half
  tile : Nat
  prio : Nat
  since : Nat
  granted : Bool
  due : Nat
  flags : Byte
  paused : Option Nat
  sent : Bool
  got : List (Nat × List Byte)
  left : Nat
  lost : Option Nat
  given : List Nat
  past : Option (List Host.Cell)
  deriving DecidableEq, Repr, Inhabited

/-- A reuse latch (R287): the flight that holds it and the bytes it holds. -/
structure Latch where
  owner : FlightRef
  a : List Byte
  scales : List Byte
  cb : List Half
  deriving DecidableEq, Repr, Inhabited

/-- An operation sent to the estimator (R323, R324): its flight, with what outlives it: partition, context, whether it runs in
deterministic mode, its place in the order of R173; what it asks, the participating lanes with position and sample, whether it is posted
or has begun to wait (R325), and its clause and instruction for a posted trap (R326). -/
structure EstOp where
  owner : FlightRef
  part : Nat
  ctx : Nat
  det : Bool
  place : Nat
  launch : Nat
  instr : Instr
  lanes : List (Nat × (Nat × Nat))
  posted : Bool
  held : Bool
  pc : Dword
  ix : Nat
  due : Nat
  deriving DecidableEq, Repr, Inhabited

/-- What the streamers know of a spool beyond its record (R269, R270): the FAILED counts and the DONE counts not yet FILLED, and
bytes 0–31 of the record as the device last wrote them, which tell a store into the record (R266); none where no SPINIT made it. -/
structure SpoolSt where
  failed : List Word
  dones : List Word
  made : List Byte
  deriving DecidableEq, Repr, Inhabited

/-- Nothing is known of a spool but its record. -/
def SpoolSt.none : SpoolSt := ⟨[], [], []⟩

/-- What of a workgroup lies outside its core: operations saved on its replay list by a halt at a tick (R368), and resources spilled
while its context is LAZY (R342): its rows, its scratchpad bytes with the spools in them by offset, its tiles by logical number, its
latches. -/
structure Away where
  copies : List (Nat × Copy)
  tileOps : List (Nat × MxeEntry)
  ests : List (Nat × EstOp)
  rows : Bool
  scratch : Option (List Byte)
  spools : List (Nat × SpoolSt)
  tiles : List (Nat × Tile)
  latches : List Latch
  deriving DecidableEq, Repr, Inhabited

/-- Nothing of a workgroup lies outside its core. -/
def Away.none : Away := ⟨[], [], [], false, Option.none, [], [], []⟩

/-- A resident (or switched-out) workgroup (R146, R338). `firstAt` is the cycle or tick of its first trap (R335), `entryAt` the count of
its unresolved trap queue entry, `resolve` the action given for it and not yet taken (R337), `replay` the accesses of its replay list
(flight, access), `rowAt` the indexes of its rows in its core's row file (R340), `age` its place in the order of admission to its core
(R158). -/
structure Wg where
  launch : Nat
  part : Nat
  ctx : Nat
  wgid : Nat
  tether : Nat
  rank : Nat
  core : Nat
  flights : List Flight
  acc : List (Option Nat)
  barK : Nat
  bartK : Nat
  sortK : Nat
  barArr : Word
  bartArr : Word
  sortArr : Word
  sortIn : List (Nat × (List Half × Word))
  st : WgState
  dbg : Bool
  trapped : Bool
  firstFlt : Byte
  firstAt : Nat
  entryOwed : Bool
  entryAt : Option Nat
  resolve : Option Nat
  cancelled : Bool
  replay : List (Nat × Nat)
  scratchBase : Nat
  scratchBytes : Nat
  rows : Nat
  rowAt : List Nat
  age : Nat
  away : Away
  deriving DecidableEq, Repr, Inhabited

/-- A staging entry of a tether's twins (R242, R246): a granule's increment, its contribution and its marks. -/
structure StageEntry where
  i : Nat
  d : Nat
  fmt : Option Nat
  sum : List (Nat × Nat)
  poison : Bool
  deriving DecidableEq, Repr, Inhabited

/-- A placed tether: its workgroups by rank, the place of each rank's scratchpad (core, base, bytes), which other ranks reach while the
tether lives (R178), its staging, the cores it was placed on by rank, whether it can no longer be relaunched (R245), a kill in progress
(R363): its reason, the flight its entry names, and the outcome reason 5 repeats, and when its last flight ended, once it has (R244). -/
structure Tether where
  wgs : List Nat
  pads : List (Nat × (Nat × Nat))
  stage : List (Nat × StageEntry)
  cores : List Nat
  norelaunch : Bool
  dying : Option (Nat × (FlightRef × Nat))
  ended : Option Nat
  deriving DecidableEq, Repr, Inhabited

/-- An accepted launch: its copies of record and argument block (R152), how far it has come, whether it is cancelled, how it was
killed, whether its counter has reached a final state, for each 8-byte word that it has written, by key, the contents that the word had
before, which a fetch may still give (R33), and the cores that executed any of a tether's instructions, by tether (R357). -/
structure Launch where
  id : Word
  part : Nat
  ctx : Nat
  queue : Nat
  seq : Word
  origin : Nat
  record : List Byte
  args : List Byte
  next : Nat
  again : List Nat
  tethers : List (Nat × Tether)
  kills : List (Nat × Nat)
  cancelled : Bool
  killed : Option Nat
  ended : Bool
  code : List (Nat × List Dword)
  ran : List (Nat × List Nat)
  deriving DecidableEq, Repr, Inhabited

/-- A partition descriptor as written (R347). -/
structure PartDesc where
  quads : BitVec 128
  slices : BitVec 512
  pchan : BitVec 512
  strms : BitVec 512
  ctl : Byte
  vf : Byte
  cswin : Word
  csoff : Word
  deriving DecidableEq, Repr, Inhabited

/-- A context descriptor as written (R351). -/
structure CtxDesc where
  tenant : Dword
  save : Dword
  tokbuf : Dword
  nonce : BitVec 256
  logbase : Dword
  logsize : Word
  deriving DecidableEq, Repr, Inhabited

/-- A translation context (R189). -/
structure TransCtx where
  root1 : Dword
  stage2 : Bool
  root2 : Dword
  twd : BitVec 11
  fqbase : Dword
  fqsize : Word
  ctrbase : Dword
  deriving DecidableEq, Repr, Inhabited

/-- A domain context (R386). -/
structure DomCtx where
  quiet : Word
  domen : Bool
  domid : Half
  peers : BitVec 256
  deriving DecidableEq, Repr, Inhabited

/-- Context states (R342). -/
inductive CtxState where
  | absent
  | running
  | draining
  | halting
  | lazy
  | forcing
  | saved
  deriving DecidableEq, Repr, Inhabited

/-- A ring descriptor (R376). -/
structure Ring where
  base : Dword
  size : Word
  prod : Word
  cons : Word
  deriving DecidableEq, Repr, Inhabited

/-- One context slot of a partition. `grants` are the ticks from which the partition's matrix engines can grant again, by quad, while the
context is away (R301), `drained` that it left by mode D (R342, R366), `faults` the fault queue entries not yet resumed (count, page),
`trapOwed` the trap queue entries that wait for room
(R336), with the flight each belongs to, `reports` the counts of the entries of its trap queue whose KIND is not 0 (R337). -/
structure Ctx where
  desc : CtxDesc
  trans : TransCtx
  dom : DomCtx
  st : CtxState
  onList : Bool
  tick : Nat
  drained : Bool
  grants : List (Nat × Nat)
  faults : List (Nat × Nat)
  fqring : Ring
  trapring : Ring
  logring : Ring
  trapOwed : List (Option FlightRef × List Byte)
  reports : List Nat
  deriving DecidableEq, Repr, Inhabited

/-- What a page's leaf gives an access (R190–R192): the physical address of its 4 KiB page and its permissions. -/
structure Leaf where
  base : Nat
  r : Bool
  w : Bool
  x : Bool
  span : Bool
  lock : Bool
  tw : Bool
  lvl : Nat
  deriving DecidableEq, Repr, Inhabited

/-- A cached translation (R194): a 4 KiB virtual page of a context and its leaf. -/
structure TlbEntry where
  ctx : Nat
  vpage : Nat
  leaf : Leaf
  deriving DecidableEq, Repr, Inhabited

/-- A completion entry that waits for its turn or for room in its ring (R375): the queue and position of its command, the
launch's id, the kind, code, reason, origin and partition fields, the launch state, and the counter to read a later state
of (context slot and index). -/
structure OwedEntry where
  queue : Nat
  seq : Word
  lid : Word
  kind : Nat
  code : Nat
  reason : Nat
  origin : Nat
  part : Nat
  state : Nat
  ctr : Option (Nat × Nat)
  deriving DecidableEq, Repr, Inhabited

/-- The control program of a partition on one die (R169). -/
structure Ctl where
  ctx : Nat
  cmdSeq : Word
  flight : Flight
  halted : Bool
  entryAt : Option Nat
  deriving DecidableEq, Repr, Inhabited

/-- A switch of contexts in progress (R341, R342, R377): the mode, the slot to enter, whether a non-pre-emptible section still defers
it, and when its drain began, ns. -/
structure Switch where
  mode : Nat
  target : Option Nat
  deferred : Bool
  since : Nat
  deriving DecidableEq, Repr, Inhabited

/-- A partition (R341, R347, R376). `outs` counts the completion entries written per queue; `token` is the last token's body,
`tokenDue` the bodies of tokens that are still to be recorded, each with the context it is for, none for that of R350. `sliceEnd` and `scrubDue` are times in
ns: the end of the slice, the start of a clearing. `last` is the context that ran last. `onLeave` and `onEnter` are the entries of
commands that take effect when the running context has left and when the next one runs. `written` holds descriptor bytes 0–207 as
written, `clean` the descriptor whose resources the last scrub left to the partition (R351), `vfOff` how far a disabling of the VF has come:
0 none, 1 begun, 2 done. `parkDue` says that a flight has parked since the parked share was compared (R343), `spendDue` that a pending slice
expiry has been met at a clause boundary (R335), `invals` when an INVAL at the head of a queue dropped an entry of a SPAN page, by queue
(R388). -/
structure Part where
  desc : PartDesc
  cur : Option Nat
  ctxs : List Ctx
  slice : Word
  ddead : Half
  parkth : Byte
  smode : BitVec 2
  debt : Word
  rings : List Ring
  seqs : List Word
  outs : List Word
  owed : List OwedEntry
  nextLaunch : Word
  nonces : List (BitVec 256)
  token : List Byte
  tokenDue : List (List Byte × Option Nat)
  switch : Option Switch
  sliceEnd : Nat
  scrubDue : Option Nat
  tlb : List TlbEntry
  hintDrop : Nat
  ctls : List (Nat × Ctl)
  last : Option Nat
  lastTenant : Dword
  formed : Bool
  clean : PartDesc
  written : List Byte
  vfOff : Nat
  onLeave : List OwedEntry
  onEnter : List OwedEntry
  tick : Nat
  parkDue : Bool
  spendDue : Bool
  invals : List (Nat × Nat)
  deriving DecidableEq, Repr, Inhabited

/-- A spool shadow (R274): the counts a core keeps of one remote spool, with the record as fetched. `later` holds the values of RD that have
arrived since, each with the tick from which a copy of deterministic mode knows it (R279). -/
structure Shadow where
  part : Nat
  name : Dword
  spoolRec : List Byte
  rd : Word
  later : List (Nat × Word)
  wr : Word
  rsv : Word
  st : SpoolSt
  used : Nat
  deriving DecidableEq, Repr, Inhabited

/-- A core's own state beyond its flights (R158, R259, R274, R356–R358). `issued` is the first cycle in which each of its dispatchers can
issue, `turnAt` when its admission closed for a scan turn or, while it is tested, when the turn began, ns. -/
structure Core where
  issued : List Nat
  copies : List (Nat × Copy)
  shadows : List Shadow
  fenced : Bool
  closed : Bool
  scanning : Bool
  turnAt : Nat
  pts : Nat
  deriving DecidableEq, Repr, Inhabited

/-- A matrix engine (R281–R303): its table in entry order, tiles by logical number, latches, pass and check counts, the
physical rows that recent checks blamed (check number, row), the time (ns) and the tick from which it can grant again, and
whether it is fenced. -/
structure Mxe where
  entries : List (Nat × MxeEntry)
  tiles : List (Nat × Tile)
  latches : List Latch
  passes : Nat
  checks : Nat
  blamed : List (Nat × Nat)
  freeAt : Nat
  freeTick : Nat
  fenced : Bool
  deriving DecidableEq, Repr, Inhabited

/-- The exact accumulator of an open round (R318): count, sum in units of 2^−64, sum of squares in units of 2^−128, invalid. -/
structure RoundAcc where
  c : Nat
  s : Int
  q : Nat
  bad : Bool
  deriving DecidableEq, Repr, Inhabited

/-- An estimation run (R311–R322): the launch, cursor, reissue list, positions drawn and not resolved with the tether that drew
them, resolved positions of unmerged rounds, open rounds, the merged statistics, the time of its stop, and whether it has ended with its
launch, so that it takes nothing any more. -/
structure Run where
  launch : Nat
  cursor : Nat
  reissue : List Nat
  drawn : List (Nat × Nat)
  resolved : List Nat
  rounds : List (Nat × RoundAcc)
  merged : Nat
  n : Nat
  mean : Dword
  m2 : Dword
  h : Dword
  status : Nat
  altered : Bool
  discards : Nat
  stopReq : Bool
  stopAt : Nat
  closed : Bool
  deriving DecidableEq, Repr, Inhabited

/-- A signal that waits for its confirmation (R149, R357): the counter it was counted in, the child counter it came from, the
cores that must pass a scan turn, those of them whose turn has begun since, and those that have passed. -/
structure Sig where
  part : Nat
  ctx : Nat
  idx : Nat
  count : Nat
  child : Option Nat
  need : List Nat
  begun : List Nat
  passed : List Nat
  deriving DecidableEq, Repr, Inhabited

/-- A die's status register (R372), its controller's waiting event records (R275), and the partition whose control program is next in the
controller's rotation (R169). -/
structure Die where
  tchg : Word
  resets : Byte
  tries : Byte
  st : Nat
  reason : Nat
  evWait : List (Option FlightRef × List Byte)
  mxchk : Nat
  turn : Nat
  deriving DecidableEq, Repr, Inhabited

/-- Who waits for a remote operation: a piece of a flight's access, a part of a copy or of a tile operation, a slot return, a spool
operation that holds its flight, or the fetch of a spool's record for a copy that is held for it. -/
inductive Waiter where
  | access (r : FlightRef) (acc piece : Nat)
  | copy (r : FlightRef) (core copy part : Nat)
  | tile (r : FlightRef) (quad entry part : Nat)
  | spool (r : FlightRef)
  | spoolOp (r : FlightRef)
  | fetch (r : FlightRef)
  deriving DecidableEq, Repr, Inhabited

/-- A packet sent and not yet acknowledged (R387, R391, R392): what it carries, DOMID and Pts with it, the time of its first sending, the
plane and time of its latest. -/
structure Packet where
  seq : Word
  who : Waiter
  op : RemOp
  domid : Half
  pts : Nat
  plane : Nat
  firstSent : Nat
  sentAt : Nat
  deriving DecidableEq, Repr, Inhabited

/-- The source side of a delivery context (R391, R392): unacknowledged packets, and operations that wait for room, each with its SEQ. -/
structure SrcCtx where
  epoch : Word
  seq : Word
  waiting : List Packet
  queued : List (Word × (Waiter × RemOp))
  lastUse : Nat
  deriving DecidableEq, Repr, Inhabited

/-- The target side of a delivery context (R391, R392). -/
structure DstCtx where
  epoch : Word
  expect : Word
  replies : List (Word × RemoteAns)
  buffered : List RemoteReq
  lastUse : Nat
  deriving DecidableEq, Repr, Inhabited

/-- What an error record names (R358, R362): a partition, a launch or a tether by LAUNCHID and index, a counter's job by context and index,
a core. -/
inductive ErrName where
  | part (k : Nat)
  | launch (part : Nat) (id : Word)
  | tether (part : Nat) (id : Word) (ix : Nat)
  | job (part ctx ctr : Nat)
  | core (c : Nat)
  deriving DecidableEq, Repr, Inhabited

/-- A record of the error log (R362): class, what happened, where, the device time, and what it names. The spec gives its 64 bytes no layout
(log 34). -/
structure ErrEntry where
  cls : Nat
  code : Nat
  at_ : Nat
  clk : Nat
  names : List ErrName
  deriving DecidableEq, Repr, Inhabited

/-- The device. The fields in order: whose move is next (`agenda`, `cur`), names and free values given out (`uid`, `free`), memory,
workgroups, launches, counters being cancelled (R167), partitions, cores, matrix engines, estimation runs and received operations, signals to be confirmed,
spools, dies, the PF's rings and queues, the image, the one that last booted OK, which flash keeps (R379), pseudo-channels that failed to train, lost sectors, retired frames, logical times of lines, the error log, the AER status bits of
its three classes (R362), the corrected and uncorrectable errors of a sector so far (R359), the sectors that carry the poison mark (R361), the
count of corrected errors, whether the host's port is contained (R362), boot, the next core of each board's scan rotation, tokens, power, CLK, the arithmetic
clock's cycles in thousandths (R3, R382), the fabric:
live planes, planes that left or joined and hold writes back (the mask before and the time), delivery contexts, stopped lanes, remote
waiters (device and flight) with the open granules of their lines, devices owed a readmission message. -/
structure State where
  agenda : List Move
  cur : Option FlightRef
  uid : Nat
  free : Nat
  mem : List Host.Cell
  wgs : List (Nat × Wg)
  launches : List (Nat × Launch)
  cancels : List (Nat × (Nat × Nat))
  parts : List Part
  cores : List (Nat × Core)
  mxes : List (Nat × Mxe)
  runs : List (Nat × Run)
  estQ : List (Nat × EstOp)
  sigs : List Sig
  spools : List (Nat × SpoolSt)
  dies : List Die
  pfRings : List (Nat × Ring)
  pfSeq : Word
  pfOut : Word
  pfOwed : List OwedEntry
  pfDirect : List (List Byte)
  pfTokens : List (List Byte)
  image : Image
  lastImage : Image
  badChans : BitVec 512
  lost : List Nat
  redirect : List (Nat × Nat)
  lineTime : List (Nat × (Nat × Nat))
  errLog : List ErrEntry
  aer : BitVec 3
  errAt : List (Nat × (Nat × Nat))
  poison : List Nat
  corrected : Nat
  contained : Bool
  journal : List Nat
  booted : Bool
  scanPos : List Nat
  counter : Dword
  rollback : Nat
  pcap : Word
  mhz : Nat
  clk : Dword
  mcyc : Nat
  planes : BitVec 64
  spanHold : List (Nat × (Nat × Nat))
  srcCtx : List (Nat × SrcCtx)
  dstCtx : List (Nat × DstCtx)
  stopped : List (Nat × Nat)
  ldaWaiters : List ((Nat × Nat) × List Nat)
  readmit : List (Nat × Nat)
  deriving DecidableEq, Repr, Inhabited

/-- A flight with every register at its reset value (R22) and the given pc, for `rows` register rows. -/
def Flight.fresh (rows : Nat) (entry : Dword) (s015 : List Word) (tids : List Word) : Flight where
  vrows := rows
  pc := List.replicate 32 entry
  mr := List.replicate 32 0xFFFFFFFFFFFFFFFF#64
  exited := 0
  held := 0
  late := 0
  preds := []
  qpred := 0
  vregs := []
  sregs := (List.range 16).foldl (fun m i => sput 0 m i (s015.getD i 0)) []
  cb := List.replicate 16 0
  fsr := 0
  rngctr := 0
  tids := tids
  clause := none
  ix := 0
  sg := 0
  brMask := 0
  brTarget := 0
  callTo := none
  skid := 0
  stopped := false
  nLoads := 0
  nStores := 0
  nCopies := 0
  nTiles := 0
  nEst := 0
  accs := []
  peer := 0
  retired := 0
  wtime := 0
  timerOn := false
  timerRem := 0
  tpend := false
  spend := false
  npOpen := false
  npClk := 0
  stopPc := entry
  stopIx := 0
  cause := 0
  sub := 0
  kind := 0
  info := 0
  org := none
  lateHdrs := []
  trapAt := 0
  doneMask := 0
  opFlags := 0
  ldaData := []
  twinPark := none
  parkAt := 0
  copyHeld := none
  deferred := none
  wait := .ready
  disp := 0
  slot := none
  readySince := none
  lastIssue := 0
  yielded := false
  opDue := none
  opBuf := none
  known := []
  pastC := []
  pastM := []
  lastE := 0
  lastCopyE := 0
  lastEstE := 0
  busy := 0
  ended := false

/-- A ring descriptor at reset (R376). -/
def Ring.off : Ring := { base := 0, size := 0, prod := 0, cons := 0 }

/-- A context slot at reset (R189, R351, R386). -/
def Ctx.reset : Ctx where
  desc := { tenant := 0, save := 0, tokbuf := 0, nonce := 0, logbase := 0, logsize := 0 }
  trans := { root1 := 0, stage2 := false, root2 := 0, twd := 0, fqbase := 0, fqsize := 0, ctrbase := 0 }
  dom := { quiet := 20, domen := false, domid := 0, peers := 0 }
  st := .absent
  onList := false
  tick := 0
  drained := false
  grants := []
  faults := []
  fqring := Ring.off
  trapring := Ring.off
  logring := Ring.off
  trapOwed := []
  reports := []

/-- A partition descriptor at reset (R347). -/
def PartDesc.off : PartDesc := { quads := 0, slices := 0, pchan := 0, strms := 0, ctl := 0, vf := 0, cswin := 0, csoff := 0 }

/-- A partition at reset (R341, R347, R376; log 17). -/
def Part.reset : Part where
  desc := PartDesc.off
  cur := none
  ctxs := List.replicate 16 Ctx.reset
  slice := 0
  ddead := 1000
  parkth := 50
  smode := 1
  debt := 0
  rings := List.replicate 32 Ring.off
  seqs := List.replicate 16 0
  outs := List.replicate 16 0
  owed := []
  nextLaunch := 1
  nonces := []
  token := []
  tokenDue := []
  switch := none
  sliceEnd := 0
  scrubDue := none
  tlb := []
  hintDrop := 0
  ctls := []
  last := none
  lastTenant := 0
  formed := false
  clean := PartDesc.off
  written := []
  vfOff := 0
  onLeave := []
  onEnter := []
  tick := 0
  parkDue := false
  spendDue := false
  invals := []

/-- A core at reset. -/
def Core.reset : Core where
  issued := [0, 0, 0, 0]
  copies := []
  shadows := []
  fenced := false
  closed := false
  scanning := false
  turnAt := 0
  pts := 0

/-- A matrix engine at reset. -/
def Mxe.reset : Mxe where
  entries := []
  tiles := []
  latches := []
  passes := 0
  checks := 0
  blamed := []
  freeAt := 0
  freeTick := 0
  fenced := false

/-- A die at reset (R304, R372). -/
def Die.reset : Die := { tchg := 0, resets := 0, tries := 0, st := 0, reason := 0, evWait := [], mxchk := 64, turn := 0 }

/-- The configuration image the model is built with (log 8): every core enabled, private regions for every flight place of a die, on each
die a twin window of 56 GiB from 192 GiB on and its count plane from 248 GiB on, no spare frame, device index 0; no trims, speed bin or scan patterns, which no rule reads. -/
def Image.default : Image where
  cores := BitVec.allOnes 512
  trims := []
  bin := 0
  pool := 8192
  twlo := [0x3000000000, 0x7000000000, 0xB000000000, 0xF000000000]
  twsize := 0xE00000000
  cpbase := [0x3E00000000, 0x7E00000000, 0xBE00000000, 0xFE00000000]
  spares := []
  patterns := []
  devIdx := 0

/-- The device right after reset (log 17 names the values the spec does not state). -/
def State.reset : State where
  agenda := []
  cur := none
  uid := 1
  free := 0
  mem := []
  wgs := []
  launches := []
  cancels := []
  parts := List.replicate 16 Part.reset
  cores := []
  mxes := []
  runs := []
  estQ := []
  sigs := []
  spools := []
  dies := List.replicate 4 Die.reset
  pfRings := []
  pfSeq := 0
  pfOut := 0
  pfOwed := []
  pfDirect := []
  pfTokens := []
  image := Image.default
  lastImage := Image.default
  badChans := 0
  lost := []
  redirect := []
  lineTime := []
  errLog := []
  aer := 0
  errAt := []
  poison := []
  corrected := 0
  contained := false
  journal := []
  booted := false
  scanPos := List.replicate 8 0
  counter := 0
  rollback := 0
  pcap := 3000
  mhz := 3600
  clk := 0
  mcyc := 0
  planes := 0
  spanHold := []
  srcCtx := []
  dstCtx := []
  stopped := []
  ldaWaiters := []
  readmit := []

end Sys2Proof.Machine
end

