-- ==== Sys2Proof/Machine/Ops.lean ====
section
/-! DEFINITION. The named operations over the state: flights and workgroups, registers, memory bytes, rings, retiring an
instruction, taking a trap. -/

namespace Sys2Proof.Machine

/-- The outcome of a step of this machine. -/
abbrev Out := Host.Outcome State Fault Refusal

/-! ### Flights -/

/-- The flight a name stands for. -/
def State.flight? (s : State) : FlightRef → Option Flight
  | .wg w fl => (look s.wgs w).bind (fun g => g.flights[fl]?)
  | .ctl die part => (s.parts[part]?).bind (fun p => (look p.ctls die).map (·.flight))

/-- Changes a workgroup, if it is resident. -/
def State.modWg (s : State) (w : Nat) (f : Wg → Wg) : State := { s with wgs := alter s.wgs w f }

/-- Changes a partition. -/
def State.modPart (s : State) (p : Nat) (f : Part → Part) : State := { s with parts := modAt s.parts p f }

/-- Changes a flight, if there is one of the name. -/
def State.modFlight (s : State) (r : FlightRef) (f : Flight → Flight) : State :=
  match r with
  | .wg w fl => s.modWg w (fun g => { g with flights := modAt g.flights fl f })
  | .ctl die part => s.modPart part (fun p => { p with ctls := alter p.ctls die (fun c => { c with flight := f c.flight }) })

/-- Replaces a flight. -/
def State.setFlight (s : State) (r : FlightRef) (f : Flight) : State := s.modFlight r (fun _ => f)

/-- A partition; one at reset where the number names none. -/
def State.part (s : State) (p : Nat) : Part := s.parts.getD p Part.reset

/-- A context slot of a partition. -/
def Part.ctx (p : Part) (c : Nat) : Ctx := p.ctxs.getD c Ctx.reset

/-- A context of the run list that can be switched in (R341). -/
def Ctx.canRun (c : Ctx) : Bool := c.onList && (c.st == .saved || c.st == .lazy)

/-- Changes a context slot. -/
def State.modCtx (s : State) (p c : Nat) (f : Ctx → Ctx) : State :=
  s.modPart p (fun q => { q with ctxs := modAt q.ctxs c f })

/-- A core's own state. -/
def State.core (s : State) (c : Nat) : Core := sget Core.reset s.cores c

/-- Changes a core's own state. -/
def State.modCore (s : State) (c : Nat) (f : Core → Core) : State :=
  { s with cores := sput Core.reset s.cores c (f (s.core c)) }

/-- A quad's matrix engine. -/
def State.mxe (s : State) (q : Nat) : Mxe := sget Mxe.reset s.mxes q

/-- Changes a matrix engine. -/
def State.modMxe (s : State) (q : Nat) (f : Mxe → Mxe) : State :=
  { s with mxes := sput Mxe.reset s.mxes q (f (s.mxe q)) }

/-- Changes a launch. -/
def State.modLaunch (s : State) (l : Nat) (f : Launch → Launch) : State := { s with launches := alter s.launches l f }

/-- A die's status and controller. -/
def State.die (s : State) (d : Nat) : Die := s.dies.getD d Die.reset

/-- Changes a die. -/
def State.modDie (s : State) (d : Nat) (f : Die → Die) : State := { s with dies := modAt s.dies d f }

/-- The die of a core (R170: CORE = die × 128 + …). -/
def dieOfCore (c : Nat) : Nat := c / 128

/-- The board of a core: die × 2 + board-in-die. -/
def boardOfCore (c : Nat) : Nat := c / 64

/-- The quad of a core (R347). -/
def quadOfCore (c : Nat) : Nat :=
  let k := c % 64
  boardOfCore c * 16 + k / 8 / 2 * 4 + k % 8 / 2

/-- The workgroup of a flight name. -/
def State.wgOf (s : State) : FlightRef → Option Wg
  | .wg w _ => look s.wgs w
  | .ctl _ _ => none

/-- The partition a flight runs in. -/
def State.partOf (s : State) : FlightRef → Nat
  | .wg w _ => ((look s.wgs w).map (·.part)).getD 0
  | .ctl _ part => part

/-- The context a flight runs in. -/
def State.ctxOf (s : State) : FlightRef → Nat
  | .wg w _ => ((look s.wgs w).map (·.ctx)).getD 0
  | .ctl die part => ((look (s.part part).ctls die).map (·.ctx)).getD 0

/-- The core a flight runs on: 512 + die for a control program (R169). -/
def State.coreOf (s : State) : FlightRef → Nat
  | .wg w _ => ((look s.wgs w).map (·.core)).getD 0
  | .ctl die _ => 512 + die

/-- The die a flight runs on. -/
def State.dieOf (s : State) : FlightRef → Nat
  | .wg w _ => dieOfCore (((look s.wgs w).map (·.core)).getD 0)
  | .ctl die _ => die

/-- The launch of a flight's workgroup. -/
def State.launchOf (s : State) (r : FlightRef) : Option Launch := (s.wgOf r).bind (fun g => look s.launches g.launch)

/-- Adds a core to the mask of those that have executed a part of a workgroup's tether (R357); it outlives a kill of the tether. -/
def State.noteCore (s : State) (w core : Nat) : State :=
  match look s.wgs w with
  | none => s
  | some g => s.modLaunch g.launch (fun l =>
      let cs := sget [] l.ran g.tether
      if cs.contains core then l else { l with ran := sput [] l.ran g.tether (cs ++ [core]) })

/-- The flight that has the issue. -/
def State.issuer (s : State) : Option (FlightRef × Flight) := s.cur.bind (fun r => (s.flight? r).map (fun f => (r, f)))

/-- Runs an instruction's body for the flight that has the issue. -/
def withIssuer (s : State) (k : FlightRef → Flight → State) : Out :=
  match s.issuer with
  | some (r, f) => .next (k r f)
  | none => .fault .noIssuer

/-! ### Registers of a flight -/

/-- A v register of a lane. -/
def Flight.v (f : Flight) (lane r : Nat) : Word := sget 0 f.vregs (lane * 256 + r)

/-- A v register as a source lane of a cross-lane read gives it: an exited lane reads as zero (R18, R128). -/
def Flight.vx (f : Flight) (lane r : Nat) : Word := if f.exited.getLsbD lane then 0 else f.v lane r

/-- An s register. -/
def Flight.s (f : Flight) (r : Nat) : Word := sget 0 f.sregs r

/-- Writes a v register of a lane. -/
def Flight.setV (f : Flight) (lane r : Nat) (x : Word) : Flight := { f with vregs := sput 0 f.vregs (lane * 256 + r) x }

/-- Writes an s register. -/
def Flight.setS (f : Flight) (r : Nat) (x : Word) : Flight := { f with sregs := sput 0 f.sregs r x }

/-- A pair of s registers (R24). -/
def Flight.s64 (f : Flight) (r : Nat) : Dword := f.s (r + 1) ++ f.s r

/-- A pair of v registers (R24). -/
def Flight.v64 (f : Flight) (lane r : Nat) : Dword := f.v lane (r + 1) ++ f.v lane r

/-- Writes a pair of s registers. -/
def Flight.setS64 (f : Flight) (r : Nat) (x : Dword) : Flight := (f.setS r (x.extractLsb' 0 32)).setS (r + 1) (x.extractLsb' 32 32)

/-- Writes a pair of v registers. -/
def Flight.setV64 (f : Flight) (lane r : Nat) (x : Dword) : Flight :=
  (f.setV lane r (x.extractLsb' 0 32)).setV lane (r + 1) (x.extractLsb' 32 32)

/-- Predicate i of a lane; p7 reads true (R22). -/
def Flight.p (f : Flight) (lane i : Nat) : Bool := if i = 7 then true else (sget 0 f.preds i).getLsbD lane

/-- Uniform predicate i; q7 reads true (R22). -/
def Flight.q (f : Flight) (i : Nat) : Bool := if i = 7 then true else f.qpred.getLsbD i

/-- A mask with one bit set or cleared. -/
def setBit {n : Nat} (m : BitVec n) (i : Nat) (b : Bool) : BitVec n :=
  if b then m ||| (1#n <<< i) else m &&& ~~~(1#n <<< i)

/-- Writes predicate i of a lane; a write of p7 is discarded (R22). -/
def Flight.setP (f : Flight) (lane i : Nat) (b : Bool) : Flight :=
  if i = 7 then f else { f with preds := sput 0 f.preds i (setBit (sget 0 f.preds i) lane b) }

/-- Writes uniform predicate i; a write of q7 is discarded (R22). -/
def Flight.setQ (f : Flight) (i : Nat) (b : Bool) : Flight :=
  if i = 7 then f else { f with qpred := setBit f.qpred i b }

/-- Raises fsr flags, which stay set (R23). -/
def Flight.raise (f : Flight) (flags : Byte) : Flight := { f with fsr := f.fsr ||| flags.setWidth 32 }

/-- Lanes in which some thread is running (R126). -/
def Flight.running (f : Flight) : Word := ~~~(f.exited ||| f.held ||| f.late)

/-- The class of the clause in progress. -/
def Flight.cls (f : Flight) : ClauseClass := (f.clause.map (·.cls)).getD .mix

/-- The clause runs on the uniform path or with q guards for the whole flight. -/
def Flight.uniPath (f : Flight) : Bool := uniformClass f.cls

/-- The address of the clause in progress; the lowest running pc otherwise. -/
def Flight.header (f : Flight) : Dword := (f.clause.map (·.addr)).getD f.stopPc

/-- Number of v registers of the flight's allocation. -/
def Flight.alloc (f : Flight) : Nat := 8 * f.vrows

/-- What the decoder needs of a flight. -/
def Flight.dctx (f : Flight) : DecodeCtx := { cls := f.cls, alloc := f.alloc }

/-! ### Clauses and sub-groups (R32, R74, R126–R130) -/

/-- The header after the clause in progress (R32, R73). -/
def Flight.nextHeader (f : Flight) : Dword :=
  f.header + BitVec.ofNat 64 (8 * (((f.clause.map (fun c => c.words.length)).getD 0) + 1))

/-- Held threads whose meeting point every thread with that mr has reached (R130). -/
def Flight.met (f : Flight) : Word :=
  maskOf (fun l => f.held.getLsbD l && lanes.all (fun k =>
    f.mr.getD k 0 != f.mr.getD l 0 || f.held.getLsbD k || f.exited.getLsbD k))

/-- Releases the threads whose meeting point is complete (R130). -/
def Flight.release (f : Flight) : Flight := { f with held := f.held &&& ~~~f.met }

/-- A pc can equal an mr value: canonical and a multiple of 8 (R129). -/
def meetable (x : Dword) : Bool := bits x.toNat 2 0 == 0 && bits x.toNat 63 56 == 0

/-- Per-lane values with those of some lanes replaced. -/
def setLanes (m : List Dword) (on : Nat → Bool) (x : Nat → Dword) : List Dword := lanes.map (fun l => if on l then x l else m.getD l 0)

/-- The flight after its clause completes (R32, R129, R130): each thread of the sub-group that still runs takes its new
pc and becomes held when that equals its mr, then complete meeting points release. -/
def Flight.completeClause (f : Flight) : Flight :=
  let ran := f.sg &&& ~~~f.exited
  let newPc := fun l => if f.brMask.getLsbD l then f.brTarget else f.nextHeader
  let nowHeld := maskOf (fun l => ran.getLsbD l && meetable (newPc l) && newPc l == f.mr.getD l 0)
  let y := (f.clause.map (·.yieldHint)).getD false
  { f with
    pc := setLanes f.pc (fun l => ran.getLsbD l) newPc
    held := f.held ||| nowHeld
    clause := none
    ix := 0
    sg := 0
    brMask := 0
    brTarget := 0
    yielded := f.yielded || y }.release

/-- The lowest of some pcs. -/
def lowestPc (ps : List Dword) : Option Dword :=
  ps.foldl (fun m p => match m with
    | none => some p
    | some q => some (if p.toNat < q.toNat then p else q)) none

/-- The sub-group whose clause issues next (R127): the one at a call's target after a call, else the one of the lowest pc
among the running threads. -/
def Flight.pick (f : Flight) : Option (Dword × Word) :=
  let at_ := fun p => maskOf (fun l => f.running.getLsbD l && f.pc.getD l 0 == p)
  let low := (lowestPc ((maskLanes f.running).map (fun l => f.pc.getD l 0))).map (fun p => (p, at_ p))
  match f.callTo with
  | some t => if at_ t = 0 then low else some (t, at_ t)
  | none => low

/-! ### Spools move with the memory that holds them -/

/-- The spools whose records start in n keys from one on stand as far behind another key. -/
def State.moveSpools (s : State) (k n j : Nat) : State :=
  let here := fun (p : Nat × SpoolSt) => decide (k ≤ p.1) && decide (p.1 < k + n)
  let moved := (s.spools.filter here).map (fun p => (j + (p.1 - k), p.2))
  { s with spools := putAll (s.spools.filter (fun p => !here p)) moved }

/-- Spools whose records are cleared are no more. -/
def State.dropSpools (s : State) (gone : Nat → Bool) : State := { s with spools := s.spools.filter (fun p => !gone p.1) }

/-! ### Memory bytes (log 3) -/

/-- What a byte of memory that nothing has written reads as (log 2). -/
def unlistedByte : Byte := 0

/-- The canonical form of memory: addresses strictly rising, no entry at what an unlisted address reads as. -/
def Memory.wf (m : List Host.Cell) : Bool := swf unlistedByte m

/-- A byte of memory. -/
def readByte (m : List Host.Cell) (k : Nat) : Byte := sget unlistedByte m k

/-- Memory with one byte written. -/
def writeByte (m : List Host.Cell) (k : Nat) (b : Byte) : List Host.Cell := sput unlistedByte m k b

/-- Bytes at adjacent keys. -/
def readBytes (m : List Host.Cell) (k n : Nat) : List Byte := (List.range n).map (fun i => readByte m (k + i))

/-- Memory with bytes written at given keys. -/
def writeKeys (m : List Host.Cell) (kb : List (Nat × Byte)) : List Host.Cell :=
  kb.foldl (fun m p => writeByte m p.1 p.2) m

/-- Memory with bytes written at adjacent keys. -/
def writeBytes (m : List Host.Cell) (k : Nat) (bs : List Byte) : List Host.Cell :=
  match bs with
  | [] => m
  | b :: bs => writeBytes (writeByte m k b) (k + 1) bs

/-- A little-endian number in memory. -/
def State.getNat (s : State) (k n : Nat) : Nat := ofBytes (readBytes s.mem k n)

/-- Stores a little-endian number. -/
def State.putNat (s : State) (k n x : Nat) : State := { s with mem := writeBytes s.mem k (toBytes n x) }

/-- Stores bytes. -/
def State.putBytes (s : State) (k : Nat) (bs : List Byte) : State := { s with mem := writeBytes s.mem k bs }

/-- A slice of a byte list. -/
def slice (bs : List Byte) (off n : Nat) : List Byte := (bs.drop off).take n

/-- A little-endian number inside a byte list. -/
def fieldAt (bs : List Byte) (off n : Nat) : Nat := ofBytes (slice bs off n)

/-! ### Rings (R376) -/

/-- Entries a ring holds. -/
def Ring.count (r : Ring) : Nat := (r.prod - r.cons).toNat

/-- A ring is full; a disabled ring is full for the device. -/
def Ring.full (r : Ring) : Bool := r.size = 0 || decide (r.size.toNat ≤ r.count)

/-- Where entry p of a ring lies. -/
def Ring.entryAt (r : Ring) (p : Word) (size : Nat) : Nat := r.base.toNat + p.toNat % (max r.size.toNat 1) * size

/-- The state of a device's rings after it produces an entry: the entry written, then PROD advanced. -/
def Ring.produced (r : Ring) : Ring := { r with prod := r.prod + 1 }

/-! ### The agenda -/

/-- Puts moves at the front of the agenda. -/
def State.soon (s : State) (ms : List Move) : State := { s with agenda := ms ++ s.agenda }

/-- Puts events at the front of the agenda. -/
def State.events (s : State) (is : List Instr) : State := s.soon (is.map Move.event)

/-- The end of a partition's tick is still to come on the agenda. -/
def State.inTick (s : State) (part : Nat) : Bool := s.agenda.contains (.tickEnd part)

/-- A move put off to the end of the tick under way (R368). -/
def State.afterTick (s : State) (part : Nat) (m : Move) : State :=
  let before := s.agenda.takeWhile (fun x => x != .tickEnd part)
  let after := s.agenda.dropWhile (fun x => x != .tickEnd part)
  { s with agenda := before ++ after.take 1 ++ [m] ++ after.drop 1 }

/-- A fresh name. -/
def State.fresh (s : State) : Nat × State := (s.uid, { s with uid := s.uid + 1 })

/-! ### The trap queue (R336) -/

/-- The 64 bytes of a trap queue entry. -/
def trapBytes (pc ctx : Dword) (clk : Nat) (lid : Word) (wgid fl core ix kind : Nat) (sub cause : Byte) (info : Dword) : List Byte :=
  toBytes 64 (pc.toNat * 2 ^ 448 + ctx.toNat * 2 ^ 384 + clk * 2 ^ 192 + lid.toNat * 2 ^ 160 + wgid * 2 ^ 128 + fl * 2 ^ 123 +
    core * 2 ^ 113 + ix * 2 ^ 109 + kind * 2 ^ 107 + sub.toNat * 2 ^ 96 + cause.toNat * 2 ^ 88 + info.toNat)

/-- Notes the count of a halted flight's entry, by which TRAPRES names it (R337). -/
def State.noteEntry (s : State) (owner : Option FlightRef) (count : Nat) : State :=
  match owner with
  | some (.wg w _) => s.modWg w (fun g => { g with entryAt := some count })
  | some (.ctl die part) => s.modPart part (fun p => { p with ctls := alter p.ctls die (fun c => { c with entryAt := some count }) })
  | none => s

/-- Writes a trap queue entry at the place of its ring that is next. -/
def State.writeTrap (s : State) (part ctx : Nat) (owner : Option FlightRef) (bs : List Byte) : State :=
  let ring := ((s.part part).ctx ctx).trapring
  ((s.putBytes (ring.entryAt ring.prod 64) bs).modCtx part ctx (fun c =>
    { c with
      trapring := c.trapring.produced
      reports := (if fieldAt bs 13 1 / 8 % 4 = 0 then [] else [ring.prod.toNat]) ++ c.reports.filter (· != ring.prod.toNat) })).noteEntry
    owner ring.prod.toNat

/-- Writes a trap queue entry, or makes it wait for room, behind those that wait already (R336). -/
def State.postTrap (s : State) (part ctx : Nat) (owner : Option FlightRef) (bs : List Byte) : State :=
  let c := (s.part part).ctx ctx
  if c.trapring.full || !c.trapOwed.isEmpty then s.modCtx part ctx (fun c => { c with trapOwed := c.trapOwed ++ [(owner, bs)] })
  else s.writeTrap part ctx owner bs

/-- Writes the trap queue entries that wait, while there is room. -/
def State.flushTraps (part ctx : Nat) : Nat → State → State
  | 0, s => s
  | n + 1, s =>
    let c := (s.part part).ctx ctx
    match c.trapOwed with
    | [] => s
    | (o, bs) :: rest =>
      if c.trapring.full then s
      else State.flushTraps part ctx n ((s.modCtx part ctx (fun c => { c with trapOwed := rest })).writeTrap part ctx o bs)

/-- The name of a flight's record in the context window (R338; log 4). -/
def windowOf (part : Nat) (r : FlightRef) : Dword :=
  match r with
  | .wg w _ => Config.windowAddr part w
  | .ctl die _ => Config.windowAddr part (2 ^ 32 + die)

/-- An entry for a flight as its record stands, with the time, kind, cause and INFO given (R336). -/
def State.flightEntry (s : State) (r : FlightRef) (clk kind : Nat) (sub cause : Byte) (info : Dword) (org : Option (Dword × Nat)) :
    List Byte :=
  let f := (s.flight? r).getD default
  let (pc, ix) := org.getD (f.stopPc, f.stopIx)
  let fl := match r with
    | .wg _ fl => fl
    | .ctl _ _ => 0
  trapBytes pc (windowOf (s.partOf r) r) clk (((s.launchOf r).map (·.id)).getD 0) (((s.wgOf r).map (·.wgid)).getD 0) fl
    (s.coreOf r) ix kind sub cause info

/-- The entry of a halt, for the flight that trapped first, with the time of its trap (R335, R336). -/
def State.haltEntry (s : State) (r : FlightRef) : State :=
  match s.flight? r with
  | none => s
  | some f => s.postTrap (s.partOf r) (s.ctxOf r) (some r) (s.flightEntry r f.trapAt f.kind.toNat f.sub f.cause f.info f.org)

/-! ### Time and modes -/

/-- The launch runs in deterministic mode: its DET bit, or its partition's switch (R171). -/
def State.isDet (s : State) (l : Launch) : Bool :=
  bitAt (fieldAt l.record 0x10 8) 40 || (s.part l.part).desc.ctl.getLsbD 2

/-- The flight runs in deterministic mode. -/
def State.det (s : State) (r : FlightRef) : Bool := ((s.launchOf r).map (s.isDet ·)).getD false

/-- The cycle of the arithmetic clock (R3, R382). -/
def State.cyc (s : State) : Nat := s.mcyc / 1000

/-- Core index, then dispatcher, then slot (R173). A flight that holds no slot at the tick, or another than at its issue, stands where it
stands now, without a slot last: the spec does not say which slot orders it (log 33). -/
def State.placeOf (s : State) (r : FlightRef) (f : Flight) : Nat := s.coreOf r * 64 + f.disp * 16 + f.slot.getD 8

/-- The tick or the cycle by which a flight's dispatcher counts how long it has been ready (R161, R171). -/
def State.beat (s : State) (r : FlightRef) : Nat :=
  if s.det r then (s.part (s.partOf r)).tick else s.cyc

/-! ### Traps (R332–R335) -/

/-- Cause codes of R332. -/
def cIllegalOp : Byte := 0x01
def cIllegalClause : Byte := 0x02
def cMisaligned : Byte := 0x03
def cPriv : Byte := 0x04
def cBounds : Byte := 0x05
def cScratchBounds : Byte := 0x06
def cNoncanon : Byte := 0x07
def cPageFault : Byte := 0x08
def cProt : Byte := 0x09
def cHomeDown : Byte := 0x0A
def cLostData : Byte := 0x0B
def cUncorr : Byte := 0x0C
def cTwinEarly : Byte := 0x0D
def cTwinTimeout : Byte := 0x0E
def cTwinPoison : Byte := 0x0F
def cTwinSelf : Byte := 0x10
def cTwinOvf : Byte := 0x11
def cStreamerRights : Byte := 0x12
def cHandle : Byte := 0x13
def cSortk : Byte := 0x14
def cTimer : Byte := 0x15
def cSwTrap : Byte := 0x16
def cBkpt : Byte := 0x17
def cNpOverrun : Byte := 0x18
def cSpoolTimeout : Byte := 0x19
def cAccName : Byte := 0x1A
def cDeck : Byte := 0x1B
def cToken : Byte := 0x1C

/-- A kind 0 trap's record. -/
def TrapInfo.fault (cause sub : Byte) (info : Dword) : TrapInfo := { cause, sub, kind := 0, info, org := none }

/-- A flight stops at once when its workgroup halts, unless it is inside a clause with an instruction it can issue
(R333 step 2). -/
def Flight.stopsAtOnce (f : Flight) : Bool := f.clause.isNone || f.ended || f.wait != .ready

/-- A flight stopped at a clause start (R334). -/
def Flight.stopAtStart (f : Flight) : Flight :=
  { f with stopped := true, stopPc := (f.pick.map (·.1)).getD f.stopPc, stopIx := 0 }

/-- A flight stopped where it stands (R334): inside its clause, past its last instruction at the clause starts that follow, at a
clause start, or at the stop point it has not resumed from yet. -/
def Flight.stopHere (f : Flight) : Flight :=
  match f.clause with
  | some c => if f.ix < c.words.length then { f with stopped := true, stopPc := c.addr, stopIx := f.ix }
    else f.completeClause.stopAtStart
  | none => if f.sg = 0 then f.stopAtStart else { f with stopped := true }

/-- A workgroup begins to halt (R333): every flight that need not finish a clause stops at once. While it halts already, or a debugger holds it, the flights that
are finishing their clauses keep the SKID they have counted. -/
def Wg.halt (g : Wg) : Wg :=
  { g with
    st := if g.st = .running then .halting else g.st
    flights := if g.st = .halting || g.dbg then g.flights else g.flights.map (fun f =>
      if f.stopped then f else if f.stopsAtOnce then { f.stopHere with skid := 0 } else { f with skid := 0 }) }

/-- Records a trap at a device time in the flight that takes it (R333 step 1, R334, R336, R339). A copy that was held for a slot is no
longer: its hold counts anew from its next (R277). -/
def Flight.takeTrap (f : Flight) (clk : Nat) (t : TrapInfo) : Flight :=
  let g := if f.ended then f else f.stopHere
  { g with cause := t.cause, sub := t.sub, kind := t.kind, info := t.info, org := t.org, trapAt := clk, npOpen := false, wait := .ready,
           twinPark := none, copyHeld := none, opDue := none, opBuf := none, known := [] }

/-- Records a trap in a workgroup: FIRSTFLT is the flight that trapped first, of several in one cycle the one of the lowest index
(R333, R335); the faulting instruction of a sibling that is finishing its clause counts in its SKID, if it issued after the halt began
(R333 step 3). -/
def Wg.takeTrap (g : Wg) (fl now clk : Nat) (t : TrapInfo) : Wg :=
  let first := g.firstFlt = 0xFF
  let same := !first && g.firstAt == now
  { g.halt with
    trapped := true
    entryOwed := true
    firstFlt := if first then BitVec.ofNat 8 fl else if same then BitVec.ofNat 8 (min fl g.firstFlt.toNat) else g.firstFlt
    firstAt := if first then now else g.firstAt
    flights := modAt g.halt.flights fl (fun f =>
      { f.takeTrap clk t with skid := if g.st = .halting && !same && !f.stopped && t.kind = 0 then f.skid + 1 else f.skid }) }

/-- NPBUDGET of the flight's launch (R151). -/
def State.npBudget (s : State) (r : FlightRef) : Nat := ((s.launchOf r).map (fun l => fieldAt l.record 0x88 4)).getD 0

/-- A non-pre-emptible section closes; time beyond its budget is charged as debt (R224, R345), and a switch that it deferred is
looked at again (R342). -/
def State.closeNp (s : State) (r : FlightRef) (f : Flight) : State :=
  if !f.npOpen then s
  else
    let k := s.partOf r
    let excess := f.npClk.toNat - s.npBudget r
    let s1 := s.modPart k (fun p => { p with debt := p.debt + BitVec.ofNat 32 excess })
    if ((s1.part k).switch.map (·.deferred)).getD false then s1.events [.sliceExpiry k] else s1

/-- Every open section of a workgroup closes, as a trap halts it or it ends (R224, R345). -/
def State.closeSections (s : State) (w : Nat) : State :=
  match look s.wgs w with
  | some g => ((List.range g.flights.length).foldl (fun s k => match g.flights[k]? with
    | some f => s.closeNp (.wg w k) f
    | none => s) s).modWg w (fun g => { g with flights := g.flights.map (fun f => { f with npOpen := false }) })
  | none => s

/-- Taking a trap of kind 0, 1 or 2 (R333): the flight stops with its cause, its workgroup halts, and the issue passes
on. A control program halts alone, and its trap queue entry is written at once (R169). -/
def State.trap (s : State) (r : FlightRef) (t : TrapInfo) : State :=
  let now := max (s.beat r) (((s.flight? r).map (·.lastIssue)).getD 0)
  let s := { s with cur := if s.cur = some r then none else s.cur }
  match r with
  | .wg w fl => (s.closeSections w).modWg w (fun g => g.takeTrap fl now s.clk.toNat t)
  | .ctl die part => (s.modPart part (fun p =>
      { p with ctls := alter p.ctls die (fun c => { c with flight := c.flight.takeTrap s.clk.toNat t, halted := true }) })).haltEntry r

/-- A kind 0 trap of the issuing flight: the instruction has no effect. -/
def State.fault (s : State) (r : FlightRef) (cause sub : Byte) (info : Dword) : State := s.trap r (.fault cause sub info)

/-! ### Retiring (R170, R171) -/

/-- The flight after its instruction completes: the next instruction of the clause follows, and RETIRED counts it (R170). The stop point of a stopped flight moves on with it, as does that of one that has resumed and
whose clause is still to be fetched again (R334). -/
def Flight.retire (f : Flight) : Flight :=
  let g := { f with
    ix := f.ix + 1
    stopIx := if f.clause.isNone && f.sg != 0 then f.stopIx + 1 else f.stopIx
    retired := f.retired + 1
    wait := .ready
    doneMask := 0
    opFlags := 0
    ldaData := []
    twinPark := none
    copyHeld := none
    opDue := none
    opBuf := none
    known := [] }
  if f.stopped then g.stopHere else g

/-- The flight's workgroup is halting, so that what it issues counts in its SKID (R333). -/
def State.halting (s : State) (r : FlightRef) : Bool := ((s.wgOf r).map (fun g => decide (g.st = .halting))).getD false

/-- A wait that ends by itself as the flight's operations drain. -/
def Wait.drains : Wait → Bool
  | .ready | .counts | .drain | .op | .far | .remote _ | .reply _ => true
  | _ => false

/-- Tile operations that a flight waits for have no end: its matrix engine is fenced (R303). -/
def State.stranded (s : State) (r : FlightRef) (f : Flight) (w : Wait) : Bool :=
  (w == .counts || w == .drain) && f.nTiles != 0 && (s.mxe (quadOfCore (s.coreOf r))).fenced

/-- The issuing flight stalls: its instruction has had no effect and issues again later; another flight may issue. A flight of a
halting workgroup stops there, unless the wait ends as its operations drain (R303, R333). -/
def State.stall (s : State) (r : FlightRef) (w : Wait) : State :=
  { s.modFlight r (fun f =>
      let g := { f with wait := w, parkAt := s.clk.toNat }
      if s.halting r && (!w.drains || s.stranded r f w) && !f.stopped then g.stopHere else g) with
    cur := if s.cur = some r then none else s.cur }

/-- The timer after one retired instruction in deterministic mode (R344): at 0 it disarms itself and its trap is pending
(R346). -/
def Flight.tickTimer (f : Flight) : Flight :=
  if !f.timerOn then f
  else if f.timerRem = 1 then { f with timerOn := false, timerRem := 0, tpend := true }
  else { f with timerRem := f.timerRem - 1 }

/-- A flight whose held instruction completes (a barrier, a SORTK, a reply): it is ready at its next instruction. -/
def Flight.released (det : Bool) (f : Flight) : Flight := if det then f.retire.tickTimer else f.retire

/-- Completes the issuing flight's instruction with the flight as given. -/
def State.retire (s : State) (r : FlightRef) (f : Flight) : State :=
  let f1 := { f.retire with skid := if s.halting r then f.skid + 1 else f.skid }
  s.setFlight r (if s.det r then f1.tickTimer else f1)

/-- The tick or the clock by which a flight's operations are timed. -/
def State.now (s : State) (r : FlightRef) : Nat :=
  if s.det r then (s.part (s.partOf r)).tick else s.clk.toNat

end Sys2Proof.Machine
end

