-- ==== Sys2Proof/Machine/Operands.lean ====
section
/-! DEFINITION. Operand forms: guards and participating lanes (R34, R128), register fields and K bits (R35, R51), the source
modifier (R18, R41), and the shared frame of the lane-by-lane instructions. -/

namespace Sys2Proof.Machine

/-- The p or q guard of a lane (R34). -/
def Flight.guard (f : Flight) (usesP : Bool) (g : BitVec 4) (lane : Nat) : Bool :=
  let i := bits g.toNat 2 0
  let b := if usesP then f.p lane i else f.q i
  b != g.getLsbD 3

/-- The class's guard names a p predicate (R12). -/
def guardsP : ClauseClass → Bool
  | .vec | .mix => true
  | _ => false

/-- The lanes an instruction acts in (R34, R128): the active lanes whose guard holds; on the uniform path lane 0 alone,
when the q guard holds (R50). -/
def Flight.acting (f : Flight) (g : BitVec 4) : List Nat :=
  if f.uniPath then (if f.guard false g 0 then [0] else [])
  else (maskLanes f.sg).filter (f.guard (guardsP f.cls) g)

/-- An instruction with a flight-wide effect acts: its q guard holds, or in a mix clause its p guard holds in at least one
active thread (R34). -/
def Flight.actsOnce (f : Flight) (g : BitVec 4) : Bool := !(f.acting g).isEmpty

/-- The register a field names, read for a lane: an s register on the uniform path or under a K bit (R35, R51). -/
def Flight.src (f : Flight) (k : Bool) (lane r : Nat) : Word := if f.uniPath || k then f.s r else f.v lane r

/-- The pair a field names (R24). -/
def Flight.src64 (f : Flight) (k : Bool) (lane r : Nat) : Dword := f.src k lane (r + 1) ++ f.src k lane r

/-- The lane the source modifier selects for a lane; none where the form reads zero (R18). -/
def modLane (m : BitVec 12) (lane : Nat) : Option Nat :=
  let x := m.toNat
  let size := 2 ^ bits x 9 7
  let d := bits x 6 2
  let b := lane - lane % size
  let o := lane % size + d
  match bits x 11 10 with
  | 1 => if bitAt x 1 then (if o < size then some (b + o) else none) else some (b + o % size)
  | 2 => some (b + Nat.xor (lane % size) d)
  | 3 => some (b + d)
  | _ => some lane

/-- Operand B of one register read through the modifier; a lane's own register is read as it stands, another lane's as a
cross-lane read gives it (R18). -/
def Flight.srcB (f : Flight) (o : VFmt) (lane : Nat) (off : Nat := 0) : Word :=
  let r := o.b.toNat + off
  if f.uniPath || o.kb then f.s r
  else if o.m = 0#12 then f.v lane r
  else
    match modLane o.m lane with
    | some l => f.vx l r
    | none => 0

/-- Operand B as a pair, both registers from one source lane (R41). -/
def Flight.srcB64 (f : Flight) (o : VFmt) (lane : Nat) : Dword := f.srcB o lane 1 ++ f.srcB o lane 0

/-- Predicate i of a lane in the class's own file (R52). -/
def Flight.pq (f : Flight) (lane i : Nat) : Bool := if f.uniPath then f.q i else f.p lane i

/-- What an instruction writes for one lane: registers, predicates, flags. -/
structure LaneOut where
  regs : List (Nat × Word) := []
  preds : List (Nat × Bool) := []
  flags : Byte := 0
  deriving DecidableEq, Repr, Inhabited

/-- A 32-bit result with flags. -/
def LaneOut.word (d : Nat) (x : Nat) (flags : Byte := 0) : LaneOut := { regs := [(d, BitVec.ofNat 32 x)], flags }

/-- A 64-bit result with flags (R24). -/
def LaneOut.pair (d : Nat) (x : Nat) (flags : Byte := 0) : LaneOut :=
  { regs := [(d, BitVec.ofNat 32 x), (d + 1, BitVec.ofNat 32 (x / 2 ^ 32))], flags }

/-- A predicate result. -/
def LaneOut.pred (i : Nat) (b : Bool) (flags : Byte := 0) : LaneOut := { preds := [(i, b)], flags }

/-- Writes a register field's register for a lane: an s register on the uniform path (R35). -/
def Flight.setR (f : Flight) (uni : Bool) (lane r : Nat) (x : Word) : Flight := if uni then f.setS r x else f.setV lane r x

/-- Writes a predicate of the class's own file. -/
def Flight.setPQ (f : Flight) (uni : Bool) (lane i : Nat) (b : Bool) : Flight := if uni then f.setQ i b else f.setP lane i b

/-- Writes one lane's results. -/
def Flight.apply (f : Flight) (uni : Bool) (lane : Nat) (x : LaneOut) : Flight :=
  let f1 := x.regs.foldl (fun f p => f.setR uni lane p.1 p.2) f
  let f2 := x.preds.foldl (fun f p => f.setPQ uni lane p.1 p.2) f1
  f2.raise x.flags

/-- Writes the results of several lanes; every source was read before (R24). -/
def Flight.applyAll (f : Flight) (uni : Bool) (xs : List (Nat × LaneOut)) : Flight :=
  xs.foldl (fun f p => f.apply uni p.1 p.2) f

/-- The flight after a lane-by-lane instruction: each acting lane's results, computed from the old registers, are written. -/
def Flight.laneStep (f : Flight) (g : BitVec 4) (body : Nat → LaneOut) : Flight :=
  f.applyAll f.uniPath ((f.acting g).map (fun l => (l, body l)))

/-- Runs a lane-by-lane instruction and retires it. -/
def lanewise (g : BitVec 4) (body : Flight → Nat → LaneOut) (s : State) : Out :=
  withIssuer s (fun r f => s.retire r (f.laneStep g (body f)))

/-- Runs an instruction that rewrites the whole flight once and retires it. -/
def flightwise (g : BitVec 4) (body : Flight → Flight) (s : State) : Out :=
  withIssuer s (fun r f => s.retire r (if f.actsOnce g then body f else f))

/-- Operand A of a V-format instruction, as a number. -/
def Flight.opA (f : Flight) (o : VFmt) (l : Nat) : Nat := (f.src o.ka l o.a.toNat).toNat

/-- Operand B of a V-format instruction, as a number. -/
def Flight.opB (f : Flight) (o : VFmt) (l : Nat) : Nat := (f.srcB o l).toNat

/-- Operand C of a V-format instruction, as a number. -/
def Flight.opC (f : Flight) (o : VFmt) (l : Nat) : Nat := (f.src o.kc l o.c.toNat).toNat

/-- Operand A as a pair, as a number. -/
def Flight.opA64 (f : Flight) (o : VFmt) (l : Nat) : Nat := (f.src64 o.ka l o.a.toNat).toNat

/-- Operand B as a pair, as a number. -/
def Flight.opB64 (f : Flight) (o : VFmt) (l : Nat) : Nat := (f.srcB64 o l).toNat

/-- Operand C as a pair, as a number. -/
def Flight.opC64 (f : Flight) (o : VFmt) (l : Nat) : Nat := (f.src64 o.kc l o.c.toNat).toNat

/-- Operand A of an I-format instruction, as a number. -/
def Flight.opI (f : Flight) (o : IFmt) (l : Nat) : Nat := (f.src o.ka l o.a.toNat).toNat

end Sys2Proof.Machine
end

