-- ==== Sys2Proof/Machine/Control.lean ====
section
/-! DEFINITION. Branches, EXIT, meeting points and the forming of sub-groups (R73–R78, R126–R133). -/

namespace Sys2Proof.Machine

/-- The threads a branch takes (R74): per thread under p guards, the whole sub-group under a q guard. -/
def Flight.takers (f : Flight) (g : BitVec 4) : Word :=
  if f.uniPath then (if f.guard false g 0 then f.sg else 0) else laneMask (f.acting g)

/-- The target of a relative branch (R40). -/
def Flight.relTarget (f : Flight) (off : BitVec 40) : Dword := f.header + (off.signExtend 64 <<< 3)

/-- A branch to a target: the threads that take it, and what it does once to the uniform registers when it acts. -/
def branchTo (g : BitVec 4) (target : Flight → Dword) (once : Flight → Flight) (s : State) : Out :=
  withIssuer s (fun r f =>
    let m := f.takers g
    s.retire r { (if m = 0 then f else once f) with brMask := m, brTarget := target f })

/-- A branch to a register target: a misaligned one traps at the branch when the guard holds in a thread (R75). INFO is 0: R336 lets it hold
a faulting VA or 0, and the branch does not access its target (log 33). -/
def branchReg (g : BitVec 4) (sreg : Nat) (once : Flight → Flight) (s : State) : Out :=
  withIssuer s (fun r f =>
    let m := f.takers g
    let t := f.s64 sreg
    if m ≠ 0 ∧ bits t.toNat 2 0 ≠ 0 then s.fault r cMisaligned 0 0
    else s.retire r { (if m = 0 then f else once f) with brMask := m, brTarget := t })

/-- A call's record that its target issues next (R76, R127). -/
def Flight.callNext (f : Flight) (t : Dword) : Flight := { f with callTo := some t }

/-- BRA (R73). -/
def execBra (o : BFmt) (s : State) : Out := branchTo o.g (fun f => f.relTarget o.off) id s

/-- BRAX (R73, R75). -/
def execBrax (o : BFmt) (s : State) : Out := branchReg o.g o.s.toNat id s

/-- CALL (R73, R76). -/
def execCall (o : BFmt) (s : State) : Out :=
  branchTo o.g (fun f => f.relTarget o.off)
    (fun f => (f.setS64 o.s.toNat f.nextHeader).callNext (f.relTarget o.off)) s

/-- CALLX (R73, R75, R76). -/
def execCallx (o : BFmt) (s : State) : Out :=
  branchReg o.g o.s.toNat
    (fun f => (f.setS64 (o.s.toNat + 2) f.nextHeader).callNext (f.s64 o.s.toNat)) s

/-- RET (R73). -/
def execRet (o : BFmt) (s : State) : Out := branchReg o.g o.s.toNat id s

/-- LOOP (R74, R77): the decremented count decides. -/
def execLoop (o : BFmt) (s : State) : Out :=
  withIssuer s (fun r f =>
    let m := f.takers o.g
    let n := f.s o.s.toNat - 1
    let f1 := if m = 0 then f else f.setS o.s.toNat n
    s.retire r { f1 with brMask := if n = 0 then 0 else m, brTarget := f.relTarget o.off })

/-- The flight after some of its threads finish (R78). -/
def Flight.exitThreads (f : Flight) (m : Word) : Flight := { f with exited := f.exited ||| m }.release

/-- Every thread has exited. -/
def Flight.allExited (f : Flight) : Bool := f.exited = BitVec.allOnes 32

/-- Traps SORTK_DIVERGENT in every flight of a workgroup that waits at a SORTK (R143). -/
def State.trapSorters (s : State) (w : Nat) : State :=
  (List.range 32).foldl (fun s fl =>
    match s.flight? (.wg w fl) with
    | some f => if f.wait = .sort then s.fault (.wg w fl) cSortk 0 0 else s
    | none => s) s

/-- EXIT (R78): the threads finish; a SORTK that waits for a flight that is now finished traps (R143). -/
def execExit (o : BFmt) (s : State) : Out :=
  withIssuer s (fun r f =>
    let f1 := f.exitThreads (f.takers o.g)
    let s1 := s.retire r f1
    match r with
    | .wg w _ => if f1.allExited then s1.trapSorters w else s1
    | .ctl _ _ => s1)

/-- MEET (R132). -/
def execMeet (o : BFmt) (s : State) : Out :=
  withIssuer s (fun r f =>
    let ls := f.acting o.g
    let f1 := ls.foldl (fun x l => x.setV64 l o.s.toNat (f.mr.getD l 0)) f
    s.retire r { f1 with mr := setLanes f.mr (fun l => ls.contains l) (fun _ => f.relTarget o.off) })

/-- SETMR (R133). -/
def execSetmr (o : VFmt) (s : State) : Out :=
  withIssuer s (fun r f =>
    s.retire r { f with mr := setLanes f.mr (fun l => (f.acting o.g).contains l) (fun l => f.src64 o.ka l o.a.toNat) })

end Sys2Proof.Machine
end

