-- ==== Sys2Proof/Machine/IntOps.lean ====
section
/-! DEFINITION. Integer, logic, shift, compare, predicate and random-number instructions (R52–R72). -/

namespace Sys2Proof.Machine

/-- NOP (R55). -/
def execNop (o : VFmt) (s : State) : Out := lanewise o.g (fun _ _ => {}) s

/-- MOV (R55). -/
def execMov (o : VFmt) (s : State) : Out :=
  lanewise o.g (fun f l =>
    if o.f.getLsbD 0 then .pair o.d.toNat (f.opA64 o l) else .word o.d.toNat (f.opA o l)) s

/-- MOV with lift (R55): the lowest acting lane's value goes to the uniform register or pair. -/
def execMovLift (o : VFmt) (s : State) : Out :=
  withIssuer s (fun r f =>
    s.retire r (match f.acting o.g with
      | [] => f
      | l :: _ => if o.f.getLsbD 0 then f.setS64 o.d.toNat (f.v64 l o.a.toNat) else f.setS o.d.toNat (f.v l o.a.toNat)))

/-- MOVI (R55). -/
def execMovi (o : IFmt) (s : State) : Out :=
  lanewise o.g (fun _ _ =>
    let x := o.imm.toNat
    if o.f3 = 0#3 then .word o.d.toNat x
    else .pair o.d.toNat (if o.f3 = 1#3 then wrap 64 (signed 32 x) else x)) s

/-- The mould of R56 at 32 bits. -/
def addLike (sg sat : Bool) (d : Nat) (x : Int) : LaneOut :=
  let n := narrow sat sg 32 x
  .word d n.1 n.2

/-- The mould of R56 at 64 bits. -/
def addLike64 (sg sat : Bool) (d : Nat) (x : Int) : LaneOut :=
  let n := narrow sat sg 64 x
  .pair d n.1 n.2

/-- IADD (R56). -/
def execIadd (o : VFmt) (s : State) : Out :=
  lanewise o.g (fun f l =>
    let sg := o.f.getLsbD 0
    addLike sg (o.f.getLsbD 1) o.d.toNat (valOf sg 32 (f.opA o l) + valOf sg 32 (f.opB o l))) s

/-- ISUB (R56). -/
def execIsub (o : VFmt) (s : State) : Out :=
  lanewise o.g (fun f l =>
    let sg := o.f.getLsbD 0
    addLike sg (o.f.getLsbD 1) o.d.toNat (valOf sg 32 (f.opA o l) - valOf sg 32 (f.opB o l))) s

/-- IADDI (R56). -/
def execIaddi (o : IFmt) (s : State) : Out :=
  lanewise o.g (fun f l =>
    let sg := o.f3.getLsbD 0
    addLike sg (o.f3.getLsbD 1) o.d.toNat (valOf sg 32 (f.opI o l) + valOf sg 32 o.imm.toNat)) s

/-- IADD64 (R56). -/
def execIadd64 (o : VFmt) (s : State) : Out :=
  lanewise o.g (fun f l =>
    let sg := o.f.getLsbD 0
    addLike64 sg (o.f.getLsbD 1) o.d.toNat (valOf sg 64 (f.opA64 o l) + valOf sg 64 (f.opB64 o l))) s

/-- ISUB64 (R56). -/
def execIsub64 (o : VFmt) (s : State) : Out :=
  lanewise o.g (fun f l =>
    let sg := o.f.getLsbD 0
    addLike64 sg (o.f.getLsbD 1) o.d.toNat (valOf sg 64 (f.opA64 o l) - valOf sg 64 (f.opB64 o l))) s

/-- IADDC (R57). -/
def execIaddc (o : VFmt) (s : State) : Out :=
  lanewise o.g (fun f l =>
    let c : Int := (f.opC o l % 2 : Nat)
    let x : Int := if o.f.getLsbD 0 then (f.opA o l : Int) - f.opB o l - c else (f.opA o l : Int) + f.opB o l + c
    { regs := [(o.d.toNat, BitVec.ofNat 32 (wrap 32 x)), (o.d.toNat + 1, if x < 0 ∨ (2 ^ 32 : Int) ≤ x then 1 else 0)] }) s

/-- IMUL (R58). -/
def execImul (o : VFmt) (s : State) : Out :=
  lanewise o.g (fun f l =>
    let sg := o.f.getLsbD 0
    addLike sg (o.f.getLsbD 1) o.d.toNat (valOf sg 32 (f.opA o l) * valOf sg 32 (f.opB o l))) s

/-- IMULH (R58). -/
def execImulh (o : VFmt) (s : State) : Out :=
  lanewise o.g (fun f l =>
    let sg := o.f.getLsbD 0
    .word o.d.toNat (wrap 64 (valOf sg 32 (f.opA o l) * valOf sg 32 (f.opB o l)) / 2 ^ 32)) s

/-- IMAD (R58). -/
def execImad (o : VFmt) (s : State) : Out :=
  lanewise o.g (fun f l =>
    let sg := o.f.getLsbD 0
    addLike sg (o.f.getLsbD 1) o.d.toNat
      (valOf sg 32 (f.opA o l) * valOf sg 32 (f.opB o l) + valOf sg 32 (f.opC o l))) s

/-- IMADW (R58). -/
def execImadw (o : VFmt) (s : State) : Out :=
  lanewise o.g (fun f l =>
    let sg := o.f.getLsbD 0
    .pair o.d.toNat (wrap 64 (valOf sg 32 (f.opA o l) * valOf sg 32 (f.opB o l) + valOf sg 64 (f.opC64 o l)))) s

/-- Byte i of a number, signed or not (R59). -/
def byteVal (sg : Bool) (x i : Nat) : Int := valOf sg 8 (x / 2 ^ (8 * i) % 256)

/-- IDOT4 (R59). -/
def execIdot4 (o : VFmt) (s : State) : Out :=
  lanewise o.g (fun f l =>
    let sa := o.f.getLsbD 0
    let sb := o.f.getLsbD 1
    let a := f.opA o l
    let b := f.opB o l
    let x := [0, 1, 2, 3].foldl (fun x i => x + byteVal sa a i * byteVal sb b i) (valOf (sa || sb) 32 (f.opC o l))
    addLike (sa || sb) (o.f.getLsbD 2) o.d.toNat x) s

/-- IMINMAX (R60). -/
def execIminmax (o : VFmt) (s : State) : Out :=
  lanewise o.g (fun f l =>
    let sg := o.f.getLsbD 0
    let x := valOf sg 32 (f.opA o l)
    let y := valOf sg 32 (f.opB o l)
    .word o.d.toNat (wrap 32 (if o.f.getLsbD 1 then max x y else min x y))) s

/-- IABSNEG (R60). -/
def execIabsneg (o : VFmt) (s : State) : Out :=
  lanewise o.g (fun f l =>
    let a := signed 32 (f.opA o l)
    addLike true (o.f.getLsbD 1) o.d.toNat (if o.f.getLsbD 0 then -a else a.natAbs)) s

/-- LEA64 (R61). -/
def execLea64 (o : VFmt) (s : State) : Out :=
  lanewise o.g (fun f l =>
    let e := valOf (o.f.getLsbD 3) 32 (f.opB o l)
    .pair o.d.toNat (wrap 64 ((f.opA64 o l : Int) + e * (2 ^ bits o.f.toNat 2 0 : Nat)))) s

/-- A bitwise instruction of two sources (R62). -/
def bitwise (o : VFmt) (h : Word → Word → Word) (s : State) : Out :=
  lanewise o.g (fun f l => { regs := [(o.d.toNat, h (f.src o.ka l o.a.toNat) (f.srcB o l))] }) s

/-- AND (R62). -/
def execAnd (o : VFmt) (s : State) : Out := bitwise o (fun a b => a &&& b) s

/-- OR (R62). -/
def execOr (o : VFmt) (s : State) : Out := bitwise o (fun a b => a ||| b) s

/-- XOR (R62). -/
def execXor (o : VFmt) (s : State) : Out := bitwise o (fun a b => a ^^^ b) s

/-- ANDN (R62). -/
def execAndn (o : VFmt) (s : State) : Out := bitwise o (fun a b => a &&& ~~~b) s

/-- NOT (R62). -/
def execNot (o : VFmt) (s : State) : Out :=
  lanewise o.g (fun f l => { regs := [(o.d.toNat, ~~~(f.src o.ka l o.a.toNat))] }) s

/-- Entry of a function table for three input bits (R63). -/
def tableBit (m : BitVec 12) (a b c : Bool) : Bool :=
  m.getLsbD (4 + (if c then 4 else 0) + (if b then 2 else 0) + (if a then 1 else 0))

/-- TRIO (R62, R63): b is read from the lane itself. -/
def execTrio (o : VFmt) (s : State) : Out :=
  lanewise o.g (fun f l =>
    let a := f.src o.ka l o.a.toNat
    let b := f.src o.kb l o.b.toNat
    let c := f.src o.kc l o.c.toNat
    { regs := [(o.d.toNat, maskOf (fun i => tableBit o.m (a.getLsbD i) (b.getLsbD i) (c.getLsbD i)))] }) s

/-- LOGI (R62). -/
def execLogi (o : IFmt) (s : State) : Out :=
  lanewise o.g (fun f l =>
    let a := f.src o.ka l o.a.toNat
    let x := match o.f3.toNat with
      | 0 => a &&& o.imm
      | 1 => a ||| o.imm
      | 2 => a ^^^ o.imm
      | _ => a &&& ~~~o.imm
    { regs := [(o.d.toNat, x)] }) s

/-- The count of a shift (R64): modulo 32, or whole under clamp. -/
def shiftCount (clamp : Bool) (b : Nat) : Nat := if clamp then b else b % 32

/-- A shift or rotation by a count (R64): 0 shl, 1 shr, 2 shra, 3 rotl. Counts of 32 and more shift everything out. -/
def shiftOp (kind : Nat) (a : Word) (n : Nat) : Word :=
  match kind with
  | 0 => a <<< min n 32
  | 1 => a >>> min n 32
  | 2 => a.sshiftRight (min n 32)
  | _ => a.rotateLeft (n % 32)

/-- A V-format shift. -/
def shiftV (o : VFmt) (kind : Nat) (clamp : Bool) (s : State) : Out :=
  lanewise o.g (fun f l =>
    { regs := [(o.d.toNat, shiftOp kind (f.src o.ka l o.a.toNat) (shiftCount clamp (f.opB o l)))] }) s

/-- SHL (R64). -/
def execShl (o : VFmt) (s : State) : Out := shiftV o 0 (o.f.getLsbD 0) s

/-- SHR (R64). -/
def execShr (o : VFmt) (s : State) : Out := shiftV o 1 (o.f.getLsbD 0) s

/-- SHRA (R64). -/
def execShra (o : VFmt) (s : State) : Out := shiftV o 2 (o.f.getLsbD 0) s

/-- ROTL (R64). -/
def execRotl (o : VFmt) (s : State) : Out := shiftV o 3 false s

/-- SHI (R64). -/
def execShi (o : IFmt) (s : State) : Out :=
  lanewise o.g (fun f l =>
    { regs := [(o.d.toNat, shiftOp o.f3.toNat (f.src o.ka l o.a.toNat) (o.imm.toNat % 32))] }) s

/-- SHF (R65). -/
def execShf (o : VFmt) (s : State) : Out :=
  lanewise o.g (fun f l =>
    let n := if o.f.getLsbD 1 then min (f.opC o l) 32 else f.opC o l % 32
    let w := f.opB o l * 2 ^ 32 + f.opA o l
    .word o.d.toNat (if o.f.getLsbD 0 then w / 2 ^ n else w * 2 ^ n % 2 ^ 64 / 2 ^ 32)) s

/-- Position and width of a bit field from its descriptor, the width cut at bit 31 (R66). -/
def fieldOf (d : Nat) : Nat × Nat := (bits d 4 0, min (bits d 13 8) (32 - bits d 4 0))

/-- BFX (R66). -/
def execBfx (o : VFmt) (s : State) : Out :=
  lanewise o.g (fun f l =>
    let (pos, w) := fieldOf (f.opB o l)
    let x := f.opA o l / 2 ^ pos % 2 ^ w
    .word o.d.toNat (if w = 0 then 0 else if o.f.getLsbD 0 then wrap 32 (signed w x) else x)) s

/-- BFI (R66). -/
def execBfi (o : VFmt) (s : State) : Out :=
  lanewise o.g (fun f l =>
    let (pos, w) := fieldOf (f.opC o l)
    let mask := BitVec.ofNat 32 ((2 ^ w - 1) * 2 ^ pos)
    let a := f.src o.ka l o.a.toNat
    { regs := [(o.d.toNat, (a &&& ~~~mask) ||| (BitVec.ofNat 32 (f.opB o l * 2 ^ pos) &&& mask))] }) s

/-- POPC (R67). -/
def execPopc (o : VFmt) (s : State) : Out := lanewise o.g (fun f l => .word o.d.toNat (popCount 32 (f.opA o l))) s

/-- Zeros above the highest 1 bit of a 32-bit number (R67). -/
def clz32 (x : Nat) : Nat := if x = 0 then 32 else 31 - Nat.log2 x

/-- CLZ (R67). -/
def execClz (o : VFmt) (s : State) : Out := lanewise o.g (fun f l => .word o.d.toNat (clz32 (f.opA o l))) s

/-- BREV (R67). -/
def execBrev (o : VFmt) (s : State) : Out := lanewise o.g (fun f l => .word o.d.toNat (revBits 32 (f.opA o l))) s

/-- FFS (R67). -/
def execFfs (o : VFmt) (s : State) : Out :=
  lanewise o.g (fun f l => .word o.d.toNat ((lowestBit 32 (f.opA o l)).getD 0xFFFFFFFF)) s

/-- ICMP (R68). -/
def execIcmp (o : VFmt) (s : State) : Out :=
  lanewise o.g (fun f l =>
    let sg := o.f.getLsbD 3
    .pred o.d.toNat (intCond (bits o.f.toNat 2 0) (valOf sg 32 (f.opA o l)) (valOf sg 32 (f.opB o l)))) s

/-- ICMP64 (R68). -/
def execIcmp64 (o : VFmt) (s : State) : Out :=
  lanewise o.g (fun f l =>
    let sg := o.f.getLsbD 3
    .pred o.d.toNat (intCond (bits o.f.toNat 2 0) (valOf sg 64 (f.opA64 o l)) (valOf sg 64 (f.opB64 o l)))) s

/-- ICMPI (R68). -/
def execIcmpi (o : IFmt) (s : State) : Out :=
  lanewise o.g (fun f l =>
    let sg := o.d.getLsbD 3
    .pred (bits o.d.toNat 2 0) (intCond o.f3.toNat (valOf sg 32 (f.opI o l)) (valOf sg 32 o.imm.toNat))) s

/-- SEL (R69). -/
def execSel (o : VFmt) (s : State) : Out :=
  lanewise o.g (fun f l =>
    { regs := [(o.d.toNat, if f.pq l o.c.toNat then f.src o.ka l o.a.toNat else f.srcB o l)] }) s

/-- PLOP (R69). -/
def execPlop (o : VFmt) (s : State) : Out :=
  lanewise o.g (fun f l =>
    .pred o.d.toNat (tableBit o.m (f.pq l o.a.toNat) (f.pq l o.b.toNat) (f.pq l o.c.toNat))) s

/-- PMOV (R70). -/
def execPmov (o : VFmt) (s : State) : Out :=
  lanewise o.g (fun f l =>
    if o.f.getLsbD 0 then
      { preds := (List.range 7).map (fun i => (i, (f.src o.ka l o.a.toNat).getLsbD i)) }
    else .word o.d.toNat ((List.range 7).foldl (fun x i => x + (if f.pq l i then 2 ^ i else 0)) 0)) s

/-- The launch's RNG seed and LAUNCHID; 0 for a control program (R71, R169). -/
def State.seedOf (s : State) (r : FlightRef) : Nat × Nat :=
  ((s.launchOf r).map (fun l => (fieldAt l.record 0x18 8, l.id.toNat))).getD (0, 0)

/-- RNG (R71): Philox on (TID, counter, LAUNCHID) in each acting lane; the counter advances once when it acts. -/
def execRng (o : VFmt) (s : State) : Out :=
  withIssuer s (fun r f =>
    let (seed, id) := s.seedOf r
    let c := f.rngctr.toNat
    let f1 := f.laneStep o.g (fun l =>
      let xs := philox (f.tids.getD l 0).toNat (c % 2 ^ 32) (c / 2 ^ 32) id (seed % 2 ^ 32) (seed / 2 ^ 32)
      { regs := (List.range 4).map (fun i => (o.d.toNat + i, xs.getD i 0)) })
    s.retire r (if f.actsOnce o.g then { f1 with rngctr := f.rngctr + 1 } else f1))

end Sys2Proof.Machine
end

