-- ==== Sys2Proof/Machine/Float.lean ====
section
/-! DEFINITION. Number formats and rounding (R80–R100): exact values, the grid of each format, RoundToFormat, and the sums of
exact products that the arithmetic instructions round once. -/

namespace Sys2Proof.Machine

/-- A real number: sign, and a magnitude equal to m × 2^e or, when `st` is set, strictly between m × 2^e and
(m + 1) × 2^e. A zero keeps its sign. -/
structure Xr where
  neg : Bool
  m : Nat
  e : Int
  st : Bool := false
  deriving DecidableEq, Repr, Inhabited

/-- The formats a value can be rounded into (R80, R87, R88). -/
inductive Fmt where
  | fp64 | fp32 | fp16 | bf16 | e4m3 | e5m2 | e2m3 | e3m2
  | q4int | q4e2m1 | q4pow
  | int8 | int32 | nat32
  deriving DecidableEq, Repr, Inhabited

/-- A value a code stands for (R81, R83). -/
inductive FVal where
  | nan (neg sig : Bool)
  | inf (neg : Bool)
  | fin (x : Xr)
  deriving DecidableEq, Repr, Inhabited

/-- Exponent bits, fraction bits and bias of a floating format; a power-of-two element is one of no fraction bits (R82). -/
def Fmt.params : Fmt → Nat × Nat × Int
  | .fp64 => (11, 52, 1023)
  | .fp32 => (8, 23, 127)
  | .fp16 => (5, 10, 15)
  | .bf16 => (8, 7, 127)
  | .e4m3 => (4, 3, 7)
  | .e5m2 => (5, 2, 15)
  | .e2m3 => (2, 3, 1)
  | .e3m2 => (3, 2, 3)
  | .q4e2m1 => (2, 1, 1)
  | .q4pow => (3, 0, 7)
  | _ => (0, 0, 0)

/-- Width of a code in bits. -/
def Fmt.width : Fmt → Nat
  | .fp64 => 64
  | .fp32 | .int32 | .nat32 => 32
  | .fp16 | .bf16 => 16
  | .e4m3 | .e5m2 | .int8 => 8
  | .e2m3 | .e3m2 => 6
  | .q4int | .q4e2m1 | .q4pow => 4

/-- The formats with infinities and signalling NaNs (R83). -/
def Fmt.ieee : Fmt → Bool
  | .fp64 | .fp32 | .fp16 | .bf16 => true
  | _ => false

/-- The formats whose grid is the integers (R95). -/
def Fmt.isInt : Fmt → Bool
  | .q4int | .int8 | .int32 | .nat32 => true
  | _ => false

/-- The test "f is floating" of R95. -/
def Fmt.isFloat (f : Fmt) : Bool := !f.isInt && f != .q4pow

/-- Fraction bits. -/
def Fmt.frac (f : Fmt) : Nat := f.params.2.1

/-- Smallest exponent of a normal value (R81); the least power of the power-of-two grid (R95). -/
def Fmt.emin (f : Fmt) : Int := if f = .q4pow then -6 else 1 - f.params.2.2

/-- The largest finite code of one sign, without its sign bit (R82, R88). -/
def Fmt.maxCode : Fmt → Nat
  | .fp64 => 0x7FEFFFFFFFFFFFFF
  | .fp32 => 0x7F7FFFFF
  | .fp16 => 0x7BFF
  | .bf16 => 0x7F7F
  | .e4m3 => 0x7E
  | .e5m2 => 0x7B
  | .e2m3 | .e3m2 => 0x1F
  | .q4e2m1 | .q4pow | .q4int => 7
  | .int8 => 127
  | .int32 => 0x7FFFFFFF
  | .nat32 => 0xFFFFFFFF

/-- The canonical NaN of a format that has one (R83). -/
def Fmt.nanCode : Fmt → Nat
  | .fp64 => 0x7FF8000000000000
  | .fp32 => 0x7FC00000
  | .fp16 => 0x7E00
  | .bf16 => 0x7FC0
  | .e4m3 => 0x7F
  | .e5m2 => 0x7E
  | _ => 0

/-- The code of +∞ of a format that has one (R83). -/
def Fmt.infCode (f : Fmt) : Nat := if f.ieee || f == .e5m2 then (2 ^ f.params.1 - 1) * 2 ^ f.frac else 0

/-- The sign bit put on a code of a signed-magnitude format. -/
def Fmt.signed (f : Fmt) (neg : Bool) (code : Nat) : Nat := if neg then code + 2 ^ (f.width - 1) else code

/-- The value of a code of a floating, power-of-two or integer format (R81, R83, R86, R88). -/
def Fmt.decode (f : Fmt) (code : Nat) : FVal :=
  if f.isInt then
    let v : Int := if f = .nat32 then (code % 2 ^ 32 : Nat) else Machine.signed f.width code
    .fin { neg := decide (v < 0), m := v.natAbs, e := 0 }
  else
    let (x, mb, bias) := f.params
    let neg := bitAt code (f.width - 1)
    let e := bits code (mb + x - 1) mb
    let m := code % 2 ^ mb
    if f = .q4pow then .fin { neg, m := if e = 0 then 0 else 1, e := (e : Int) - 7 }
    else if (f.ieee || f = .e5m2) && e == 2 ^ x - 1 then
      if m = 0 then .inf neg else .nan neg (f.ieee && !bitAt code (mb - 1))
    else if f = .e4m3 && e == 15 && m == 7 then .nan neg false
    else if e = 0 then .fin { neg, m, e := 1 - bias - mb }
    else .fin { neg, m := 2 ^ mb + m, e := (e : Int) - bias - mb }

/-- The exact magnitude m × 2^e as a comparison: a × 2^i ≤ b × 2^j. -/
def magLe (a : Nat) (i : Int) (b : Nat) (j : Int) : Bool :=
  let k := min i j
  decide (a * 2 ^ (i - k).toNat ≤ b * 2 ^ (j - k).toNat)

/-- Largest finite magnitude of a sign (MaxMag of R95), as m × 2^e. -/
def Fmt.maxMag (f : Fmt) (neg : Bool) : Nat × Int :=
  match f with
  | .int8 => (if neg then 128 else 127, 0)
  | .int32 => (if neg then 2 ^ 31 else 2 ^ 31 - 1, 0)
  | .nat32 => (if neg then 0 else 2 ^ 32 - 1, 0)
  | .q4int => (if neg then 8 else 7, 0)
  | _ =>
    match f.decode f.maxCode with
    | .fin x => (x.m, x.e)
    | _ => (0, 0)

/-- The code of the largest finite magnitude of a sign. -/
def Fmt.maxOf (f : Fmt) (neg : Bool) : Nat :=
  match f with
  | .int8 => if neg then 0x80 else 0x7F
  | .int32 => if neg then 0x80000000 else 0x7FFFFFFF
  | .nat32 => if neg then 0 else 0xFFFFFFFF
  | .q4int => if neg then 8 else 7
  | _ => f.signed neg f.maxCode

/-- The exponent of the grid's spacing at a magnitude (R95). -/
def Fmt.quantum (f : Fmt) (x : Xr) : Int :=
  if f.isInt then 0 else max ((Nat.log2 x.m : Int) + x.e) f.emin - f.frac

/-- Encode of R95: the code of the grid magnitude y × 2^q with a sign. -/
def Fmt.encode (f : Fmt) (neg : Bool) (y : Nat) (q : Int) : Nat :=
  if f.isInt then wrap f.width (if neg then -(y : Int) else y)
  else if y = 0 then f.signed neg 0
  else if f = .q4pow then f.signed neg ((Nat.log2 y : Int) + q + 7).toNat
  else
    let (_, mb, bias) := f.params
    let ex := (Nat.log2 y : Int) + q
    if ex < f.emin then f.signed neg y
    else
      let mant := if Nat.log2 y ≤ mb then y * 2 ^ (mb - Nat.log2 y) else y / 2 ^ (Nat.log2 y - mb)
      f.signed neg ((ex + bias).toNat * 2 ^ mb + (mant - 2 ^ mb))

/-- Rounding modes as encoded (R44): 0 rn, 1 rz, 2 ru, 3 rd, 4 rs. -/
def roundsUp (rm : Nat) (neg lsb : Bool) (rem k : Nat) (st : Bool) (draw : Nat) : Bool :=
  match rm with
  | 0 => decide (2 ^ k < 2 * rem) || (2 * rem == 2 ^ k && k != 0 && (st || lsb))
  | 1 => false
  | 2 => !neg
  | 3 => neg
  | _ => decide (2 ^ 16 * 2 ^ k ≤ 2 ^ 16 * rem + draw * 2 ^ k)

/-- The overflow result and flags (R97). -/
def Fmt.overflow (f : Fmt) (neg : Bool) (rm : Nat) (sat : Bool) : Nat × Byte :=
  if f.ieee || (f == .e5m2 && !sat) then
    let inf := f.signed neg f.infCode
    let code := match rm with
      | 1 => f.maxOf neg
      | 2 => if neg then f.maxOf neg else inf
      | 3 => if neg then inf else f.maxOf neg
      | _ => inf
    (code, fOF ||| fNX)
  else (f.maxOf neg, fOF ||| fNX ||| fSAT)

/-- RoundToFormat of R95 for a finite value, R100 for zeros. -/
def Fmt.round (f : Fmt) (rm : Nat) (sat : Bool) (draw : Nat) (x : Xr) : Nat × Byte :=
  if x.m = 0 then (f.encode (x.neg && !f.isInt) 0 0, 0)
  else
    let q := f.quantum x
    let k := (q - x.e).toNat
    let m := x.m * 2 ^ (x.e - q).toNat
    let lo := m / 2 ^ k
    let rem := m % 2 ^ k
    let inexact := rem != 0 || x.st
    let lsb := if f = .q4pow then lo != 0 && (q + 7) % 2 != 0 else lo % 2 == 1
    let up := inexact && roundsUp rm x.neg lsb rem k x.st draw
    let y := if up then lo + 1 else lo
    let tiny := f.isFloat && decide ((Nat.log2 x.m : Int) + x.e < f.emin)
    let flags := if inexact then (if tiny then fNX ||| fUF else fNX) else 0
    let mx := f.maxMag x.neg
    if magLe y q mx.1 mx.2 then (f.encode (x.neg && !(f.isInt && y == 0)) y q, flags)
    else
      let o := f.overflow x.neg rm sat
      (o.1, o.2 ||| flags)

/-- A NaN or an infinity delivered into a format (R99), without the IV of a signalling NaN. -/
def Fmt.special (f : Fmt) (sat nan neg : Bool) : Nat × Byte :=
  match f with
  | .fp64 | .fp32 | .fp16 | .bf16 => if nan then (f.nanCode, 0) else (f.signed neg f.infCode, 0)
  | .e5m2 =>
    if nan then (f.nanCode, 0) else if sat then (f.maxOf neg, fSAT) else (f.signed neg f.infCode, 0)
  | .e4m3 => if nan then (f.nanCode, 0) else (f.maxOf neg, fSAT)
  | _ => (f.maxOf neg, if nan then fNANF else fSAT)

/-- Any value rounded into a format (R95–R100). -/
def Fmt.convert (f : Fmt) (rm : Nat) (sat : Bool) (draw : Nat) (v : FVal) : Nat × Byte :=
  match v with
  | .nan neg sig =>
    let c := f.special sat true neg
    (c.1, c.2 ||| flagIf sig fIV)
  | .inf neg => f.special sat false neg
  | .fin x => f.round rm sat draw x

/-- The format of a format code, Q4 and reserved codes apart (R80). -/
def fmtOfCode (c : Nat) : Fmt :=
  match c with
  | 0 => .fp32
  | 1 => .fp16
  | 2 => .bf16
  | 3 => .e4m3
  | 4 => .e5m2
  | 5 => .e2m3
  | 6 => .e3m2
  | 8 => .int8
  | 9 => .fp64
  | 10 => .int32
  | _ => .nat32

/-! ### Exact arithmetic -/

/-- A value is a NaN. -/
def FVal.isNan : FVal → Bool
  | .nan _ _ => true
  | _ => false

/-- A value is a signalling NaN. -/
def FVal.isSig : FVal → Bool
  | .nan _ sig => sig
  | _ => false

/-- A value is an infinity. -/
def FVal.isInf : FVal → Bool
  | .inf _ => true
  | _ => false

/-- A value is an infinity of a sign. -/
def FVal.isInfOf (neg : Bool) : FVal → Bool
  | .inf n => n == neg
  | _ => false

/-- A value is a zero. -/
def FVal.isZero : FVal → Bool
  | .fin x => x.m == 0
  | _ => false

/-- The sign of a value. -/
def FVal.sign : FVal → Bool
  | .nan n _ => n
  | .inf n => n
  | .fin x => x.neg

/-- A value with its sign inverted. -/
def FVal.negate : FVal → FVal
  | .nan n g => .nan (!n) g
  | .inf n => .inf (!n)
  | .fin x => .fin { x with neg := !x.neg }

/-- The exact product of two values; a zero times an infinity is a NaN, which the caller finds invalid (R102). -/
def FVal.times (a b : FVal) : FVal :=
  match a, b with
  | .nan n g, _ => .nan n g
  | _, .nan n g => .nan n g
  | .inf n, .inf k => .inf (n != k)
  | .inf n, .fin y => if y.m = 0 then .nan false false else .inf (n != y.neg)
  | .fin x, .inf k => if x.m = 0 then .nan false false else .inf (x.neg != k)
  | .fin x, .fin y => .fin { neg := x.neg != y.neg, m := x.m * y.m, e := x.e + y.e }

/-- A zero times an infinity (R102). -/
def FVal.zeroTimesInf (a b : FVal) : Bool := (a.isZero && b.isInf) || (a.isInf && b.isZero)

/-- A signed value of an exact number at an exponent not above its own. -/
def Xr.scaled (x : Xr) (e : Int) : Int :=
  let v : Int := x.m * 2 ^ (x.e - e).toNat
  if x.neg then -v else v

/-- The exact sum of finite terms. Its zero takes the sign of R103. -/
def xsum (rm : Nat) (xs : List Xr) : Xr :=
  let e := xs.foldl (fun e x => min e x.e) ((xs.head?.map (·.e)).getD 0)
  let v : Int := xs.foldl (fun v x => v + x.scaled e) 0
  if v = 0 then
    let allNeg := !xs.isEmpty && xs.all (fun x => x.m == 0 && x.neg)
    let allPos := xs.all (fun x => x.m == 0 && !x.neg)
    { neg := if allNeg then true else if allPos then false else rm == 3, m := 0, e := 0 }
  else { neg := decide (v < 0), m := v.natAbs, e }

/-- The finite values of a list. -/
def finOf (vs : List FVal) : List Xr := vs.filterMap (fun v => match v with
  | .fin x => some x
  | _ => none)

/-- The sum of exact products and addends, rounded once into a format (R101–R103, R106). -/
def fused (f : Fmt) (rm draw : Nat) (prods : List (FVal × FVal)) (adds : List FVal) : Nat × Byte :=
  let operands := prods.flatMap (fun p => [p.1, p.2]) ++ adds
  let terms := prods.map (fun p => p.1.times p.2) ++ adds
  let invalid := operands.any (·.isSig) || prods.any (fun p => p.1.zeroTimesInf p.2) ||
    (terms.any (·.isInfOf true) && terms.any (·.isInfOf false))
  if invalid then (f.nanCode, fIV)
  else if terms.any (·.isNan) then (f.nanCode, 0)
  else if terms.any (·.isInf) then (f.signed (terms.any (·.isInfOf true)) f.infCode, 0)
  else f.round rm false draw (xsum rm (finOf terms))

/-- Order of two finite values or infinities: −1, 0 or 1, with −0 equal to +0. -/
def FVal.cmp (a b : FVal) : Int :=
  match a, b with
  | .inf n, .inf k => if n = k then 0 else if n then -1 else 1
  | .inf n, _ => if n then -1 else 1
  | _, .inf k => if k then 1 else -1
  | .fin x, .fin y =>
    let e := min x.e y.e
    let d := x.scaled e - y.scaled e
    if d < 0 then -1 else if d = 0 then 0 else 1
  | _, _ => 0

/-- A float condition and the flag it raises (R110). -/
def floatCond (c : Nat) (a b : FVal) : Bool × Byte :=
  let nan := a.isNan || b.isNan
  let sig := a.isSig || b.isSig
  let k := a.cmp b
  let ordered := decide (2 ≤ c) && decide (c ≤ 5)
  let res := match c with
    | 0 => !nan && k == 0
    | 1 => nan || k != 0
    | 2 => !nan && decide (k < 0)
    | 3 => !nan && decide (k ≤ 0)
    | 4 => !nan && decide (0 < k)
    | 5 => !nan && decide (0 ≤ k)
    | 6 => nan
    | _ => !nan
  (res, flagIf (sig || (ordered && nan)) fIV)

/-- minimumNumber and maximumNumber on codes, −0 below +0 (R107). -/
def minMaxNum (f : Fmt) (isMax : Bool) (a b : Nat) : Nat × Byte :=
  let x := f.decode a
  let y := f.decode b
  let flags := flagIf (x.isSig || y.isSig) fIV
  let code :=
    if x.isNan && y.isNan then f.nanCode
    else if x.isNan then b
    else if y.isNan then a
    else
      let k := x.cmp y
      let aBelow := decide (k < 0) || (k == 0 && x.sign)
      if aBelow != isMax then a else b
  (code, flags)

/-! ### Q4 codes and codebooks (R87–R90, R98, R99) -/

/-- The power of two a scale byte stands for; none for the reserved exponent, whose scale is NaN (R87, R89). -/
def scaleExp (sb : Byte) : Option Int := if bits sb.toNat 5 0 = 63 then none else some ((bits sb.toNat 5 0 : Int) - 31)

/-- A value times a power of two. -/
def FVal.scale (v : FVal) (k : Int) : FVal :=
  match v with
  | .fin x => .fin { x with e := x.e + k }
  | v => v

/-- The element value of a narrow format before its scale (R81, R88). -/
def elemVal (fmt ty : Nat) (cb : List Half) (code : Nat) : FVal :=
  if fmt = 7 then
    match ty with
    | 0 => Fmt.q4int.decode code
    | 1 => Fmt.q4e2m1.decode code
    | 2 => Fmt.q4pow.decode code
    | _ => Fmt.bf16.decode (cb.getD code 0).toNat
  else (fmtOfCode fmt).decode code

/-- The value of a narrow element under a scale byte (R88–R90): a scale of NaN makes it NaN. -/
def scaledVal (fmt : Nat) (sb : Byte) (cb : List Half) (code : Nat) : FVal :=
  let ty := bits sb.toNat 7 6
  if fmt ≠ 7 ∧ ty ≠ 1 then .nan false false
  else match scaleExp sb with
    | none => .nan false false
    | some k => (elemVal fmt ty cb code).scale k

/-- The distance of two finite values, as m × 2^e. -/
def xdist (x y : Xr) : Nat × Int :=
  let e := min x.e y.e
  ((x.scaled e - y.scaled e).natAbs, e)

/-- The first entry of a list that is at least as good as every other. -/
def firstBest {α : Type} (better : α → α → Bool) (xs : List α) : Option α :=
  xs.foldl (fun b x => match b with
    | none => some x
    | some y => if better x y then some x else some y) none

/-- The entries of a codebook with their indices. -/
def cbEntries (cb : List Half) : List (Nat × FVal) :=
  (List.range 16).map (fun i => (i, Fmt.bf16.decode (cb.getD i 0).toNat))

/-- The finite entries of a codebook, scaled. -/
def cbFinite (cb : List Half) (k : Int) : List (Nat × Xr) :=
  (cbEntries cb).filterMap (fun p => match p.2 with
    | .fin x => some (p.1, { x with e := x.e + k })
    | _ => none)

/-- The choice R99 makes in a codebook for a NaN of a sign. -/
def cbForNan (cb : List Half) (neg : Bool) : Nat :=
  let bigger := fun (x y : Nat × Xr) => !magLe x.2.m x.2.e y.2.m y.2.e
  let fins := cbFinite cb 0
  let infs := (cbEntries cb).filter (fun p => p.2.isInf)
  match firstBest bigger (fins.filter (fun p => p.2.neg == neg)), firstBest bigger fins,
      infs.find? (fun p => p.2.sign == neg), infs.head? with
  | some p, _, _, _ => p.1
  | none, some p, _, _ => p.1
  | none, none, some p, _ => p.1
  | none, none, none, some p => p.1
  | _, _, _, _ => 0

/-- The entry a value takes once the nearest one is known: of several zeros the first that has the value's sign, if one has (R98, R100). -/
def cbSigned (es : List (Nat × Xr)) (neg : Bool) (p : Nat × Xr) : Nat :=
  if p.2.m ≠ 0 then p.1 else ((es.find? (fun q => q.2.m == 0 && q.2.neg == neg)).getD p).1

/-- Encoding a value into a codebook element under a scale 2^k (R98–R100): index and flags. -/
def cbEncode (cb : List Half) (k : Int) (v : FVal) : Nat × Byte :=
  let infs := (cbEntries cb).filter (fun p => p.2.isInf)
  match v with
  | .nan neg sig => (cbForNan cb neg, fNANF ||| flagIf sig fIV)
  | .inf neg =>
    match infs.find? (fun p => p.2.sign == neg) with
    | some p => (p.1, 0)
    | none => (cbForNan cb neg, fSAT)
  | .fin x =>
    let closer := fun (p q : Nat × Xr) =>
      let a := xdist x p.2
      let b := xdist x q.2
      !magLe b.1 b.2 a.1 a.2
    match firstBest closer (cbFinite cb k) with
    | some p => (cbSigned (cbFinite cb k) x.neg p, flagIf ((xdist x p.2).1 != 0) fNX)
    | none =>
      match infs.find? (fun p => p.2.sign == x.neg), infs.head? with
      | some p, _ => (p.1, fNX)
      | none, some p => (p.1, fNX)
      | none, none => (0, fNX)

/-- Encoding a value into a narrow format under a scale byte (R89, R95–R99). -/
def narrowEncode (fmt : Nat) (sb : Byte) (cb : List Half) (rm : Nat) (sat : Bool) (draw : Nat) (v : FVal) : Nat × Byte :=
  let ty := bits sb.toNat 7 6
  let k := if fmt ≠ 7 ∧ ty ≠ 1 then none else scaleExp sb
  let q := match k, v with
    | none, .nan n g => .nan n g
    | none, v => .nan v.sign false
    | some k, v => v.scale (-k)
  if fmt = 7 then
    match ty with
    | 0 => Fmt.q4int.convert rm sat draw q
    | 1 => Fmt.q4e2m1.convert rm sat draw q
    | 2 => Fmt.q4pow.convert rm sat draw q
    | _ =>
      match k with
      | none => cbEncode cb 0 q
      | some k => cbEncode cb k v
  else (fmtOfCode fmt).convert rm sat draw q

/-- A finite value rounded to an integer on the unbounded grid: the integer and whether it differs (R112, R118). -/
def roundInt (rm draw : Nat) (x : Xr) : Int × Bool :=
  let k := (-x.e).toNat
  let m := x.m * 2 ^ x.e.toNat
  let lo := m / 2 ^ k
  let rem := m % 2 ^ k
  let up := rem != 0 && roundsUp rm x.neg (lo % 2 == 1) rem k false draw
  let y : Int := (if up then lo + 1 else lo : Nat)
  (if x.neg then -y else y, rem != 0)

end Sys2Proof.Machine
end

