-- ==== Sys2Proof/Machine/Special.lean ====
section
/-! DEFINITION. The special functions of R117 as real numbers bracketed to 400 binary places, far closer than any FP32
rounding boundary (log 10). -/

namespace Sys2Proof.Machine

/-- Binary places of the fixed-point work. -/
def wp : Nat := 400

/-- One in fixed point. -/
def fxOne : Nat := 2 ^ wp

/-- Integer square root, bit by bit from bit n down. -/
def isqrtGo : Nat → Nat → Nat → Nat
  | 0, _, r => r
  | n + 1, x, r =>
    let c := r + 2 ^ n
    isqrtGo n x (if c * c ≤ x then c else r)

/-- Floor of the square root. -/
def isqrt (x : Nat) : Nat := isqrtGo (Nat.log2 x / 2 + 1) x 0

/-- Terms of an alternating or plain power series: term(k+1) = term(k) × num / 2^wp / den(k). -/
def seriesGo (alt : Bool) (num : Nat) (den : Nat → Nat) : Nat → Nat → Nat → Int → Int
  | 0, _, _, acc => acc
  | n + 1, k, t, acc =>
    let acc' := if alt && k % 2 == 1 then acc - t else acc + t
    seriesGo alt num den n (k + 1) (t * num / fxOne / den k) acc'

/-- e^x for x in [0, 1) in fixed point. -/
def fxExp (x : Nat) : Nat := (seriesGo false x (fun k => k + 1) 100 0 fxOne 0).toNat

/-- sin and cos of θ in [0, 1) in fixed point. -/
def fxSin (t : Nat) : Nat := (seriesGo true (t * t / fxOne) (fun k => (2 * k + 2) * (2 * k + 3)) 60 0 t 0).toNat
def fxCos (t : Nat) : Nat := (seriesGo true (t * t / fxOne) (fun k => (2 * k + 1) * (2 * k + 2)) 60 0 fxOne 0).toNat

/-- Sum of y^(2k+1)/(2k+1), with alternating signs or not: atan y or artanh y. -/
def atanGo (alt : Bool) (y2 : Nat) : Nat → Nat → Nat → Int → Int
  | 0, _, _, acc => acc
  | n + 1, k, t, acc =>
    let u := t / (2 * k + 1)
    atanGo alt y2 n (k + 1) (t * y2 / fxOne) (if alt && k % 2 == 1 then acc - u else acc + u)

/-- artanh y for y in [0, 1/3]. -/
def fxArtanh (y : Nat) : Nat := (atanGo false (y * y / fxOne) 140 0 y 0).toNat

/-- atan of 1/n. -/
def fxAtanInv (n : Nat) : Nat := (atanGo true (fxOne / (n * n)) 100 0 (fxOne / n) 0).toNat

/-- π in fixed point (Machin). -/
def fxPi : Nat := 16 * fxAtanInv 5 - 4 * fxAtanInv 239

/-- ln 2 in fixed point. -/
def fxLn2 : Nat := 2 * fxArtanh (fxOne / 3)

/-- An irrational positive value from its fixed-point approximation. -/
def Xr.approx (neg : Bool) (v : Nat) : Xr := { neg, m := v, e := -(wp : Int), st := true }

/-- 1/x for a nonzero x. -/
def xRcp (x : Xr) : Xr :=
  { neg := x.neg, m := fxOne / x.m, e := -(wp : Int) - x.e, st := fxOne % x.m != 0 }

/-- √x for x > 0. -/
def xSqrt (x : Xr) : Xr :=
  let m := if x.e % 2 = 0 then x.m else 2 * x.m
  let e := if x.e % 2 = 0 then x.e else x.e - 1
  let n := m * 2 ^ (2 * wp)
  let r := isqrt n
  { neg := false, m := r, e := e / 2 - (wp : Int), st := r * r != n }

/-- 1/√x for x > 0. -/
def xRsq (x : Xr) : Xr :=
  let m := if x.e % 2 = 0 then x.m else 2 * x.m
  let e := if x.e % 2 = 0 then x.e else x.e - 1
  let n := 2 ^ (2 * wp)
  let r := isqrt (n / m)
  { neg := false, m := r, e := -(e / 2) - (wp : Int), st := r * r * m != n }

/-- The magnitude of an exact value in fixed point, for exponents down to −wp. -/
def Xr.fixed (x : Xr) : Nat := x.m * 2 ^ (x.e + wp).toNat

/-- 2^x. Beyond ±256 the exponent is cut there, far outside FP32. -/
def xExp2 (x : Xr) : Xr :=
  let big := !magLe x.m x.e 256 0
  if big then { neg := false, m := 1, e := if x.neg then -256 else 256, st := false }
  else
    let v : Int := if x.neg then -(x.fixed : Int) else x.fixed
    let n := v / (fxOne : Int)
    let f := (v % (fxOne : Int)).toNat
    if f = 0 then { neg := false, m := 1, e := n, st := false }
    else { neg := false, m := fxExp (f * fxLn2 / fxOne), e := n - wp, st := true }

/-- log2 x for x > 0. -/
def xLog2 (x : Xr) : Xr :=
  let k := Nat.log2 x.m
  let ex := (k : Int) + x.e
  if x.m = 2 ^ k then { neg := decide (ex < 0), m := ex.natAbs, e := 0 }
  else
    let z := x.m * 2 ^ (wp - k)
    let y := (z - fxOne) * fxOne / (z + fxOne)
    let v : Int := ex * fxOne + (2 * fxArtanh y * fxOne / fxLn2 : Nat)
    .approx (decide (v < 0)) v.natAbs

/-- The nearest half turn to |x| modulo 2 and the signed rest, |rest| ≤ 1/4: (index of the half, rest). -/
def halfTurns (x : Xr) : Nat × Int :=
  let u := x.fixed % (2 * fxOne)
  let h := (u + fxOne / 4) / (fxOne / 2)
  (h % 4, (u : Int) - h * (fxOne / 2 : Nat))

/-- sin(πr) or cos(πr) for a rest r, as a signed fixed-point value. -/
def sinRest (r : Int) : Int :=
  let v : Int := fxSin (r.natAbs * fxPi / fxOne)
  if r < 0 then -v else v

/-- cos of the rest. -/
def cosRest (r : Int) : Int := fxCos (r.natAbs * fxPi / fxOne)

/-- sin or cos of π|x| from its half turn: exact at multiples of 1/2. -/
def trigOf (h : Nat) (r : Int) : Xr :=
  if r = 0 then { neg := h == 3, m := if h % 2 = 0 then 0 else 1, e := 0 }
  else
    let v := match h with
      | 0 => sinRest r
      | 1 => cosRest r
      | 2 => -sinRest r
      | _ => -cosRest r
    .approx (decide (v < 0)) v.natAbs

/-- sin(πx): odd, and a zero has the sign of x. -/
def xSinPi (x : Xr) : Xr :=
  let t := halfTurns x
  let y := trigOf t.1 t.2
  if y.m = 0 then { neg := x.neg, m := 0, e := 0 } else { y with neg := y.neg != x.neg }

/-- cos(πx): even, and a zero is +0. -/
def xCosPi (x : Xr) : Xr :=
  let t := halfTurns x
  let y := trigOf ((t.1 + 1) % 4) t.2
  if y.m = 0 then { neg := false, m := 0, e := 0 } else y

/-- tanh x; beyond 64 the argument is cut there, where the result is closer to ±1 than any FP32 value. -/
def xTanh (x : Xr) : Xr :=
  let a := if magLe x.m x.e 64 0 then x.fixed else 64 * fxOne
  let y := 2 * a
  let k := y / fxLn2
  let r := y - k * fxLn2
  let ex := fxOne * fxOne / fxExp r / 2 ^ k
  .approx x.neg ((fxOne - ex) * fxOne / (fxOne + ex))

/-- A special function applied to an FP32 value, with its special operands (R117): code and flags. -/
def specialFn (fn rm : Nat) (a : Nat) : Nat × Byte :=
  let f := Fmt.fp32
  let one := 0x3F800000
  let nan := f.nanCode
  let inf := fun n => f.signed n f.infCode
  let fin := fun x => f.round rm false 0 x
  match f.decode a with
  | .nan _ sig => (nan, flagIf sig fIV)
  | .inf n =>
    match fn with
    | 0 => (f.signed n 0, 0)
    | 1 => if n then (nan, fIV) else (0, 0)
    | 2 => if n then (nan, fIV) else (inf false, 0)
    | 3 => if n then (0, 0) else (inf false, 0)
    | 4 => if n then (nan, fIV) else (inf false, 0)
    | 5 => (nan, fIV)
    | 6 => (nan, fIV)
    | _ => (f.signed n one, 0)
  | .fin x =>
    if x.m = 0 then
      match fn with
      | 0 => (inf x.neg, fDZ)
      | 1 => (inf x.neg, fDZ)
      | 2 => (a, 0)
      | 3 => (one, 0)
      | 4 => (inf true, fDZ)
      | 5 => (a, 0)
      | 6 => (one, 0)
      | _ => (a, 0)
    else
      match fn with
      | 0 => fin (xRcp x)
      | 1 => if x.neg then (nan, fIV) else fin (xRsq x)
      | 2 => if x.neg then (nan, fIV) else fin (xSqrt x)
      | 3 => fin (xExp2 x)
      | 4 => if x.neg then (nan, fIV) else fin (xLog2 x)
      | 5 => fin (xSinPi x)
      | 6 => fin (xCosPi x)
      | _ => fin (xTanh x)

end Sys2Proof.Machine
end

