-- ==== Sys2Proof/Machine/FloatOps.lean ====
section
/-! DEFINITION. Floating-point, special-function, conversion and codebook instructions (R101–R125), and the draws of
stochastic rounding (R96). -/

namespace Sys2Proof.Machine

/-- Draw i of a lane (R96): a half of a Philox word on (TID, counter, LAUNCHID). -/
def State.draw (s : State) (r : FlightRef) (f : Flight) (lane i : Nat) : Nat :=
  let (seed, id) := s.seedOf r
  let c := f.rngctr.toNat
  let xs := philox (f.tids.getD lane 0).toNat (c % 2 ^ 32) (c / 2 ^ 32) id (seed % 2 ^ 32) (seed / 2 ^ 32)
  bits (xs.getD (i / 2) 0).toNat (16 * (i % 2) + 15) (16 * (i % 2))

/-- Runs a lane-by-lane floating instruction: under rs each lane has its draws and the counter advances once when the
instruction acts (R96). -/
def floatwise (g : BitVec 4) (rm : Nat) (body : Flight → (Nat → Nat) → Nat → LaneOut) (s : State) : Out :=
  withIssuer s (fun r f =>
    let draw := fun l i => if rm = 4 then s.draw r f l i else 0
    let f1 := f.laneStep g (fun l => body f (draw l) l)
    s.retire r (if rm = 4 && f.actsOnce g then { f1 with rngctr := f.rngctr + 1 } else f1))

/-- The rounding mode field (R44). -/
def rmOf (o : VFmt) : Nat := bits o.f.toNat 2 0

/-- FP32 value of a code. -/
def v32 (x : Nat) : FVal := Fmt.fp32.decode x

/-- FP64 value of a code. -/
def v64 (x : Nat) : FVal := Fmt.fp64.decode x

/-- An FP32 result of exact products and addends. -/
def fpOp (o : VFmt) (terms : Flight → Nat → List (FVal × FVal) × List FVal) (s : State) : Out :=
  floatwise o.g (rmOf o) (fun f draw l =>
    let t := terms f l
    let y := fused .fp32 (rmOf o) (draw 0) t.1 t.2
    .word o.d.toNat y.1 y.2) s

/-- FADD (R106). -/
def execFadd (o : VFmt) (s : State) : Out := fpOp o (fun f l => ([], [v32 (f.opA o l), v32 (f.opB o l)])) s

/-- FSUB (R106). -/
def execFsub (o : VFmt) (s : State) : Out := fpOp o (fun f l => ([], [v32 (f.opA o l), (v32 (f.opB o l)).negate])) s

/-- FMUL (R106). -/
def execFmul (o : VFmt) (s : State) : Out := fpOp o (fun f l => ([(v32 (f.opA o l), v32 (f.opB o l))], [])) s

/-- FFMA (R106). -/
def execFfma (o : VFmt) (s : State) : Out :=
  fpOp o (fun f l => ([(v32 (f.opA o l), v32 (f.opB o l))], [v32 (f.opC o l)])) s

/-- FMIN (R107). -/
def execFmin (o : VFmt) (s : State) : Out :=
  lanewise o.g (fun f l =>
    let y := minMaxNum .fp32 false (f.opA o l) (f.opB o l)
    .word o.d.toNat y.1 y.2) s

/-- FMAX (R107). -/
def execFmax (o : VFmt) (s : State) : Out :=
  lanewise o.g (fun f l =>
    let y := minMaxNum .fp32 true (f.opA o l) (f.opB o l)
    .word o.d.toNat y.1 y.2) s

/-- A change of the sign bit, NaNs made canonical (R108). -/
def signOp (o : VFmt) (h : Nat → Nat) (s : State) : Out :=
  lanewise o.g (fun f l =>
    let a := f.opA o l
    let v := v32 a
    if v.isNan then .word o.d.toNat Fmt.fp32.nanCode (flagIf v.isSig fIV) else .word o.d.toNat (h a)) s

/-- FABS (R108). -/
def execFabs (o : VFmt) (s : State) : Out := signOp o (fun a => a % 2 ^ 31) s

/-- FNEG (R108). -/
def execFneg (o : VFmt) (s : State) : Out := signOp o (fun a => Nat.xor a (2 ^ 31)) s

/-- FOPI (R109). -/
def execFopi (o : IFmt) (s : State) : Out :=
  lanewise o.g (fun f l =>
    let a := f.opI o l
    let b := o.imm.toNat
    let y := match o.f3.toNat with
      | 0 => fused .fp32 0 0 [] [v32 a, v32 b]
      | 1 => fused .fp32 0 0 [(v32 a, v32 b)] []
      | 2 => minMaxNum .fp32 false a b
      | _ => minMaxNum .fp32 true a b
    .word o.d.toNat y.1 y.2) s

/-- FCMP (R110). -/
def execFcmp (o : VFmt) (s : State) : Out :=
  lanewise o.g (fun f l =>
    let y := floatCond (rmOf o) (v32 (f.opA o l)) (v32 (f.opB o l))
    .pred o.d.toNat y.1 y.2) s

/-- DCMP (R110). -/
def execDcmp (o : VFmt) (s : State) : Out :=
  lanewise o.g (fun f l =>
    let y := floatCond (rmOf o) (v64 (f.opA64 o l)) (v64 (f.opB64 o l))
    .pred o.d.toNat y.1 y.2) s

/-- The class bit of an FP32 code (R111). -/
def classBit (a : Nat) : Nat :=
  let e := bits a 30 23
  match v32 a with
  | .nan _ sig => if sig then 8 else 9
  | .inf n => if n then 0 else 7
  | .fin x =>
    if x.m = 0 then (if x.neg then 3 else 4)
    else if e = 0 then (if x.neg then 2 else 5)
    else if x.neg then 1 else 6

/-- FCLASS (R111). -/
def execFclass (o : VFmt) (s : State) : Out := lanewise o.g (fun f l => .word o.d.toNat (2 ^ classBit (f.opA o l))) s

/-- A value rounded to an integral FP32 value (R112). -/
def roundIntegral (rm draw a : Nat) : Nat × Byte :=
  match v32 a with
  | .nan _ sig => (Fmt.fp32.nanCode, flagIf sig fIV)
  | .inf _ => (a, 0)
  | .fin x =>
    if 0 ≤ x.e then (a, 0)
    else
      let y := roundInt rm draw x
      (Fmt.fp32.encode x.neg y.1.natAbs 0, flagIf y.2 fNX)

/-- FRND (R112). -/
def execFrnd (o : VFmt) (s : State) : Out :=
  floatwise o.g (rmOf o) (fun f draw l =>
    let y := roundIntegral (rmOf o) (draw 0) (f.opA o l)
    .word o.d.toNat y.1 y.2) s

/-- The packed format of bit F[3] (R113). -/
def halfFmt (o : VFmt) : Fmt := if o.f.getLsbD 3 then .bf16 else .fp16

/-- Half h (0 low, 1 high) of a register. -/
def halfOf (x h : Nat) : Nat := bits x (16 * h + 15) (16 * h)

/-- Two halves as one register, with the flags of both. -/
def packHalves (d : Nat) (lo hi : Nat × Byte) : LaneOut := .word d (lo.1 + hi.1 * 2 ^ 16) (lo.2 ||| hi.2)

/-- A packed operation on exact products and addends, per half (R113). -/
def packedOp (o : VFmt) (terms : FVal → FVal → FVal → List (FVal × FVal) × List FVal) (s : State) : Out :=
  floatwise o.g (rmOf o) (fun f draw l =>
    let v := fun x h => (halfFmt o).decode (halfOf x h)
    let one := fun h =>
      let t := terms (v (f.opA o l) h) (v (f.opB o l) h) (v (f.opC o l) h)
      fused (halfFmt o) (rmOf o) (draw h) t.1 t.2
    packHalves o.d.toNat (one 0) (one 1)) s

/-- HADD2 (R113). -/
def execHadd2 (o : VFmt) (s : State) : Out := packedOp o (fun a b _ => ([], [a, b])) s

/-- HSUB2 (R113). -/
def execHsub2 (o : VFmt) (s : State) : Out := packedOp o (fun a b _ => ([], [a, b.negate])) s

/-- HMUL2 (R113). -/
def execHmul2 (o : VFmt) (s : State) : Out := packedOp o (fun a b _ => ([(a, b)], [])) s

/-- HFMA2 (R113). -/
def execHfma2 (o : VFmt) (s : State) : Out := packedOp o (fun a b c => ([(a, b)], [c])) s

/-- A packed minimum or maximum (R114). -/
def packedMinMax (o : VFmt) (isMax : Bool) (s : State) : Out :=
  lanewise o.g (fun f l =>
    let one := fun h => minMaxNum (halfFmt o) isMax (halfOf (f.opA o l) h) (halfOf (f.opB o l) h)
    packHalves o.d.toNat (one 0) (one 1)) s

/-- HMIN2 (R114). -/
def execHmin2 (o : VFmt) (s : State) : Out := packedMinMax o false s

/-- HMAX2 (R114). -/
def execHmax2 (o : VFmt) (s : State) : Out := packedMinMax o true s

/-- HCMP2 (R110, R114). -/
def execHcmp2 (o : VFmt) (s : State) : Out :=
  lanewise o.g (fun f l =>
    let one := fun h =>
      floatCond (rmOf o) ((halfFmt o).decode (halfOf (f.opA o l) h)) ((halfFmt o).decode (halfOf (f.opB o l) h))
    { preds := [(o.d.toNat, (one 0).1), (o.d.toNat + 1, (one 1).1)], flags := (one 0).2 ||| (one 1).2 }) s

/-- FDOT2 (R115). -/
def execFdot2 (o : VFmt) (s : State) : Out :=
  fpOp o (fun f l =>
    let v := fun x h => (halfFmt o).decode (halfOf x h)
    let a := f.opA o l
    let b := f.opB o l
    ([(v a 0, v b 0), (v a 1, v b 1)], [v32 (f.opC o l)])) s

/-- An FP64 result of exact products and addends (R116). -/
def fp64Op (o : VFmt) (terms : Flight → Nat → List (FVal × FVal) × List FVal) (s : State) : Out :=
  floatwise o.g (rmOf o) (fun f draw l =>
    let t := terms f l
    let y := fused .fp64 (rmOf o) (draw 0) t.1 t.2
    .pair o.d.toNat y.1 y.2) s

/-- DADD (R116). -/
def execDadd (o : VFmt) (s : State) : Out := fp64Op o (fun f l => ([], [v64 (f.opA64 o l), v64 (f.opB64 o l)])) s

/-- DMUL (R116). -/
def execDmul (o : VFmt) (s : State) : Out := fp64Op o (fun f l => ([(v64 (f.opA64 o l), v64 (f.opB64 o l))], [])) s

/-- DFMA (R116). -/
def execDfma (o : VFmt) (s : State) : Out :=
  fp64Op o (fun f l => ([(v64 (f.opA64 o l), v64 (f.opB64 o l))], [v64 (f.opC64 o l)])) s

/-- A special function (R117). -/
def specialOp (o : VFmt) (fn : Nat) (s : State) : Out :=
  floatwise o.g (if fn = 2 then (rmOf o) else 0) (fun f draw l =>
    let a := f.opA o l
    let y := match fn, v32 a with
      | 2, .fin x => if x.m = 0 ∨ x.neg then specialFn 2 0 a else Fmt.fp32.round (rmOf o) false (draw 0) (xSqrt x)
      | _, _ => specialFn fn 0 a
    .word o.d.toNat y.1 y.2) s

/-- RCP (R117). -/
def execRcp (o : VFmt) (s : State) : Out := specialOp o 0 s

/-- RSQ (R117). -/
def execRsq (o : VFmt) (s : State) : Out := specialOp o 1 s

/-- SQRT (R117). -/
def execSqrt (o : VFmt) (s : State) : Out := specialOp o 2 s

/-- EXP2 (R117). -/
def execExp2 (o : VFmt) (s : State) : Out := specialOp o 3 s

/-- LOG2 (R117). -/
def execLog2 (o : VFmt) (s : State) : Out := specialOp o 4 s

/-- SINPI (R117). -/
def execSinpi (o : VFmt) (s : State) : Out := specialOp o 5 s

/-- COSPI (R117). -/
def execCospi (o : VFmt) (s : State) : Out := specialOp o 6 s

/-- TANH (R117). -/
def execTanh (o : VFmt) (s : State) : Out := specialOp o 7 s

/-! ### Conversions (R118–R120) -/

/-- Destination and source codes of a conversion (R47). -/
def dstCode (o : VFmt) : Nat := bits o.c.toNat 7 4
def srcCode (o : VFmt) : Nat := bits o.c.toNat 3 0

/-- The value of the source operand of a conversion: a pair for FP64, else the low bits of a. -/
def convSrc (o : VFmt) (f : Flight) (l : Nat) : FVal :=
  let fm := fmtOfCode (srcCode o)
  if (srcCode o) = 9 then fm.decode (f.opA64 o l) else fm.decode (f.opA o l % 2 ^ fm.width)

/-- A conversion's result in its destination register or pair. -/
def convDst (o : VFmt) (y : Nat × Byte) : LaneOut :=
  if (dstCode o) = 9 then .pair o.d.toNat y.1 y.2 else .word o.d.toNat y.1 y.2

/-- A floating value converted to an integer format (R118). -/
def toInt (fm : Fmt) (rm : Nat) (sat : Bool) (draw : Nat) (v : FVal) : Nat × Byte :=
  let bound := fun neg => wrap 32 (let m := (fm.maxMag neg).1; if neg then -(m : Int) else m)
  let out := fun neg => (bound neg, if sat then fSAT else fIV)
  match v with
  | .nan _ _ => (0, fIV)
  | .inf n => out n
  | .fin x =>
    let y := roundInt rm draw x
    if -((fm.maxMag true).1 : Int) ≤ y.1 ∧ y.1 ≤ (fm.maxMag false).1 then (wrap 32 y.1, flagIf y.2 fNX)
    else out (decide (y.1 < 0))

/-- CVTFI (R118). -/
def execCvtfi (o : VFmt) (s : State) : Out :=
  floatwise o.g (rmOf o) (fun f draw l =>
    let y := toInt (fmtOfCode (dstCode o)) (rmOf o) (o.f.getLsbD 3) (draw 0) (convSrc o f l)
    .word o.d.toNat y.1 y.2) s

/-- CVTIF (R119). -/
def execCvtif (o : VFmt) (s : State) : Out :=
  floatwise o.g (rmOf o) (fun f draw l =>
    convDst o ((fmtOfCode (dstCode o)).convert (rmOf o) false (draw 0) (convSrc o f l))) s

/-- CVTFF (R120). -/
def execCvtff (o : VFmt) (s : State) : Out :=
  floatwise o.g (rmOf o) (fun f draw l =>
    convDst o ((fmtOfCode (dstCode o)).convert (rmOf o) (o.f.getLsbD 3) (draw 0) (convSrc o f l))) s

/-! ### Block scales (R121–R123) -/

/-- The eight FP32 values of a lane's span. -/
def spanVals (f : Flight) (k : Bool) (l r : Nat) : List FVal := (List.range 8).map (fun i => v32 (f.src k l (r + i)).toNat)

/-- Mx of R121, as m × 2^e. -/
def sclMax (fmt ty : Nat) (cb : List Half) : Nat × Int :=
  if fmt = 7 then
    match ty with
    | 0 => (7, 0)
    | 1 => (6, 0)
    | 2 => (1, 0)
    | _ => (cbFinite cb 0).foldl (fun m p => if magLe m.1 m.2 p.2.m p.2.e then (p.2.m, p.2.e) else m) (0, 0)
  else (fmtOfCode fmt).maxMag false

/-- The smallest k with m × 2^e ≤ M × 2^k (R121): the difference of binary exponents, or one more. -/
def sclExp (m : Nat × Int) (mx : Nat × Int) : Int :=
  let k := (Nat.log2 m.1 : Int) + m.2 - (Nat.log2 mx.1 + mx.2)
  if magLe m.1 m.2 mx.1 (mx.2 + k) then k else k + 1

/-- The scale exponent of a block's values, and its flags (R121). -/
def sclOf (fmt ty : Nat) (cb : List Half) (vs : List FVal) : Nat × Byte :=
  let sig := flagIf (vs.any (·.isSig)) fIV
  let mx := sclMax fmt ty cb
  let m : Nat × Int := (finOf vs).foldl (fun m x => if magLe m.1 m.2 x.m x.e then (x.m, x.e) else m) (0, 0)
  if mx.1 = 0 then (31, sig)
  else if vs.any (·.isInf) then (62, sig)
  else if m.1 = 0 then (31, sig)
  else
    let e := 31 + sclExp m mx
    if 62 < e then (62, sig ||| fSAT) else if e < 0 then (0, sig ||| fSAT) else (e.toNat, sig)

/-- SCLQ (R121): lanes 0–15 and 16–31 are the segments. -/
def execSclq (o : VFmt) (s : State) : Out :=
  lanewise o.g (fun f l =>
    let ty := bits o.c.toNat 1 0
    let seg := (f.acting o.g).filter (fun k => k / 16 == l / 16)
    let y := sclOf (dstCode o) ty f.cb (seg.flatMap (fun k => spanVals f o.ka k o.a.toNat))
    .word o.d.toNat (ty * 64 + y.1) y.2) s

/-- Width of a narrow element in bits. -/
def elemBits (fmt : Nat) : Nat := if fmt = 7 then 4 else (fmtOfCode fmt).width

/-- PACKN (R122). -/
def execPackn (o : VFmt) (s : State) : Out :=
  floatwise o.g (rmOf o) (fun f draw l =>
    let fmt := (dstCode o)
    let sb := BitVec.ofNat 8 (f.opB o l)
    let ys := (List.range 8).map (fun i =>
      narrowEncode fmt sb f.cb (rmOf o) (o.f.getLsbD 3) (draw i) ((spanVals f o.ka l o.a.toNat).getD i (.nan false false)))
    let w := elemBits fmt
    let x := (List.range 8).foldl (fun x i => x + (ys.getD i (0, 0)).1 * 2 ^ (w * i)) 0
    let flags := ys.foldl (fun g y => g ||| y.2) 0
    if fmt = 7 then .word o.d.toNat x flags else .pair o.d.toNat x flags) s

/-- UNPKN (R123): a NaN element or scale gives the canonical NaN without a flag. -/
def execUnpkn (o : VFmt) (s : State) : Out :=
  lanewise o.g (fun f l =>
    let fmt := (srcCode o)
    let sb := BitVec.ofNat 8 (f.opB o l)
    let x := if fmt = 7 then f.opA o l else f.opA o l + (f.src o.ka l (o.a.toNat + 1)).toNat * 2 ^ 32
    let w := elemBits fmt
    let ys := (List.range 8).map (fun i =>
      match scaledVal fmt sb f.cb (bits x (w * i + w - 1) (w * i)) with
      | .nan _ _ => (Fmt.fp32.nanCode, (0 : Byte))
      | v => Fmt.fp32.convert 0 false 0 v)
    { regs := (List.range 8).map (fun i => (o.d.toNat + i, BitVec.ofNat 32 (ys.getD i (0, 0)).1))
      flags := ys.foldl (fun g y => g ||| y.2) 0 }) s

/-! ### Codebook (R124, R125) -/

/-- CBLD (R124). -/
def execCbld (o : VFmt) (s : State) : Out :=
  flightwise o.g (fun f =>
    { f with cb := (List.range 16).map (fun i =>
        let w := f.s (o.a.toNat + i / 2)
        if i % 2 = 0 then w.extractLsb' 0 16 else w.extractLsb' 16 16) }) s

/-- CBLK (R125). -/
def execCblk (o : VFmt) (s : State) : Out :=
  lanewise o.g (fun f l => .word o.d.toNat (f.cb.getD (f.opA o l % 16) 0).toNat) s

/-- CBNR (R125). -/
def execCbnr (o : VFmt) (s : State) : Out :=
  lanewise o.g (fun f l =>
    let y := cbEncode f.cb 0 (Fmt.bf16.decode (f.opA o l % 2 ^ 16))
    .word o.d.toNat y.1 y.2) s

end Sys2Proof.Machine
end

