-- ==== Sys2Proof/WellFormed.lean ====
section
/-! DEFINITION. Well-formed instructions: those whose word the device decodes without ILLEGAL_OP in a given context
(R35, R41–R50). -/

namespace Sys2Proof

open Sys2Proof.Machine

/-- The instruction is legal in the context: no row of R42 applies to it. -/
def WellFormed (cx : DecodeCtx) (i : Instr) : Bool := (illegal cx i).isNone

end Sys2Proof
end

