-- ==== Sys2Proof/Decode.lean ====
section
/-! DEFINITION. Decoding of instruction words (R34–R50), total and rejecting by sub-code of ILLEGAL_OP, and the encoder
written from the same formats. -/

namespace Sys2Proof

open Sys2Proof.Machine

/-- The V format's fields (R36). -/
def VFmt.ofWord (w : Dword) : VFmt where
  g := w.extractLsb' 52 4
  d := w.extractLsb' 44 8
  a := w.extractLsb' 36 8
  b := w.extractLsb' 28 8
  c := w.extractLsb' 20 8
  m := w.extractLsb' 8 12
  ka := w.getLsbD 7
  kb := w.getLsbD 6
  kc := w.getLsbD 5
  f := w.extractLsb' 0 5

/-- The I format's fields (R37). -/
def IFmt.ofWord (w : Dword) : IFmt where
  g := w.extractLsb' 52 4
  d := w.extractLsb' 44 8
  a := w.extractLsb' 36 8
  ka := w.getLsbD 35
  f3 := w.extractLsb' 32 3
  imm := w.extractLsb' 0 32

/-- The M format's fields (R38). -/
def MFmt.ofWord (w : Dword) : MFmt where
  g := w.extractLsb' 52 4
  t := w.extractLsb' 44 8
  a := w.extractLsb' 36 8
  s := w.extractLsb' 28 8
  imm := w.extractLsb' 16 12
  sp := w.extractLsb' 13 3
  w := w.extractLsb' 10 3
  cp := w.extractLsb' 7 3
  rsv := w.extractLsb' 5 2
  f := w.extractLsb' 0 5

/-- The E format's fields (R39). -/
def EFmt.ofWord (w : Dword) : EFmt where
  g := w.extractLsb' 52 4
  d := w.extractLsb' 44 8
  p := w.extractLsb' 36 8
  h := w.extractLsb' 28 8
  v := w.extractLsb' 20 8
  x := w.extractLsb' 12 8
  imm := w.extractLsb' 4 8
  ru := w.getLsbD 3
  f := w.extractLsb' 0 3

/-- The B format's fields (R40). -/
def BFmt.ofWord (w : Dword) : BFmt where
  g := w.extractLsb' 52 4
  s := w.extractLsb' 44 8
  f := w.extractLsb' 40 4
  off := w.extractLsb' 0 40

/-- One bit as a bit vector. -/
def bit1 (b : Bool) : BitVec 1 := BitVec.ofBool b

/-- The word of a V-format instruction (R36). -/
def VFmt.toWord (o : VFmt) (op : Byte) : Dword :=
  op ++ o.g ++ o.d ++ o.a ++ o.b ++ o.c ++ o.m ++ bit1 o.ka ++ bit1 o.kb ++ bit1 o.kc ++ o.f

/-- The word of an I-format instruction (R37). -/
def IFmt.toWord (o : IFmt) (op : Byte) : Dword := op ++ o.g ++ o.d ++ o.a ++ bit1 o.ka ++ o.f3 ++ o.imm

/-- The word of an M-format instruction (R38). -/
def MFmt.toWord (o : MFmt) (op : Byte) : Dword :=
  op ++ o.g ++ o.t ++ o.a ++ o.s ++ o.imm ++ o.sp ++ o.w ++ o.cp ++ o.rsv ++ o.f

/-- The word of an E-format instruction (R39). -/
def EFmt.toWord (o : EFmt) (op : Byte) : Dword :=
  op ++ o.g ++ o.d ++ o.p ++ o.h ++ o.v ++ o.x ++ o.imm ++ bit1 o.ru ++ o.f

/-- The word of a B-format instruction (R40). -/
def BFmt.toWord (o : BFmt) (op : Byte) : Dword := op ++ o.g ++ o.s ++ o.f ++ o.off

/-- The opcode of a word (R34). -/
def opcodeOf (w : Dword) : Nat := (w.extractLsb' 56 8).toNat

/-- The instruction an opcode and its sub-function name, fields read by the opcode's format (R45–R48); none for a
reserved opcode (R49). -/
def extract (w : Dword) : Option Instr :=
  match opcodeOf w with
  | 0x01 => some (.nop (VFmt.ofWord w))
  | 0x02 =>
    let o := VFmt.ofWord w
    some (if o.c = 0#8 then .mov o else .movLift o)
  | 0x03 => some (.movi (IFmt.ofWord w))
  | 0x04 => some (.iadd (VFmt.ofWord w))
  | 0x05 => some (.iaddi (IFmt.ofWord w))
  | 0x06 => some (.isub (VFmt.ofWord w))
  | 0x07 => some (.iaddc (VFmt.ofWord w))
  | 0x08 => some (.iadd64 (VFmt.ofWord w))
  | 0x09 => some (.isub64 (VFmt.ofWord w))
  | 0x0A => some (.imul (VFmt.ofWord w))
  | 0x0B => some (.imulh (VFmt.ofWord w))
  | 0x0C => some (.imad (VFmt.ofWord w))
  | 0x0D => some (.imadw (VFmt.ofWord w))
  | 0x0E => some (.iminmax (VFmt.ofWord w))
  | 0x0F => some (.iabsneg (VFmt.ofWord w))
  | 0x10 => some (.idot4 (VFmt.ofWord w))
  | 0x11 => some (.lea64 (VFmt.ofWord w))
  | 0x12 => some (.and (VFmt.ofWord w))
  | 0x13 => some (.or (VFmt.ofWord w))
  | 0x14 => some (.xor (VFmt.ofWord w))
  | 0x15 => some (.andn (VFmt.ofWord w))
  | 0x16 => some (.not (VFmt.ofWord w))
  | 0x17 => some (.trio (VFmt.ofWord w))
  | 0x18 => some (.shl (VFmt.ofWord w))
  | 0x19 => some (.shr (VFmt.ofWord w))
  | 0x1A => some (.shra (VFmt.ofWord w))
  | 0x1B => some (.rotl (VFmt.ofWord w))
  | 0x1C => some (.shf (VFmt.ofWord w))
  | 0x1D => some (.bfx (VFmt.ofWord w))
  | 0x1E => some (.bfi (VFmt.ofWord w))
  | 0x1F => some (.popc (VFmt.ofWord w))
  | 0x20 => some (.clz (VFmt.ofWord w))
  | 0x21 => some (.brev (VFmt.ofWord w))
  | 0x22 => some (.ffs (VFmt.ofWord w))
  | 0x23 => some (.icmp (VFmt.ofWord w))
  | 0x24 => some (.icmp64 (VFmt.ofWord w))
  | 0x25 => some (.sel (VFmt.ofWord w))
  | 0x26 => some (.plop (VFmt.ofWord w))
  | 0x27 => some (.pmov (VFmt.ofWord w))
  | 0x28 => some (.rng (VFmt.ofWord w))
  | 0x29 => some (.logi (IFmt.ofWord w))
  | 0x2A => some (.shi (IFmt.ofWord w))
  | 0x2B => some (.icmpi (IFmt.ofWord w))
  | 0x30 => some (.fadd (VFmt.ofWord w))
  | 0x31 => some (.fsub (VFmt.ofWord w))
  | 0x32 => some (.fmul (VFmt.ofWord w))
  | 0x33 => some (.ffma (VFmt.ofWord w))
  | 0x34 => some (.fmin (VFmt.ofWord w))
  | 0x35 => some (.fmax (VFmt.ofWord w))
  | 0x36 => some (.fabs (VFmt.ofWord w))
  | 0x37 => some (.fneg (VFmt.ofWord w))
  | 0x38 => some (.fcmp (VFmt.ofWord w))
  | 0x39 => some (.fclass (VFmt.ofWord w))
  | 0x3A => some (.frnd (VFmt.ofWord w))
  | 0x3B => some (.fopi (IFmt.ofWord w))
  | 0x3C => some (.hadd2 (VFmt.ofWord w))
  | 0x3D => some (.hsub2 (VFmt.ofWord w))
  | 0x3E => some (.hmul2 (VFmt.ofWord w))
  | 0x3F => some (.hfma2 (VFmt.ofWord w))
  | 0x40 => some (.hmin2 (VFmt.ofWord w))
  | 0x41 => some (.hmax2 (VFmt.ofWord w))
  | 0x42 => some (.hcmp2 (VFmt.ofWord w))
  | 0x43 => some (.fdot2 (VFmt.ofWord w))
  | 0x44 => some (.dadd (VFmt.ofWord w))
  | 0x45 => some (.dmul (VFmt.ofWord w))
  | 0x46 => some (.dfma (VFmt.ofWord w))
  | 0x47 => some (.dcmp (VFmt.ofWord w))
  | 0x48 => some (.rcp (VFmt.ofWord w))
  | 0x49 => some (.rsq (VFmt.ofWord w))
  | 0x4A => some (.sqrt (VFmt.ofWord w))
  | 0x4B => some (.exp2 (VFmt.ofWord w))
  | 0x4C => some (.log2 (VFmt.ofWord w))
  | 0x4D => some (.sinpi (VFmt.ofWord w))
  | 0x4E => some (.cospi (VFmt.ofWord w))
  | 0x4F => some (.tanh (VFmt.ofWord w))
  | 0x50 => some (.cvtfi (VFmt.ofWord w))
  | 0x51 => some (.cvtif (VFmt.ofWord w))
  | 0x52 => some (.cvtff (VFmt.ofWord w))
  | 0x53 => some (.packn (VFmt.ofWord w))
  | 0x54 => some (.unpkn (VFmt.ofWord w))
  | 0x55 => some (.sclq (VFmt.ofWord w))
  | 0x56 => some (.cbld (VFmt.ofWord w))
  | 0x57 => some (.cblk (VFmt.ofWord w))
  | 0x58 => some (.cbnr (VFmt.ofWord w))
  | 0x60 => some (.shfli (VFmt.ofWord w))
  | 0x61 => some (.vote (VFmt.ofWord w))
  | 0x62 => some (.redux (VFmt.ofWord w))
  | 0x63 => some (.scanx (VFmt.ofWord w))
  | 0x64 => some (.matchLanes (VFmt.ofWord w))
  | 0x65 => some (.elect (VFmt.ofWord w))
  | 0x66 => some (.sortk (VFmt.ofWord w))
  | 0x67 => some (.meet (BFmt.ofWord w))
  | 0x68 => some (.setmr (VFmt.ofWord w))
  | 0x70 => some (.ld (MFmt.ofWord w))
  | 0x71 => some (.st (MFmt.ofWord w))
  | 0x72 => some (.ldf (MFmt.ofWord w))
  | 0x73 => some (.sta (MFmt.ofWord w))
  | 0x74 => some (.lda (MFmt.ofWord w))
  | 0x75 =>
    let o := MFmt.ofWord w
    some (if o.f.getLsbD 0 then .twctlQuery o else .twctlReset o)
  | 0x76 => some (.atom (MFmt.ofWord w))
  | 0x77 => some (.acas (MFmt.ofWord w))
  | 0x78 => some (.pref (MFmt.ofWord w))
  | 0x79 => some (.resid (MFmt.ofWord w))
  | 0x7A => some (.pstp (MFmt.ofWord w))
  | 0x7B => some (.seal (EFmt.ofWord w))
  | 0x7C => some (.unseal (EFmt.ofWord w))
  | 0x80 => some (.wait (IFmt.ofWord w))
  | 0x81 => some (.fencex (IFmt.ofWord w))
  | 0x82 => some (.fencep (IFmt.ofWord w))
  | 0x83 => some (.bar (VFmt.ofWord w))
  | 0x84 => some (.bart (VFmt.ofWord w))
  | 0x85 => some (.yield (VFmt.ofWord w))
  | 0x86 => some (.npbegin (VFmt.ofWord w))
  | 0x87 => some (.npend (VFmt.ofWord w))
  | 0x90 => some (.cpy (EFmt.ofWord w))
  | 0x91 => some (.cpyg (EFmt.ofWord w))
  | 0x92 => some (.cpys (EFmt.ofWord w))
  | 0x93 => some (.spinit (EFmt.ofWord w))
  | 0x94 => some (.spwait (EFmt.ofWord w))
  | 0x95 => some (.sprel (EFmt.ofWord w))
  | 0x96 => some (.sppos (EFmt.ofWord w))
  | 0xA0 => some (.mma (EFmt.ofWord w))
  | 0xA1 => some (.mmas (EFmt.ofWord w))
  | 0xA2 => some (.accz (EFmt.ofWord w))
  | 0xA3 => some (.accst (EFmt.ofWord w))
  | 0xA4 => some (.accld (EFmt.ofWord w))
  | 0xA5 => some (.accrel (EFmt.ofWord w))
  | 0xB0 => some (.draw (EFmt.ofWord w))
  | 0xB1 =>
    let o := EFmt.ofWord w
    some (if o.imm.getLsbD 4 then .esmpPost o else .esmp o)
  | 0xB2 => some (.estat (EFmt.ofWord w))
  | 0xB3 => some (.estop (EFmt.ofWord w))
  | 0xC0 => some (.bra (BFmt.ofWord w))
  | 0xC1 => some (.brax (BFmt.ofWord w))
  | 0xC2 => some (.call (BFmt.ofWord w))
  | 0xC3 => some (.ret (BFmt.ofWord w))
  | 0xC4 => some (.loop (BFmt.ofWord w))
  | 0xC5 => some (.exit (BFmt.ofWord w))
  | 0xC6 => some (.callx (BFmt.ofWord w))
  | 0xE0 => some (.trap (IFmt.ofWord w))
  | 0xE1 => some (.bkpt (IFmt.ofWord w))
  | 0xE2 =>
    let o := IFmt.ofWord w
    some (if o.f3 = 1#3 then .getsClr o else .gets o)
  | 0xE3 =>
    let o := IFmt.ofWord w
    some (if o.f3 = 1#3 then .timerRead o else if o.f3 = 2#3 then .timerCancel o else .timerArm o)
  | 0xE4 => some (.launch (EFmt.ofWord w))
  | 0xE5 =>
    let o := EFmt.ofWord w
    some (if o.imm.getLsbD 2 then .cancelIdx o else .cancel o)
  | 0xE6 =>
    let o := EFmt.ofWord w
    let form := o.imm.extractLsb' 2 2
    some (if form = 1#2 then .csigIdx o else if form = 2#2 then .csigArm o else .csig o)
  | 0xE7 =>
    let o := EFmt.ofWord w
    some (if o.imm.getLsbD 0 then .tokchkN o else .tokchk o)
  | 0xE8 => some (.mxchk (IFmt.ofWord w))
  | _ => none

/-- Decodes a word at issue: an instruction, or the sub-code of ILLEGAL_OP it traps with (R42). -/
def decode (cx : DecodeCtx) (w : Dword) : Except Byte Instr :=
  match extract w with
  | none => .error 1#8
  | some i =>
    match illegal cx i with
    | some sub => .error sub
    | none => .ok i

/-- The word of an instruction (R36–R40, R45–R48). Event rows have no encoding. -/
def encode : Instr → Dword
  | .nop o => o.toWord 0x01#8
  | .mov o => o.toWord 0x02#8
  | .movLift o => o.toWord 0x02#8
  | .movi o => o.toWord 0x03#8
  | .iadd o => o.toWord 0x04#8
  | .isub o => o.toWord 0x06#8
  | .iaddi o => o.toWord 0x05#8
  | .iadd64 o => o.toWord 0x08#8
  | .isub64 o => o.toWord 0x09#8
  | .iaddc o => o.toWord 0x07#8
  | .imul o => o.toWord 0x0A#8
  | .imulh o => o.toWord 0x0B#8
  | .imad o => o.toWord 0x0C#8
  | .imadw o => o.toWord 0x0D#8
  | .idot4 o => o.toWord 0x10#8
  | .iminmax o => o.toWord 0x0E#8
  | .iabsneg o => o.toWord 0x0F#8
  | .lea64 o => o.toWord 0x11#8
  | .and o => o.toWord 0x12#8
  | .or o => o.toWord 0x13#8
  | .xor o => o.toWord 0x14#8
  | .andn o => o.toWord 0x15#8
  | .not o => o.toWord 0x16#8
  | .trio o => o.toWord 0x17#8
  | .logi o => o.toWord 0x29#8
  | .shl o => o.toWord 0x18#8
  | .shr o => o.toWord 0x19#8
  | .shra o => o.toWord 0x1A#8
  | .rotl o => o.toWord 0x1B#8
  | .shi o => o.toWord 0x2A#8
  | .shf o => o.toWord 0x1C#8
  | .bfx o => o.toWord 0x1D#8
  | .bfi o => o.toWord 0x1E#8
  | .popc o => o.toWord 0x1F#8
  | .clz o => o.toWord 0x20#8
  | .brev o => o.toWord 0x21#8
  | .ffs o => o.toWord 0x22#8
  | .icmp o => o.toWord 0x23#8
  | .icmp64 o => o.toWord 0x24#8
  | .icmpi o => o.toWord 0x2B#8
  | .sel o => o.toWord 0x25#8
  | .plop o => o.toWord 0x26#8
  | .pmov o => o.toWord 0x27#8
  | .rng o => o.toWord 0x28#8
  | .bra o => o.toWord 0xC0#8
  | .brax o => o.toWord 0xC1#8
  | .call o => o.toWord 0xC2#8
  | .callx o => o.toWord 0xC6#8
  | .ret o => o.toWord 0xC3#8
  | .loop o => o.toWord 0xC4#8
  | .exit o => o.toWord 0xC5#8
  | .fadd o => o.toWord 0x30#8
  | .fsub o => o.toWord 0x31#8
  | .fmul o => o.toWord 0x32#8
  | .ffma o => o.toWord 0x33#8
  | .fmin o => o.toWord 0x34#8
  | .fmax o => o.toWord 0x35#8
  | .fabs o => o.toWord 0x36#8
  | .fneg o => o.toWord 0x37#8
  | .fopi o => o.toWord 0x3B#8
  | .fcmp o => o.toWord 0x38#8
  | .dcmp o => o.toWord 0x47#8
  | .fclass o => o.toWord 0x39#8
  | .frnd o => o.toWord 0x3A#8
  | .hadd2 o => o.toWord 0x3C#8
  | .hsub2 o => o.toWord 0x3D#8
  | .hmul2 o => o.toWord 0x3E#8
  | .hfma2 o => o.toWord 0x3F#8
  | .hmin2 o => o.toWord 0x40#8
  | .hmax2 o => o.toWord 0x41#8
  | .hcmp2 o => o.toWord 0x42#8
  | .fdot2 o => o.toWord 0x43#8
  | .dadd o => o.toWord 0x44#8
  | .dmul o => o.toWord 0x45#8
  | .dfma o => o.toWord 0x46#8
  | .rcp o => o.toWord 0x48#8
  | .rsq o => o.toWord 0x49#8
  | .sqrt o => o.toWord 0x4A#8
  | .exp2 o => o.toWord 0x4B#8
  | .log2 o => o.toWord 0x4C#8
  | .sinpi o => o.toWord 0x4D#8
  | .cospi o => o.toWord 0x4E#8
  | .tanh o => o.toWord 0x4F#8
  | .cvtfi o => o.toWord 0x50#8
  | .cvtif o => o.toWord 0x51#8
  | .cvtff o => o.toWord 0x52#8
  | .sclq o => o.toWord 0x55#8
  | .packn o => o.toWord 0x53#8
  | .unpkn o => o.toWord 0x54#8
  | .cbld o => o.toWord 0x56#8
  | .cblk o => o.toWord 0x57#8
  | .cbnr o => o.toWord 0x58#8
  | .shfli o => o.toWord 0x60#8
  | .vote o => o.toWord 0x61#8
  | .redux o => o.toWord 0x62#8
  | .scanx o => o.toWord 0x63#8
  | .matchLanes o => o.toWord 0x64#8
  | .elect o => o.toWord 0x65#8
  | .sortk o => o.toWord 0x66#8
  | .meet o => o.toWord 0x67#8
  | .setmr o => o.toWord 0x68#8
  | .ld o => o.toWord 0x70#8
  | .st o => o.toWord 0x71#8
  | .atom o => o.toWord 0x76#8
  | .acas o => o.toWord 0x77#8
  | .pstp o => o.toWord 0x7A#8
  | .pref o => o.toWord 0x78#8
  | .resid o => o.toWord 0x79#8
  | .seal o => o.toWord 0x7B#8
  | .unseal o => o.toWord 0x7C#8
  | .wait o => o.toWord 0x80#8
  | .fencex o => o.toWord 0x81#8
  | .fencep o => o.toWord 0x82#8
  | .npbegin o => o.toWord 0x86#8
  | .npend o => o.toWord 0x87#8
  | .bar o => o.toWord 0x83#8
  | .bart o => o.toWord 0x84#8
  | .yield o => o.toWord 0x85#8
  | .launch o => o.toWord 0xE4#8
  | .cancel o => o.toWord 0xE5#8
  | .cancelIdx o => o.toWord 0xE5#8
  | .csig o => o.toWord 0xE6#8
  | .csigIdx o => o.toWord 0xE6#8
  | .csigArm o => o.toWord 0xE6#8
  | .gets o => o.toWord 0xE2#8
  | .getsClr o => o.toWord 0xE2#8
  | .ldf o => o.toWord 0x72#8
  | .sta o => o.toWord 0x73#8
  | .lda o => o.toWord 0x74#8
  | .twctlReset o => o.toWord 0x75#8
  | .twctlQuery o => o.toWord 0x75#8
  | .cpy o => o.toWord 0x90#8
  | .cpyg o => o.toWord 0x91#8
  | .cpys o => o.toWord 0x92#8
  | .spinit o => o.toWord 0x93#8
  | .spwait o => o.toWord 0x94#8
  | .sprel o => o.toWord 0x95#8
  | .sppos o => o.toWord 0x96#8
  | .mma o => o.toWord 0xA0#8
  | .mmas o => o.toWord 0xA1#8
  | .accz o => o.toWord 0xA2#8
  | .accst o => o.toWord 0xA3#8
  | .accld o => o.toWord 0xA4#8
  | .accrel o => o.toWord 0xA5#8
  | .mxchk o => o.toWord 0xE8#8
  | .draw o => o.toWord 0xB0#8
  | .esmp o => o.toWord 0xB1#8
  | .esmpPost o => o.toWord 0xB1#8
  | .estat o => o.toWord 0xB2#8
  | .estop o => o.toWord 0xB3#8
  | .trap o => o.toWord 0xE0#8
  | .bkpt o => o.toWord 0xE1#8
  | .timerArm o => o.toWord 0xE3#8
  | .timerRead o => o.toWord 0xE3#8
  | .timerCancel o => o.toWord 0xE3#8
  | .tokchk o => o.toWord 0xE7#8
  | .tokchkN o => o.toWord 0xE7#8
  | .clauseFetch _ => 0#64
  | .clauseComplete _ => 0#64
  | .loadDataArrival _ _ _ => 0#64
  | .storeEffect _ _ _ => 0#64
  | .tick _ => 0#64
  | .forcedExchange _ _ _ => 0#64
  | .flightEnd _ => 0#64
  | .tetherPlace _ _ => 0#64
  | .migrate _ _ => 0#64
  | .twinCommit _ _ _ => 0#64
  | .counterSignal _ _ _ _ _ _ => 0#64
  | .mxeGrant _ _ => 0#64
  | .mxePrioRaise _ _ => 0#64
  | .tileOpComplete _ _ => 0#64
  | .copyComplete _ _ => 0#64
  | .copyFail _ _ _ => 0#64
  | .streamerFault _ _ _ => 0#64
  | .shadowFetch _ _ => 0#64
  | .slotReturn _ _ _ => 0#64
  | .spoolTimeout _ => 0#64
  | .estimatorApply _ => 0#64
  | .ldaWake _ => 0#64
  | .twinWaitTimeout _ => 0#64
  | .dirlockRetry _ => 0#64
  | .workgroupHalt _ => 0#64
  | .haltDrainComplete _ => 0#64
  | .timerExpiry _ => 0#64
  | .sliceExpiry _ => 0#64
  | .debugHalt _ => 0#64
  | .ddeadExpiry _ => 0#64
  | .npWatchdog _ => 0#64
  | .lazyClaimSpill _ _ _ => 0#64
  | .contextRestore _ _ => 0#64
  | .scrub _ => 0#64
  | .tokenRecord _ => 0#64
  | .tetherKill _ _ _ => 0#64
  | .uncorrConsumed _ => 0#64
  | .correctedError _ => 0#64
  | .pageRetire _ _ _ => 0#64
  | .scanTurnStart _ => 0#64
  | .scanTurnEnd _ => 0#64
  | .scanTurnFail _ => 0#64
  | .vfDisable _ => 0#64
  | .launchDoorbell _ _ => 0#64
  | .ringConsWrite _ _ _ => 0#64
  | .registerWrite _ _ => 0#64
  | .launchCommand _ => 0#64
  | .inval _ => 0#64
  | .fresume _ => 0#64
  | .trapres _ => 0#64
  | .arm _ => 0#64
  | .tokreq _ => 0#64
  | .tokread _ => 0#64
  | .clearlost _ => 0#64
  | .logput _ => 0#64
  | .capture _ => 0#64
  | .preempt _ => 0#64
  | .diereset _ => 0#64
  | .partset _ => 0#64
  | .ctxset _ => 0#64
  | .regset _ => 0#64
  | .ctxrun _ => 0#64
  | .ringset _ => 0#64
  | .ctlrun _ => 0#64
  | .boot _ => 0#64
  | .dieFault _ => 0#64
  | .dieFencingDone _ => 0#64
  | .dieFlushDone _ => 0#64
  | .dieResetDone _ => 0#64
  | .dieTrainingDone _ _ => 0#64
  | .dieRejoinDone _ => 0#64
  | .readmissionMessage _ => 0#64
  | .homeDownRetry _ => 0#64
  | .clockThrottle _ => 0#64
  | .planeDown _ => 0#64
  | .planeUp _ => 0#64
  | .spanWriteRelease _ => 0#64
  | .remoteRequest _ => 0#64
  | .remoteReply _ _ _ _ _ => 0#64
  | .createPacket _ _ _ => 0#64
  | .resend _ _ _ _ => 0#64
  | .deliveryFail _ _ => 0#64
  | .quietExpiry _ _ _ => 0#64
  | .packetExpiry _ _ _ => 0#64
  | .linkStop _ _ => 0#64
  | .linkGo _ _ => 0#64
  | .twinWakeup _ => 0#64
  | .remoteLdaPoll _ => 0#64
  | .debuggerRelease _ => 0#64
  | .matrixFault _ _ _ => 0#64
  | .eventQueueConsume _ _ => 0#64
  | .fatalError _ => 0#64

/-- Whether a row of the table is an instruction, which has an encoding. -/
def hasEncoding (i : Instr) : Bool := encode i != 0#64

/-- What the decoder reads from an instruction given as a number of table bits. -/
def decodeTableWord (nbits w : Nat) : Option Instr :=
  match decode DecodeCtx.widest (BitVec.ofNat 64 (w % 2 ^ nbits)) with
  | .ok i => some i
  | .error _ => none

/-- An opcode stands in one of a list of ranges. -/
def opIn (op : Nat) (ranges : List (Nat × Nat)) : Bool := ranges.any (fun r => decide (r.1 ≤ op) && decide (op ≤ r.2))

/-- The opcode map lists the opcode (R45–R49). -/
def defined (op : Nat) : Bool := (extract (BitVec.ofNat 64 (op * 2 ^ 56))).isSome

/-- The class admits the opcode (R12, R49). -/
def admits (cls : ClauseClass) (w : Dword) : Bool :=
  let op := opcodeOf w
  match cls with
  | .vec | .uni => defined op && opIn op [(0x01, 0x68), (0xE2, 0xE2)]
  | .mem => defined op && opIn op [(0x70, 0x7C), (0x80, 0x82)]
  | .eng => defined op && opIn op [(0x90, 0xB3)]
  | .ctl => defined op && opIn op [(0x83, 0x87), (0xC0, 0xC6), (0xE0, 0xE8)]
  | .mix => true

/-- BRA, BRAX, CALL, CALLX, RET, LOOP and EXIT (R12). -/
def isBranch (w : Dword) : Bool := opIn (opcodeOf w) [(0xC0, 0xC6)]

end Sys2Proof
end

