-- ==== Sys2Proof/Machine/Translate.lean ====
section
/-! DEFINITION. Virtual and physical addresses, page-table walks in one and two stages, twins of pages (R186–R196). -/

namespace Sys2Proof.Machine

/-- What an access asks of a page (R191). -/
structure Need where
  r : Bool := false
  w : Bool := false
  x : Bool := false
  deriving DecidableEq, Repr, Inhabited

/-- How a translation fails: a replayable page fault or a protection fault, with level, stage and address (R191, R195). -/
structure WalkErr where
  pageFault : Bool
  lvl : Nat
  stage : Nat
  addr : Nat
  deriving DecidableEq, Repr, Inhabited

/-- Fields of a virtual address (R186). -/
def vaTop (va : Dword) : Nat := bits va.toNat 63 56
def vaTwin (va : Dword) : Bool := va.getLsbD 55
def vaDev (va : Dword) : Nat := bits va.toNat 54 47
def vaLocal (va : Dword) : Nat := bits va.toNat 46 0

/-- Fields of a physical address (R187). -/
def paDie (pa : Nat) : Nat := bits pa 39 38
def paChan (pa : Nat) : Nat := bits pa 37 31

/-- The physical address is populated (R187). -/
def paPopulated (pa : Nat) : Bool := decide (pa < 2 ^ 40) && decide (pa % 2 ^ 31 < 2000000000)

/-- The physical address lies in a die's twin window (R193). -/
def State.inTwinWindow (s : State) (die pa : Nat) : Bool :=
  let lo := s.image.twlo.getD die 0
  decide (lo ≤ pa) && decide (pa < lo + s.image.twsize)

/-- The physical address lies in a die's count plane (R193). -/
def State.inCountPlane (s : State) (die pa : Nat) : Bool :=
  let lo := s.image.cpbase.getD die 0
  decide (lo ≤ pa) && decide (pa < lo + s.image.twsize / 16)

/-- VALID of a descriptor. -/
def PartDesc.valid (d : PartDesc) : Bool := d.ctl.getLsbD 0

/-- The partition owns an L2 slice of the die (R187). -/
def PartDesc.ownsSlice (d : PartDesc) (die : Nat) : Bool := (d.slices.extractLsb' (die * 128) 128) != 0

/-- The L2 slices of a die that the partition owns, ascending (R187). -/
def PartDesc.slicesOn (d : PartDesc) (die : Nat) : List Nat := (List.range 128).filter (fun i => d.slices.getLsbD (die * 128 + i))

/-- The home slice of a physical address: Home(a) of R187; none where the partition owns no slice of its die. -/
def PartDesc.homeSlice (d : PartDesc) (pa : Nat) : Option Nat :=
  let l := d.slicesOn (paDie pa)
  let h := Nat.xor (Nat.xor (Nat.xor (bits pa 14 8) (bits pa 21 15)) (bits pa 28 22)) (bits pa 37 31)
  l[h % max l.length 1]?

/-- Memory at a physical address is served to the partition: it owns the pseudo-channel, and a slice is the address's home (R187). -/
def PartDesc.serves (d : PartDesc) (pa : Nat) : Bool :=
  paPopulated pa && d.pchan.getLsbD (paDie pa * 128 + paChan pa) && (d.homeSlice pa).isSome

/-- The partition is served at a physical address whose pseudo-channel has trained (R187, R379). -/
def State.served (s : State) (part pa : Nat) : Bool :=
  (s.part part).desc.serves pa && !s.badChans.getLsbD (paDie pa * 128 + paChan pa)

/-- A leaf may map the physical address for the partition (R187, R191, R193, R379). -/
def State.mappable (s : State) (part pa : Nat) : Bool :=
  s.served part pa && !s.inTwinWindow (paDie pa) pa && !s.inCountPlane (paDie pa) pa

/-- A page-table entry that is malformed at its level (R191). -/
def pteMalformed (e lvl : Nat) : Bool :=
  let leaf := bitAt e 1
  let frame := bits e 39 12
  bits e 59 56 != 0 || bits e 11 5 != 0 || (leaf && lvl == 3) || (!leaf && lvl == 0) || (bitAt e 60 && lvl != 0) ||
    (leaf && lvl == 2 && frame % 2 ^ 18 != 0) || (leaf && lvl == 1 && frame % 2 ^ 9 != 0) ||
    (leaf && bitAt e 60 && frame % 16 != 0) ||
    (!leaf && (bitAt e 63 || bitAt e 62 || bitAt e 61 || bitAt e 60 || bits e 4 2 != 0))

/-- log2 of the page size of a leaf at a level (R191). -/
def pageBits (e lvl : Nat) : Nat := if lvl = 2 then 30 else if lvl = 1 then 21 else if bitAt e 60 then 16 else 12

/-- The table index of an address at a level (R190). -/
def tableIndex (va lvl : Nat) : Nat := bits va (20 + 9 * lvl) (12 + 9 * lvl) % (if lvl = 3 then 256 else 512)

/-- The walk of R191 from a table at a level down, each table's address first translated by `tab`: entry and level. Of the 16 entries of a
64 KiB page it reads the address's own; the spec lets any be used (log 33). -/
def walkGo (mem : List Host.Cell) (tab : Nat → Except WalkErr Nat) (stage addr : Nat) :
    Nat → Nat → Nat → Except WalkErr (Nat × Nat)
  | 0, table, lvl => .error { pageFault := true, lvl, stage, addr := table }
  | n + 1, table, lvl =>
    match tab (table + 8 * tableIndex addr lvl) with
    | .error e => .error e
    | .ok k =>
      let e := ofBytes (readBytes mem k 8)
      if !bitAt e 0 then .error { pageFault := true, lvl, stage, addr }
      else if pteMalformed e lvl then .error { pageFault := false, lvl, stage, addr }
      else if bitAt e 1 then .ok (e, lvl)
      else walkGo mem tab stage addr n (bits e 39 12 * 4096) (lvl - 1)

/-- The leaf of an entry for an address: its page's 4 KiB part (R191). -/
def leafOf (e lvl va : Nat) : Leaf :=
  let n := pageBits e lvl
  let pa := bits e 39 12 * 4096
  let full := pa - pa % 2 ^ n + va % 2 ^ n
  { base := full - full % 4096, r := bitAt e 2, w := bitAt e 3, x := bitAt e 4, span := bitAt e 62, lock := bitAt e 61,
    tw := bitAt e 63, lvl }

/-- The stage-2 leaf of an intermediate physical address (R192). -/
def State.stage2 (s : State) (t : TransCtx) (ipa : Nat) : Except WalkErr Leaf :=
  match walkGo s.mem .ok 1 ipa 4 t.root2.toNat 3 with
  | .error e => .error e
  | .ok (e, lvl) => .ok (leafOf e lvl ipa)

/-- The address a stage-1 table entry is read at: translated by stage 2 as a read, and served to the partition (R192). -/
def State.tableAddr (s : State) (part : Nat) (t : TransCtx) (ipa : Nat) : Except WalkErr Nat :=
  if t.stage2 then
    match s.stage2 t ipa with
    | .error e => .error e
    | .ok l =>
      let pa := l.base + ipa % 4096
      if l.r && s.mappable part pa then .ok pa else .error { pageFault := false, lvl := l.lvl, stage := 1, addr := ipa }
  else .ok ipa

/-- The combined leaf of a local address (R191, R192), before permissions. -/
def State.walk (s : State) (part : Nat) (t : TransCtx) (va : Nat) : Except WalkErr Leaf :=
  match walkGo s.mem (s.tableAddr part t) 0 va 4 t.root1.toNat 3 with
  | .error e => .error e
  | .ok (e, lvl) =>
    let l1 := leafOf e lvl va
    if t.stage2 then
      match s.stage2 t (l1.base + va % 4096) with
      | .error e => .error e
      | .ok l2 => .ok { base := l2.base, r := l1.r && l2.r, w := l1.w && l2.w, x := l1.x && l2.x, span := l2.span,
                        lock := l1.lock || l2.lock, tw := l1.tw && l2.tw, lvl := l1.lvl }
    else .ok l1

/-- The translation context of a partition's context. -/
def State.transOf (s : State) (part ctx : Nat) : TransCtx := ((s.part part).ctx ctx).trans

/-- The cached leaf of a page, if a TLB holds one (R194). -/
def State.tlbLook (s : State) (part ctx vpage : Nat) : Option Leaf :=
  ((s.part part).tlb.find? (fun e => e.ctx == ctx && e.vpage == vpage)).map (·.leaf)

/-- A walk that ends in a leaf whose directory lock is not set. -/
def unlocked : Except WalkErr Leaf → Bool
  | .ok w => !w.lock
  | .error _ => false

/-- The leaf an access uses: a cached one where a TLB holds it and the machine uses it, else that of a walk (R194; which of
the two is a free choice, log 15). A cached leaf under the directory lock serves no longer once the entry has L = 0 (R237). -/
def State.leaf (s : State) (part ctx : Nat) (va : Dword) : Except WalkErr Leaf :=
  let v := vaLocal va
  let walked := s.walk part (s.transOf part ctx) v
  let lifted := fun (l : Leaf) => l.lock && unlocked walked
  match s.tlbLook part ctx (v / 4096) with
  | some l => if Config.freeBool s.free && !lifted l then .ok l else walked
  | none => walked

/-- The access is permitted by a leaf (R191). -/
def Leaf.permits (l : Leaf) (n : Need) : Bool := (!n.r || l.r) && (!n.w || l.w) && (!n.x || l.x)

/-- A local virtual address translated for an access: physical address and leaf (R191). -/
def State.translate (s : State) (part ctx : Nat) (va : Dword) (n : Need) : Except WalkErr (Nat × Leaf) :=
  match s.leaf part ctx va with
  | .error e => .error e
  | .ok l =>
    let pa := l.base + vaLocal va % 4096
    if l.permits n && s.mappable part pa then .ok (pa, l)
    else .error { pageFault := false, lvl := l.lvl, stage := 0, addr := vaLocal va }

/-- The twin physical address of a translated address, and whether the twin's own entry is under the directory lock (R193, R196); none where
the twin access is refused. A twin IPA that stage 2 does not map refuses it too: it has no leaf with TW = 1 (log 33). -/
def State.twinAt (s : State) (part ctx pa : Nat) (l : Leaf) (va : Dword) : Option (Nat × Bool) :=
  let t := s.transOf part ctx
  let off : Int := signed 11 t.twd.toNat * 2 ^ 30
  let chk := fun (tp : Int) (lock : Bool) => if tp < 0 then none else
    let tn := tp.toNat
    if s.inTwinWindow (paDie pa) tn && paDie tn == paDie pa && s.served part tn then some (tn, lock) else none
  if !l.tw then none
  else if t.stage2 then
    match walkGo s.mem (s.tableAddr part t) 0 (vaLocal va) 4 t.root1.toNat 3 with
    | .error _ => none
    | .ok (e, lvl) =>
      let ipa : Int := ((leafOf e lvl (vaLocal va)).base + vaLocal va % 4096 : Nat) + off
      if ipa < 0 then none
      else match s.stage2 t ipa.toNat with
        | .error _ => none
        | .ok l2 => if l2.tw then chk ((l2.base + ipa.toNat % 4096 : Nat) : Int) l2.lock else none
  else chk ((pa : Int) + off) l.lock

/-- The twin physical address of a translated address (R193). -/
def State.twinPa (s : State) (part ctx pa : Nat) (l : Leaf) (va : Dword) : Option Nat := (s.twinAt part ctx pa l va).map (·.1)

/-- The count record of the granule whose twin bytes lie at a twin physical address (R193). -/
def State.countAt (s : State) (tpa : Nat) : Nat :=
  let d := paDie tpa
  s.image.cpbase.getD d 0 + (tpa - s.image.twlo.getD d 0) / 64 * 4

/-- The machine after accesses to some pages: their leaves may be cached, and the free choices they took are spent. -/
def State.noteTlb (s : State) (part ctx : Nat) (pages : List Nat) : State :=
  let s1 := { s with free := s.free + 1 }
  pages.foldl (fun s v =>
    match s.leaf part ctx (BitVec.ofNat 64 (v * 4096)) with
    | .error _ => s
    | .ok l => s.modPart part (fun p =>
        { p with tlb := { ctx, vpage := v, leaf := l } :: p.tlb.filter (fun e => !(e.ctx == ctx && e.vpage == v)) })) s1

/-- SPAN pages that an engine operation reaches on this device may be cached (R194, R388). -/
def State.noteSpan (s : State) (part ctx : Nat) (as_ : List Int) : State :=
  let mine := as_.filter (fun a => decide (0 ≤ a) && decide (a < 2 ^ 55) && vaDev (BitVec.ofInt 64 a) == s.image.devIdx.toNat)
  let pages := mine.foldl (fun (ps : List Nat) a => let v := vaLocal (BitVec.ofInt 64 a) / 4096; if ps.contains v then ps else v :: ps) []
  pages.foldl (fun s v => match s.leaf part ctx (BitVec.ofNat 64 (v * 4096)) with
    | .ok l => if !l.span then s else s.modPart part (fun p =>
        { p with tlb := { ctx, vpage := v, leaf := l } :: p.tlb.filter (fun e => !(e.ctx == ctx && e.vpage == v)) })
    | .error _ => s) s

end Sys2Proof.Machine
end

