-- ==== Sys2Proof/Machine/Access.lean ====
section
/-! DEFINITION. Thread-path accesses: buffer records, addresses of lanes, the checks of R206, and the events by which an
outstanding access takes its place (R176–R179, R197–R199, R205–R213, R238–R254). -/

namespace Sys2Proof.Machine

/-! ### Flat keys of memory (log 3) -/

/-- Key of a byte of a core's scratchpad. A workgroup's bytes lie together from a base of their own, which may lie above the
core's 512 KiB where smaller holes are taken: a fit is a matter of bytes only (R155). -/
def spKey (core off : Nat) : Nat := 2 ^ 44 + core * 2 ^ 30 + off

/-- Key of a byte of a die's chip scratchpad. -/
def csKey (die off : Nat) : Nat := 2 ^ 41 + die * 2 ^ 26 + off

/-- Key of byte o of a lane's private memory (R177). -/
def pvKey (wg fl lane o : Nat) : Nat := 2 ^ 48 + (wg * 32 + fl) * 2 ^ 21 + (o / 4 * 128 + 4 * lane + o % 4)

/-! ### Buffer records (R197) -/

/-- The fields of a buffer record that thread-path instructions read. -/
structure BufRec where
  base : Nat
  extent : Nat
  stride0 : Int
  stride1 : Int
  pol : Nat
  bmode : Nat
  early : Bool
  cnt : Bool
  deriving DecidableEq, Repr, Inhabited

/-- The record in s[S..S+7]. -/
def Flight.bufRec (f : Flight) (sb : Nat) : BufRec :=
  let w := fun i => (f.s (sb + i)).toNat
  let lo := w 0 + w 1 * 2 ^ 32
  { base := bits lo 55 0, cnt := bitAt lo 56, early := bitAt lo 57, bmode := bits lo 59 58, pol := bits lo 63 60,
    extent := w 2 + w 3 % 2 ^ 16 * 2 ^ 32, stride0 := signed 32 (w 4), stride1 := signed 32 (w 5) }

/-- What an M-format instruction asks of its accesses. -/
structure MemSpec where
  kind : AccKind
  need : Need
  natural : Nat
  twin : Bool
  locks : Bool
  writes : Bool
  isLoad : Bool
  deriving DecidableEq, Repr

/-- How the checks of R206 stop an instruction: a trap, a replayable page fault, a locked page, a home that is down. -/
inductive MemStop where
  | trap (cause sub : Byte) (info : Dword)
  | park (va : Dword) (e : WalkErr)
  | locked
  | homeDown (die : Nat) (va : Dword)
  deriving DecidableEq, Repr

/-- Where a lane's access goes: nowhere (out of bounds under clamp or drop), to bytes of spaces 1–4, or to global addresses. -/
inductive LaneTo where
  | out
  | flat (keys : List Nat) (lat : Nat) (die : Option Nat)
  | glob (vas : List Nat)
  deriving DecidableEq, Repr

/-- Width of an access in bytes (R38). -/
def widthOf (w : BitVec 3) : Nat := 2 ^ w.toNat

/-- The signed IMM12. -/
def imm12 (o : MFmt) : Int := signed 12 o.imm.toNat

/-- The index of a lane: v[A], or zero when A is 0 (R19, R176). -/
def Flight.index (f : Flight) (o : MFmt) (lane : Nat) : Nat := if o.a = 0#8 then 0 else (f.v lane o.a.toNat).toNat

/-- Effective addresses of a lane in space 0: one, or the two of a PSTP (R198, R213). -/
def globalAddrs (f : Flight) (o : MFmt) (rc : BufRec) (pstp : Bool) (lane : Nat) : List Int :=
  if pstp then
    let i : Int := (f.v lane o.a.toNat).toNat
    let j : Int := (f.v lane (o.a.toNat + 1)).toNat
    let w : Int := widthOf o.w
    [rc.base + i * rc.stride0 + j * w, rc.base + rc.stride1 + j * rc.stride0 + i * w]
  else [rc.base + (f.index o lane : Int) * rc.stride0 + imm12 o * rc.stride1]

/-- A lane's global address is in bounds (R198). -/
def inBounds (rc : BufRec) (w : Nat) (ea : Int) : Bool :=
  decide (0 ≤ ea - rc.base) && decide (ea - rc.base + w ≤ rc.extent)

/-- The scratchpad of a rank of the issuing flight's tether: core, base, bytes; that of a workgroup that has ended stays in range
(R178). -/
def State.rankPad (s : State) (g : Wg) (rank : Nat) : Option (Nat × (Nat × Nat)) :=
  ((look s.launches g.launch).bind (fun l => look l.tethers g.tether)).bind (fun t =>
    match (t.wgs[rank]?).bind (fun u => look s.wgs u) with
    | some h => some (h.core, (h.scratchBase, h.scratchBytes))
    | none => t.pads[rank]?)

/-- Where a lane's access in spaces 1–4 goes; none when it is out of the space's range (R176–R179). -/
def State.spaceAddr (s : State) (r : FlightRef) (g : Wg) (sp lane : Nat) (ea : Int) (w : Nat) : Option LaneTo :=
  if ea < 0 then none
  else
    let e := ea.toNat
    let run := fun key => (List.range w).map (fun i => key (e + i))
    match sp with
    | 1 => if e + w ≤ g.scratchBytes then some (.flat (run (fun x => spKey g.core (g.scratchBase + x))) 8 none) else none
    | 2 =>
      let rank := bits e 24 19
      let off := e % 2 ^ 19
      match s.rankPad g rank with
      | some (core, (base, n)) =>
        if 2 ^ 25 ≤ e ∨ n < off + w then none
        else some (.flat ((List.range w).map (fun i => spKey core (base + off + i))) 24 none)
      | none => none
    | 3 =>
      let die := bits e 27 26
      let off := e % 2 ^ 26
      let d := (s.part g.part).desc
      let win := (bits d.cswin.toNat (8 * die + 7) (8 * die)) * 2 ^ 20
      let base := (bits d.csoff.toNat (8 * die + 7) (8 * die)) * 2 ^ 20
      if 2 ^ 28 ≤ e ∨ win < off + w then none
      else some (.flat ((List.range w).map (fun i => csKey die (base + off + i)))
        (if die = dieOfCore g.core then 64 else 192) (some die))
    | _ =>
      match r with
      | .wg u fl => if e + w ≤ 65536 then some (.flat (run (pvKey u fl lane)) 8 none) else none
      | .ctl _ _ => none

/-- A twin instruction addresses the twin of what its record names: bit 55 is set after the bounds are checked (R238). -/
def twinVa (twin : Bool) (va : Nat) : Nat := if twin then Nat.lor va (2 ^ 55) else va

/-- Step 3 of R206 for one lane: alignment and range in spaces 1–4, bounds and natural alignment in space 0. -/
def State.laneTo (s : State) (r : FlightRef) (g : Wg) (f : Flight) (o : MFmt) (sp : MemSpec) (rc : BufRec) (lane : Nat) :
    Except MemStop LaneTo :=
  let w := widthOf o.w
  let bad := fun (sub : Byte) (ea : Int) => Except.error (MemStop.trap cBounds sub (BitVec.ofInt 64 ea))
  if o.sp = 0#3 then
    let eas := globalAddrs f o rc (sp.kind == .pstp) lane
    match eas.find? (fun ea => !inBounds rc w ea) with
    | some ea => if rc.bmode = 0 then bad 1 ea else .ok .out
    | none =>
      match eas.find? (fun ea => ea % (sp.natural : Int) != 0) with
      | some ea => bad 3 ea
      | none => .ok (.glob (eas.map (fun ea => twinVa sp.twin ea.toNat)))
  else
    let ea := (f.index o lane : Int) + imm12 o
    if ea % (max (min w 4) sp.natural : Int) ≠ 0 then bad 3 ea
    else match s.spaceAddr r g o.sp.toNat lane ea w with
      | some t => .ok t
      | none => bad 1 ea

/-- Parts of an access in its 256-byte lines (R208): first byte's index, address, length. -/
def lineParts (va w : Nat) : List (Nat × Nat × Nat) :=
  let n := 256 - va % 256
  if w ≤ n then [(0, va, w)] else [(0, va, n), (n, va + n, w - n)]

/-- Latency class of a home (R173). -/
def homeLat (own die : Nat) : Nat := if own = die then 128 else 256

/-- The die's homes serve requests (R372). -/
def State.dieUp (s : State) (d : Nat) : Bool := (s.die d).st == 0

/-- The home of a byte of memory serves requests: of HBM and chip scratchpads their die, of the rest always. -/
def State.keyUp (s : State) (k : Nat) : Bool :=
  if k < 2 ^ 40 then s.dieUp (paDie k) else if 2 ^ 41 ≤ k ∧ k < 2 ^ 44 then s.dieUp ((k - 2 ^ 41) / 2 ^ 26) else true

/-- Bytes of a piece lie in a sector marked lost (R360). -/
def State.hasLost (s : State) (keys : List Nat) : Bool := keys.any (fun k => s.lost.contains (k / 128))

/-- Some bytes lie in a sector whose data is uncorrectable and carries the poison mark (R361). -/
def State.poisoned (s : State) (keys : List Nat) : Bool := keys.any (fun k => s.poison.contains (k / 128))

/-- The counter window: the frames of the context's counter table (R148). -/
def State.inCounters (s : State) (part ctx pa : Nat) : Bool :=
  let b := (s.transOf part ctx).ctrbase.toNat
  decide (b ≤ pa) && decide (pa < b + 2 ^ 17)

/-- A piece of a lane on this device that has still to take its place. -/
def Piece.here (lane first : Nat) (va : Dword) (len : Nat) (keys : List Nat) (due : Nat) : Piece where
  lane := lane
  tid := 0
  first := first
  va := va
  len := len
  keys := keys
  dev := none
  sent := false
  back := false
  span := false
  due := due
  locked := false
  done := false
  refused := 0

/-- Steps 4–6 of R206 for one part of a global access made for a context from a die: its piece. Remote parts are left to their target;
a SPAN line of this device is out of reach while no plane is live (R389). Where `hold` says so, as in deterministic mode, an access to a
home that does not serve waits at it (R381). -/
def State.pieceAt (s : State) (pt cx die : Nat) (hold : Bool) (sp : MemSpec) (counts : Bool) (lane : Nat) (part : Nat × Nat × Nat) :
    Except MemStop Piece :=
  let (first, va, len) := part
  let v := BitVec.ofNat 64 va
  let trap := fun (c : Byte) => Except.error (MemStop.trap c 0 v)
  if 2 ^ 56 ≤ va then trap cNoncanon
  else if vaTwin v && !sp.twin then trap cProt
  else if vaDev v ≠ s.image.devIdx.toNat then
    .ok { Piece.here lane first v len [] 2048 with dev := some (vaDev v) }
  else
    match s.translate pt cx v sp.need with
    | .error e =>
      if e.pageFault && (s.transOf pt cx).fqsize != 0 then .error (.park v e)
      else trap (if e.pageFault then cPageFault else cProt)
    | .ok (pa, l) =>
      if sp.writes && s.inCounters pt cx pa then trap cProt
      else
        let twin := s.twinAt pt cx pa l v
        let dest := if sp.twin then twin.map (·.1) else if counts && twin.isNone then none else some pa
        match dest with
        | none => trap cProt
        | some a =>
          if sp.locks && (l.lock || ((sp.twin || counts) && (twin.map (·.2)).getD false)) then .error .locked
          else
          let keys := (List.range len).map (fun i => a + i)
          let d := paDie a
          if (s.die d).st = 6 then trap cHomeDown
          else if !s.dieUp d && !hold then .error (.homeDown d v)
          else if s.hasLost keys then trap cLostData
          else
            let span := l.span && !sp.twin
            .ok { Piece.here lane first v len keys (homeLat die d) with
              dev := if span && s.planes == 0 then some (vaDev v) else none
              span := span
              locked := l.lock && !sp.locks }

/-- Steps 4–6 of R206 for one part of a lane's global access. -/
def State.globPiece (s : State) (r : FlightRef) (sp : MemSpec) (counts : Bool) (lane : Nat) (part : Nat × Nat × Nat) :
    Except MemStop Piece := s.pieceAt (s.partOf r) (s.ctxOf r) (s.dieOf r) (s.det r) sp counts lane part

/-- The pieces of one lane. A PSTP's two positions are one event (R213); a remote one carries its second address. -/
def State.lanePieces (s : State) (r : FlightRef) (sp : MemSpec) (counts : Bool) (w lane : Nat) (t : LaneTo) :
    Except MemStop (List Piece) :=
  match t with
  | .out => .ok []
  | .flat keys lat die =>
    let here := [Piece.here lane 0 0 w keys lat]
    match die with
    | some d =>
      if (s.die d).st = 6 then .error (.trap cHomeDown 0 0)
      else if !s.dieUp d && !s.det r then .error (.homeDown d 0)
      else .ok here
    | none => .ok here
  | .glob vas =>
    match (vas.flatMap (fun va => lineParts va w)).mapM (s.globPiece r sp counts lane) with
    | .error e => .error e
    | .ok ps =>
      if sp.kind == .pstp then
        match ps with
        | p :: _ =>
          match ps.findSome? (·.dev) with
          | some d => .ok [{ p with len := w, dev := some d, keys := [vas.getD 1 0] }]
          | none => .ok [{ p with len := w, keys := ps.flatMap (·.keys) }]
        | [] => .ok []
      else .ok ps

/-- The checks of R206 over all participating lanes, step by step: the pieces, and the lanes out of bounds. -/
def State.memCheck (s : State) (r : FlightRef) (g : Wg) (f : Flight) (o : MFmt) (sp : MemSpec) (ls : List Nat) :
    Except MemStop (List Piece × List Nat) :=
  let rc := f.bufRec o.s.toNat
  if o.sp = 0#3 && !ls.isEmpty && (rc.bmode == 3 || (o.cp == 0#3 && decide (7 < rc.pol))) then
    .error (.trap cBounds 2 (BitVec.ofNat 64 rc.base))
  else
    let counts := o.sp = 0#3 && (match sp.kind with
      | .ldf cnt _ => cnt
      | _ => false)
    match ls.mapM (fun l => (s.laneTo r g f o sp rc l).map (fun t => (l, t))) with
    | .error e => .error e
    | .ok ts =>
      match ts.find? (fun p => match p.2 with
          | .glob vas => vas.any (fun va => decide (2 ^ 56 ≤ va))
          | _ => false) with
      | some (_, .glob vas) => .error (.trap cNoncanon 0 (BitVec.ofNat 64 (vas.headD 0)))
      | _ =>
        match ts.find? (fun p => match p.2 with
            | .glob vas => !sp.twin && vas.any (fun va => vaTwin (BitVec.ofNat 64 va))
            | _ => false) with
        | some (_, .glob vas) => .error (.trap cProt 0 (BitVec.ofNat 64 (vas.headD 0)))
        | _ =>
          match ts.mapM (fun p => s.lanePieces r sp counts (widthOf o.w) p.1 p.2) with
          | .error e => .error e
          | .ok ps => .ok (ps.flatten, (ts.filter (fun p => p.2 == .out)).map (·.1))

/-! ### The fault queue (R195) -/

/-- A fault queue entry for a page fault of a flight: it joins one that is outstanding for the page, or is written where the
queue has room (R195). -/
def State.faultEntry (s : State) (r : FlightRef) (pt cx : Nat) (va : Dword) (e : WalkErr) (kind : Nat) : State :=
  let c := (s.part pt).ctx cx
  let page := va.toNat % 2 ^ 55 / 4096
  let ring := { c.fqring with base := c.trans.fqbase, size := c.trans.fqsize }
  if c.faults.any (fun p => p.2 == page) || ring.full then s
  else
    let (lid, wgid, fl) := match r, s.wgOf r with
      | .wg _ fl, some g => (((look s.launches g.launch).map (·.id.toNat)).getD 0, g.wgid, fl)
      | _, _ => (0, 0, 0)
    let addr := if e.stage = 1 then e.addr else va.toNat
    let top := s.clk.toNat * 2 ^ 192 + lid * 2 ^ 160 + wgid * 2 ^ 128 + fl * 2 ^ 123 + s.coreOf r * 2 ^ 113 +
      e.stage * 2 ^ 112 + e.lvl * 2 ^ 110 + kind * 2 ^ 96 + addr
    let s1 := s.putBytes (ring.entryAt ring.prod 32) (toBytes 32 top)
    s1.modCtx pt cx (fun c => { c with fqring := c.fqring.produced, faults := c.faults ++ [(c.fqring.prod.toNat, page)] })

/-- Whenever a flight parks, the parked share of its context is compared, where another context could run (R343). -/
def State.parkTest (s : State) (r : FlightRef) : State :=
  let k := s.partOf r
  if (s.wgOf r).isSome && (s.part k).ctxs.any Ctx.canRun then
    (s.modPart k (fun p => { p with parkDue := true })).events [.sliceExpiry k]
  else s

/-- Parks a flight on fault service: it waits, and the parked share is compared (R332, R343). -/
def State.park (s : State) (r : FlightRef) (w : Wait) : State := (s.stall r w).parkTest r

/-- Parks a flight on a replayable page fault: it waits for its page. With the queue full the entry is written when the flight
faults again after a slot has freed (R195). -/
def State.parkFault (s : State) (r : FlightRef) (va : Dword) (e : WalkErr) (kind : Nat) : State :=
  (s.faultEntry r (s.partOf r) (s.ctxOf r) va e kind).park r (.fault (va.toNat % 2 ^ 55 / 4096))

/-- The clause and index of the instruction at which a flight stands (R334). -/
def Flight.standsAt (f : Flight) : Dword × Nat :=
  match f.clause with
  | some c => (c.addr, f.ix)
  | none => if f.sg = 0 then ((f.pick.map (·.1)).getD f.stopPc, 0) else (f.stopPc, f.stopIx)

/-- The name under which a flight waits for a die of a device of the domain (R381). -/
def farHome (dev die : Nat) : Nat := 4 + 4 * dev + die

/-- The name under which a flight waits until another device resumes a page fault there, or unlocks a page (R196, R387). -/
def farPark (dev : Nat) : Nat := 2048 + dev

/-- A trap queue entry of kind 3 reports that a flight has met HOME_DOWN (R332, R336). -/
def State.reportHome (s : State) (r : FlightRef) (va : Dword) : State :=
  s.postTrap (s.partOf r) (s.ctxOf r) none (s.flightEntry r s.clk.toNat 3 0 cHomeDown va ((s.flight? r).map Flight.standsAt))

/-- Parks a flight on a home that is down, under the name it waits for, with a report (R381); at a page of another device it parks without
one, as at one of this device (R196, R387). -/
def State.parkHome (s : State) (r : FlightRef) (name : Nat) (va : Dword) : State :=
  (if 2048 ≤ name then s else s.reportHome r va).park r (.homeDown name)

/-- Stops an instruction as its checks say; the lanes done stay in the done mask (R206, R207). -/
def State.memStop (s : State) (r : FlightRef) (kind : Nat) (stop : MemStop) : State :=
  match stop with
  | .trap c sub info => s.fault r c sub info
  | .park va e => s.parkFault r va e kind
  | .locked => s.park r .dirLock
  | .homeDown d va => s.parkHome r d va

/-! ### Data in registers (R205) -/

/-- The bytes of a lane's T span. -/
def Flight.spanBytes (f : Flight) (lane t n : Nat) : List Byte :=
  ((List.range ((n + 3) / 4)).flatMap (fun i => toBytes 4 (f.v lane (t + i)).toNat)).take n

/-- Writes bytes to a lane's T span, the lowest register first; a narrow value is extended to 32 bits (R209). -/
def Flight.putSpan (f : Flight) (lane t : Nat) (signExt : Bool) (bs : List Byte) : Flight :=
  let n := bs.length
  if n < 4 then
    let x := ofBytes bs
    f.setV lane t (BitVec.ofNat 32 (if signExt then wrap 32 (signed (8 * n) x) else x))
  else (List.range (n / 4)).foldl (fun f i => f.setV lane (t + i) (BitVec.ofNat 32 (fieldAt bs (4 * i) 4))) f

/-! ### Events (R208–R213) -/

/-- An atomic's new value and the flags it raises (R211). -/
def atomOp (op : BitVec 3) (ty : BitVec 2) (w old x : Nat) : Nat × Byte :=
  let n := 8 * w
  let fm : Fmt := if w = 8 then .fp64 else .fp32
  if ty = 2#2 then
    match op.toNat with
    | 0 => fused fm 0 0 [] [fm.decode old, fm.decode x]
    | 1 => minMaxNum fm false old x
    | _ => minMaxNum fm true old x
  else
    let sg := ty == 1#2
    match op.toNat with
    | 0 => ((old + x) % 2 ^ n, 0)
    | 1 => (if valOf sg n old ≤ valOf sg n x then old else x, 0)
    | 2 => (if valOf sg n old ≤ valOf sg n x then x else old, 0)
    | 3 => (Nat.land old x, 0)
    | 4 => (Nat.lor old x, 0)
    | 5 => (Nat.xor old x, 0)
    | _ => (x, 0)

/-- What one event does to memory: the new memory, the bytes it returns, the flags it raises. -/
structure EventOut where
  mem : List Host.Cell
  got : List Byte
  flags : Byte := 0

/-- The event of a load, store, atomic, ACAS or PSTP on the bytes at given keys (R209–R213). -/
def eventOn (m : List Host.Cell) (kind : AccKind) (keys : List Nat) (out : List Byte) : EventOut :=
  let old := keys.map (readByte m)
  match kind with
  | .load _ _ | .ldf _ _ => { mem := m, got := old }
  | .store | .unseal _ => { mem := writeKeys m (keys.zip out), got := [] }
  | .pstp => { mem := writeKeys m (keys.zip (out ++ out)), got := [] }
  | .atom op ty =>
    let w := keys.length
    let y := atomOp op ty w (ofBytes old) (ofBytes (out.take w))
    { mem := writeKeys m (keys.zip (toBytes w y.1)), got := old, flags := y.2 }
  | .acas =>
    let w := keys.length
    { mem := if old = out.take w then writeKeys m (keys.zip ((out.drop w).take w)) else m, got := old }
  | _ => { mem := m, got := [] }

/-! ### Granules (R239–R241) -/

/-- The state code and count of a granule, by the key of its twin bytes. -/
def State.granule (s : State) (g : Nat) : Nat × Nat :=
  let x := s.getNat (s.countAt g) 4
  (bits x 17 16, bits x 15 0)

/-- Writes a granule's count record; remote waiters are told when it leaves OPEN (R395). -/
def State.putGranule (s : State) (g st count : Nat) : State :=
  { s.putNat (s.countAt g) 4 (st * 2 ^ 16 + count) with ldaWaiters := if st = 1 then s.ldaWaiters else s.ldaWaiters.filter (fun p => !p.2.contains g) }

/-- Zeroes a granule's twin bytes. -/
def State.zeroGranule (s : State) (g : Nat) : State := s.putBytes g (List.replicate 64 0)

/-- Granules of some keys, each once, ascending. -/
def granulesOf (keys : List Nat) : List Nat :=
  keys.foldl (fun gs k => let g := k / 64 * 64; if gs.contains g then gs else gs ++ [g]) []

/-- The format of a staged element (R242, R252). -/
def stageFmt (n : Nat) : Fmt := if n = 0 then .fp32 else if n = 1 then .bf16 else .fp16

/-- Bytes of a staged element. -/
def stageSize (n : Nat) : Nat := if n = 0 then 4 else 2

/-- The twin bytes of a granule with a sum added, in element order (R243). -/
def State.addSum (s : State) (g : Nat) (e : StageEntry) : State :=
  let n := e.fmt.getD 0
  let fm := stageFmt n
  let sz := stageSize n
  e.sum.foldl (fun s p =>
    let k := g + p.1 * sz
    let y := fused fm 0 0 [] [fm.decode (s.getNat k sz), fm.decode p.2]
    s.putNat k sz y.1) s

/-- The commit of a staging entry at its granule's home (R241, R243). -/
def State.commit (s : State) (g : Nat) (e : StageEntry) : State :=
  let (st, count) := s.granule g
  if st = 3 then s
  else if e.poison || (st == 2 && (e.i != 0 || e.d != 0)) then s.putGranule g 3 count
  else
    let c : Int := (count + e.i : Nat) - (e.d : Int)
    if c < 0 ∨ 65535 < c then s.putGranule g 3 count
    else (s.addSum g e).putGranule g (if 0 < c then 1 else 2) c.toNat

/-- An empty staging entry. -/
def StageEntry.empty : StageEntry := { i := 0, d := 0, fmt := none, sum := [], poison := false }

/-- A counting load staged; one that would take I above 65,535 has trapped at its issue (R242, R250). -/
def StageEntry.addI (e : StageEntry) : StageEntry := { e with i := e.i + 1 }

/-- An STA's decrement staged; an overflow poisons (R242). -/
def StageEntry.addD (e : StageEntry) : StageEntry :=
  if e.d = 65535 then { e with poison := true } else { e with d := e.d + 1 }

/-- An element added into a staged sum; a second format poisons (R242). -/
def StageEntry.addElem (e : StageEntry) (n idx x : Nat) : StageEntry :=
  match e.fmt with
  | none => { e with fmt := some n, sum := put e.sum idx x }
  | some k =>
    if k ≠ n then { e with poison := true }
    else
      let fm := stageFmt n
      let y := match look e.sum idx with
        | none => x
        | some p => (fused fm 0 0 [] [fm.decode p, fm.decode x]).1
      { e with sum := put e.sum idx y }

/-- The tether a flight belongs to. -/
def State.tetherOf (s : State) (r : FlightRef) : Option (Nat × Nat × Tether) :=
  (s.wgOf r).bind (fun g => (look s.launches g.launch).bind (fun l =>
    (look l.tethers g.tether).map (fun t => (g.launch, g.tether, t))))

/-- Changes a tether. -/
def State.modTether (s : State) (l t : Nat) (f : Tether → Tether) : State :=
  s.modLaunch l (fun x => { x with tethers := alter x.tethers t f })

/-- Changes the staging entry of a granule, made when there is none (R242); a killed tether stages nothing (R248). -/
def State.stageAt (s : State) (r : FlightRef) (g : Nat) (f : StageEntry → StageEntry) : State :=
  match s.tetherOf r with
  | some (l, t, x) => if x.dying.isSome then s
    else s.modTether l t (fun y => { y with stage := put y.stage g (f ((look x.stage g).getD .empty)) })
  | none => s

/-- The entry a flight's tether holds for a granule. -/
def State.staged (s : State) (r : FlightRef) (g : Nat) : Option StageEntry :=
  (s.tetherOf r).bind (fun x => look x.2.2.stage g)

/-- A tether that can no longer be relaunched (R245). -/
def State.noRelaunch (s : State) (r : FlightRef) : State :=
  match s.tetherOf r with
  | some (l, t, _) => s.modTether l t (fun y => { y with norelaunch := true })
  | none => s

end Sys2Proof.Machine
end

