-- ==== Sys2Proof/Machine/Mem.lean ====
section
/-! DEFINITION. The M-format instructions (R209–R215, R250–R254) and the events by which their accesses take their places and
their data arrives (R134, R207, R208). -/

namespace Sys2Proof.Machine

/-! ### Remote operations at the source (R387, R391, R392) -/

/-- Sets a flight's sticky peer bit for a device (R223). -/
def Flight.setPeer (f : Flight) (dev : Nat) : Flight := { f with peer := setBit f.peer dev true }

/-- A live plane leads to other devices (R385). -/
def State.planesUp (s : State) : Bool := s.planes != 0

/-- The flight a remote operation belongs to. -/
def Waiter.flight : Waiter → FlightRef
  | .access r _ _ => r
  | .copy r _ _ _ => r
  | .tile r _ _ _ => r
  | .spool r => r
  | .spoolOp r => r
  | .fetch r => r

/-- The domain context under which a flight sends (R386). -/
def State.domOf (s : State) (r : FlightRef) : DomCtx := ((s.part (s.partOf r)).ctx (s.ctxOf r)).dom

/-- A context's domain lets its flights reach other devices (R387). -/
def State.reaches (s : State) (part ctx : Nat) : Bool := ((s.part part).ctx ctx).dom.domen && s.planesUp

/-- The virtual lane of an operation's packets (R394). -/
def remLane (o : RemOp) : Nat := if o.kind = RemKind.spoolReturn then 2 else 0

/-- The live planes on which a lane is not stopped (R394). -/
def State.openPlanes (s : State) (lane : Nat) : List Nat :=
  (List.range 64).filter (fun p => s.planes.getLsbD p && !s.stopped.contains (p, lane))

/-- The plane a packet is sent on: some live plane whose lane is not stopped (R391; a free choice, log 4). -/
def State.somePlane (s : State) (lane : Nat) : Nat :=
  let ps := s.openPlanes lane
  ps.getD (Config.freeNat s.free % max ps.length 1) 0

/-- A delivery context can send an operation: fewer than 64 are unacknowledged, and a lane is open (R392, R394). -/
def State.canSend (s : State) (c : SrcCtx) (op : RemOp) : Bool := decide (c.waiting.length < 64) && !(s.openPlanes (remLane op)).isEmpty

/-- An operation takes its place in a delivery context: the next SEQ is its own (R391). -/
def SrcCtx.enqueue (c : SrcCtx) (who : Waiter) (op : RemOp) : SrcCtx :=
  { c with seq := c.seq + 1, queued := c.queued ++ [(c.seq, (who, op))] }

/-- Operations that wait in a delivery context are sent while they can be, in the order of their lane (R392, R394). -/
def State.pumpCtx (key : Nat) : Nat → State → State
  | 0, s => s
  | n + 1, s =>
    match look s.srcCtx key with
    | none => s
    | some c =>
      match c.queued.find? (fun x => s.canSend c x.2.2) with
      | none => s
      | some (seq, (who, op)) =>
        let now := s.clk.toNat
        let p : Packet := { seq, who, op, domid := (s.domOf who.flight).domid, pts := (s.core (s.coreOf who.flight)).pts,
                            plane := s.somePlane (remLane op), firstSent := now, sentAt := now }
        State.pumpCtx key n { s with
          free := s.free + 1
          srcCtx := put s.srcCtx key
            { c with waiting := c.waiting ++ [p], queued := c.queued.filter (fun x => x.1 != seq), lastUse := now } }

/-- Sends one remote operation in the delivery context of its partition and target (R391, R392): a new context opens with a new epoch, and
the operation waits, in its place of the order of issue, while it cannot be sent. -/
def State.send (s : State) (part dev : Nat) (who : Waiter) (op : RemOp) : State :=
  let key := part * 256 + dev
  let c := (look s.srcCtx key).getD { epoch := BitVec.ofNat 32 s.uid, seq := 0, waiting := [], queued := [], lastUse := s.clk.toNat }
  State.pumpCtx key 1 { s with uid := s.uid + 1, srcCtx := put s.srcCtx key { c.enqueue who op with lastUse := s.clk.toNat } }

/-- Operations that wait in any delivery context are sent while they can be. -/
def State.pumpCtxs (s : State) : State := (s.srcCtx.map (·.1)).foldl (fun s k => State.pumpCtx k 65536 s) s

/-- Lines homed on a plane (R388): bits of a physical address and the owner's index choose among the live planes. -/
def homePlane (planes : BitVec 64) (dev pa : Nat) : Option Nat :=
  let live := (List.range 64).filter (fun p => planes.getLsbD p)
  let h := Nat.xor (Nat.xor (Nat.xor (Nat.xor (bits pa 13 8) (bits pa 19 14)) (bits pa 25 20)) (bits pa 31 26)) (dev % 64)
  live[h % max live.length 1]?

/-- A write to a SPAN line waits: its home has changed within the last 4,096 cycles (R389). -/
def State.spanHeld (s : State) (key : Nat) : Bool :=
  let dev := s.image.devIdx.toNat
  s.spanHold.any (fun p => homePlane (BitVec.ofNat 64 p.2.1) dev key != homePlane s.planes dev key)

/-- The kind of a remote operation. -/
def remKind (k : AccKind) : RemKind :=
  match k with
  | .load _ _ => .load
  | .store | .unseal _ => .store
  | .atom op ty => .atom op ty
  | .acas => .acas
  | .pstp => .pstp
  | .ldf cnt _ => .ldf cnt
  | .sta ty cnt => .sta ty cnt
  | .lda => .lda false
  | .twReset => .twReset
  | .twQuery => .twQuery

/-! ### Pieces and lanes of an access -/

/-- The bit of a piece in the done mask (R339): 2l for a lane's first line, 2l + 1 for its second. -/
def Piece.bit (p : Piece) : Nat := if p.first = 0 then 2 * p.lane else 2 * p.lane + 1

/-- Every piece of a lane has been performed. -/
def Acc.laneDone (a : Acc) (lane : Nat) : Bool := a.pieces.all (fun p => p.lane != lane || p.done)

/-- Every piece has been performed, and every lane has its data. -/
def Acc.complete (a : Acc) : Bool := a.pieces.all (fun p => p.done && a.arrived.getLsbD p.lane)

/-- A lane's access lies in one line. -/
def oneLine (ps : List Piece) (lane : Nat) : Bool := ps.all (fun p => p.lane != lane || p.first == 0)

/-- The done-mask bits of some pieces of an access: a lane that touches one line has both bits (R339). -/
def doneBits (all some_ : List Piece) : Dword :=
  some_.foldl (fun m p =>
    let m1 := setBit m p.bit true
    if all.all (fun q => q.lane != p.lane || q.first == p.first) then setBit (setBit m1 (2 * p.lane) true) (2 * p.lane + 1) true
    else m1) 0

/-- The access counts as a load (R27). -/
def AccKind.isLoad : AccKind → Bool
  | .store | .pstp | .sta _ _ | .twReset | .unseal _ => false
  | _ => true

/-- The store of an UNSEAL, which no count of R27 holds (R220; log 33). -/
def AccKind.isUnseal : AccKind → Bool
  | .unseal _ => true
  | _ => false

/-- The access reads and writes nothing. -/
def AccKind.isPlain : AccKind → Bool
  | .load _ _ | .ldf _ _ => true
  | _ => false

/-- The access is a split load (R134). -/
def AccKind.isSplit : AccKind → Bool
  | .load _ sp => sp
  | .ldf _ sp => sp
  | _ => false

/-- The access contributes to the tether's staging (R242). -/
def AccKind.isSta : AccKind → Bool
  | .sta _ _ => true
  | _ => false

/-- Lanes that meet on a byte take effect in ascending order (R208); those of an STA that meet on a granule are staged so (R242). -/
def AccKind.inLaneOrder : AccKind → Bool
  | .store | .pstp | .atom _ _ | .acas | .sta _ _ => true
  | _ => false

/-- A remote operation after which its tether cannot be relaunched (R245, R395). -/
def AccKind.bindsTether : AccKind → Bool
  | .ldf cnt _ => cnt
  | .sta _ _ | .lda | .twReset => true
  | _ => false

/-- A flight's access by its name. -/
def Flight.acc? (f : Flight) (id : Nat) : Option Acc := f.accs.find? (fun a => a.id == id)

/-- A flight's access by its name, in the machine. -/
def State.acc? (s : State) (r : FlightRef) (id : Nat) : Option (Flight × Acc) :=
  (s.flight? r).bind (fun f => (f.acc? id).map (fun a => (f, a)))

/-- Replaces an access. -/
def Flight.putAcc (f : Flight) (a : Acc) : Flight := { f with accs := f.accs.map (fun b => if b.id = a.id then a else b) }

/-- The split-load counts of a lane: LoadsL(l) of R134. -/
def Flight.loadsL (f : Flight) (lane : Nat) : Nat :=
  let outstanding := f.accs.filter (fun a => a.kind.isLoad && a.kind.isSplit && !a.arrived.getLsbD lane &&
    a.pieces.any (fun p => p.lane == lane))
  f.nLoads - (f.accs.filter (fun a => a.kind.isLoad && a.kind.isSplit)).length + outstanding.length

/-- The wait test of R28 with the loads counted for one lane (R134). -/
def Flight.waitOk (f : Flight) (ld st cp tl lane : Nat) : Bool :=
  (ld == 63 || decide (f.loadsL lane ≤ ld)) && (st == 63 || decide (f.nStores ≤ st)) &&
    (cp == 15 || decide (f.nCopies ≤ cp)) && (tl == 15 || decide (f.nTiles ≤ tl))

/-- The wait fields of a header hold for a lane (R28, R134). -/
def Flight.headerOk (f : Flight) (h : Dword) (lane : Nat) : Bool :=
  let x := h.toNat
  f.waitOk (bits x 55 50) (bits x 49 44) (bits x 43 40) (bits x 39 36) lane

/-- Late threads whose test passes, with the header at which they became late, run again (R134). -/
def Flight.lateReady (f : Flight) : Flight :=
  let late := maskOf (fun l => f.late.getLsbD l && !f.headerOk ((look f.lateHdrs l).getD 0) l)
  { f with late, lateHdrs := f.lateHdrs.filter (fun p => late.getLsbD p.1) }

/-- A flight that waits for its counts may go on once one has fallen, and so may its late threads (R134). -/
def Flight.poke (f : Flight) : Flight :=
  Flight.lateReady { f with wait := if f.wait = .counts ∨ f.wait = .drain then .ready else f.wait }

/-- Drops a complete access and lowers its count (R27). -/
def Flight.dropAcc (f : Flight) (a : Acc) : Flight :=
  Flight.poke { f with
    accs := f.accs.filter (fun b => b.id != a.id)
    nLoads := if a.kind.isLoad then f.nLoads - 1 else f.nLoads
    nStores := if a.kind.isLoad || a.kind.isUnseal then f.nStores else f.nStores - 1 }

/-- The bytes a lane has read so far, its first line before its second. -/
def laneBytes (a : Acc) (lane : Nat) : List Byte := ((a.got.filter (fun p => p.1 / 2 == lane)).map (·.2)).flatten

/-- The registers of a lane's T span whose bytes have all been read. -/
def Acc.regsRead (a : Acc) (lane : Nat) : Nat :=
  let n := (laneBytes a lane).length
  if a.bytes < 4 then (if n = a.bytes then 1 else 0) else n / 4

/-- Writes a lane's returned data to the registers of its T span whose bytes have been read, but those named, which keep what they hold
(R209, R211, R251). -/
def Flight.landBut (f : Flight) (a : Acc) (lane : Nat) (but : List Nat) : Flight :=
  let sx := match a.kind with
    | .load sx _ => sx
    | _ => false
  if a.regsRead lane = 0 then f
  else (but.filter (fun k => k / 256 == lane)).foldl (fun g k => g.setV lane (k % 256) (f.v lane (k % 256)))
    (f.putSpan lane a.t sx ((laneBytes a lane).take (4 * a.regsRead lane)))

/-- A lane's data arrives: the registers that do not hold theirs yet take it; a later write to the others stands (R29). -/
def Flight.deliver (f : Flight) (a : Acc) (lane : Nat) : Flight := if a.kind.isLoad then f.landBut a lane a.landed else f

/-- Some registers of a lane of which a line has been read take their data before the load's arrival, which ones is free (R29). -/
def Flight.landSome (f : Flight) (a : Acc) (lane n : Nat) : Flight :=
  let span := (List.range (a.regsRead lane)).map (fun i => lane * 256 + (a.t + i))
  let new := span.filter (fun k => !a.landed.contains k && Config.freeBool (n + k))
  (f.landBut a lane (span.filter (fun k => !new.contains k))).putAcc { a with landed := a.landed ++ new }

/-! ### What waits for an access -/

/-- Applies a change to every flight. -/
def State.allFlights (s : State) (f : Flight → Flight) : State :=
  { s with
    wgs := mapVals s.wgs (fun _ g => { g with flights := g.flights.map f })
    parts := s.parts.map (fun p => { p with ctls := mapVals p.ctls (fun _ c => { c with flight := f c.flight }) }) }

/-- A flight that waits for room in the twin staging, or for its tether to be quiet (R246), looks again. -/
def Flight.restage (f : Flight) : Flight := { f with wait := if f.wait = .staging then .ready else f.wait }

/-- A flight that waits for operations to complete looks again. -/
def Flight.undrain (f : Flight) : Flight := { f with wait := if f.wait = .drain then .ready else f.wait }

/-- An access of a workgroup has ended: what its flights wait for may have come about, and so may what any flight waits for that is to
stage. -/
def State.pokeWg (s : State) (r : FlightRef) : State :=
  let s1 := match r with
    | .wg w _ => s.modWg w (fun g => { g with flights := g.flights.map Flight.undrain })
    | .ctl _ _ => s
  s1.allFlights Flight.restage

/-- The name under which a parked LDA waits for a granule of another device. -/
def farGranule (va : Dword) : Nat := 2 ^ 60 + va.toNat / 64

/-- A flight parks at an LDA until a granule leaves OPEN (R253); the time of its first park stays (R253). -/
def State.parkTwin (s : State) (r : FlightRef) (f : Flight) (gs : List Nat) : State :=
  (s.setFlight r { f with twinPark := some (f.twinPark.getD (s.now r)) }).park r (.twin gs)

/-- The outcome of an LDA whose lines have all been served or refused (R253): lanes whose every line is done get their data;
then the flight traps, parks, or retires. -/
def State.ldaOutcome (s : State) (r : FlightRef) (f : Flight) (a : Acc) : State :=
  let served := a.pieces.filter (fun p => p.refused == 0)
  let mask := f.doneMask ||| doneBits a.pieces served
  let data := a.got.foldl (fun d p => put d p.1 p.2) f.ldaData
  let full := lanes.filter (fun l => mask.getLsbD (2 * l) && mask.getLsbD (2 * l + 1) && a.lanes.getLsbD l)
  let f1 := full.foldl (fun g l => g.putSpan l a.t false (((look data (2 * l)).getD []) ++ ((look data (2 * l + 1)).getD []))) f
  let f2 := ({ f1 with doneMask := mask, ldaData := data }).dropAcc a
  let poisoned := a.pieces.find? (fun p => p.refused == 2)
  let open_ := a.pieces.filter (fun p => p.refused == 1)
  let other := a.pieces.find? (fun p => decide (3 ≤ p.refused))
  let bad := a.pieces.find? (fun p => p.refused == 1 || p.refused == 2)
  let va := (bad.map (·.va)).getD 0
  if f.stopped then
    (if a.pieces.all (fun p => p.refused == 0) then s.setFlight r (f2.released (s.det r)) else s.setFlight r { f2 with wait := .ready })
  else match a.fault with
    | some (c, (sub, info)) => (s.setFlight r f2).fault r c sub info
    | none =>
      if poisoned.isSome then (s.setFlight r f2).fault r cTwinPoison 0 va
      else if !open_.isEmpty then
        if a.early then (s.setFlight r f2).fault r cTwinEarly 0 va
        else s.parkTwin r f2 (open_.flatMap (fun p => if p.dev.isSome then [farGranule p.va] else (look a.granules p.bit).getD []))
      else match other with
        | some p => (s.setFlight r f2).parkHome r p.refused p.va
        | none => s.retire r f2

/-- The float flags of an ATOM's lanes that were held back are raised as the instruction completes (R23). -/
def Flight.raiseHeld (k : AccKind) (f : Flight) : Flight :=
  match k with
  | .atom _ _ => { f.raise f.opFlags with opFlags := 0 }
  | _ => f

/-- What the lines of an access have read is kept for the lanes that are not done as a whole (R207). -/
def Flight.keepGot (f : Flight) (a : Acc) : Flight := { f with ldaData := a.got.foldl (fun d p => put d p.1 p.2) f.ldaData }

/-- The outcome of an instruction that was held for its remote lanes (R207): it traps for the fault of the lowest lane that its target
found one for, parks where a home is down, or completes. One that a halt has stopped meanwhile completes, or executes again at the
resume for the lanes outside the done mask. -/
def State.remoteOutcome (s : State) (r : FlightRef) (f0 : Flight) (a : Acc) : State :=
  let f := f0.keepGot a
  let down := a.pieces.find? (fun p => decide (4 ≤ p.refused))
  if f.stopped then
    s.setFlight r (if a.fault.isSome || down.isSome then { f with wait := .ready } else (f.raiseHeld a.kind).released (s.det r))
  else match a.fault with
    | some (c, (sub, info)) => (s.setFlight r f).fault r c sub info
    | none => match down with
      | some p => (s.setFlight r f).parkHome r p.refused p.va
      | none => s.retire r (f.raiseHeld a.kind)

/-- A lane of an access whose pieces are all performed has arrived: its data is delivered, and a counting load stages its increments
(R251); a WAIT that holds for a split load looks again (R134). -/
def State.arrive (s : State) (r : FlightRef) (f : Flight) (a : Acc) (lane : Nat) : State :=
  let good := a.pieces.all (fun p => p.lane != lane || p.refused == 0)
  let f1 := (if good && a.kind != .lda then f.deliver a lane else f).putAcc { a with arrived := setBit a.arrived lane true }
  let s1 := s.setFlight r (if a.kind.isSplit then f1.poke else f1)
  match a.kind with
  | .ldf true _ => if good then ((look a.granules lane).getD []).foldl (fun s g => s.stageAt r g .addI) s1 else s1
  | _ => s1

/-- A complete access leaves its count; an instruction held for it goes on (R27, R207, R253). -/
def State.conclude (s : State) (r : FlightRef) (id : Nat) : State :=
  match s.acc? r id with
  | none => s
  | some (f, a) =>
    if !a.complete then s
    else
      (match a.kind with
        | .lda => s.ldaOutcome r f a
        | _ =>
          let f1 := f.dropAcc a
          if f1.wait = Wait.remote a.id then s.remoteOutcome r f1 a else s.setFlight r f1).pokeWg r

/-- After pieces of an access are performed: a lane that has not arrived, and whose pieces are all performed, arrives, and the access may
be complete. -/
def State.settle (s : State) (r : FlightRef) (id lane : Nat) : State :=
  match s.acc? r id with
  | none => s
  | some (f, a) =>
    (if a.laneDone lane && !a.arrived.getLsbD lane && a.pieces.any (fun p => p.lane == lane) then s.arrive r f a lane else s).conclude r id

/-- The bytes of a lane's data that belong to a piece. -/
def Acc.outFor (a : Acc) (p : Piece) : List Byte :=
  let bs := (look a.out p.lane).getD []
  match a.kind with
  | .store | .sta _ _ | .unseal _ => slice bs p.first p.len
  | _ => bs

/-- Pieces of an access whose event is one with a given piece: those of one granule of a TWCTL, of one twin line of an LDA
(R253, R254). -/
def Acc.group (a : Acc) (p : Piece) : List Nat :=
  let same := fun (q : Piece) => match a.kind with
    | .lda => (q.keys.headD 0) / 256 == (p.keys.headD 0) / 256
    | .twReset | .twQuery => (q.keys.headD 0) / 64 == (p.keys.headD 0) / 64
    | _ => q.lane == p.lane && q.first == p.first
  (List.range a.pieces.length).filter (fun i => match a.pieces[i]? with
    | some q => same q && !q.done && q.dev.isNone
    | none => false)

/-- The pieces of some indices. -/
def Acc.at (a : Acc) (is : List Nat) : List Piece := is.filterMap (fun i => a.pieces[i]?)

/-- Changes some pieces of an access, and notes what they have read. -/
def Acc.mark (a : Acc) (is : List Nat) (got : Piece → Option (List Byte)) (f : Piece → Piece) : Acc :=
  { a with
    pieces := is.foldl (fun l i => modAt l i f) a.pieces
    got := (a.at is).foldl (fun g p => match got p with
      | some bs => put g p.bit bs
      | none => g) a.got }

/-- A piece performed, or refused. -/
def Piece.end_ (refused : Nat) (p : Piece) : Piece := { p with done := true, refused }

/-! ### Events of pieces (R207–R213, R253, R254) -/

/-- The lease sequence's times at a line (R235 names Pts; log 6): a read raises the core's Pts to the line's Wts and the
line's Rts to Pts plus the lease; a write takes its place above the line's Rts. -/
def State.touchLine (s : State) (core line : Nat) (write : Bool) (lease : Nat) : State :=
  let c := s.core core
  let (w, rt) := sget (0, 0) s.lineTime line
  if write then
    let t := max c.pts (rt + 1)
    { s.modCore core (fun c => { c with pts := t }) with lineTime := sput (0, 0) s.lineTime line (t, t) }
  else
    let t := max c.pts w
    { s.modCore core (fun c => { c with pts := t }) with lineTime := sput (0, 0) s.lineTime line (w, max rt (t + lease)) }

/-- The 8-byte words that a launch has changed keep what they held, which a fetch of their clause may still give (R33; log 31): to be
applied to the state after the write, with the keys written and memory as it was. -/
def State.noteCode (s : State) (r : FlightRef) (keys : List Nat) (before : List Host.Cell) : State :=
  match s.wgOf r with
  | none => s
  | some g =>
    let words := keys.foldl (fun ws k => let w := k / 8 * 8; if ws.contains w then ws else ws ++ [w]) []
    s.modLaunch g.launch (fun l => { l with code := words.foldl (fun c w =>
      let old := BitVec.ofNat 64 (ofBytes (readBytes before w 8))
      let known := (look c w).getD []
      if old = BitVec.ofNat 64 (ofBytes (readBytes s.mem w 8)) || known.contains old then c else put c w (known ++ [old])) l.code })

/-- The fault that is found for a lane of an access that has issued: of several the lowest lane's counts (R207). -/
def Acc.faultAt (a : Acc) (lane : Nat) (t : Byte × (Byte × Dword)) : Acc :=
  if a.pieces.any (fun p => p.refused == 3 && decide (p.lane < lane)) then a else { a with fault := some t }

/-- The tether of a flight holds a contribution to a granule that has not committed (R232, R250). -/
def State.ownsShare (s : State) (r : FlightRef) (g : Nat) : Bool :=
  match s.staged r g with
  | some e => e.d != 0 || !e.sum.isEmpty
  | none => false

/-- One event of LDA on a twin line (R241, R253). A contribution of its own tether that has been staged since its issue still makes it trap
TWIN_SELF (R232); of a refused line the granules that were OPEN are noted. -/
def State.ldaLine (s : State) (r : FlightRef) (a : Acc) (is : List Nat) : State × Acc :=
  let ps := a.at is
  let gs := granulesOf (ps.flatMap (·.keys))
  let opened := gs.filter (fun g => (s.granule g).1 == 1)
  match ps.find? (fun p => (granulesOf p.keys).any (s.ownsShare r)) with
  | some p => (s, (a.faultAt p.lane (cTwinSelf, (0, p.va))).mark is (fun _ => none) (.end_ 3))
  | none =>
  if gs.any (fun g => (s.granule g).1 == 3) then (s, a.mark is (fun _ => none) (.end_ 2))
  else if !opened.isEmpty then
    (s, Acc.mark { a with granules := ps.foldl (fun m (p : Piece) => put m p.bit opened) a.granules } is (fun _ => none) (.end_ 1))
  else
    let isFull := fun g => (s.granule g).1 == 2
    let val := fun k => if isFull (k / 64 * 64) then readByte s.mem k else 0
    let s1 := gs.foldl (fun s g => if (s.granule g).1 == 2 then (s.zeroGranule g).putGranule g 0 0 else s) s
    let s2 := if gs.any isFull then s1.noRelaunch r else s1
    (s2, a.mark is (fun p => some (p.keys.map val)) (.end_ 0))

/-- One piece of an STA enters the staging (R242, R252): decrements, then its elements in order. -/
def State.stagePiece (s : State) (r : FlightRef) (ty : Nat) (cnt : Bool) (p : Piece) (bs : List Byte) : State :=
  let s1 := if cnt then (granulesOf p.keys).foldl (fun s g => s.stageAt r g .addD) s else s
  let sz := stageSize ty
  (List.range (p.keys.length / sz)).foldl (fun s i =>
    let k := p.keys.getD (i * sz) 0
    s.stageAt r (k / 64 * 64) (fun e => e.addElem ty (k % 64 / sz) (fieldAt bs (i * sz) sz))) s1

/-- The event of one piece and of the pieces that are one event with it (R208, R209–R213, R253, R254): the machine after it, the access,
the flags raised. A failed compare of ACAS is a read (R212). -/
def State.pieceOn (s : State) (r : FlightRef) (a : Acc) (p : Piece) : State × (Acc × Byte) :=
  let is := a.group p
  match a.kind with
  | .lda => let x := s.ldaLine r a is; (x.1, (x.2, 0))
  | .twReset =>
    let g := p.keys.headD 0 / 64 * 64
    (((s.zeroGranule g).putGranule g 0 0).noRelaunch r, (a.mark is (fun _ => none) (.end_ 0), 0))
  | .twQuery =>
    let g := p.keys.headD 0 / 64 * 64
    let (st, count) := s.granule g
    let held := if (s.staged r g).isSome then 2 ^ 18 else 0
    (s, (a.mark is (fun _ => some (toBytes 4 (held + st * 2 ^ 16 + count))) (.end_ 0), 0))
  | .sta ty cnt => (s.stagePiece r ty cnt p (a.outFor p), (a.mark is (fun _ => none) (.end_ 0), 0))
  | _ =>
    let ev := eventOn s.mem a.kind p.keys (a.outFor p)
    let wr := match a.kind with
      | .load _ _ | .ldf _ _ => false
      | .acas => ev.got == (a.outFor p).take p.len
      | _ => true
    (((({ s with mem := ev.mem }).noteCode r p.keys s.mem).touchLine (s.coreOf r) (p.keys.headD 0 / 256) wr a.lease),
      (a.mark is (fun _ => if a.kind.isLoad then some ev.got else none) (.end_ 0), ev.flags))

/-- Flags that lanes of an access raise: those of an instruction that is held for other lanes wait until it completes, since one that traps
sets no flag (R23, R207). -/
def Flight.raiseFor (f : Flight) (id : Nat) (flags : Byte) : Flight :=
  if f.wait = .remote id then { f with opFlags := f.opFlags ||| flags } else f.raise flags

/-- The access may write memory where it takes its place. -/
def AccKind.isWrite : AccKind → Bool
  | .store | .atom _ _ | .acas | .pstp | .unseal _ => true
  | _ => false

/-- A flight notes memory as it stood before one of its own writes: a snapshot of an operation that it issues before a FENCEX may have its
place there (R228). -/
def Flight.notePast (f : Flight) (mem : List Host.Cell) : Flight := { f with pastC := f.pastC ++ [mem], pastM := f.pastM ++ [mem] }

/-- One of the places in T that a snapshot may have: the present one, or, outside deterministic mode, before an own write (R228, R235; a free
choice, log 4). -/
def pastOf (n : Nat) (pasts : List (List Host.Cell)) : Option (List Host.Cell) :=
  if pasts.isEmpty then none else (none :: pasts.map some).getD (Config.freeNat n % (pasts.length + 1)) none

/-- The event of a piece in its flight. -/
def State.pieceEvent (s : State) (r : FlightRef) (f : Flight) (a : Acc) (p : Piece) : State :=
  let (s1, (a1, flags)) := s.pieceOn r a p
  let f1 := (((s1.flight? r).getD f).putAcc a1).raiseFor a.id flags
  s1.setFlight r (if a.kind.isWrite && !s.det r then f1.notePast s.mem else f1)

/-! ### Which pieces can take their places (R208, R226–R229, R381, R389) -/

/-- The virtual bytes of a piece of another device, as starts of its length: a PSTP has two (R213). -/
def Piece.farBytes (pstp : Bool) (p : Piece) : List Nat := p.va.toNat :: (if pstp then [p.keys.headD 0] else [])

/-- Two pieces of an access meet: on a byte, in the staging on a granule; on another device on a virtual byte. -/
def Acc.meet (a : Acc) (p q : Piece) : Bool :=
  if p.dev.isSome || q.dev.isSome then
    p.dev == q.dev && (p.farBytes (a.kind == .pstp)).any (fun x => (q.farBytes (a.kind == .pstp)).any (fun y =>
      decide (x < y + q.len) && decide (y < x + p.len)))
  else if a.kind.isSta then (granulesOf p.keys).any (fun g => (granulesOf q.keys).contains g)
  else p.keys.any (fun k => q.keys.contains k)

/-- The flights whose accesses may stand before one of a flight in program order: SORTK moves threads within a workgroup (R226). -/
def State.peers (s : State) (r : FlightRef) : List Flight :=
  match s.wgOf r with
  | some g => g.flights
  | none => (s.flight? r).toList

/-- Every access that a thread issued before another has taken its place (A1 of R227). -/
def State.threadClear (s : State) (r : FlightRef) (tid : Word) (id : Nat) : Bool :=
  (s.peers r).all (fun f => f.accs.all (fun b => decide (id ≤ b.id) || b.pieces.all (fun q => q.done || q.tid != tid)))

/-- STAs of a tether enter its staging in the order of issue (R242), in deterministic mode in that of their ticks (R173; log 33). -/
def State.staClear (s : State) (r : FlightRef) (a : Acc) (p : Piece) : Bool :=
  s.det r || (match s.tetherOf r with
    | none => true
    | some (_, _, t) => t.wgs.all (fun u => ((look s.wgs u).map (fun g => g.flights.all (fun f => f.accs.all (fun b =>
        decide (a.id ≤ b.id) || !b.kind.isSta || b.pieces.all (fun q => q.done || !a.meet p q))))).getD true))

/-- A piece's turn has come: its thread's earlier accesses have taken their places, the lower line of its lane has, and so have lower
lanes of the instruction that meet it. -/
def State.inOrder (s : State) (r : FlightRef) (a : Acc) (p : Piece) : Bool :=
  s.threadClear r p.tid a.id &&
    a.pieces.all (fun q => q.done || (if q.lane = p.lane then decide (p.first ≤ q.first)
      else decide (p.lane < q.lane) || !a.kind.inLaneOrder || !a.meet p q)) &&
    (!a.kind.isSta || s.staClear r a p)

/-- A piece cannot take its place now: its answer from another device is not here, its SPAN line has a new home, its home is down, its
sector is lost, or it would read uncorrectable data (R360, R361, R381, R389). An STA's contribution needs no home. -/
def State.pieceHeld (s : State) (a : Acc) (p : Piece) : Bool :=
  if p.dev.isSome then !p.back
  else !a.kind.isSta && ((p.span && s.spanHeld (p.keys.headD 0) && !a.kind.isPlain) || !p.keys.all s.keyUp || s.hasLost p.keys ||
    (a.kind.isLoad && s.poisoned p.keys))

/-- A piece whose turn has come, with the pieces that are one event with it, and that nothing holds. -/
def State.canPlace (s : State) (r : FlightRef) (a : Acc) (p : Piece) : Bool :=
  !p.done && (if p.dev.isSome then p.back else (a.at (a.group p)).all (fun q => s.inOrder r a q && !s.pieceHeld a q))

/-- A read issued under the directory lock that takes its place after the lock has been lifted is served from the page's new frame: what the
old one holds takes its place before the first write that the switch admits (R196, R237). -/
def State.movedKeys (s : State) (r : FlightRef) (p : Piece) : Piece :=
  if !p.locked then p
  else match s.walk (s.partOf r) (s.transOf (s.partOf r) (s.ctxOf r)) (vaLocal p.va) with
    | .ok l => if l.lock then p
      else { p with locked := false, keys := (List.range p.len).map (fun i => l.base + vaLocal p.va % 4096 + i) }
    | .error _ => p

/-- A line of this device that the planes do not reach fails (R207, R389): a load or atomic is given zeros, the peer bit is set. -/
def State.failSpan (s : State) (r : FlightRef) (f : Flight) (a : Acc) (i : Nat) : State :=
  s.setFlight r ((f.setPeer s.image.devIdx.toNat).putAcc (a.mark [i]
    (fun p => if a.kind.isLoad then some (List.replicate p.len 0) else none) (.end_ 0)))

/-- A piece takes its place, if it can; one of another device has taken it there, and its answer counts from now on. -/
def State.placePiece (s : State) (r : FlightRef) (id i : Nat) : State :=
  match s.acc? r id with
  | none => s
  | some (f, a0) =>
    let a := a0.mark [i] (fun _ => none) (s.movedKeys r)
    match a.pieces[i]? with
    | none => s
    | some p =>
      if !s.canPlace r a p then s
      else if p.dev.isSome then
        s.setFlight r { f.putAcc (a.mark [i] (fun _ => none) (fun q => { q with done := true })) with
          doneMask := if p.refused = 0 && a.kind != .lda then f.doneMask ||| doneBits a.pieces [p] else f.doneMask }
      else if p.span && s.planes == 0 then s.failSpan r f a i
      else s.pieceEvent r f a p

/-! ### Homes that are down (R332, R380, R381) -/

/-- The name of the die of this device that keeps a piece from its place. -/
def State.downName (s : State) (p : Piece) : Option Nat :=
  (p.keys.find? (fun k => !s.keyUp k)).map (fun k => farHome s.image.devIdx.toNat (if k < 2 ^ 40 then paDie k else (k - 2 ^ 41) / 2 ^ 26))

/-- The name under which a piece stands that has met a lost sector (R360). -/
def lostName : Nat := 4096

/-- Why a piece takes no place: the name of its home, or of a lost sector. -/
def State.stopName (s : State) (p : Piece) : Option Nat := (s.downName p).or (if s.hasLost p.keys then some lostName else none)

/-- A piece has met HOME_DOWN or a lost sector, at issue or since. -/
def Piece.down (p : Piece) : Bool := !p.done && decide (4 ≤ p.refused)

/-- An access of the flight has met HOME_DOWN: the flight is parked, wherever it stands, until the home is back (R381). -/
def Flight.homeParked (f : Flight) : Bool := f.accs.any (fun a => a.pieces.any Piece.down)

/-- An access is withdrawn: its lines that have taken their places stay in the done mask, with what they have read (R207). -/
def Flight.undo (f : Flight) (a : Acc) : Flight :=
  { (f.keepGot a).dropAcc a with doneMask := f.doneMask &&& ~~~(doneBits a.pieces (a.pieces.filter (fun p => !p.done))) }

/-- An access that has issued meets a home that is OUT, or a lost sector (R332, R360, R380): the flight takes that as a kind 0 fault, at its
instruction where that is held. Otherwise the access stays outstanding, on the replay list, and meets the fault again after RESUME. A stopped
flight takes the fault when it runs again. -/
def State.outHome (s : State) (r : FlightRef) (id : Nat) (cause : Byte) (va : Dword) : State :=
  match s.acc? r id with
  | none => s
  | some (f, a) =>
    if f.stopped || f.ended then s
    else if f.wait = .remote id then ((s.setFlight r (f.undo a)).pokeWg r).fault r cause 0 va
    else s.fault r cause 0 va

/-- A byte's home is on a die that is OUT. -/
def State.keyOut (s : State) (k : Nat) : Bool :=
  decide (k < 2 ^ 44) && (s.die (if k < 2 ^ 40 then paDie k else (k - 2 ^ 41) / 2 ^ 26)).st == 6

/-- The pieces among some, whose turn has come, that cannot take their places for a home, a lost sector or uncorrectable data. -/
def State.metBy (s : State) (r : FlightRef) (a : Acc) (is : List Nat) : List Nat :=
  is.filter (fun i => match a.pieces[i]? with
    | some p => !p.done && p.refused == 0 && p.dev.isNone && !a.kind.isSta &&
        ((s.stopName p).isSome || (a.kind.isLoad && s.poisoned p.keys)) && s.inOrder r a p
    | none => false)

/-- Some pieces of an access, whose turn has come, meet HOME_DOWN (R381): they take no place, and the flight parks, with one report. At a lost
sector it traps (R360), and uncorrectable data is consumed (R361). The access of a killed tether fails instead (R363). -/
def State.meetDown (s : State) (r : FlightRef) (id : Nat) (is : List Nat) : State :=
  match s.acc? r id with
  | none => s
  | some (f, a) =>
    let now := s.metBy r a is
    let ps : List Piece := a.at now
    if now.isEmpty then s
    else if ((s.wgOf r).map (fun g => g.st == .killed)).getD false then s.setFlight r (f.putAcc (a.mark now (fun _ => none) (.end_ 3)))
    else if ps.any (fun p => (s.stopName p).isNone) then s.events [.uncorrConsumed ⟨.flight r, none⟩]
    else
      let va := ((ps.head?).map (·.va)).getD 0
      let s1 := s.setFlight r (f.putAcc (a.mark now (fun _ => none) (fun p => { p with refused := (s.stopName p).getD 4 })))
      if ps.any (fun p => p.keys.any s.keyOut) then s1.outHome r id cHomeDown va
      else if ps.any (fun p => (s.downName p).isNone) then s1.outHome r id cLostData va
      else if f.homeParked || f.stopped then s1 else (s1.reportHome r va).parkTest r

/-! ### Remote lanes are sent (R207, R387) -/

/-- The access addresses twins, or counts there: its lanes in one line travel as one operation (R249). -/
def AccKind.byLine : AccKind → Bool
  | .ldf cnt _ => cnt
  | .sta _ _ | .lda | .twReset | .twQuery => true
  | _ => false

/-- Pieces of an access that travel together with a remote piece, in lane order. -/
def Acc.farGroup (a : Acc) (i : Nat) : List Nat :=
  match a.pieces[i]? with
  | none => []
  | some p => if !a.kind.byLine then [i] else (List.range a.pieces.length).filter (fun j => match a.pieces[j]? with
      | some q => q.dev == p.dev && q.va.toNat / 256 == p.va.toNat / 256
      | none => false)

/-- The operation that a remote piece is sent with. -/
def Acc.farOp (a : Acc) (i : Nat) (p : Piece) : RemOp :=
  let kind := match a.kind with
    | .lda => RemKind.lda a.early
    | k => remKind k
  let ps := if a.kind.byLine then a.at (a.farGroup i) else []
  ⟨kind, p.va, BitVec.ofNat 64 (p.keys.headD 0), p.len, a.outFor p, ps.map (fun q => (q.va, (q.len, a.outFor q)))⟩

/-- An answer for pieces of another device is here: their data, or why they took no effect (R207). Outside deterministic mode it counts at
once; in it, it is held until the effect tick (R174). Pieces that a down home has refused, while the flight is stopped or in
deterministic mode, stay outstanding, to be sent again (R333, R381). -/
def State.answer (s : State) (r : FlightRef) (id : Nat) (is : List Nat) (got : Piece → Option (List Byte)) (refused : Nat) : State :=
  match s.acc? r id with
  | none => s
  | some (f, a) =>
    let again := decide (4 ≤ refused) && (f.stopped || s.det r)
    let s1 := s.setFlight r (f.putAcc (a.mark is got (fun p => { p with refused, back := !again, sent := !again })))
    if again && !f.stopped && !f.homeParked && decide (refused < 2048) then
      (s1.reportHome r ((((a.at is).head?).map (·.va)).getD 0)).parkTest r
    else if again || s.det r then s1
    else ((a.at is).map (·.lane)).foldl (fun s l => s.settle r id l) (is.foldl (fun s i => s.placePiece r id i) s1)

/-- An operation of some pieces has failed for want of a path: a load or atomic is given zeros, the peer bit is set (R207). -/
def State.failed (s : State) (r : FlightRef) (id : Nat) (is : List Nat) (dev : Nat) : State :=
  let s1 := s.modFlight r (fun f => f.setPeer dev)
  match s1.acc? r id with
  | none => s1
  | some (_, a) =>
    let len := fun (p : Piece) => if a.kind = AccKind.twQuery then 4 else p.len
    s1.answer r id is (fun p => if a.kind.isLoad then some (List.replicate (len p) 0) else none) 0

/-- Accesses of the flight can take their places: its workgroup neither stands halted, with a replay list that waits for its resume,
nor is switched out (R333, R342, R368). -/
def State.accessible (s : State) (r : FlightRef) : Bool :=
  ((s.wgOf r).map (fun g => g.st != .halted && g.st != .switchedOut)).getD true

/-- Every flight of a partition. -/
def State.flightsOf (s : State) (part : Nat) : List (FlightRef × Flight) :=
  (s.wgs.filter (fun g => g.2.part == part)).flatMap (fun g =>
    (List.range g.2.flights.length).map (fun i => (FlightRef.wg g.1 i, g.2.flights.getD i default))) ++
    (s.part part).ctls.map (fun c => (FlightRef.ctl c.1 part, c.2.flight))

/-- No earlier access of the partition to a device has still to be sent: SEQ follows the order of issue (R391). One that stands on a replay
list, or waits for a home there, is sent anew later. -/
def State.sendTurn (s : State) (r : FlightRef) (id dev : Nat) : Bool :=
  (s.flightsOf (s.partOf r)).all (fun x => !s.accessible x.1 || x.2.accs.all (fun b => decide (id ≤ b.id) ||
    b.pieces.all (fun p => p.sent || p.done || p.refused != 0 || p.dev != some dev)))

/-- Sends a remote piece, with those that travel with it, once their turn has come; with the domain off or no live plane the operation
fails at once (R207, R245, R387). -/
def State.sendPiece (s : State) (r : FlightRef) (id i : Nat) : State :=
  match s.acc? r id with
  | none => s
  | some (_, a) => match a.pieces[i]? with
    | none => s
    | some p => match p.dev with
      | none => s
      | some d =>
        let is := a.farGroup i
        if p.sent || p.done || p.refused != 0 || !(a.at is).all (s.inOrder r a) || !s.sendTurn r id d then s
        else
          let s1 := s.modFlight r (fun f => f.putAcc (((f.acc? id).getD a).mark is (fun _ => none) (fun q => { q with sent := true })))
          let s2 := if a.kind.bindsTether then s1.noRelaunch r else s1
          if (s.domOf r).domen && s.planesUp && d != s.image.devIdx.toNat then
            s2.send (s.partOf r) d (.access r id i) (a.farOp i p)
          else s2.failed r id is d

/-- Every remote piece of a partition whose turn has come is sent, the accesses in the order of their issue (R391). -/
def State.sendPart (s : State) (part : Nat) : State :=
  let todo := (s.flightsOf part).flatMap (fun x => (x.2.accs.filter (fun a => a.pieces.any (fun p => p.dev.isSome && !p.sent && !p.done))).map
    (fun a => (x.1, a)))
  (orderBy (fun (p : FlightRef × Acc) => p.2.id) todo).foldl (fun s p =>
    (List.range p.2.pieces.length).foldl (fun s i => s.sendPiece p.1 p.2.id i) s) s

/-- As an access has taken places, those that waited for it go out. -/
def State.sendAfter (s : State) (r : FlightRef) : State := s.sendPart (s.partOf r)

/-! ### Accesses take their places -/

/-- The pieces of an access that a selection of done-mask bits names and that can take their places by their tick: in deterministic mode
it must have come (R173). -/
def State.ripe (s : State) (r : FlightRef) (a : Acc) (lines : Dword) : List Nat :=
  (List.range a.pieces.length).filter (fun i => match a.pieces[i]? with
    | some p => !p.done && lines.getLsbD p.bit && (!s.det r || decide (p.due ≤ s.now r))
    | none => false)

/-- Lanes whose data a selection lets arrive: both lines of the lane are named, of a lane in one line its own; other lanes of a load keep
theirs outstanding, though a line may have been read (R29; log 5). In deterministic mode a lane's data arrives with its last line. -/
def State.arrivals (s : State) (r : FlightRef) (a : Acc) (lines : Dword) : List Nat :=
  lanes.filter (fun l => a.laneDone l && !a.arrived.getLsbD l && a.pieces.any (fun p => p.lane == l) &&
    (s.det r || !a.kind.isLoad || a.kind == .lda || a.kind == .twQuery ||
      (lines.getLsbD (2 * l) && (oneLine a.pieces l || lines.getLsbD (2 * l + 1)))))

/-- Lanes of a load of which some registers may take their data ahead of its arrival (R29). -/
def State.landings (s : State) (r : FlightRef) (a : Acc) (lines : Dword) : List Nat :=
  if s.det r || !a.kind.isLoad || a.kind == .lda || a.kind == .twQuery then []
  else lanes.filter (fun l => !a.arrived.getLsbD l && (lines.getLsbD (2 * l) || lines.getLsbD (2 * l + 1)) &&
    a.pieces.any (fun p => p.lane == l && p.done))

/-- Lines of an access take their places in ascending order of lanes, each if its turn has come (R208, R226); a lane in one line has its
event by either bit. Then data arrives, or reaches some registers ahead of its arrival (R29). -/
def State.performLines (s : State) (r : FlightRef) (id : Nat) (lines : Dword) : State :=
  match s.acc? r id with
  | none => s
  | some (_, a) =>
    let both := lanes.foldl (fun m l => if oneLine a.pieces l && lines.getLsbD (2 * l + 1) then setBit m (2 * l) true else m) lines
    let s1 := ((s.ripe r a both).foldl (fun s i => s.placePiece r id i) s).meetDown r id (s.ripe r a both)
    match s1.acc? r id with
    | none => s1
    | some (_, b) =>
      let ls := s1.arrivals r b lines
      let s2 := ls.foldl (fun s l => s.settle r id l) s1
      let early := (s1.landings r b lines).filter (fun l => !ls.contains l)
      let s3 := early.foldl (fun s l => { s.modFlight r (fun f => match f.acc? id with
        | some c => f.landSome c l s.free
        | none => f) with free := s.free + 1 }) s2
      s3.sendAfter r

/-- LOAD_DATA_ARRIVAL (R27, R29, R134, R209): lines of an outstanding load or atomic take their places and their data arrives, or reaches
some registers ahead of its arrival. -/
def execLoadDataArrival (r : FlightRef) (acc : Nat) (lines : Dword) (s : State) : Out :=
  .next (match s.acc? r acc with
    | some (_, a) => if a.kind.isLoad && s.accessible r then s.performLines r acc lines else s
    | none => s)

/-- STORE_EFFECT (R27, R210): lines of an outstanding store take their places. -/
def execStoreEffect (r : FlightRef) (acc : Nat) (lines : Dword) (s : State) : Out :=
  .next (match s.acc? r acc with
    | some (_, a) => if a.kind.isLoad || !s.accessible r then s else s.performLines r acc lines
    | none => s)

/-! ### Issue -/

/-- The lease of a policy: 1,024 or 65,536 counts of logical time, or none (R184). -/
def leaseOf (cp pol : Nat) : Nat :=
  let p := if cp = 0 then (if pol = 0 then 1 else pol) else cp
  if p = 2 then 65536 else if p = 4 ∨ p = 6 ∨ p = 7 then 0 else 1024

/-- Enqueues an access of the issuing flight. Lanes and lines of different latency classes take their effect ticks each by its own class: R173
gives one E an access (log 33). An access with remote lines holds the flight until their outcome (R207), and an
LDA holds it until its lines are served (R253); the local lanes stand in the done mask meanwhile. -/
def State.sendAcc (s : State) (r : FlightRef) (f : Flight) (a : Acc) : State :=
  let due := fun (p : Piece) => max (s.now r + p.due) f.lastE
  let ps := a.pieces.map (fun p => { p with due := due p })
  let lastE := ps.foldl (fun m p => max m p.due) f.lastE
  let a1 := { a with id := s.uid, pieces := ps }
  let remote := ps.any (fun p => p.dev.isSome)
  let f1 := { f with
    accs := f.accs ++ [a1]
    lastE := lastE
    nLoads := if a.kind.isLoad then f.nLoads + 1 else f.nLoads
    nStores := if a.kind.isLoad || a.kind.isUnseal then f.nStores else f.nStores + 1 }
  let s1 := { s with uid := s.uid + 1 }
  if remote || a.kind == .lda then
    let f2 := if a.kind == .lda then f1
      else { f1 with doneMask := f1.doneMask ||| doneBits ps (ps.filter (fun p => p.dev.isNone)) }
    ((s1.setFlight r f2).stall r (.remote a1.id)).sendAfter r
  else s1.retire r (f1.raiseHeld a.kind)

/-- The lanes of an instruction that are not done as a whole (R207). -/
def Flight.todo (f : Flight) (g : BitVec 4) : List Nat :=
  (f.acting g).filter (fun l => !(f.doneMask.getLsbD (2 * l) && f.doneMask.getLsbD (2 * l + 1)))

/-- The access of an instruction from its checked pieces. -/
def mkAcc (f : Flight) (o : MFmt) (sp : MemSpec) (ps : List Piece) (out : List (Nat × List Byte)) (gs : List (Nat × List Nat)) : Acc where
  id := 0
  kind := sp.kind
  bytes := widthOf o.w
  t := o.t.toNat
  lanes := laneMask (ps.map (·.lane))
  pieces := (ps.filter (fun p => !f.doneMask.getLsbD p.bit)).map (fun p => { p with tid := f.tids.getD p.lane 0 })
  out := out
  got := if sp.kind.isLoad && sp.kind != .lda then f.ldaData else []
  arrived := 0
  granules := gs
  early := (f.bufRec o.s.toNat).early
  lease := leaseOf o.cp.toNat (if o.sp = 0#3 then (f.bufRec o.s.toNat).pol else 1)
  landed := []
  fault := none

/-- Clamped lanes of a load: their T spans become zero (R199), and they stand in the done mask while other lanes are held for (R206). -/
def Flight.zeroSpans (f : Flight) (o : MFmt) (ls : List Nat) : Flight :=
  ls.foldl (fun f l =>
    let g := f.putSpan l o.t.toNat false (List.replicate (widthOf o.w) 0)
    { g with doneMask := setBit (setBit g.doneMask (2 * l) true) (2 * l + 1) true }) f

/-- The pages of some pieces. -/
def pagesOf (ps : List Piece) : List Nat :=
  (ps.filter (fun p => p.va != 0 && p.dev.isNone)).foldl (fun vs p =>
    let v := vaLocal p.va / 4096
    if vs.contains v then vs else vs ++ [v]) []

/-- Issues a thread-path access: the count's limit (R27), the checks of R206, out-of-bounds lanes (R199), and the access
outstanding from then on. `extra` is a further check and what it adds to the access. -/
def memIssue (o : MFmt) (sp : Flight → MemSpec) (kindBits : Flight → Nat) (out : Flight → Nat → List Byte)
    (extra : State → FlightRef → Flight → List Piece → Except State (List (Nat × List Nat))) (s : State) : Out :=
  withIssuer s (fun r f =>
    let m := sp f
    match s.wgOf r with
    | none => s.retire r f
    | some g =>
      if 62 ≤ (if m.isLoad then f.nLoads else f.nStores) then s.stall r .drain
      else
        let ls := f.todo o.g
        match s.memCheck r g f o m ls with
        | .error e => s.memStop r (kindBits f) e
        | .ok (ps, outs) =>
          match extra s r f ps with
          | .error s1 => s1
          | .ok gs =>
            let clamp := m.isLoad && o.sp == 0#3 && (f.bufRec o.s.toNat).bmode == 1
            let f1 := if clamp then f.zeroSpans o outs else f
            let s1 := s.noteTlb (s.partOf r) (s.ctxOf r) (pagesOf ps)
            let a := mkAcc f o m ps (ls.map (fun l => (l, out f l))) gs
            if a.pieces.isEmpty then s1.retire r (f1.raiseHeld a.kind) else s1.sendAcc r f1 a)

/-- No further check. -/
def noExtra (_ : State) (_ : FlightRef) (_ : Flight) (_ : List Piece) : Except State (List (Nat × List Nat)) := .ok []

/-- LD (R209). -/
def execLd (o : MFmt) (s : State) : Out :=
  memIssue o (fun _ => ⟨.load (o.f.getLsbD 1) (o.f.getLsbD 0), { r := true }, 1, false, false, false, true⟩) (fun _ => 1) (fun _ _ => []) noExtra s

/-- ST (R210). -/
def execSt (o : MFmt) (s : State) : Out :=
  memIssue o (fun _ => ⟨.store, { w := true }, 1, false, true, true, false⟩) (fun _ => 2) (fun f l => f.spanBytes l o.t.toNat (widthOf o.w)) noExtra s

/-- ATOM (R211). -/
def execAtom (o : MFmt) (s : State) : Out :=
  memIssue o (fun _ => ⟨.atom (o.f.extractLsb' 0 3) (o.f.extractLsb' 3 2), { r := true, w := true }, widthOf o.w, false, true, true, true⟩) (fun _ => 3)
    (fun f l => f.spanBytes l o.t.toNat (widthOf o.w)) noExtra s

/-- ACAS (R212): compare value, then new value. -/
def execAcas (o : MFmt) (s : State) : Out :=
  memIssue o (fun _ => ⟨.acas, { r := true, w := true }, widthOf o.w, false, true, true, true⟩) (fun _ => 3)
    (fun f l => f.spanBytes l o.t.toNat (2 * widthOf o.w)) noExtra s

/-- PSTP (R213). -/
def execPstp (o : MFmt) (s : State) : Out :=
  memIssue o (fun _ => ⟨.pstp, { w := true }, widthOf o.w, false, true, true, false⟩) (fun _ => 2) (fun f l => f.spanBytes l o.t.toNat (widthOf o.w)) noExtra s

/-! ### Hints (R214, R215) -/

/-- A lane of a hint is dropped (R215), one to a locked page among them: R196 has PREF and RESID served from the old frame there, R215 names
the case as dropped and counts it, and the model follows R215 (log 33). -/
def State.hintDropped (s : State) (r : FlightRef) (g : Wg) (f : Flight) (o : MFmt) (lane : Nat) : Bool :=
  let m : MemSpec := ⟨.load false false, { r := true }, 1, false, true, false, true⟩
  match s.memCheck r g f o m [lane] with
  | .ok (ps, outs) => !outs.isEmpty || ps.any (fun p => p.dev.isSome)
  | .error _ => true

/-- A hint (R214): no register, no event, no count; each dropped lane counts in HINTDROP (R215). -/
def hint (o : MFmt) (s : State) : Out :=
  withIssuer s (fun r f =>
    match s.wgOf r with
    | none => s.retire r f
    | some g =>
      let n := ((f.acting o.g).filter (s.hintDropped r g f o)).length
      (s.modPart (s.partOf r) (fun p => { p with hintDrop := p.hintDrop + n })).retire r f)

/-- PREF (R214). -/
def execPref (o : MFmt) (s : State) : Out := hint o s

/-- RESID (R214). -/
def execResid (o : MFmt) (s : State) : Out := hint o s

/-! ### Twins (R250–R254) -/

/-- Twin granules that a lane's primal bytes touch (R238, R242). -/
def State.twinGranules (s : State) (r : FlightRef) (ps : List Piece) (lane : Nat) : List Nat :=
  let pt := s.partOf r
  let cx := s.ctxOf r
  granulesOf ((ps.filter (fun p => p.lane == lane && p.dev.isNone)).flatMap (fun p =>
    match s.leaf pt cx p.va with
    | .ok l => match s.twinPa pt cx (l.base + vaLocal p.va % 4096) l p.va with
      | some t => (List.range p.len).map (fun i => t + i)
      | none => []
    | .error _ => []))

/-- Granules that outstanding STAs and counting loads of a tether are to stage, with repetition: one for each lane and granule. -/
def State.toStage (s : State) (t : Tether) : List Nat :=
  t.wgs.flatMap (fun u => match look s.wgs u with
    | none => []
    | some g => g.flights.flatMap (fun f => f.accs.flatMap (fun a => match a.kind with
      | .sta _ _ => (a.pieces.filter (fun p => !p.done && p.dev.isNone)).flatMap (fun p => granulesOf p.keys)
      | .ldf true _ => (a.granules.filter (fun p => !a.arrived.getLsbD p.1)).flatMap (·.2)
      | _ => [])))

/-- The entries a tether needs when some more granules are to be staged: those it holds, and new ones. -/
def Tether.entriesWith (t : Tether) (gs : List Nat) : Nat :=
  t.stage.length + ((granulesOf gs).filter (fun g => (look t.stage g).isNone)).length

/-- Entries that the tethers on a die hold or need for what is outstanding; those of a context that is switched out stand in its save
area (R242, R246, R247). -/
def State.dieStaging (s : State) (die : Nat) : Nat :=
  s.launches.foldl (fun n l => if (s.part l.2.part).cur ≠ some l.2.ctx then n else l.2.tethers.foldl (fun n t =>
    if dieOfCore (t.2.cores.headD 0) = die then n + t.2.entriesWith (s.toStage t.2) else n) n) 0

/-- Room for the entries that some granules need in a flight's tether and on its die (R246). -/
def State.stageRoom (s : State) (r : FlightRef) (gs : List Nat) : Bool :=
  match s.tetherOf r with
  | none => true
  | some (_, _, t) =>
    let now := t.entriesWith (s.toStage t)
    let then_ := t.entriesWith (s.toStage t ++ gs)
    then_ == now || (decide (then_ ≤ 16384) && decide (s.dieStaging (s.dieOf r) + (then_ - now) ≤ 65536))

/-- The commits of a tether follow every event of it so far: its accesses must have taken their places (R246); and the home of every
entry serves (R244). -/
def State.tetherQuiet (s : State) (r : FlightRef) : Bool :=
  match s.tetherOf r with
  | none => true
  | some (_, _, t) => t.wgs.all (fun u => match look s.wgs u with
    | some g => g.flights.all (fun f => f.accs.isEmpty)
    | none => true) && t.stage.all (fun e => s.dieUp (paDie e.1))

/-- EARLY_COMMIT (R246): all entries of the flight's tether commit, in ascending twin address, and are freed; the tether can
no longer be relaunched. -/
def State.earlyCommit (s : State) (r : FlightRef) : State :=
  match s.tetherOf r with
  | none => s
  | some (l, t, x) =>
    let s1 := x.stage.foldl (fun s p => s.commit p.1 p.2) s
    (s1.modTether l t (fun y => { y with stage := [], norelaunch := true })).allFlights Flight.restage

/-- An instruction that finds no room in the staging: its tether commits early once it is quiet; the instruction waits meanwhile. -/
def State.makeRoom (s : State) (r : FlightRef) : State := if s.tetherQuiet r then s.earlyCommit r else s.stall r .staging

/-- Step 7 of R250 for a counting LDF: an increment that would pass 65,535, with those of the tether's outstanding loads, poisons the
lowest such lane's granule and traps; without room the tether commits early and the instruction waits (R246). -/
def ldfExtra (s : State) (r : FlightRef) (f : Flight) (ps : List Piece) (cnt : Bool) : Except State (List (Nat × List Nat)) :=
  if !cnt then .ok []
  else
    let left := ps.filter (fun p => !f.doneMask.getLsbD p.bit)
    let gs := lanes.filterMap (fun l =>
      let g := s.twinGranules r left l
      if g.isEmpty then none else some (l, g))
    let loads := fun (a : Acc) => match a.kind with
      | .ldf true _ => (a.granules.filter (fun p => !a.arrived.getLsbD p.1)).flatMap (·.2)
      | _ => []
    let others := ((s.tetherOf r).map (fun x => x.2.2.wgs)).getD []
    let pending := others.flatMap (fun u => ((look s.wgs u).map (fun g => g.flights.flatMap (fun f => f.accs.flatMap loads))).getD []) ++
      gs.flatMap (·.2)
    let total := fun g => ((s.staged r g).map (·.i)).getD 0 + (pending.filter (· == g)).length
    match gs.find? (fun p => p.2.any (fun g => decide (65535 < total g))) with
    | some (l, g) =>
      let bad := (g.find? (fun g => decide (65535 < total g))).getD 0
      let st := s.granule bad
      let s1 := if st.1 = 3 then s else (s.putGranule bad 3 st.2).noRelaunch r
      .error (s1.fault r cTwinOvf 0 (((left.find? (fun p => p.lane == l)).map (·.va)).getD 0))
    | none => if s.stageRoom r (granulesOf (gs.flatMap (·.2))) then .ok gs else .error (s.makeRoom r)

/-- LDF (R251). -/
def execLdf (o : MFmt) (s : State) : Out :=
  memIssue o (fun f =>
    let cnt := (f.bufRec o.s.toNat).cnt
    ⟨.ldf cnt (o.f.getLsbD 0), { r := true }, 1, false, cnt, false, true⟩)
    (fun f => if (f.bufRec o.s.toNat).cnt then 0x11 else 1) (fun _ _ => [])
    (fun s r f ps => ldfExtra s r f ps (f.bufRec o.s.toNat).cnt) s

/-- STA (R252): it makes no event; its contributions enter the tether's staging when the store takes its place, in ascending lane order
(R242, R255). Remote lanes are sent. A fault sets the write bit of its KIND with the twin bit, and not the read bit, though the page needs
both rights: the spec does not say (R195; log 33). -/
def execSta (o : MFmt) (s : State) : Out :=
  let ty := bits o.f.toNat 1 0
  memIssue o (fun f => ⟨.sta ty (f.bufRec o.s.toNat).cnt, { r := true, w := true }, stageSize ty, true, true, true, false⟩)
    (fun _ => 0xA) (fun f l => f.spanBytes l o.t.toNat (widthOf o.w))
    (fun s r f ps =>
      let gs := (ps.filter (fun p => p.dev.isNone && !f.doneMask.getLsbD p.bit)).flatMap (fun p => granulesOf p.keys)
      if s.stageRoom r gs then .ok [] else .error (s.makeRoom r)) s

/-- Step 7 of R250 for LDA: a granule the tether has contributed to traps TWIN_SELF. -/
def ldaExtra (s : State) (r : FlightRef) (_f : Flight) (ps : List Piece) : Except State (List (Nat × List Nat)) :=
  match ps.find? (fun p => (granulesOf p.keys).any (s.ownsShare r)) with
  | some p => .error (s.fault r cTwinSelf 0 p.va)
  | none => .ok []

/-- LDA (R253). -/
def execLda (o : MFmt) (s : State) : Out :=
  memIssue o (fun _ => ⟨.lda, { r := true }, 1, true, true, false, true⟩) (fun _ => 9) (fun _ _ => [])
    ldaExtra s

/-- TWCTL reset (R254). A fault sets the read bit of its KIND with the twin bit: the spec does not say which (R195; log 33). -/
def execTwctlReset (o : MFmt) (s : State) : Out :=
  memIssue o (fun _ => ⟨.twReset, { r := true }, 4, true, true, false, false⟩) (fun _ => 9) (fun _ _ => [])
    noExtra s

/-- TWCTL query (R254). -/
def execTwctlQuery (o : MFmt) (s : State) : Out :=
  memIssue o (fun _ => ⟨.twQuery, { r := true }, 4, true, true, false, true⟩) (fun _ => 9) (fun _ _ => []) noExtra s

/-! ### Wake-ups of parked flights -/

/-- A parked flight becomes ready to issue its instruction, or its clause, again. -/
def State.wake (s : State) (r : FlightRef) : State := s.modFlight r (fun f => { f with wait := .ready })

/-- LDA_WAKE (R253): a granule of the refused lines has left OPEN. -/
def execLdaWake (r : FlightRef) (s : State) : Out :=
  .next (match s.flight? r with
    | some f => match f.wait with
      | .twin gs => if gs.any (fun g => decide (g < 2 ^ 60) && (s.granule g).1 != 1) then s.wake r else s
      | _ => s
    | none => s)

/-- Twin wait limit of a flight's launch in µs (R151). -/
def State.twinLimit (s : State) (r : FlightRef) : Nat := ((s.launchOf r).map (fun l => fieldAt l.record 0x8C 4)).getD 0

/-- TWIN_WAIT_TIMEOUT (R253): TWINLIMIT µs over every park of the instruction: 1,000 ns of CLK, or 3,600 ticks, each. -/
def execTwinWaitTimeout (r : FlightRef) (s : State) : Out :=
  .next (match s.flight? r with
    | some f =>
      let unit := if s.det r then 3600 else 1000
      match f.wait, f.twinPark with
      | .twin _, some t =>
        if !f.stopped ∧ s.accessible r ∧ s.twinLimit r ≠ 0 ∧ t + s.twinLimit r * unit ≤ s.now r then s.fault r cTwinTimeout 0 0 else s
      | _, _ => s
    | none => s)

/-- DIRLOCK_RETRY (R196): an access that waited for a locked page translates again. -/
def execDirlockRetry (r : FlightRef) (s : State) : Out :=
  .next (match s.flight? r with
    | some f => if f.wait = .dirLock then s.wake r else s
    | none => s)

/-- Pieces of a flight's accesses that a down home has refused, under any of some names, are to be sent again (R333, R381). -/
def Flight.resendFor (names : Nat → Bool) (f : Flight) : Flight :=
  { f with accs := f.accs.map (fun a => { a with pieces := a.pieces.map (fun p =>
      if !p.done && decide (4 ≤ p.refused) && names p.refused then { p with refused := 0 } else p) }) }

/-- A flight that runs on after a home of another device has come back sends again what that had refused (R381). -/
def State.resend (s : State) (r : FlightRef) (names : Nat → Bool) : State :=
  if ((s.flight? r).map (fun f => !f.stopped)).getD false then (s.modFlight r (Flight.resendFor names)).sendAfter r else s

/-- HOME_DOWN_RETRY (R381): a requester that has waited 100 µs for a die of another device re-executes, and so does one that waits for a page
there: R387 does not say how the target's resume reaches it (log 33). -/
def execHomeDownRetry (r : FlightRef) (s : State) : Out :=
  .next (match s.flight? r with
    | some f =>
      if s.clk.toNat < f.parkAt + 100000 then s
      else match f.wait with
        | .homeDown d => if 4 ≤ d then s.wake r else s
        | .remote _ => if f.accs.any (fun a => a.pieces.any (fun p => !p.done && decide (4 ≤ p.refused))) then
            (s.modFlight r (fun f => { f with parkAt := s.clk.toNat })).resend r (fun _ => true) else s
        | _ => s
    | none => s)

/-- Wakes the flights that wait for a die, by the name they wait under (R380, R381). -/
def Flight.wakeHome (d : Nat) (f : Flight) : Flight := if f.wait = Wait.homeDown d then { f with wait := .ready } else f

end Sys2Proof.Machine
end

