-- ==== Sys2Proof/Machine/Fence.lean ====
section
/-! DEFINITION. Waits, fences, barriers, YIELD, GETS, non-pre-emptible sections, TRAP, BKPT, TIMER, TOKCHK and MXCHK
(R163, R164, R170, R221–R224, R304, R346). -/

namespace Sys2Proof.Machine

/-- Runs a flight-wide instruction: with no acting thread it only retires (R34). -/
def onceWith (g : BitVec 4) (body : FlightRef → Flight → State) (s : State) : Out :=
  withIssuer s (fun r f => if f.actsOnce g then body r f else s.retire r f)

/-- The thread whose events a flight-wide operation makes: the lowest that acts (R225). -/
def Flight.lowTid (f : Flight) (g : BitVec 4) : Word := f.tids.getD ((f.acting g).headD 0) 0

/-- An operation that takes its place as an event of the lowest acting thread (R225): after every earlier access of that thread (A1 of
R227); in deterministic mode at its effect tick, until which the flight is held, or, with class 0, as soon as those are done (R173, R235,
R403; log 33). `ask` is what it does there at its issue: an operation on another device is sent at once (R174). -/
def pathOpWith (ask : FlightRef → Flight → State → State) (g : BitVec 4) (cls : State → FlightRef → Flight → Nat)
    (body : FlightRef → Flight → State) (s : State) : Out :=
  onceWith g (fun r f =>
    let clear := s.threadClear r (f.lowTid g) s.uid
    if s.det r then
      match f.opDue with
      | some _ => body r f
      | none =>
        let n := cls s r f
        if n = 0 && clear then body r f
        else
          let e := max (s.now r + n) f.lastE
          ask r f ((s.modFlight r (fun f => { f with opDue := some e, lastE := e, busy := s.now r })).stall r .op)
    else if clear then body r f else s.stall r .drain) s

/-- Such an operation that sends nothing to another device. -/
def pathOp (g : BitVec 4) (cls : State → FlightRef → Flight → Nat) (body : FlightRef → Flight → State) (s : State) : Out :=
  pathOpWith (fun _ _ s => s) g cls body s

/-- WAIT (R134, R221): the test must hold in every lane of the sub-group. -/
def execWait (o : IFmt) (s : State) : Out :=
  onceWith o.g (fun r f =>
    let x := o.imm.toNat
    if (maskLanes f.sg).all (f.waitOk (bits x 19 14) (bits x 13 8) (bits x 7 4) (bits x 3 0)) then s.retire r f
    else s.stall r .counts) s

/-- Every access that the flight has issued has taken effect: its counts of loads and stores are 0 (R27), and the store of an UNSEAL,
which they leave out, has taken its place (R229; log 33). -/
def Flight.accessesDone (f : Flight) : Bool := f.nLoads == 0 && f.nStores == 0 && f.accs.all (fun a => !a.kind.isUnseal)

/-- FENCEX (R222, R229): later copies and tile operations whose class its late set names have their snapshots after the writes before it. -/
def execFencex (o : IFmt) (s : State) : Out :=
  onceWith o.g (fun r f =>
    let x := o.imm.toNat
    let held := (bitAt x 0 && !f.accessesDone) || (bitAt x 1 && f.nCopies != 0) ||
      (bitAt x 2 && f.nTiles != 0) || (bitAt x 3 && f.nEst != 0)
    let placed := bits x 3 0 ≠ 0
    if bits x 3 0 ≠ 0 ∧ bits x 7 4 ≠ 0 ∧ held then s.stall r .drain
    else s.retire r { f with
      pastC := if placed && bitAt x 5 then [] else f.pastC
      pastM := if placed && bitAt x 6 then [] else f.pastM }) s

/-- A remote operation of the flight is neither completed nor failed (R223): an access's line, a copy with a side on another device, a
packet. -/
def State.remoteOut (s : State) (r : FlightRef) (f : Flight) : Bool :=
  f.accs.any (fun a => a.pieces.any (fun p => p.dev.isSome && !p.done)) ||
    s.cores.any (fun c => c.2.copies.any (fun p => p.2.owner == r && p.2.far)) ||
    s.srcCtx.any (fun c => c.2.waiting.any (fun p => p.who.flight == r) || c.2.queued.any (fun p => p.2.1.flight == r))

/-- FENCEP (R223). -/
def execFencep (o : IFmt) (s : State) : Out :=
  onceWith o.g (fun r f =>
    if s.remoteOut r f then s.stall r .drain
    else
      let f1 := (List.range 8).foldl (fun x k => x.setS (o.d.toNat + k) (f.peer.extractLsb' (32 * k) 32)) f
      s.retire r { f1 with peer := 0 }) s

/-- NPBEGIN (R224). -/
def execNpbegin (o : VFmt) (s : State) : Out :=
  onceWith o.g (fun r f =>
    s.retire r (if f.npOpen ∨ s.npBudget r = 0 then f else { f with npOpen := true, npClk := 0 })) s

/-- NPEND (R224). -/
def execNpend (o : VFmt) (s : State) : Out :=
  onceWith o.g (fun r f => (s.closeNp r f).retire r { f with npOpen := false }) s

/-! ### Barriers (R163) -/

/-- Every flight of a workgroup has arrived, by a mask, or has ended. -/
def Wg.allArrived (g : Wg) (arr : Word) : Bool :=
  (List.range g.flights.length).all (fun k => arr.getLsbD k || ((g.flights[k]?).map (·.ended)).getD true)

/-- Releases the arrived flights of a workgroup from BAR. -/
def Wg.releaseBar (det : Bool) (g : Wg) : Wg :=
  if g.barArr ≠ 0 ∧ g.allArrived g.barArr then
    { g with
      flights := (List.range g.flights.length).filterMap (fun k => (g.flights[k]?).map (fun f =>
        if g.barArr.getLsbD k then f.released det else f))
      barK := g.barK + 1
      barArr := 0 }
  else g

/-- Releases the arrived flights of a workgroup from BART. -/
def Wg.releaseBart (det : Bool) (g : Wg) : Wg :=
  { g with
    flights := (List.range g.flights.length).filterMap (fun k => (g.flights[k]?).map (fun f =>
      if g.bartArr.getLsbD k then f.released det else f))
    bartK := g.bartK + 1
    bartArr := 0 }

/-- BARRIER_RELEASE for the scopes a workgroup belongs to (R163). -/
def State.barrierCheck (s : State) (w : Nat) : State :=
  let det := s.det (.wg w 0)
  let s1 := s.modWg w (Wg.releaseBar det)
  match s1.tetherOf (.wg w 0) with
  | none => s1
  | some (_, _, t) =>
    let gs := t.wgs.filterMap (fun u => look s1.wgs u)
    if gs.all (fun g => g.allArrived g.bartArr) && gs.any (fun g => g.bartArr != 0) then
      t.wgs.foldl (fun s u => s.modWg u (Wg.releaseBart det)) s1
    else s1

/-- A barrier's arrival: it waits until every earlier access has taken its place (R163). -/
def arrive (g : BitVec 4) (w : Wait) (mark : Nat → Wg → Wg) (s : State) : Out :=
  onceWith g (fun r f =>
    match r with
    | .ctl _ _ => s.retire r f
    | .wg u fl =>
      if f.wait = w then s.stall r w
      else if !f.accessesDone then s.stall r .drain
      else ((s.stall r w).modWg u (mark fl)).barrierCheck u) s

/-- BAR (R163). -/
def execBar (o : VFmt) (s : State) : Out :=
  arrive o.g .bar (fun fl g => { g with barArr := setBit g.barArr fl true }) s

/-- BART (R163). -/
def execBart (o : VFmt) (s : State) : Out :=
  arrive o.g .bart (fun fl g => { g with bartArr := setBit g.bartArr fl true }) s

/-- YIELD (R164): the flight gives up its slot at the end of its clause. -/
def execYield (o : VFmt) (s : State) : Out := onceWith o.g (fun r f => s.retire r { f with yielded := true }) s

/-! ### GETS (R170) -/

/-- The value of a selector in a lane; a control program's values are those of R169. -/
def State.getsVal (s : State) (r : FlightRef) (f : Flight) (sel lane : Nat) : Nat :=
  let g := s.wgOf r
  let wgv := fun (h : Wg → Nat) => (g.map h).getD 0
  let det := s.det r
  match sel with
  | 0 => lane
  | 1 => match r with
    | .wg _ fl => fl
    | .ctl _ _ => 0
  | 2 => wgv (·.wgid)
  | 3 => wgv (·.rank)
  | 4 => s.coreOf r
  | 5 => match r with
    | .wg _ _ => boardOfCore (s.coreOf r)
    | .ctl _ _ => (Config.freeWord s.free).toNat
  | 6 => s.dieOf r
  | 7 => s.image.devIdx.toNat
  | 8 => if det then f.retired.toNat else s.clk.toNat
  | 9 => if det then f.retired.toNat else f.wtime.toNat
  | 10 => f.retired.toNat
  | 11 => s.partOf r
  | 12 => (f.tids.getD lane 0).toNat
  | 13 => f.fsr.toNat
  | 14 => f.sg.toNat
  | 15 => ((s.launchOf r).map (·.id.toNat)).getD 0
  | _ => f.rngctr.toNat

/-- Selectors that write a pair. -/
def getsPair (sel : Nat) : Bool := sel == 8 || sel == 9 || sel == 10 || sel == 16

/-- GETS (R170). -/
def execGets (o : IFmt) (s : State) : Out :=
  withIssuer s (fun r f =>
    let sel := o.imm.toNat
    let f1 := f.laneStep o.g (fun l =>
      let x := s.getsVal r f sel l
      if getsPair sel then .pair o.d.toNat x else .word o.d.toNat x)
    { s.retire r f1 with free := s.free + 1 })

/-- GETS in its clearing form (R23, R170): fsr is returned and then zeroed once. -/
def execGetsClr (o : IFmt) (s : State) : Out :=
  withIssuer s (fun r f =>
    let f1 := f.laneStep o.g (fun l => .word o.d.toNat (s.getsVal r f 13 l))
    s.retire r (if f.actsOnce o.g then { f1 with fsr := 0 } else f1))

/-! ### TRAP, BKPT, TIMER, TOKCHK, MXCHK -/

/-- A trap after the instruction (kind 1): it completes, then the flight stops (R332, R346). -/
def trapAfter (g : BitVec 4) (cause : Byte) (info : Word) (s : State) : Out :=
  onceWith g (fun r f => (s.retire r f).trap r { cause, sub := 0, kind := 1, info := info.setWidth 64, org := none }) s

/-- TRAP (R346). -/
def execTrap (o : IFmt) (s : State) : Out := trapAfter o.g cSwTrap o.imm s

/-- BKPT (R346). -/
def execBkpt (o : IFmt) (s : State) : Out := trapAfter o.g cBkpt o.imm s

/-- The remaining count of a timer, 0 when it is not armed. -/
def Flight.remaining (f : Flight) : Word := if f.timerOn then f.timerRem else 0

/-- TIMER arm (R346): with a count of 0 the trap is pending at once. -/
def execTimerArm (o : IFmt) (s : State) : Out :=
  onceWith o.g (fun r f =>
    let f1 := f.setS o.d.toNat f.remaining
    s.retire r (if o.imm = 0 then { f1 with timerOn := false, timerRem := 0, tpend := true }
      else { f1 with timerOn := true, timerRem := o.imm })) s

/-- TIMER read (R346). -/
def execTimerRead (o : IFmt) (s : State) : Out := onceWith o.g (fun r f => s.retire r (f.setS o.d.toNat f.remaining)) s

/-- TIMER cancel (R346). -/
def execTimerCancel (o : IFmt) (s : State) : Out :=
  onceWith o.g (fun r f =>
    s.retire r { f.setS o.d.toNat f.remaining with timerOn := false, timerRem := 0, tpend := false }) s

/-- The token buffer of the running context; 0 means none (R351). -/
def State.tokbuf (s : State) (r : FlightRef) : Dword := ((s.part (s.partOf r)).ctx (s.ctxOf r)).desc.tokbuf

/-- A token bound to a nonce exists for the partition (R346, R355). -/
def State.hasToken (s : State) (part : Nat) (nonce : BitVec 256) : Bool := (s.part part).nonces.contains nonce

/-- The NONCE of a launch record (R151). -/
def recNonce (record : List Byte) : BitVec 256 := BitVec.ofNat 256 (fieldAt record 0x90 32)

/-- TOKCHK of a nonce (R346): in deterministic mode the flight is held, and the answer written, until 256 ticks after its issue. -/
def tokCheck (o : EFmt) (nonce : FlightRef → Flight → BitVec 256) (s : State) : Out :=
  onceWith o.g (fun r f =>
    if s.tokbuf r = 0 then s.fault r cToken 1 0
    else if s.det r && f.opDue.isNone then
      (s.modFlight r (fun f => { f with opDue := some (s.now r + 256), busy := s.now r })).stall r .op
    else s.retire r (f.setS o.d.toNat (if s.hasToken (s.partOf r) (nonce r f) then 1 else 0))) s

/-- TOKCHK with the launch's NONCE (R346). -/
def execTokchk (o : EFmt) (s : State) : Out :=
  tokCheck o (fun r _ => ((s.launchOf r).map (fun l => recNonce l.record)).getD 0) s

/-- TOKCHK with the nonce in s[P..P+7] (R346). -/
def execTokchkN (o : EFmt) (s : State) : Out :=
  tokCheck o (fun _ f => (List.range 8).foldl (fun x i => x ||| ((f.s (o.p.toNat + i)).setWidth 256 <<< (32 * i))) 0) s

/-- A privileged form outside a control program traps PRIV whatever its guard (R49, R165). -/
def controlOnly (s : State) (k : FlightRef → Flight → State) : Out :=
  withIssuer s (fun r f =>
    match r with
    | .ctl _ _ => k r f
    | .wg _ _ => s.fault r cPriv 0 0)

/-- MXCHK (R49, R304): the die's self-check interval N. -/
def execMxchk (o : IFmt) (s : State) : Out :=
  controlOnly s (fun r f =>
    let s1 := if f.actsOnce o.g then s.modDie (s.dieOf r) (fun d => { d with mxchk := o.imm.toNat }) else s
    s1.retire r f)

end Sys2Proof.Machine
end

