-- ==== Sys2Proof/Machine/Flow.lean ====
section
/-! DEFINITION. How a flight's clauses are fetched, checked, started and completed, and how flights come by an active slot of
their dispatcher (R28–R32, R126–R134, R158–R161, R164, R335). -/

namespace Sys2Proof.Machine

/-! ### Virtual memory by bytes -/

/-- The flat key of one byte of virtual memory of this device, where the context maps it with the permissions asked for. -/
def State.vaKey (s : State) (part ctx va : Nat) (n : Need) : Option Nat :=
  let v := BitVec.ofNat 64 va
  if 2 ^ 55 ≤ va ∨ vaDev v ≠ s.image.devIdx.toNat then none
  else match s.translate part ctx v n with
    | .ok (pa, _) => some (pa)
    | .error _ => none

/-- The flat keys of adjacent bytes of virtual memory, where every one is mapped with the permissions. -/
def State.vaKeys (s : State) (part ctx va len : Nat) (n : Need) : Option (List Nat) :=
  (List.range len).mapM (fun i => s.vaKey part ctx (va + i) n)

/-- How an operation of the device at an address of this device has to wait or ends, though the address is mapped as it needs it: at a
locked page for a write (R196), at a home that is down or out (R381), at a lost sector (R360). -/
def State.pathStop (s : State) (part ctx va len : Nat) (write : Bool) : Option MemStop :=
  (lineParts va len).findSome? (fun p =>
    let v := BitVec.ofNat 64 p.2.1
    if 2 ^ 55 ≤ va ∨ vaDev v ≠ s.image.devIdx.toNat then none
    else match s.translate part ctx v (if write then { w := true } else { r := true }) with
      | .error _ => none
      | .ok (pa, l) =>
        if write && l.lock then some .locked
        else if (s.die (paDie pa)).st = 6 then some (.trap cHomeDown 0 v)
        else if !s.dieUp (paDie pa) then some (.homeDown (paDie pa) v)
        else if s.hasLost ((List.range p.2.2).map (fun i => pa + i)) then some (.trap cLostData 0 v) else none)

/-- The latency class of an access of a flight to an address (R173). -/
def State.vaClass (s : State) (r : FlightRef) (va : Nat) : Nat :=
  let v := BitVec.ofNat 64 va
  if 2 ^ 55 ≤ va ∨ vaDev v ≠ s.image.devIdx.toNat then 2048
  else match s.translate (s.partOf r) (s.ctxOf r) v {} with
    | .ok (pa, _) => homeLat (s.dieOf r) (paDie pa)
    | .error _ => 128

/-- With PLANES empty, some of the bytes lie in SPAN lines, which the device cannot reach then (R389). -/
def State.spanCut (s : State) (part ctx va len : Nat) : Bool :=
  !s.planesUp && (List.range len).any (fun i => match s.leaf part ctx (BitVec.ofNat 64 (va + i)) with
    | .ok l => l.span
    | .error _ => false)

/-- Reads bytes of virtual memory; a read that fails for want of a plane is given zeros (R207, R389). -/
def State.readVa (s : State) (part ctx va len : Nat) : Option (List Byte) :=
  (s.vaKeys part ctx va len { r := true }).map (fun ks =>
    if s.spanCut part ctx va len then List.replicate len 0 else ks.map (readByte s.mem))

/-- Writes bytes of virtual memory, where every one is mapped writable; a write that fails for want of a plane has no effect (R207, R389). -/
def State.writeVa (s : State) (part ctx va : Nat) (bs : List Byte) : Option State :=
  (s.vaKeys part ctx va bs.length { w := true }).map (fun ks =>
    if s.spanCut part ctx va bs.length then s else { s with mem := writeKeys s.mem (ks.zip bs) })

/-! ### Fetching a clause (R30) -/

/-- The word of code at a key: as it stands, or, where its launch has changed it since the start, any of its contents since then (R33;
log 31). -/
def State.codeAt (s : State) (r : FlightRef) (k : Nat) : Dword :=
  let new := BitVec.ofNat 64 (s.getNat k 8)
  let old := ((s.launchOf r).bind (fun l => look l.code k)).getD []
  if old.isEmpty then new else (new :: old).getD (Config.staleCode s.uid k % (old.length + 1)) new

/-- One 64-bit word of code, with X permission; zero where no plane reaches it (R207, R389). -/
def State.codeWord (s : State) (r : FlightRef) (pc va : Dword) : Except MemStop Dword :=
  let part := s.partOf r
  let ctx := s.ctxOf r
  if 2 ^ 55 ≤ va.toNat ∨ vaDev va ≠ s.image.devIdx.toNat then .error (.trap cProt 0 pc)
  else match s.translate part ctx va { x := true } with
    | .error e =>
      if e.pageFault && (s.transOf part ctx).fqsize != 0 then .error (.park va e)
      else .error (.trap (if e.pageFault then cPageFault else cProt) 0 pc)
    | .ok (pa, l) =>
      let d := paDie pa
      if l.span && !s.planesUp then .ok 0
      else if (s.die d).st = 6 then .error (.trap cHomeDown 0 pc)
      else if !s.dieUp d then .error (.homeDown d pc)
      else if s.lost.contains (pa / 128) then .error (.trap cLostData 0 pc)
      else .ok (s.codeAt r (pa))

/-- The class a header names (R25). -/
def classOf (n : Nat) : Option ClauseClass :=
  match n with
  | 0 => some .vec
  | 1 => some .uni
  | 2 => some .mem
  | 3 => some .eng
  | 4 => some .ctl
  | 15 => some .mix
  | _ => none

/-- A clause's header and the clause as fetched (R25). -/
structure Fetched where
  header : Dword
  clause : Clause
  deriving DecidableEq, Repr

/-- A clause at a pc, fetched and checked in the nine steps of R30. A control program has uni and ctl clauses only (R169). -/
def State.fetchClause (s : State) (r : FlightRef) (pc : Dword) : Except MemStop Fetched :=
  let bad := fun (sub : Byte) => Except.error (MemStop.trap cIllegalClause sub pc)
  if bits pc.toNat 2 0 ≠ 0 then .error (.trap cMisaligned 0 pc)
  else if bits pc.toNat 63 56 ≠ 0 then .error (.trap cNoncanon 0 pc)
  else
    match s.codeWord r pc pc with
    | .error e => .error e
    | .ok h =>
      let x := h.toNat
      match classOf (bits x 63 60) with
      | none => bad 1
      | some cls =>
        if bits x 35 32 ≠ 0 ∨ bits x 30 16 ≠ 0 then bad 2
        else
          let n := bits x 59 56 + 1
          match (List.range n).mapM (fun i => s.codeWord r pc (pc + BitVec.ofNat 64 (8 * (i + 1)))) with
          | .error e => .error e
          | .ok ws =>
            let admitted := match r, cls with
              | .ctl _ _, .uni | .ctl _ _, .ctl | .wg _ _, _ => ws.all (admits cls)
              | _, _ => false
            if clauseCrc ws ≠ h.extractLsb' 0 16 then bad 3
            else if !admitted then bad 4
            else if ws.dropLast.any isBranch then bad 5
            else .ok { header := h, clause := { addr := pc, cls, yieldHint := bitAt x 31, words := ws } }

/-- What the flight's next clause start would do: the clause, the lanes that pass its wait test and those that do not; for a
flight that resumes inside a clause, its lanes alone (R127, R134, R334). -/
def State.start (s : State) (r : FlightRef) (f : Flight) : Option (Except MemStop (Fetched × Word × Word)) :=
  if f.sg ≠ 0 then some ((s.fetchClause r f.stopPc).map (fun c => (c, f.sg, 0)))
  else f.pick.map (fun (pc, sg) => (s.fetchClause r pc).map (fun c =>
    let ok := maskOf (fun l => sg.getLsbD l && f.headerOk c.header l)
    (c, ok, sg &&& ~~~ok)))

/-! ### Dispatcher slots (R155, R158–R161) -/

/-- The workgroup of a flight runs: neither halted, held, killed nor switched out (R338). -/
def Wg.runs (g : Wg) : Bool := g.st == .running && !g.dbg

/-- The flight may issue: its workgroup or control program runs, and it has neither stopped nor ended, nor parked at a home (R381). -/
def State.live (s : State) (r : FlightRef) (f : Flight) : Bool :=
  !f.stopped && !f.ended && !f.homeParked && (match r with
    | .wg w _ => ((look s.wgs w).map Wg.runs).getD false
    | .ctl die part => s.dieUp die && ((look (s.part part).ctls die).map (fun c => !c.halted)).getD false)

/-- The flight may issue inside a clause: while its workgroup halts it finishes the clause it is in (R333). -/
def State.mayIssue (s : State) (r : FlightRef) (f : Flight) : Bool :=
  !f.stopped && !f.ended && !f.homeParked && (match r with
    | .wg w _ => ((look s.wgs w).map (fun g => g.st == .running || g.st == .halting)).getD false
    | .ctl die part => s.dieUp die && ((look (s.part part).ctls die).map (fun c => !c.halted)).getD false)

/-- The flight's launch must wait for its clearance token, or finds no token buffer (R346, R355). -/
def State.tokenHold (s : State) (r : FlightRef) : Bool :=
  match s.launchOf r with
  | some l => bitAt (fieldAt l.record 0x10 8) 43 && (s.tokbuf r == 0 || !s.hasToken l.part (recNonce l.record))
  | none => false

/-- The flight is ready (R158). -/
def State.ready (s : State) (r : FlightRef) (f : Flight) : Bool :=
  (match f.clause with
    | some _ => s.mayIssue r f && f.wait == .ready
    | none => s.live r f && (f.wait == .ready || f.wait == .counts || f.wait == .token) &&
        !(s.tokenHold r && f.retired == 0 && s.tokbuf r != 0) && (match s.start r f with
      | some (.ok (_, ok, _)) => ok != 0
      | some (.error _) => true
      | none => false))

/-- The flights of a dispatcher, in order of admission to the core and flight index (R158). -/
def State.dispatched (s : State) (core disp : Nat) : List (FlightRef × Flight) :=
  (orderBy (fun (g : Nat × Wg) => g.2.age) s.wgs).flatMap (fun g => if g.2.core ≠ core ∨ g.2.st = .switchedOut then [] else
    (List.range g.2.flights.length).filterMap (fun i => match g.2.flights[i]? with
      | some f => if f.disp = disp ∧ !f.ended then some (.wg g.1 i, f) else none
      | none => none))

/-- The pending flights of a dispatcher that are ready, with the cycle or tick since when; those that have become so at this moment
are not noted yet. -/
def State.readyPending (s : State) (core disp : Nat) : List (FlightRef × Nat) :=
  ((s.dispatched core disp).filter (fun p => p.2.slot.isNone && s.ready p.1 p.2)).map (fun p =>
    (p.1, p.2.readySince.getD (s.beat p.1)))

/-- The first of the entries with the lowest number. -/
def least (l : List (FlightRef × Nat)) : Option (FlightRef × Nat) :=
  l.foldl (fun best p => match best with
    | none => some p
    | some b => if p.2 < b.2 then some p else some b) none

/-- The pending flight of a dispatcher that has been ready longest, the older one among equals. -/
def State.longestReady (s : State) (core disp : Nat) : Option FlightRef := (least (s.readyPending core disp)).map (·.1)

/-- Notes for each pending flight since when it has been ready (R160, R161). -/
def State.stampReady (s : State) : State :=
  { s with wgs := mapVals s.wgs (fun w g => { g with
      flights := (List.range g.flights.length).filterMap (fun i => (g.flights[i]?).map (fun f =>
        { f with readySince := if f.slot.isNone && s.ready (.wg w i) f then some (f.readySince.getD (s.beat (.wg w i))) else none })) }) }

/-- The pending flight of a dispatcher that takes the slot of a stalled or yielding one: the one ready longest, in deterministic mode
the oldest (R160, R171; log 29). For a yield the spec does not say which one it is (R164; log 33). -/
def State.relief (s : State) (core disp : Nat) : Option FlightRef :=
  match (s.dispatched core disp).find? (fun p => p.2.slot.isNone && s.ready p.1 p.2) with
  | some p => if s.det p.1 then some p.1 else s.longestReady core disp
  | none => none

/-- A free active slot of a dispatcher, the lowest (R158). -/
def State.freeSlot (s : State) (core disp : Nat) : Option Nat :=
  (List.range 8).find? (fun k => (s.dispatched core disp).all (fun p => p.2.slot != some k))

/-- The load limit of the wait test that holds a flight: of the WAIT it stands at, or of the header of its next clause (R28, R221). -/
def State.loadLimit (s : State) (r : FlightRef) (f : Flight) : Nat :=
  match f.clause with
  | some c => bits ((c.words.getD f.ix 0).toNat) 19 14
  | none => match f.pick.map (fun p => s.fetchClause r p.1) with
    | some (.ok c) => bits c.header.toNat 55 50
    | _ => 63

/-- The flight is stalled on a long-latency dependence (R160): a wait test counts where a load holds it whose data comes from HBM or
another device, in deterministic mode never (R171). -/
def State.longStall (s : State) (r : FlightRef) (f : Flight) : Bool :=
  f.homeParked || match f.wait with
  | .bar | .bart | .sort | .spool _ | .far | .remote _ | .reply _ | .fault _ | .homeDown _ | .dirLock | .twin _ => true
  | .copySlot n | .shadow n => vaDev n != s.image.devIdx.toNat
  | .counts =>
    let n := s.loadLimit r f
    let on := if f.clause.isSome then f.sg else ((f.pick.map (·.2)).getD 0)
    !s.det r && n != 63 && (maskLanes on).any (fun l => decide (n < f.loadsL l)) &&
      f.accs.any (fun a => a.kind.isLoad && a.pieces.any (fun p => !p.done && (p.dev.isSome || decide (p.keys.headD (2 ^ 40) < 2 ^ 40))))
  | _ => false

/-- Gives a flight a slot. -/
def State.seat (s : State) (r : FlightRef) (k : Nat) : State := s.modFlight r (fun f => { f with slot := some k, readySince := none })

/-- Takes a flight's slot from it; it is pending from now on. -/
def State.unseat (s : State) (r : FlightRef) : State := s.modFlight r (fun f => { f with slot := none, readySince := none })

/-- Fills a dispatcher's free slots, each with the longest-ready pending flight, in deterministic mode the oldest ready one (R160, R171). -/
def State.fillSlots (core disp : Nat) : Nat → State → State
  | 0, s => s
  | n + 1, s =>
    match s.freeSlot core disp, s.relief core disp with
    | some k, some r => State.fillSlots core disp n (s.seat r k)
    | _, _ => s

/-- LONG_LATENCY_SWAP (R160, R171): each active flight of a dispatcher that is stalled on a long-latency dependence gives its slot to
a pending flight, if one is ready; in deterministic mode it leaves its slot in any case. -/
def State.swapStalled (core disp : Nat) (s : State) : State :=
  (s.dispatched core disp).foldl (fun s p =>
    match p.2.slot with
    | none => s
    | some k =>
      if !s.longStall p.1 p.2 then s
      else match s.relief core disp with
        | some q => (s.unseat p.1).seat q k
        | none => if s.det p.1 then s.unseat p.1 else s) (State.fillSlots core disp 8 s)

/-- The dispatcher of a flight after every swap it can make. -/
def State.dispatch (s : State) (r : FlightRef) : State :=
  match s.flight? r, r with
  | some f, .wg _ _ => State.swapStalled (s.coreOf r) f.disp s
  | _, _ => s

/-- A flight that has stalled on a long-latency dependence is exchanged at once, outside deterministic mode, where the tick's turns do it
(R160, R171). -/
def State.swapOut (r : FlightRef) (s : State) : State :=
  match s.flight? r with
  | some f => if !s.det r && f.slot.isSome && s.longStall r f then s.dispatch r else s
  | none => s

/-- The flight has an active slot; a control program needs none (R169). -/
def State.seated (s : State) (r : FlightRef) : Bool :=
  match r with
  | .ctl _ _ => true
  | .wg _ _ => ((s.flight? r).map (·.slot.isSome)).getD false

/-! ### The dispatcher's choice (R158, R159, R169) -/

/-- The cycle of a dispatcher's next issue: it issues once in a cycle. -/
def State.issueCycle (s : State) (core disp : Nat) : Nat := max ((s.core core).issued.getD disp 0) s.cyc

/-- That cycle begins before the next nanosecond. -/
def State.cycleHere (s : State) (core disp : Nat) : Bool := decide (s.issueCycle core disp * 1000 < s.mcyc + s.mhz)

/-- The active flight that a dispatcher issues next: of those that are ready the one that has waited longest, if it has waited 32
cycles, else the oldest; one that has yielded only where no other is ready (R32, R158, R159). One that has never issued has waited since
cycle 0: the spec does not say from when (log 33). -/
def State.chosen (s : State) (core disp : Nat) : Option FlightRef :=
  let rs := (s.dispatched core disp).filter (fun p => p.2.slot.isSome && s.ready p.1 p.2)
  let others := rs.filter (fun p => !(p.2.yielded && p.2.clause.isNone))
  let ps := if others.isEmpty then rs else others
  match least ((ps.filter (fun p => decide (p.2.lastIssue + 32 ≤ s.issueCycle core disp))).map (fun p => (p.1, p.2.lastIssue))) with
  | some p => some p.1
  | none => (ps.head?).map (·.1)

/-- The partition whose control program a die's controller starts a clause of next: the first that is ready in its rotation; none while
one is inside its clause (R169). -/
def State.ctlTurn (s : State) (die : Nat) : Option Nat :=
  let flightAt := fun (k : Nat) => (look (s.part k).ctls die).map (·.flight)
  if (List.range 16).any (fun k => ((flightAt k).map (fun f => f.clause.isSome && s.ready (.ctl die k) f)).getD false) then none
  else ((List.range 16).map (fun i => ((s.die die).turn + i) % 16)).find? (fun k =>
    ((flightAt k).map (fun f => f.clause.isNone && s.ready (.ctl die k) f)).getD false)

/-- It is the flight's turn to issue: it is its dispatcher's choice, in a cycle that has come; or, for a control program, its clause is
under way or the next to start. In deterministic mode the ticks give the turns (R171). -/
def State.chooses (s : State) (r : FlightRef) : Bool :=
  match s.flight? r, r with
  | some f, .wg _ _ => s.det r || (s.chosen (s.coreOf r) f.disp == some r && s.cycleHere (s.coreOf r) f.disp)
  | some f, .ctl die part => f.clause.isSome || s.ctlTurn die == some part
  | none, _ => false

/-- A dispatcher has issued an instruction of a flight: its cycle is spent, the flight's wait begins anew, and no flight is passed over
for having yielded any more. -/
def State.noteIssue (s : State) (r : FlightRef) : State :=
  match s.flight? r, r with
  | some f, .wg _ _ =>
    if s.det r then s
    else
      let c := s.coreOf r
      let n := s.issueCycle c f.disp
      let s1 := (s.dispatched c f.disp).foldl (fun s p =>
        if p.2.yielded && p.2.clause.isNone then s.modFlight p.1 (fun f => { f with yielded := false }) else s) s
      (s1.modFlight r (fun f => { f with lastIssue := n })).modCore c (fun x => { x with issued := modAt x.issued f.disp (fun _ => n + 1) })
  | _, _ => s

/-! ### Clause boundaries (R333, R335) -/

/-- The asynchronous events that a flight takes at a clause boundary, in the order of R335: a halt of its workgroup, a deferred
trap, a timer, a slice expiry. -/
def State.boundary (s : State) (r : FlightRef) (f : Flight) : State :=
  let halts : Bool := match r with
    | .wg w _ => ((look s.wgs w).map (fun g => g.st != .running || g.dbg)).getD false
    | .ctl _ _ => false
  match f.deferred with
  | some t => (s.setFlight r { f with deferred := none }).trap r t
  | none =>
    if halts then { s.setFlight r f.stopHere with cur := if s.cur = some r then none else s.cur }
    else if f.tpend then (s.setFlight r { f with tpend := false }).trap r { cause := cTimer, sub := 0, kind := 2, info := 0, org := none }
    else if f.spend then ((s.setFlight r { f with spend := false }).modPart (s.partOf r) (fun p => { p with spendDue := true })).events
      [.sliceExpiry (s.partOf r)]
    else s.setFlight r f

/-- A flight at a clause start has something to take there. -/
def Flight.owes (f : Flight) : Bool := f.deferred.isSome || f.tpend || f.spend

/-! ### The events -/

/-- A flight in deterministic mode is not in its slot's turn, or is held until a later tick (R171); an operation that holds it takes
its place at its effect tick, whatever the turn (R173). -/
def State.outOfTurn (s : State) (r : FlightRef) (f : Flight) : Bool :=
  s.det r && !(s.inTick (s.partOf r) && (match f.opDue with
    | some e => decide (e ≤ s.now r)
    | none => f.slot == some (s.now r % 8) && decide (f.busy ≤ s.now r)))

/-- The flight begins a clause, or goes on inside one it stopped in; its core has executed a part of its tether from now on (R357). -/
def State.beginClause (s : State) (r : FlightRef) (f : Flight) (c : Fetched) (ok late : Word) : State :=
  let resume := f.sg ≠ 0
  let s := match r with
    | .ctl die part => s.modDie die (fun d => { d with turn := (part + 1) % 16 })
    | .wg w _ => s.noteCore w (s.coreOf r)
  { s.setFlight r { f with
      clause := some c.clause
      ix := if resume then f.stopIx else 0
      sg := ok
      late := f.late ||| late
      lateHdrs := f.lateHdrs ++ (maskLanes late).map (fun l => (l, c.header))
      callTo := if resume then f.callTo else none
      brMask := 0
      brTarget := 0
      yielded := false
      wait := .ready } with cur := some r }

/-- A flight that has resumed while it is held for its effect tick has its clause fetched again (R334). -/
def State.refetch (s : State) (r : FlightRef) (f : Flight) : State :=
  match s.fetchClause r f.stopPc with
  | .error e => s.memStop r 4 e
  | .ok c => s.setFlight r { f with clause := some c.clause, ix := f.stopIx }

/-- CLAUSE_FETCH (R30, R127, R134, R158, R334): the clause of the selected sub-group of the flight that its dispatcher chooses is fetched,
checked and, once its wait test passes, begun. In deterministic mode a flight fetches in its slot's turn only, and not before the answer
it is held for (R171, R346). -/
def execClauseFetch (r : FlightRef) (s : State) : Out :=
  .next (State.swapOut r (match s.flight? r with
  | none => s
  | some f0 =>
    if f0.clause.isSome || !s.live r f0 || !(f0.wait == .ready || f0.wait == .counts || f0.wait == .token || f0.wait == .op) ||
        s.outOfTurn r f0 then s
    else if f0.wait == .op then (if f0.sg = 0 then s else s.refetch r f0)
    else if f0.owes && f0.sg == 0 then s.boundary r f0
    else
      let s1 := s.dispatch r
      let f := (s1.flight? r).getD f0
      if !s1.seated r then s1
      else if s1.tokenHold r && f.retired == 0 then
        if s1.tokbuf r = 0 then s1.fault r cToken 1 0 else s1.modFlight r (fun f => { f with wait := .token })
      else
        match s1.start r f with
        | none => s1
        | some (.error e) => if s1.chooses r then s1.memStop r 4 e else s1
        | some (.ok (c, ok, late)) =>
          if ok = 0 then s1.stall r .counts else if s1.chooses r then s1.beginClause r f c ok late else s1))

/-- YIELD's exchange (R164): the flight gives its slot to a pending flight that is ready, if there is one; else its wait begins anew. -/
def State.yieldSlot (s : State) (r : FlightRef) (f : Flight) : State :=
  match r, f.slot with
  | .wg _ _, some k =>
    match s.relief (s.coreOf r) f.disp with
    | some q => (s.unseat r).seat q k
    | none => s.modFlight r (fun g => { g with lastIssue := s.issueCycle (s.coreOf r) f.disp })
  | _, _ => s

/-- Some pending flight of a dispatcher has been ready for 2,048 cycles, or ticks (R161, R171). -/
def State.overdue (s : State) (core disp : Nat) : Bool :=
  ((least (s.readyPending core disp)).map (fun p => decide (p.2 + 2048 ≤ s.beat p.1))).getD false

/-- CLAUSE_COMPLETE (R32, R127–R130, R161, R164): after the last instruction each thread takes its new pc and the sub-groups form again;
then a flight that has yielded gives up its slot, and any makes room for one that has been ready for long. -/
def execClauseComplete (r : FlightRef) (s : State) : Out :=
  .next (match s.flight? r with
  | none => s
  | some f =>
    match f.clause with
    | none => s
    | some c =>
      if f.ix < c.words.length ∨ f.stopped then s
      else
        let y := f.yielded
        let s1 := { s.boundary r f.completeClause with cur := if s.cur = some r then none else s.cur }
        match r, f.slot with
        | .wg _ _, some k =>
          if y then s1.yieldSlot r f
          else if s1.overdue (s1.coreOf r) f.disp then s1.events [.forcedExchange (s1.coreOf r) f.disp k] else s1
        | _, _ => s1)

/-- FORCED_EXCHANGE (R161): an active flight at a clause boundary makes room for the flight that has been ready longest, once that is
2,048 cycles, or ticks. -/
def execForcedExchange (core disp slot : Nat) (s : State) : Out :=
  .next (match s.longestReady core disp, (s.dispatched core disp).find? (fun p => p.2.slot == some slot) with
  | some q, some (r, f) => if f.clause.isNone && f.sg == 0 && s.overdue core disp then (s.unseat r).seat q slot else s
  | _, _ => s)

end Sys2Proof.Machine
end

