-- ==== Sys2Proof/Machine/Tensor.lean ====
section
/-! DEFINITION. Tensor records, element and scale addresses, handles, SEAL and UNSEAL (R200–R203, R216–R220). -/

namespace Sys2Proof.Machine

/-! ### Tensor records (R200–R202) -/

/-- The fields of a tensor record; sizes and strides by dimension (the stride of dimension 0 is unused). -/
structure TRec where
  base : Nat
  fmt : Nat
  ndim : Nat
  bt : Bool
  sizes : List Nat
  strides : List Int
  mode : Nat
  axis : Nat
  sclLow : Nat
  rsv : Nat
  sbase : Nat
  aux : Nat
  deriving DecidableEq, Repr, Inhabited

/-- The record in 64 bytes (R201). -/
def TRec.ofNat (x : Nat) : TRec where
  base := bits x 55 0
  fmt := bits x 59 56
  ndim := bits x 62 60
  bt := bitAt x 63
  sizes := (List.range 5).map (fun i => bits x (95 + 32 * i) (64 + 32 * i))
  strides := 0 :: (List.range 4).map (fun i => signed 40 (bits x (263 + 40 * i) (224 + 40 * i)))
  mode := bits x 395 394
  axis := bits x 393 391
  sclLow := bits x 390 384
  rsv := bits x 399 396
  sbase := bits x 455 400
  aux := bits x 511 456

/-- Bits of an element of a format (R80). -/
def fmtBits (fmt : Nat) : Nat :=
  match fmt with
  | 0 | 10 | 11 => 32
  | 1 | 2 => 16
  | 3 | 4 | 8 => 8
  | 5 | 6 => 6
  | 7 => 4
  | _ => 64

/-- Bytes of a packed block of 128 elements (R200). -/
def blockBytes (fmt : Nat) : Nat := 128 * fmtBits fmt / 8

/-- Off(j): byte offset of element j of a row, and the bit within it (R91, R202). -/
def elemOff (fmt j : Nat) : Nat × Nat :=
  match fmt with
  | 7 => (j / 2, 4 * (j % 2))
  | 5 | 6 => (3 * (j / 4), 6 * (j % 4))
  | _ => (j * (fmtBits fmt / 8), 0)

/-- Bytes that hold an element: a group of three in FP6 (R91). -/
def elemSpan (fmt : Nat) : Nat := if fmt = 5 ∨ fmt = 6 then 3 else if fmt = 7 then 1 else fmtBits fmt / 8

/-- Coordinate i of an element. -/
def co (c : List Nat) (i : Nat) : Nat := c.getD i 0

/-- The row's start of an element: the root and the strides of dimensions 1 up (R202). -/
def TRec.rowAddr (t : TRec) (table : List Nat) (root : Nat) (c : List Nat) : Int :=
  let k := t.ndim - 1
  let top := if t.bt then k else t.ndim
  let r : Int := if t.bt then table.getD (co c k) 0 else root
  (List.range top).foldl (fun a i => if i = 0 then a else a + (co c i : Int) * t.strides.getD i 0) r

/-- The byte address of an element and the bit within it (R202). -/
def TRec.elemAddr (t : TRec) (table : List Nat) (root : Nat) (c : List Nat) : Int × Nat :=
  let a := t.rowAddr table root c
  let c0 := co c 0
  if t.mode = 1 then
    let (o, b) := elemOff t.fmt (c0 % 128)
    (a + ((c0 / 128 * (1 + blockBytes t.fmt) + 1 + o : Nat) : Int), b)
  else
    let (o, b) := elemOff t.fmt c0
    (a + (o : Int), b)

/-- Sizes of the dense scale plane (R200). -/
def TRec.planeSizes (t : TRec) : List Nat :=
  (List.range 5).map (fun i => let n := if i < t.ndim then t.sizes.getD i 1 else 1
    if i = t.axis then (n + 127) / 128 else n)

/-- The address of an element's scale byte, for a plane at a given address (R200). -/
def TRec.scaleAddr (t : TRec) (table : List Nat) (root : Nat) (plane : Int) (c : List Nat) : Int :=
  if t.mode = 1 then t.rowAddr table root c + ((co c 0 / 128 * (1 + blockBytes t.fmt) : Nat) : Int)
  else
    let ns := t.planeSizes
    let ix := fun i => if i = t.axis then co c i / 128 else co c i
    let (off, _) := (List.range 5).foldl (fun (p : Nat × Nat) i => (p.1 + ix i * p.2, p.2 * ns.getD i 1)) (0, 1)
    plane + (off : Int)

/-- All coordinates below given sizes, dimension 0 fastest. -/
def coords : List Nat → List (List Nat)
  | [] => [[]]
  | n :: ns => (coords ns).flatMap (fun c => (List.range n).map (fun i => i :: c))

/-- Every coordinate of a tensor. -/
def TRec.coords (t : TRec) : List (List Nat) := Machine.coords (t.sizes.take t.ndim)

/-- SCL obeys R200 for the format. -/
def TRec.sclOk (t : TRec) : Bool :=
  let scaled := t.fmt == 7 || (decide (3 ≤ t.fmt) && decide (t.fmt ≤ 6))
  decide (t.mode ≤ 2) && t.sclLow == 0 && decide (t.axis ≤ 4) && (t.mode != 0 || t.fmt != 7) && (t.mode == 0 || scaled) &&
    !(t.mode == 2 && t.sbase == 0) && !(t.mode == 1 && t.axis != 0)

/-- The shape of a record obeys R203. -/
def TRec.shapeOk (t : TRec) : Bool :=
  let whole := if fmtBits t.fmt < 8 then 1 else fmtBits t.fmt / 8
  decide (1 ≤ t.ndim) && decide (t.ndim ≤ 5) && decide (t.fmt ≤ 11) && t.rsv == 0 &&
    (List.range 5).all (fun i => if i < t.ndim then t.sizes.getD i 0 != 0
      else t.sizes.getD i 0 == 0 && (i == 0 || t.strides.getD i 0 == 0)) &&
    (t.fmt != 7 || co t.sizes 0 % 2 == 0) && ((t.fmt != 5 && t.fmt != 6) || co t.sizes 0 % 4 == 0) &&
    t.strides.all (fun x => x % (whole : Int) == 0)

/-! ### Validation (R203, R219) -/

/-- An address names another device. -/
def State.isFar (s : State) (a : Int) : Bool :=
  decide (0 ≤ a) && decide (a < 2 ^ 55) && vaDev (BitVec.ofInt 64 a) != s.image.devIdx.toNat

/-- What SEAL has learned from other devices (R218, R387): by address and length, whether the bytes lie in readable pages, and the bytes;
a length of 0 asks for the page alone. -/
abbrev Known : Type := List ((Nat × Nat) × List Byte)

/-- What is known of a range. -/
def Known.of (kn : Known) (p : Nat × Nat) : Option (List Byte) := (kn.find? (fun x => x.1 == p)).map (·.2)

/-- The pages of a range, as ranges of no bytes. -/
def rangePages (a n : Nat) : List (Nat × Nat) := (List.range ((a % 4096 + n + 4095) / 4096)).map (fun i => ((a / 4096 + i) * 4096, 0))

/-- Bytes at an address are mapped readable; of another device, as that has answered (R387). -/
def State.mapped (s : State) (part ctx : Nat) (kn : Known) (a : Int) (n : Nat) : Bool :=
  if s.isFar a then (rangePages a.toNat n).all (fun p => Known.of kn p == some [1])
  else decide (0 ≤ a) && (s.vaKeys part ctx a.toNat n { r := true }).isSome

/-- A byte that SEAL reads. -/
def State.sealByte (s : State) (part ctx : Nat) (kn : Known) (a : Int) : Byte :=
  if s.isFar a then
    ((kn.find? (fun p => decide (p.1.1 ≤ a.toNat) && decide (a.toNat < p.1.1 + p.1.2))).map (fun p => p.2.getD (a.toNat - p.1.1 + 1) 0)).getD 0
  else (((s.vaKey part ctx a.toNat { r := true }).map (readByte s.mem)).getD 0)

/-- Entries of a record's block table. -/
def TRec.tableSize (t : TRec) : Nat := if t.bt then t.sizes.getD (t.ndim - 1) 0 else 0

/-- The codebook and block table of the auxiliary block, as SEAL copies them (R201, R218). -/
def State.auxOf (s : State) (part ctx : Nat) (kn : Known) (t : TRec) : List Byte × List Nat :=
  let byte := fun (o : Nat) => s.sealByte part ctx kn ((t.aux + o : Nat) : Int)
  let cb := if t.aux = 0 then List.replicate 32 0 else (List.range 32).map byte
  (cb, (List.range t.tableSize).map (fun i => ofBytes ((List.range 8).map (fun j => byte (32 + 8 * i + j)))))

/-- Every byte that the tensor's elements, scale bytes, auxiliary block and block table take lies in readable pages (R203). -/
def State.pagesOk (s : State) (part ctx : Nat) (kn : Known) (t : TRec) (table : List Nat) : Bool :=
  (t.aux == 0 || s.mapped part ctx kn t.aux (32 + 8 * table.length)) &&
    t.coords.all (fun c =>
      s.mapped part ctx kn (t.elemAddr table t.base c).1 (elemSpan t.fmt) &&
        (t.mode == 0 || s.mapped part ctx kn (t.scaleAddr table t.base t.sbase c) 1))

/-- Every stored scale byte is one that SEAL accepts (R89, R90). -/
def State.scalesOk (s : State) (part ctx : Nat) (kn : Known) (t : TRec) (table : List Nat) : Bool :=
  t.mode == 0 || t.coords.all (fun c =>
    let b := (s.sealByte part ctx kn (t.scaleAddr table t.base t.sbase c)).toNat
    bits b 5 0 != 63 && (t.fmt == 7 || bits b 7 6 == 1))

/-- The code that the record alone gives, before anything is read: 1 to 4, or 0 (R219). -/
def TRec.code (t : TRec) : Nat :=
  if !t.shapeOk then 1
  else if !t.sclOk then 2
  else if t.aux == 0 && (t.bt || t.fmt == 7) then 3
  else if t.bt && decide (112 < t.sizes.getD (t.ndim - 1) 0) then 4 else 0

/-- The code SEAL gives a record, 0 when it is well-formed (R219). -/
def State.validate (s : State) (part ctx : Nat) (kn : Known) (t : TRec) : Nat :=
  if t.code ≠ 0 then t.code
  else
    let (_, table) := s.auxOf part ctx kn t
    if !s.pagesOk part ctx kn t table then 5
    else if !s.scalesOk part ctx kn t table then 6 else 0

/-- What SEAL has still to ask other devices of a record's bytes: the auxiliary block first, since it names the rows; then the pages of
elements and scale bytes, and the scale bytes (R203, R218). -/
def State.sealUnknown (s : State) (part ctx : Nat) (kn : Known) (t : TRec) : List (Nat × Nat) :=
  let ask := fun (a : Int) (n : Nat) (bytes : Bool) =>
    if s.isFar a then rangePages a.toNat n ++ (if bytes then [(a.toNat, n)] else []) else []
  let open_ := fun (ps : List (Nat × Nat)) => (ps.filter (fun p => (Known.of kn p).isNone)).foldl (fun l p => if l.contains p then l else l ++ [p]) []
  if t.code ≠ 0 then []
  else
    let aux := if t.aux = 0 then [] else open_ (ask t.aux (32 + 8 * t.tableSize) true)
    if !aux.isEmpty then aux
    else
      let (_, table) := s.auxOf part ctx kn t
      open_ (t.coords.flatMap (fun c => ask (t.elemAddr table t.base c).1 (elemSpan t.fmt) false ++
        (if t.mode = 0 then [] else ask (t.scaleAddr table t.base t.sbase c) 1 true)))

/-! ### The handle table (R216, R217) -/

/-- HTABLE of a launch (R151). -/
def Launch.htable (l : Launch) : Nat := fieldAt l.record 0x78 8

/-- Kills of a tether so far (R216, R363). -/
def Launch.killsOf (l : Launch) (t : Nat) : Nat := sget 0 l.kills t

/-- An entry of a launch's handle table, where it is mapped readable. -/
def State.hEntry (s : State) (l : Launch) (i : Nat) : Option (List Byte) :=
  if l.htable = 0 then none else s.readVa l.part l.ctx (l.htable + 1024 * i) 1024

/-- The entry has become free through a kill of its sealing tether (R216). -/
def Launch.killedEntry (l : Launch) (e : List Byte) : Bool :=
  decide (fieldAt e 1013 1 < l.killsOf (fieldAt e 1000 4))

/-- The entry is free for the launch (R216). -/
def Launch.freeEntry (l : Launch) (e : List Byte) : Bool :=
  fieldAt e 996 4 != l.id.toNat || fieldAt e 992 4 == 0 || l.killedEntry e

/-- SEAL's search for the lowest free entry: its index and bytes; an entry not mapped readable stops it with code 7, and with no
free entry the code is 8 (R218, R219). -/
def State.findFree (s : State) (l : Launch) : Nat → Nat → Except Nat (Nat × List Byte)
  | 0, _ => .error 8
  | n + 1, i =>
    match s.hEntry l i with
    | none => .error 7
    | some e => if l.freeEntry e then .ok (i, e) else s.findFree l n (i + 1)

/-- The entries that the search reads: it ends at a free one, or at one not mapped readable (R218). -/
def State.searched (s : State) (l : Launch) : Nat → Nat → List Nat
  | 0, _ => []
  | n + 1, i =>
    match s.hEntry l i with
    | none => [i]
    | some e => if l.freeEntry e then [i] else i :: s.searched l n (i + 1)

/-- The addresses of those entries; none where the launch has no table. -/
def State.searchedAt (s : State) (l : Launch) : List Nat :=
  if l.htable = 0 then [] else (s.searched l 256 0).map (fun i => l.htable + 1024 * i)

/-- GEN of the next handle of an entry (R217). -/
def nextGen (l : Launch) (e : List Byte) : Nat :=
  if fieldAt e 996 4 = l.id.toNat then (if fieldAt e 1012 1 = 255 then 1 else fieldAt e 1012 1 + 1) else 1

/-- The bytes of an entry as SEAL writes it (R216). -/
def sealedEntry (rec_ cb : List Byte) (table : List Nat) (handle lid tether gen killno : Nat) : List Byte :=
  let bt := (table.flatMap (toBytes 8))
  let body := rec_ ++ cb ++ bt ++ List.replicate (896 - bt.length) 0 ++ toBytes 4 handle ++ toBytes 4 lid ++
    toBytes 4 tether ++ List.replicate 8 0 ++ toBytes 1 gen ++ toBytes 1 killno ++ List.replicate 2 0
  body ++ toBytes 2 (crc16 body).toNat ++ List.replicate 6 0

/-- SEAL's choice of an entry, and the bytes it writes there, from the codebook and the table it has read: its address, the handle and
the bytes, or the code it answers (R218, R219). -/
def State.sealEntry (s : State) (l : Launch) (tether : Nat) (rec_ cb : List Byte) (table : List Nat) :
    Except Nat (Nat × (Nat × List Byte)) :=
  if l.htable = 0 then .error 7
  else
    match s.findFree l 256 0 with
    | .error c => .error c
    | .ok (i, e) =>
      let gen := nextGen l e
      let handle := bits l.id.toNat 15 0 * 2 ^ 16 + gen * 2 ^ 8 + i
      .ok (l.htable + 1024 * i, (handle, sealedEntry rec_ cb table handle l.id.toNat tether gen (l.killsOf tether)))

/-- SEAL's answer and the memory after its write (R218, R219). -/
def State.sealWrite (s : State) (l : Launch) (tether : Nat) (rec_ cb : List Byte) (table : List Nat) : State × Nat :=
  match s.sealEntry l tether rec_ cb table with
  | .error c => (s, c)
  | .ok (a, (handle, bs)) => match s.writeVa l.part l.ctx a bs with
    | none => (s, 7)
    | some s1 => (s1, handle)

/-- The bytes that SEAL reads of a tensor: the auxiliary block with the block table, and the stored scale bytes, as address and length
(R218). -/
def State.sealReads (s : State) (l : Launch) (kn : Known) (t : TRec) : List (Nat × Nat) :=
  if t.code ≠ 0 then []
  else
    let (_, table) := s.auxOf l.part l.ctx kn t
    (if t.aux = 0 then [] else [(t.aux, 32 + 8 * table.length)]) ++
      (if t.mode = 0 then [] else t.coords.map (fun c => ((t.scaleAddr table t.base t.sbase c).toNat, 1)))

/-- The record in s[P..P+15]. -/
def Flight.tensorRec (f : Flight) (p : Nat) : List Byte := (List.range 16).flatMap (fun i => toBytes 4 (f.s (p + i)).toNat)

/-- What SEAL keeps of its reads until it writes: the code it has found, codebook and table. -/
def sealBuf (code : Nat) (cb : List Byte) (table : List Nat) : List Byte := BitVec.ofNat 8 code :: cb ++ table.flatMap (toBytes 8)

/-- The block table of what SEAL keeps. -/
def sealTable (buf : List Byte) : List Nat := (List.range ((buf.length - 33) / 8)).map (fun i => fieldAt buf (33 + 8 * i) 8)

/-- The latency classes of SEAL's reads, those of other devices among them, and of its search and its write (R173; log 33). -/
def State.sealClass (s : State) (r : FlightRef) (l : Launch) (kn : Known) (t : TRec) : Nat × Nat :=
  let reads := (s.sealReads l kn t).map (·.1) ++ (s.sealUnknown l.part l.ctx kn t).map (·.1)
  (reads.foldl (fun m a => max m (s.vaClass r a)) 0, (s.searchedAt l).foldl (fun m a => max m (s.vaClass r a)) 0)

/-- SEAL asks another device for what it needs of it; without a path there it is given nothing (R207, R387). -/
def State.askSeal (s : State) (r : FlightRef) (l : Launch) (kn : Known) (t : TRec) : State :=
  match s.sealUnknown l.part l.ctx kn t with
  | [] => s
  | p :: ps =>
    let dev := vaDev (BitVec.ofNat 64 p.1)
    let parts := (p :: ps).filter (fun q => vaDev (BitVec.ofNat 64 q.1) == dev)
    if s.reaches l.part l.ctx then
      (s.stall r .far).send l.part dev (.spoolOp r)
        ⟨.probe, BitVec.ofNat 64 p.1, 0, 0, [], parts.map (fun q => (BitVec.ofNat 64 q.1, (q.2, [])))⟩
    else (s.modFlight r (fun f => { f.setPeer dev with opBuf := some [] })).stall r (if s.det r then .op else .ready)

/-- It asks further, in deterministic mode for the answer 2,048 ticks on (R173; log 22). -/
def State.askSealMore (s : State) (r : FlightRef) (l : Launch) (kn : Known) (t : TRec) : State :=
  (s.modFlight r (fun f =>
    let due := f.opDue.map (· + 2048)
    { f with opDue := due, lastE := max f.lastE (due.getD 0) })).askSeal r l kn t

/-- The first move of SEAL: it reads the tensor's bytes and validates the record (R203); a code other than 0 ends it. In deterministic mode
its second move comes at the tick at which its search and its write take effect (R173). -/
def State.sealRead (s : State) (r : FlightRef) (f : Flight) (l : Launch) (d : Nat) (t : TRec) : State :=
  match (s.sealReads l f.known t).findSome? (fun p => s.pathStop l.part l.ctx p.1 p.2 false) with
  | some e => s.memStop r 1 e
  | none =>
    let code := s.validate l.part l.ctx f.known t
    if code ≠ 0 then s.retire r (f.setS d (BitVec.ofNat 32 code))
    else
      let (cb, table) := s.auxOf l.part l.ctx f.known t
      let issued := if f.opDue.isSome then f.busy else s.now r
      let e := max (max f.lastE (s.now r)) (issued + (s.sealClass r l f.known t).2)
      let s1 := { s with free := s.free + 1 }.setFlight r { f with
        opBuf := some (sealBuf code cb table)
        opDue := if s.det r then some e else none
        busy := if s.det r then issued else f.busy
        lastE := if s.det r then e else f.lastE }
      s1.stall r (if s.det r then .op else .ready)

/-- The second move of SEAL: it searches the handle table and writes the entry; D holds the handle or the code (R218). -/
def State.sealDone (s : State) (r : FlightRef) (f : Flight) (l : Launch) (g : Wg) (d : Nat) (rec_ buf : List Byte) : State :=
  let cb := slice buf 1 32
  match (s.searchedAt l).findSome? (fun a => s.pathStop l.part l.ctx a 1024 false) with
  | some e => s.memStop r 1 e
  | none => match (match s.sealEntry l g.tether rec_ cb (sealTable buf) with
      | .ok (a, _) => s.pathStop l.part l.ctx a 1024 true
      | .error _ => none) with
    | some e => s.memStop r 2 e
    | none =>
      let (s1, x) := s.sealWrite l g.tether rec_ cb (sealTable buf)
      s1.retire r (f.setS d (BitVec.ofNat 32 x))

/-- SEAL (R218): the record in s[P..P+15] is validated and written to the lowest free entry, after the earlier accesses of its thread;
its reads and its write are two moves (R225). Pages of another device answer there first; one that cannot be reached counts as not
mapped (log 21). -/
def execSeal (o : EFmt) (s : State) : Out :=
  match s.cur.bind s.launchOf with
  | none => onceWith o.g (fun r f => s.retire r f) s
  | some l =>
    let t := fun (f : Flight) => TRec.ofNat (ofBytes (f.tensorRec o.p.toNat))
    let body := fun (r : FlightRef) (f : Flight) => match s.wgOf r, f.opBuf with
      | some g, some buf => if buf.isEmpty then s.retire r (f.setS o.d.toNat 5) else s.sealDone r f l g o.d.toNat (f.tensorRec o.p.toNat) buf
      | some _, none => if (s.sealUnknown l.part l.ctx f.known (t f)).isEmpty then s.sealRead r f l o.d.toNat (t f)
        else s.askSealMore r l f.known (t f)
      | none, _ => s.retire r f
    pathOpWith (fun r f s => s.askSeal r l f.known (t f)) o.g (fun s r f => (s.sealClass r l f.known (t f)).1) body s

/-- The handle is being unsealed by the flight (R220). -/
def Flight.unsealing (f : Flight) (h : Word) : Bool := f.accs.any (fun a => a.kind == .unseal h)

/-- The check of a handle at each use (R217): the entry's bytes, or the sub-code of HANDLE. An UNSEAL of the flight that has still to
take its place has ended the handle for what it issues afterwards (R220). -/
def State.handleCheck (s : State) (f : Flight) (l : Launch) (h : Word) : Except Byte (List Byte) :=
  match s.hEntry l (bits h.toNat 7 0) with
  | none => .error 1
  | some e =>
    if fieldAt e 992 4 ≠ h.toNat ∨ h = 0 ∨ fieldAt e 996 4 ≠ l.id.toNat ∨ l.killedEntry e ∨ f.unsealing h then .error 1
    else if fieldAt e 1016 2 ≠ (crc16 (e.take 1016)).toNat then .error 2
    else .ok e

/-- The store of an UNSEAL: HANDLE := 0 in the entry, as an access of the lowest acting thread (R220, R225). -/
def unsealAcc (f : Flight) (g : BitVec 4) (h : Word) (ps : List Piece) : Acc where
  id := 0
  kind := .unseal h
  bytes := 4
  t := 0
  lanes := laneMask [(f.acting g).headD 0]
  pieces := ps.map (fun p => { p with tid := f.lowTid g })
  out := [((f.acting g).headD 0, [0, 0, 0, 0])]
  got := []
  arrived := 0
  granules := []
  early := false
  lease := 1024
  landed := []
  fault := none

/-- Where the HANDLE of a handle's entry lies. -/
def Launch.handleAt (l : Launch) (h : Word) : Nat := l.htable + 1024 * bits h.toNat 7 0 + 992

/-- UNSEAL (R220): HANDLE := 0 in the entry, as a store that is outstanding from then on; in deterministic mode the check and the store stand
at one effect tick (R173, R235). -/
def execUnseal (o : EFmt) (s : State) : Out :=
  pathOp o.g (fun s r f => ((s.launchOf r).map (fun l => s.vaClass r (l.handleAt (f.s o.h.toNat)))).getD 0) (fun r f =>
    match s.launchOf r with
    | none => s.retire r f
    | some l =>
      let h := f.s o.h.toNat
      match s.handleCheck f l h with
      | .error sub => s.fault r cHandle sub 0
      | .ok _ =>
        let sp : MemSpec := ⟨.unseal h, { w := true }, 1, false, true, true, false⟩
        match (lineParts (l.handleAt h) 4).mapM (s.globPiece r sp false ((f.acting o.g).headD 0)) with
        | .error e => s.memStop r 2 e
        | .ok ps =>
          let sent := s.sendAcc r f (unsealAcc f o.g h (ps.map (fun p => { p with due := if s.det r then 0 else p.due })))
          if s.det r then sent.performLines r s.uid (BitVec.allOnes 64) else sent) s

/-! ### Sealed handles as the engines hold them -/

/-- The record of a sealed entry. -/
def entryRec (e : List Byte) : TRec := TRec.ofNat (fieldAt e 0 64)

/-- The block table of a sealed entry. -/
def entryTable (e : List Byte) : List Nat := (List.range 112).map (fun i => fieldAt e (96 + 8 * i) 8)

/-- The codebook of a sealed entry. -/
def entryCb (e : List Byte) : List Half := (List.range 16).map (fun i => BitVec.ofNat 16 (fieldAt e (64 + 2 * i) 2))

end Sys2Proof.Machine
end

