-- ==== Sys2Proof/Machine/Counter.lean ====
section
/-! DEFINITION. Completion counters, completion entries and the run log (R147–R150, R154, R357, R365, R375). -/

namespace Sys2Proof.Machine

/-! ### Counter entries (R147, R150) -/

/-- "No counter". -/
def noCounter : Nat := 0xFFF

/-- Counter states (R150). -/
def stPending : Nat := 0
def stDone : Nat := 1
def stConfirmed : Nat := 2
def stCancelled : Nat := 3
def stKilled : Nat := 4
def stFailed : Nat := 5
def stCancelledByHost : Nat := 6
def stSuspect : Nat := 7
def stInvalid : Nat := 8
def stUnarmed : Nat := 9

/-- A completion counter's entry (R147). -/
structure Ctr where
  target : Nat
  done : Nat
  conf : Nat
  state : Nat
  level : Nat
  reason : Nat
  parent : Nat
  firstBad : Nat
  tdone : Nat
  tconf : Nat
  deriving DecidableEq, Repr, Inhabited

/-- The entry in 32 bytes. -/
def Ctr.ofNat (x : Nat) : Ctr where
  target := bits x 31 0
  done := bits x 63 32
  conf := bits x 95 64
  state := bits x 99 96
  level := bits x 103 100
  reason := bits x 111 104
  parent := bits x 123 112
  firstBad := bits x 127 124
  tdone := bits x 191 128
  tconf := bits x 255 192

/-- The 32 bytes of an entry. -/
def Ctr.toNat (c : Ctr) : Nat :=
  c.target + c.done * 2 ^ 32 + c.conf * 2 ^ 64 + c.state * 2 ^ 96 + c.level * 2 ^ 100 + c.reason * 2 ^ 104 +
    c.parent * 2 ^ 112 + c.firstBad * 2 ^ 124 + c.tdone * 2 ^ 128 + c.tconf * 2 ^ 192

/-- Where counter i of a context lies (R148). -/
def State.ctrKey (s : State) (part ctx i : Nat) : Nat := ((s.transOf part ctx).ctrbase.toNat + 32 * i)

/-- A counter. -/
def State.ctr (s : State) (part ctx i : Nat) : Ctr := Ctr.ofNat (s.getNat (s.ctrKey part ctx i) 32)

/-- Writes a counter's entry as one unit. -/
def State.putCtr (s : State) (part ctx i : Nat) (c : Ctr) : State := s.putNat (s.ctrKey part ctx i) 32 c.toNat

/-- The initialisation of a context's table: every entry UNARMED (R147). -/
def State.initCounters (s : State) (part ctx : Nat) : State :=
  (List.range 4096).foldl (fun s i => s.putNat (s.ctrKey part ctx i) 32 (stUnarmed * 2 ^ 96)) s

/-- Arms a counter (R149); its earlier signals wait for nothing any more. A TARGET beyond 32 bits keeps its low 32 bits, and a counter armed
with TARGET 0 stays PENDING until a signal comes: the spec states neither (log 33). -/
def State.arm (s : State) (part ctx i target parent level : Nat) : State :=
  let s1 := s.putCtr part ctx i
    { target := target % 2 ^ 32, done := 0, conf := 0, state := stPending, level, reason := 0, parent, firstBad := 0,
      tdone := 0, tconf := 0 }
  { s1 with sigs := s1.sigs.filter (fun g => !(g.part == part && g.ctx == ctx && g.idx == i)) }

/-- A field of a launch record: bits h..l of the word at an offset (R151). -/
def recBits (record : List Byte) (off h l : Nat) : Nat := bits (fieldAt record off 8) h l

/-- CTRL of a launch. -/
def Launch.ctrl (l : Launch) : Nat := recBits l.record 0x50 11 0

/-- The accepted launch that a counter counts. -/
def State.launchAt (s : State) (part ctx i : Nat) : Option (Nat × Launch) :=
  s.launches.find? (fun p => !p.2.ended && p.2.part == part && p.2.ctx == ctx && p.2.ctrl == i)

/-! ### Completion entries (R375) -/

/-- The bytes of a completion entry. PART stands in entries of PF ring 16 alone; of a partition that a command names beyond 15 it holds the
low four bits. -/
def compBytes (o : OwedEntry) (clk state phase : Nat) (pf : Bool) : List Byte :=
  toBytes 32 (clk * 2 ^ 192 + o.lid.toNat * 2 ^ 160 + o.seq.toNat * 2 ^ 128 + o.kind * 2 ^ 120 + o.code * 2 ^ 112 +
    o.reason * 2 ^ 104 + state * 2 ^ 100 + o.queue * 2 ^ 96 + (if pf then o.part % 16 * 2 ^ 92 + 2 ^ 91 else 0) +
    o.origin * 2 ^ 90 + phase)

/-- PHASE of the next entry of a ring: it inverts on each pass; what the first pass writes is not stated (log 4). -/
def Ring.phase (r : Ring) : Nat :=
  if (r.prod.toNat / (max r.size.toNat 1) % 2 == 1) != Config.firstPhase then 1 else 0

/-- The launch state at an entry's writing (R375): a DONE counter may have moved on meanwhile. -/
def State.stateNow (s : State) (part : Nat) (o : OwedEntry) : Nat :=
  match o.ctr with
  | some (ctx, i) =>
    let st := (s.ctr part ctx i).state
    if o.state = stDone ∧ (st = stConfirmed ∨ st = stSuspect) then st else o.state
  | none => o.state

/-- Writes the completion entries of a queue that are next in its order, while its ring has room (R364, R375); an entry of kind 0 is a
place whose entry went to the PF (R350). -/
def State.flushQueue (part q : Nat) : Nat → State → State
  | 0, s => s
  | n + 1, s =>
    let p := s.part part
    let next := p.outs.getD q 0
    let ring := p.rings.getD (16 + q) Ring.off
    match p.owed.find? (fun o => o.queue == q && o.seq == next) with
    | some o =>
      let on := fun (s : State) => s.modPart part (fun p => { p with
        outs := modAt p.outs q (· + 1), owed := p.owed.filter (fun x => !(x.queue == q && x.seq == next)) })
      if o.kind = 0 then State.flushQueue part q n (on s)
      else if ring.full then s
      else
        let s1 := s.putBytes (ring.entryAt ring.prod 32) (compBytes o s.clk.toNat (s.stateNow part o) ring.phase false)
        State.flushQueue part q n ((on s1).modPart part (fun p => { p with rings := modAt p.rings (16 + q) Ring.produced }))
    | none => s

/-- The PF's ring of a number. -/
def State.pfRing (s : State) (i : Nat) : Ring := (look s.pfRings i).getD Ring.off

/-- Changes a PF ring. -/
def State.modPf (s : State) (i : Nat) (f : Ring → Ring) : State := { s with pfRings := put s.pfRings i (f (s.pfRing i)) }

/-- Writes the entries that wait for PF ring 16: those of R350 first, then the commands' in their order, each with the time of its writing and
the ring's PHASE (R350, R375). -/
def State.flushPf : Nat → State → State
  | 0, s => s
  | n + 1, s =>
    let ring := s.pfRing 16
    let on := fun (s : State) => { s with pfOut := s.pfOut + 1, pfOwed := s.pfOwed.filter (fun x => x.seq != s.pfOut) }
    if s.pfOwed.any (fun o => o.seq == s.pfOut && o.kind == 0) then State.flushPf n (on s)
    else if ring.full then s
    else
      let wr := fun (s : State) (bs : List Byte) => (s.putBytes (ring.entryAt ring.prod 32) bs).modPf 16 Ring.produced
      match s.pfDirect with
      | b :: bs => State.flushPf n (wr { s with pfDirect := bs } (toBytes 32 (s.clk.toNat * 2 ^ 192 + ofBytes b + ring.phase)))
      | [] =>
        match s.pfOwed.find? (fun o => o.seq == s.pfOut) with
        | some o => State.flushPf n (wr (on s) (compBytes o s.clk.toNat (s.stateNow o.part o) ring.phase true))
        | none => s

/-- Writes every completion entry that can be written. -/
def State.flush (s : State) (part : Nat) : State :=
  let s1 := (List.range 16).foldl (fun s q => State.flushQueue part q ((s.part part).owed.length + 1) s) s
  State.flushPf (s1.pfDirect.length + s1.pfOwed.length + 1) s1

/-- A completion entry is due on a partition's queue, or, for queue 16, on the PF's (R375). -/
def State.owe (s : State) (part : Nat) (o : OwedEntry) : State :=
  if o.queue = 16 then
    let s1 := { s with pfOwed := s.pfOwed ++ [{ o with queue := 0, part }] }
    State.flushPf (s1.pfDirect.length + s1.pfOwed.length + 1) s1
  else
    let s1 := s.modPart part (fun p => { p with owed := p.owed ++ [o] })
    State.flushQueue part o.queue ((s1.part part).owed.length + 1) s1

/-! ### Final states (R149, R150) -/

/-- The status of a launch's estimation run, if it has one. -/
def State.runOf (s : State) (l : Nat) : Option (Nat × Run) := s.runs.find? (fun p => p.2.launch == l)

/-- A launch's dependences (R154): it may be placed, must wait, or cannot be placed. -/
inductive Dep where
  | go
  | wait
  | never
  deriving DecidableEq, Repr

/-- What one dependence field says (R154). One that was DONE and becomes SUSPECT before the launch is placed cancels it: the spec does not say
(log 33). -/
def State.depOf (s : State) (l : Launch) (i : Nat) (conf : Bool) : Dep :=
  if i = noCounter then .go
  else
    let st := (s.ctr l.part l.ctx i).state
    if st = stConfirmed then .go
    else if st = stDone then (if conf then .wait else .go)
    else if st = stPending ∨ st = stUnarmed ∨ 10 ≤ st then .wait else .never

/-- What both dependences of a launch say. -/
def State.dep (s : State) (l : Launch) : Dep :=
  let a := s.depOf l (recBits l.record 0x58 11 0) (bitAt (fieldAt l.record 0x58 8) 32)
  let b := s.depOf l (recBits l.record 0x58 27 16) (bitAt (fieldAt l.record 0x58 8) 33)
  if a = .never ∨ b = .never then .never else if a = .go ∧ b = .go then .go else .wait

/-- Tethers of a launch (R146). -/
def Launch.tetherCount (l : Launch) : Nat := recBits l.record 0x08 31 0 / max (recBits l.record 0x08 47 40) 1

/-- No tether of the launch runs, and none will be placed. -/
def Launch.spent (l : Launch) : Bool :=
  l.tethers.isEmpty && (l.cancelled || l.killed.isSome || (l.again.isEmpty && decide (l.tetherCount ≤ l.next)))

/-- A launch whose counter is final leaves the device once no part of it runs. -/
def State.reap (s : State) (key : Nat) : State :=
  match look s.launches key with
  | some l => if l.ended && l.spent then { s with launches := del s.launches key } else s
  | none => s

/-- A counter of a launch reaches a final state: its launch's completion entry is due, its run slot is freed, and the launch is
over (R311, R375). -/
def State.endLaunch (s : State) (key : Nat) (l : Launch) (st : Nat) : State :=
  let s0 := { s with runs := s.runs.filter (fun p => p.2.launch != key) }.modLaunch key (fun x => { x with ended := true })
  let s1 := s0.reap key
  s1.owe l.part { queue := l.queue, seq := l.seq, lid := l.id, kind := 1, code := 0, reason := 0, origin := l.origin, part := 0,
                  state := st, ctr := some (l.ctx, l.ctrl) }

/-- The launches that wait on a counter are looked at again (R154): TETHER_PLACE cancels one that can never be placed. -/
def State.wakeWaiters (s : State) (part ctx : Nat) : State :=
  s.events ((s.launches.filter (fun p => !p.2.ended && p.2.part == part && p.2.ctx == ctx && p.2.next == 0 && p.2.tethers.isEmpty &&
    s.dep p.2 == .never)).map (fun p => .tetherPlace p.1 []))

/-- The device's own update of a counter, which in deterministic mode stands in the last step of its tick (R403), before the slots have
their turns. -/
def State.stepFive (s : State) (part : Nat) (i : Instr) : State :=
  if s.agenda.contains (.turns part) then
    { s with agenda := s.agenda.takeWhile (fun x => x != .turns part) ++ [.event i] ++ s.agenda.dropWhile (fun x => x != .turns part) }
  else s.events [i]

/-- A PENDING counter moves to a final state and signals its parent with it (R149, R150). -/
def State.finish (s : State) (part ctx i st : Nat) : State :=
  let c := s.ctr part ctx i
  let st1 := if st = stDone ∧ c.conf = c.target then stConfirmed else st
  let s1 := s.putCtr part ctx i { c with state := st1, tdone := s.clk.toNat,
                                         tconf := if st1 = stConfirmed then s.clk.toNat else c.tconf }
  let s2 := match s1.launchAt part ctx i with
    | some (k, l) => s1.endLaunch k l st
    | none => s1
  let s3 := s2.wakeWaiters part ctx
  if c.parent = noCounter then s3 else s3.stepFive part (.counterSignal part ctx c.parent st (some i) [])

/-- A signal to a counter (R149): discarded unless it is PENDING; the last one makes it final, INVALID where its launch's run
held a NaN sample. One of a child that is CONFIRMED by now, or without a core to wait for, is confirmed at once. The counter of a launch
that is cancelled or killed becomes final only by that (R321). -/
def State.signal (s : State) (part ctx i count st : Nat) (child : Option Nat) (cores : List Nat) : State :=
  let c := s.ctr part ctx i
  if noCounter ≤ i ∨ c.state ≠ stPending then s
  else
    let done := min (c.done + count) c.target
    let c1 := { c with done, firstBad := if st ≠ stDone ∧ c.firstBad = 0 then st else c.firstBad }
    let sig : Sig := ⟨part, ctx, i, done - c.done, child, cores, [], []⟩
    let unsure := match child with
      | some j => (s.ctr part ctx j).state != stConfirmed
      | none => !cores.isEmpty
    let open_ := st == stDone && unsure && done != c.done
    let s1 := { s.putCtr part ctx i { c1 with conf := if open_ || st != stDone then c1.conf else c1.conf + (done - c.done) } with
      sigs := if open_ then s.sigs ++ [sig] else s.sigs }
    let stops : Bool := match s1.launchAt part ctx i with
      | some (_, l) => l.cancelled || l.killed.isSome
      | none => false
    if done ≠ c.target ∨ stops = true then s1
    else
      let invalid : Bool := match s1.launchAt part ctx i with
        | some (k, _) => ((s1.runOf k).map (fun p => p.2.status == 6)).getD false
        | none => false
      s1.finish part ctx i (if invalid then stInvalid else if c1.firstBad = 0 then stDone else c1.firstBad)

/-- COUNTER_SIGNAL (R149, R150). The signal of a child that has become SUSPECT meanwhile counts as that. -/
def execCounterSignal (part slot idx state : Nat) (child : Option Nat) (cores : List Nat) (s : State) : Out :=
  let turned : Bool := match child with
    | some j => (s.ctr part slot j).state == stSuspect
    | none => false
  .next (s.signal part slot idx 1 (if state = stDone ∧ turned = true then stSuspect else state) child cores)

/-! ### Confirmation and suspicion (R149, R150, R357, R358) -/

/-- Confirms a signal, and the counters that become CONFIRMED by it, up the PARENT chain. -/
def State.confirm : Nat → State → Sig → State
  | 0, s, _ => s
  | n + 1, s, g =>
    let c := s.ctr g.part g.ctx g.idx
    let c1 := { c with conf := min (c.conf + g.count) c.target }
    let s1 := { s with sigs := s.sigs.filter (fun x => x != g) }
    if c1.state = stDone ∧ c1.conf = c1.target then
      let s2 := s1.putCtr g.part g.ctx g.idx { c1 with state := stConfirmed, tconf := s.clk.toNat }
      (s2.sigs.filter (fun x => x.part == g.part && x.ctx == g.ctx && x.child == some g.idx)).foldl (State.confirm n) s2
    else s1.putCtr g.part g.ctx g.idx c1

/-- A counter that holds an unconfirmed signal becomes SUSPECT, or will when it completes, and its parents with it. -/
def State.suspect : Nat → State → Nat × (Nat × Nat) → State
  | 0, s, _ => s
  | n + 1, s, (part, ctx, i) =>
    let c := s.ctr part ctx i
    if c.state = stDone then
      let s1 := s.putCtr part ctx i { c with state := stSuspect }
      (s1.sigs.filter (fun x => x.part == part && x.ctx == ctx && x.child == some i)).foldl
        (fun s x => State.suspect n s (x.part, x.ctx, x.idx)) s1
    else if c.state = stPending then s.putCtr part ctx i { c with firstBad := if c.firstBad = 0 then stSuspect else c.firstBad }
    else s

/-! ### The run log (R365) -/

/-- The run log's ring of a context: BASE and SIZE are those of its descriptor (R376). -/
def Ctx.log (c : Ctx) : Ring := { c.logring with base := c.desc.logbase, size := c.desc.logsize * 128 }

/-- The log is kept and has no room for some records. -/
def State.logFull (s : State) (part ctx n : Nat) : Bool :=
  let c := (s.part part).ctx ctx
  c.desc.logbase != 0 && decide (c.log.size.toNat < c.log.count + n)

/-- Appends 32-byte records to the run log, where one is kept, as one unit (R365). -/
def State.logAppend (s : State) (part ctx : Nat) (recs : List (List Byte)) : State :=
  let c := (s.part part).ctx ctx
  if c.desc.logbase = 0 ∨ s.logFull part ctx recs.length then s
  else
    let at_ := fun (i : Nat) => c.log.entryAt (c.log.prod + BitVec.ofNat 32 i) 32
    let s1 := (List.range recs.length).foldl (fun s i => (s.writeVa part ctx (at_ i) (recs.getD i [])).getD s) s
    s1.modCtx part ctx (fun c => { c with logring := { c.logring with prod := c.logring.prod + BitVec.ofNat 32 recs.length } })

/-- A log record's 32 bytes (R365). -/
def logRec (kind origin queue lid a b clk : Nat) : List Byte :=
  toBytes 1 kind ++ toBytes 1 origin ++ toBytes 1 queue ++ [0] ++ toBytes 4 lid ++ toBytes 8 a ++ toBytes 8 b ++ toBytes 8 clk

end Sys2Proof.Machine
end

