-- ==== Sys2Proof/Machine/Engine.lean ====
section
/-! DEFINITION. What the engine paths share: where a byte of an engine's side lies, snapshots, writes that keep the bits they do
not cover, replayable faults of an engine, deferred traps, remote traffic (R228, R261, R278, R298). -/

namespace Sys2Proof.Machine

/-! ### Sides -/

/-- One side of an engine operation: its space, the sealed record, block table and codebook, the root and the scale plane of a
local side, and a displacement (R261, R269, R289, R298). -/
structure Side where
  space : Nat
  t : TRec
  table : List Nat
  cb : List Half
  root : Nat
  plane : Int
  disp : Nat
  deriving DecidableEq, Repr, Inhabited

/-- A side of a sealed entry: in global space at its own addresses, elsewhere at a local root (R261). -/
def Side.ofEntry (e : List Byte) (space root : Nat) (plane : Int) (disp : Nat) : Side :=
  let t := entryRec e
  if space = 0 then { space, t, table := entryTable e, cb := entryCb e, root := t.base, plane := t.sbase, disp }
  else { space, t := { t with bt := false }, table := [], cb := entryCb e, root, plane, disp }

/-- Byte address and bit of an element (R202). -/
def Side.elem (d : Side) (c : List Nat) : Int × Nat :=
  let p := d.t.elemAddr d.table d.root c
  (p.1 + d.disp, p.2)

/-- Address of an element's scale byte. -/
def Side.scale (d : Side) (c : List Nat) : Int := d.t.scaleAddr d.table d.root d.plane c + d.disp

/-- Addresses of the bytes of an element. -/
def Side.elemBytes (d : Side) (c : List Nat) : List Int :=
  (List.range (elemSpan d.t.fmt)).map (fun k => (d.elem c).1 + Int.ofNat k)

/-! ### Where a byte lies -/

/-- Where a byte of a side lies, or why an access to it stops or waits (R278, R360, R381): `locked` for a write that a directory lock or a
SPAN line's new home holds (R196, R389), `cut` for a SPAN line while no plane is live (R389). -/
inductive ByteAt where
  | here (key : Nat)
  | far (dev : Nat)
  | outside
  | page (e : WalkErr)
  | prot
  | noncanon
  | home (die : Nat)
  | lost
  | locked
  | cut
  deriving DecidableEq, Repr

/-- Where one byte of a space lies for the operations of a flight. -/
def State.byteAt (s : State) (r : FlightRef) (part ctx space : Nat) (a : Int) (write : Bool) : ByteAt :=
  if space = 0 then
    let v := BitVec.ofInt 64 a
    if a < 0 ∨ 2 ^ 56 ≤ a then .noncanon
    else if vaTwin v then .prot
    else if vaDev v ≠ s.image.devIdx.toNat then .far (vaDev v)
    else match s.translate part ctx v { r := !write, w := write } with
      | .error e => if e.pageFault then .page e else .prot
      | .ok (pa, l) =>
        if write && l.lock then .locked
        else if !s.dieUp (paDie pa) then .home (paDie pa)
        else if s.lost.contains (pa / 128) then .lost
        else if l.span && s.planes == 0 then .cut
        else if l.span && write && s.spanHeld pa then .locked
        else .here pa
  else
    match (s.wgOf r).bind (fun g => s.spaceAddr r g space 0 a 1) with
    | some (.flat ks _ die) =>
      match die with
      | some d => if s.dieUp d then .here (ks.headD 0) else .home d
      | none => .here (ks.headD 0)
    | _ => .outside

/-- A byte of some addresses is at hand here and carries the poison mark (R361). -/
def State.poisonedSide (s : State) (r : FlightRef) (part ctx space : Nat) (as_ : List Int) : Bool :=
  !s.poison.isEmpty && as_.any (fun a => match s.byteAt r part ctx space a false with
    | .here k => s.poisoned [k]
    | _ => false)

/-- The first byte of some addresses that is not at hand here, with its address. -/
def State.firstBad (s : State) (r : FlightRef) (part ctx space : Nat) (write : Bool) (as_ : List Int) : Option (Int × ByteAt) :=
  (as_.map (fun a => (a, s.byteAt r part ctx space a write))).find? (fun p => match p.2 with
    | .here _ => false
    | .far _ => false
    | _ => true)

/-- Reads one byte of a side from memory as it stood; bytes of another device come from what its replies brought. -/
def State.sideByte (s : State) (mem : List Host.Cell) (r : FlightRef) (part ctx space : Nat) (got : List (Nat × List Byte)) (a : Int) : Byte :=
  match s.byteAt r part ctx space a false with
  | .here k => readByte mem k
  | .far _ => ((got.find? (fun p => decide (p.1 ≤ a.toNat) && decide (a.toNat < p.1 + p.2.length))).map
      (fun p => p.2.getD (a.toNat - p.1) 0)).getD 0
  | _ => 0

/-- The code of an element (R91, R202). -/
def Side.code (d : Side) (byte : Int → Byte) (c : List Nat) : Nat :=
  let n := ofBytes ((d.elemBytes c).map byte)
  n / 2 ^ (d.elem c).2 % 2 ^ fmtBits d.t.fmt

/-- The value of an element, scale included (R81, R88–R90). -/
def Side.value (d : Side) (byte : Int → Byte) (c : List Nat) : FVal :=
  if d.t.mode = 0 then (fmtOfCode d.t.fmt).decode (d.code byte c)
  else scaledVal d.t.fmt (byte (d.scale c)) d.cb (d.code byte c)

/-! ### Writes -/

/-- Bytes to write, by address: the value and the mask of the bits written. -/
abbrev WriteTab := List (Nat × (Byte × Byte))

/-- Adds bits of one byte. -/
def WriteTab.byte (t : WriteTab) (a : Nat) (v m : Byte) : WriteTab :=
  match look t a with
  | some (v0, m0) => put t a ((v0 &&& ~~~m) ||| (v &&& m), m0 ||| m)
  | none => put t a (v &&& m, m)

/-- Adds an element: `width` bits of a code at a bit of a byte address, over some bytes. -/
def WriteTab.elem (t : WriteTab) (a : Int × Nat) (span width code : Nat) : WriteTab :=
  let v := toBytes span (code % 2 ^ width * 2 ^ a.2)
  let m := toBytes span ((2 ^ width - 1) * 2 ^ a.2)
  (List.range span).foldl (fun t i =>
    if m.getD i 0 = 0 then t else t.byte (a.1.toNat + i) (v.getD i 0) (m.getD i 0)) t

/-- The byte a write leaves: bits it does not cover stay (R263). -/
def mergeByte (old v m : Byte) : Byte := (old &&& ~~~m) ||| (v &&& m)

/-- Applies the writes that lie on this device. -/
def State.applyWrites (s : State) (r : FlightRef) (part ctx space : Nat) (t : WriteTab) : State :=
  let mem := t.foldl (fun m p => match s.byteAt r part ctx space p.1 true with
    | .here k => writeByte m k (mergeByte (readByte m k) p.2.1 p.2.2)
    | _ => m) s.mem
  { s with mem }

/-- A launch's engine writes keep what code words held (R33), as its stores do. -/
def State.noteWrites (s : State) (r : FlightRef) (part ctx space : Nat) (t : WriteTab) (before : List Host.Cell) : State :=
  s.noteCode r (t.filterMap (fun p => match s.byteAt r part ctx space p.1 true with
    | .here k => some k
    | _ => none)) before

/-- The aligned 4-byte words of a table, by address ÷ 4, in its order. -/
def WriteTab.words (t : WriteTab) : List Nat := t.foldl (fun ws p => if ws.contains (p.1 / 4) then ws else ws ++ [p.1 / 4]) []

/-- The writes of a table in some words. -/
def WriteTab.inWords (t : WriteTab) (ws : List Nat) : WriteTab := t.filter (fun p => ws.contains (p.1 / 4))

/-- A run of words that an operation writes next: each word is an event of its own, in no order that a program can rely on (R228). -/
def someWords (n : Nat) (ws : List Nat) : List Nat :=
  let i := Config.freeNat n % max ws.length 1
  (ws.drop i).take (1 + Config.freeNat (n + 1) % max (ws.length - i) 1)

/-- Runs of adjacent addresses within 256-byte lines: start and length. -/
def runsOf (as_ : List Nat) : List (Nat × Nat) :=
  as_.foldl (fun rs a => match rs.getLast? with
    | some (b, n) => if a = b + n ∧ a % 256 ≠ 0 then rs.dropLast ++ [(b, n + 1)] else rs ++ [(a, 1)]
    | none => [(a, 1)]) []

/-- The device that an address in global space names. -/
def farDev (a : Int) : Nat := vaDev (BitVec.ofInt 64 a)

/-- The devices that some addresses name, other than this one. -/
def State.farDevs (s : State) (as_ : List Int) : List Nat :=
  as_.foldl (fun ds a => if s.isFar a && !ds.contains (farDev a) then ds ++ [farDev a] else ds) []

/-- Sorted distinct addresses. -/
def sortedAddrs (as_ : List Int) : List Nat := (as_.foldl (fun (t : List (Nat × Nat)) a => put t a.toNat 0) []).map (·.1)

/-- The latency class of a side (R173): the worst of its bytes' homes. -/
def State.sideLat (s : State) (r : FlightRef) (part ctx space : Nat) (as_ : List Int) : Nat :=
  match space with
  | 1 => 8
  | 2 => 24
  | 3 => if bits ((as_.headD 0).toNat) 27 26 = s.dieOf r then 64 else 192
  | _ => as_.foldl (fun m a => max m (match s.byteAt r part ctx 0 a false with
      | .far _ => 2048
      | .here k => homeLat (s.dieOf r) (paDie k)
      | _ => 128)) 128

/-! ### Faults of an engine (R278) -/

/-- Cause of the trap a stopped engine operation leaves to its flight; none where it only pauses. -/
def State.engineCause (s : State) (part ctx : Nat) (b : ByteAt) : Option Byte :=
  match b with
  | .page _ => if (s.transOf part ctx).fqsize = 0 then some cPageFault else none
  | .prot => some cProt
  | .noncanon => some cNoncanon
  | .lost => some cLostData
  | .outside => some cScratchBounds
  | _ => none

/-- A trap that arises outside a flight's instruction stream (R332, R333 step 4): it becomes the cause of a stopped flight without one,
whose workgroup then stands halted by it, and is otherwise taken at the flight's next clause boundary. -/
def State.deferTrap (s : State) (r : FlightRef) (t : TrapInfo) : State :=
  match s.flight? r with
  | none => s
  | some f =>
    if f.ended then s
    else if f.stopped && f.cause == 0 then
      let s1 := s.modFlight r (fun f => { f with
        cause := t.cause, sub := t.sub, kind := t.kind, info := t.info, org := t.org, trapAt := s.clk.toNat })
      match r with
      | .wg w fl => s1.modWg w (fun g =>
          if (g.st = .halting || g.dbg) && !g.trapped then
            { g with st := if g.st = .running then .halting else g.st, trapped := true, entryOwed := true, firstFlt := BitVec.ofNat 8 fl,
                     firstAt := s.beat r }
          else g)
      | .ctl _ _ => s1
    else s.modFlight r (fun f => if f.deferred.isNone then { f with deferred := some t } else f)

/-- A replayable fault at a page can be noted: an entry for it is outstanding, or its queue has room (R195). -/
def State.faultRoom (s : State) (pt cx : Nat) (page : Nat) : Bool :=
  let c := (s.part pt).ctx cx
  c.faults.any (fun p => p.2 == page) || !({ c.fqring with base := c.trans.fqbase, size := c.trans.fqsize } : Ring).full

/-- A fault queue entry of an engine path for a page, with KIND bit 5 (R195, R278). -/
def State.engineFault (s : State) (r : FlightRef) (part ctx : Nat) (a : Int) (e : WalkErr) (write : Bool) : State :=
  s.faultEntry r part ctx (BitVec.ofInt 64 a) e (32 + (if write then 2 else 1))

/-- A count of a flight's outstanding operations falls. -/
def State.lessCopies (s : State) (r : FlightRef) : State := s.modFlight r (fun f => Flight.poke { f with nCopies := f.nCopies - 1 })

end Sys2Proof.Machine
end

