-- ==== Sys2Proof/Machine/Streamer.lean ====
section
/-! DEFINITION. Streamers: CPY, CPYG, CPYS, spools and their pointers, completion records (R258–R280). -/

namespace Sys2Proof.Machine

/-! ### Die event queues (R275, R376) -/

/-- Writes a record into a die's event queue; its copy is no longer outstanding. -/
def State.writeEvent (s : State) (d : Nat) (owner : Option FlightRef) (bs : List Byte) : State :=
  let ring := s.pfRing (48 + d)
  let s1 := (s.putBytes (ring.entryAt ring.prod 32) bs).modPf (48 + d) Ring.produced
  match owner with
  | some r => s1.lessCopies r
  | none => s1

/-- Writes a completion record to its die's event queue; when the queue is full, or others wait, the record waits, and the copy counts as
outstanding meanwhile (R275). -/
def State.postEvent (s : State) (d : Nat) (owner : Option FlightRef) (bs : List Byte) : State :=
  if (s.pfRing (48 + d)).full || !(s.die d).evWait.isEmpty then s.modDie d (fun x => { x with evWait := x.evWait ++ [(owner, bs)] })
  else s.writeEvent d owner bs

/-- Writes the records that wait for a die's event queue while it has room. -/
def State.flushEvents (d : Nat) : Nat → State → State
  | 0, s => s
  | n + 1, s =>
    match (s.die d).evWait with
    | [] => s
    | (o, bs) :: rest =>
      if (s.pfRing (48 + d)).full then s
      else State.flushEvents d n ((s.modDie d (fun x => { x with evWait := rest })).writeEvent d o bs)

/-- EVENT_QUEUE_CONSUME (R376): a die controller takes entries of its queue and advances CONS. -/
def execEventQueueConsume (die count : Nat) (s : State) : Out :=
  .next (
    let n := min count (s.pfRing (48 + die)).count
    let s1 := s.modPf (48 + die) (fun r => { r with cons := r.cons + BitVec.ofNat 32 n })
    State.flushEvents die ((s1.die die).evWait.length + 1) s1)

/-! ### Spools (R266, R267) -/

/-- Fields of a spool name. -/
def spSpace (n : Dword) : Nat := bits n.toNat 58 56
def spAddr (n : Dword) : Nat := bits n.toNat 55 0

/-- The spool is on another device (R267). -/
def State.spoolFar (s : State) (n : Dword) : Bool := spSpace n == 0 && s.isFar (spAddr n)

/-- The spool is out of reach here: it is on another device, or on a SPAN page of this one while no plane is live (R267, R389). -/
def State.spoolAway (s : State) (r : FlightRef) (n : Dword) : Bool :=
  s.spoolFar n || spSpace n == 0 && s.planes == 0 && (List.range 64).any (fun i =>
    s.byteAt r (s.partOf r) (s.ctxOf r) 0 (spAddr n + i : Nat) false == .cut)

/-- Flat keys of bytes of a space, where every one is at hand for a read or a write. -/
def State.spaceKeys (s : State) (r : FlightRef) (space a n : Nat) (write : Bool) : Option (List Nat) :=
  (List.range n).mapM (fun i => match s.byteAt r (s.partOf r) (s.ctxOf r) space (a + i : Nat) write with
    | .here k => some k
    | _ => none)

/-- Bytes of a space lie in its range and are mapped for a write, though they may not be at hand now. -/
def State.spaceMapped (s : State) (r : FlightRef) (space a n : Nat) : Bool :=
  (List.range n).all (fun i => match s.byteAt r (s.partOf r) (s.ctxOf r) space (a + i : Nat) true with
    | .here _ | .home _ | .lost | .locked | .cut => true
    | _ => false)

/-- How an access to a byte that is not at hand ends for the flight that makes it (R196, R206, R381); none where it lies outside its
space, or on another device. -/
def State.byteStop (s : State) (r : FlightRef) (a : Int) (b : ByteAt) : Option MemStop :=
  let v := BitVec.ofInt 64 a
  match b with
  | .here _ | .far _ | .outside | .cut => none
  | .page e => some (if (s.transOf (s.partOf r) (s.ctxOf r)).fqsize = 0 then .trap cPageFault 0 v else .park v e)
  | .prot => some (.trap cProt 0 v)
  | .noncanon => some (.trap cNoncanon 0 v)
  | .home d => some (if (s.die d).st = 6 then .trap cHomeDown 0 v else .homeDown d v)
  | .lost => some (.trap cLostData 0 v)
  | .locked => some .locked

/-- How an access to a range of a space has to stop, if it has. -/
def State.spaceStop (s : State) (r : FlightRef) (space a n : Nat) (write : Bool) : Option MemStop :=
  (List.range n).findSome? (fun i => s.byteStop r (a + i : Nat) (s.byteAt r (s.partOf r) (s.ctxOf r) space (a + i : Nat) write))

/-- A record as the device finds it at a key: a store into it leaves its layout, state and limit as SPINIT wrote them, and its
pointers open (R266; log 31). -/
def State.recordAt (s : State) (k : Nat) (b : List Byte) : List Byte :=
  match look s.spools k with
  | none => b
  | some t => if t.made = [] ∨ b.take 32 = t.made then b
      else t.made.take 20 ++ (List.range 12).map (Config.spoolByte s.uid) ++ b.drop 32

/-- The record's 64 bytes and their keys. -/
def State.spoolRec (s : State) (r : FlightRef) (n : Dword) : Option (List Nat × List Byte) :=
  (s.spaceKeys r (spSpace n) (spAddr n) 64 false).map (fun ks => (ks, s.recordAt (ks.headD 0) (ks.map (readByte s.mem))))

/-- Form of a name (R267). -/
def nameOk (n : Dword) : Bool :=
  bits n.toNat 63 59 == 0 && (spSpace n == 0 || spSpace n == 1 || spSpace n == 3) && spAddr n % 64 == 0

/-- Fields of a spool record (R266). -/
def spRd (b : List Byte) : Word := BitVec.ofNat 32 (fieldAt b 20 4)
def spWr (b : List Byte) : Word := BitVec.ofNat 32 (fieldAt b 24 4)
def spRsv (b : List Byte) : Word := BitVec.ofNat 32 (fieldAt b 28 4)
def spSlots (b : List Byte) : Nat := fieldAt b 12 1 + 1
def spSlotBytes (b : List Byte) : Nat := fieldAt b 8 4
def spState (b : List Byte) : Nat := fieldAt b 15 1
def spBuf (b : List Byte) : Nat := fieldAt b 0 8
def spTimeout (b : List Byte) : Nat := fieldAt b 16 4
def spProdDev (b : List Byte) : Nat := fieldAt b 14 1

/-- A local spool as the instructions find it: its record, or none when the name is bad (R267). -/
def State.spool (s : State) (r : FlightRef) (n : Dword) : Option (List Nat × List Byte) :=
  if !nameOk n then none
  else match s.spoolRec r n with
    | some (ks, b) => if spState b = 1 then some (ks, b) else none
    | none => none

/-- Writes a 4-byte field of a spool record. -/
def State.putSpool (s : State) (ks : List Nat) (off : Nat) (x : Word) : State :=
  { s with
    mem := writeKeys s.mem ((slice' ks off).zip (toBytes 4 x.toNat))
    spools := alter s.spools (ks.headD 0) (fun t => if t.made = [] then t else
      { t with made := t.made.take off ++ toBytes 4 x.toNat ++ t.made.drop (off + 4) }) }
where
  /-- Four keys from an offset on. -/
  slice' (ks : List Nat) (off : Nat) : List Nat := (ks.drop off).take 4

/-- Flights that wait at a spool test again (R269, R271). -/
def State.wakeSpools (s : State) : State :=
  { s with wgs := mapVals s.wgs (fun _ g => { g with flights := g.flights.map (fun f => match f.wait with
    | .spool _ | .copySlot _ | .shadow _ => { f with wait := .ready }
    | _ => f) }) }

/-- What is known of a local spool beyond its record. -/
def State.spoolSt (s : State) (ks : List Nat) : SpoolSt := (look s.spools (ks.headD 0)).getD .none

/-- Changes that. -/
def State.modSpoolSt (s : State) (ks : List Nat) (f : SpoolSt → SpoolSt) : State :=
  { s with spools := put s.spools (ks.headD 0) (f (s.spoolSt ks)) }

/-- The name in a pair of uniform registers. -/
def Flight.name (f : Flight) (x : Byte) : Dword := f.s64 x.toNat

/-- The shadow a core keeps of a remote spool. -/
def Core.shadow (c : Core) (part : Nat) (n : Dword) : Option Shadow := c.shadows.find? (fun x => x.part == part && x.name == n)

/-- Changes a shadow. -/
def Core.modShadow (c : Core) (part : Nat) (n : Dword) (f : Shadow → Shadow) : Core :=
  { c with shadows := c.shadows.map (fun x => if x.part == part && x.name == n then f x else x) }

/-- The class of a spool operation's access to the record (R173). -/
def State.spoolClass (s : State) (r : FlightRef) (n : Dword) : Nat := s.sideLat r (s.partOf r) (s.ctxOf r) (spSpace n) [(spAddr n : Int)]

/-- A flight waits for the answer of another device to a spool operation; without a path the operation fails, and is given nothing. -/
def State.askSpool (s : State) (r : FlightRef) (n : Dword) (kind : RemKind) (len : Nat) : State :=
  if s.reaches (s.partOf r) (s.ctxOf r) then
    (s.stall r .far).send (s.partOf r) (vaDev n) (.spoolOp r) ⟨kind, BitVec.ofNat 64 (spAddr n), 0, len, [], []⟩
  else (s.modFlight r (fun f => { f.setPeer (vaDev n) with opBuf := some [] })).stall r (if s.det r then .op else .ready)

/-- A spool operation asks its spool's device, if that is another; it fails where the spool is out of reach. -/
def askFar (x : Byte) (kind : RemKind) (len : Nat) (r : FlightRef) (f : Flight) (s : State) : State :=
  if nameOk (f.name x) && s.spoolAway r (f.name x) then s.askSpool r (f.name x) kind len else s

/-- A spool of another device had nothing filled: it is asked again, in deterministic mode for the answer 2,048 ticks on (R173, R271; log
22). -/
def State.askLater (s : State) (r : FlightRef) (n : Dword) : State :=
  (s.modFlight r (fun f =>
    let due := f.opDue.map (· + 2048)
    { f with opBuf := none, opDue := due, lastE := max f.lastE (due.getD 0) })).askSpool r n .load 64

/-- Runs a spool operation on a record of another device: it is asked for, and `body` takes the answer, of which a failed operation has
none (R207, R267). -/
def farSpool (r : FlightRef) (f : Flight) (n : Dword) (kind : RemKind) (len : Nat) (s : State) (body : Option (List Byte) → State) :
    State :=
  match f.opBuf with
  | none => s.askSpool r n kind len
  | some b => body (if b.isEmpty then none else some b)

/-- A spool operation reads a record of this device: it stops as an access to it would (R206), and a bad name traps ILLEGAL_OP with
sub-code 0x4 (R267). -/
def State.withSpool (s : State) (r : FlightRef) (n : Dword) (write : Bool) (body : List Nat → List Byte → State) : State :=
  if !nameOk n then s.fault r cIllegalOp 4 0
  else match s.spaceStop r (spSpace n) (spAddr n) 64 write with
    | some e => s.memStop r (if write then 3 else 1) e
    | none => match s.spool r n with
      | some (ks, b) => body ks b
      | none => s.fault r cIllegalOp 4 0

/-- A spool has nothing filled: the flight waits at it (R271), and its read is made anew when it wakes. -/
def State.spoolWait (s : State) (r : FlightRef) (n : Dword) : State :=
  (s.modFlight r (fun f => { f with opDue := none, opBuf := none })).stall r (.spool n)

/-- SPWAIT (R271): one read of the record, as an event of its thread; at a spool of another device it asks again until a slot is filled. -/
def execSpwait (o : EFmt) (s : State) : Out :=
  pathOpWith (askFar o.x .load 64) o.g (fun s r f => s.spoolClass r (f.name o.x)) (fun r f =>
    let n := f.name o.x
    let done := fun (x : Word) => s.retire r (f.setS o.d.toNat x)
    if nameOk n && s.spoolAway r n then farSpool r f n .load 64 s (fun b => match b with
      | none => done 0
      | some b => if spState b ≠ 1 then s.fault r cIllegalOp 4 0
        else if spWr b - spRd b = 0 then s.askLater r n else done (spRd b))
    else s.withSpool r n false (fun _ b => if spWr b - spRd b = 0 then s.spoolWait r n else done (spRd b))) s

/-- A slot return goes to the producer's device; on this one it raises the shadow at once (R272, R274). -/
def State.returnSlot (s : State) (r : FlightRef) (n : Dword) (dev : Nat) (rd : Word) : State :=
  if s.reaches (s.partOf r) (s.ctxOf r) then
    s.send (s.partOf r) dev (.spool r) ⟨.spoolReturn, n, 0, 4, toBytes 4 rd.toNat, []⟩
  else s.modFlight r (fun f => f.setPeer dev)

/-- The newest RD that a shadow holds. -/
def Shadow.newest (h : Shadow) : Word := ((h.later.getLast?).map (·.2)).getD h.rd

/-- RD as a copy knows it: in deterministic mode a return counts from its tick on (R269, R279). -/
def Shadow.rdAt (det : Bool) (t : Nat) (h : Shadow) : Word :=
  if det then (((h.later.filter (fun p => decide (p.1 ≤ t))).getLast?).map (·.2)).getD h.rd else h.newest

/-- A slot return arrives at a tick: if it is newer, it counts 2,048 ticks on (R274, R279; log 22). -/
def Shadow.takeReturn (t : Nat) (rd : Word) (h : Shadow) : Shadow :=
  if (rd - h.newest).toNat ≤ spSlots h.spoolRec then
    { h with rd := h.rdAt true t, later := h.later.filter (fun p => decide (t < p.1)) ++ [(t + 2048, rd)] }
  else h

/-- A slot-return message raises the shadow RD, if it is newer, and held copies test again (R274). -/
def State.slotReturn (s : State) (part : Nat) (name : Dword) (rd : Word) : State :=
  { s with cores := mapVals s.cores (fun _ c => c.modShadow part name (Shadow.takeReturn (s.part part).tick rd)) }.wakeSpools

/-- SPREL (R272): after the flight's loads and stores, RD advances over a filled slot, as one event of its thread; a remote producer is
told the new RD. -/
def execSprel (o : EFmt) (s : State) : Out :=
  onceWith o.g (fun r f =>
    if f.opDue.isNone && f.opBuf.isNone && !f.accessesDone then s.stall r .drain
    else
      let n := f.name o.x
      let own := s.image.devIdx.toNat
      match pathOpWith (askFar o.x .spoolRelease 5) o.g (fun s r f => s.spoolClass r (f.name o.x)) (fun r f =>
          let done := fun (s : State) (x : Word) => s.retire r (f.setS o.d.toNat x)
          if nameOk n && s.spoolAway r n then farSpool r f n .spoolRelease 5 s (fun b => match b with
            | none => done s 0
            | some b =>
              let rd := BitVec.ofNat 32 (fieldAt b 0 4)
              let dev := fieldAt b 4 1
              let s1 := done s rd
              if rd = 0xFFFFFFFF then s1
              else if dev = own then s1.slotReturn (s.partOf r) n rd
              else if dev = vaDev n then s1 else s1.returnSlot r n dev rd)
          else s.withSpool r n true (fun ks b =>
            if spWr b - spRd b = 0 then done s 0xFFFFFFFF
            else
              let rd := spRd b + 1
              let s1 := done ((s.putSpool ks 20 rd).wakeSpools) rd
              if spProdDev b = own then s1 else s1.returnSlot r n (spProdDev b) rd)) s with
      | .next t => t
      | _ => s) s

/-- SPPOS (R273): one read of the record. -/
def execSppos (o : EFmt) (s : State) : Out :=
  pathOpWith (askFar o.x .load 64) o.g (fun s r f => s.spoolClass r (f.name o.x)) (fun r f =>
    let n := f.name o.x
    let done := fun (x y : Word) => s.retire r ((f.setS o.d.toNat x).setS (o.d.toNat + 1) y)
    if nameOk n && s.spoolAway r n then farSpool r f n .load 64 s (fun b => match b with
      | none => done 0 0
      | some b => if spState b ≠ 1 then s.fault r cIllegalOp 4 0 else done (spRd b) (spWr b))
    else s.withSpool r n false (fun _ b => done (spRd b) (spWr b))) s

/-- The code SPINIT gives (R268). -/
def State.spinitCode (s : State) (r : FlightRef) (n buf : Dword) (slotBytes p5 p7 : Nat) : Nat :=
  let slots := bits p5 7 0 + 1
  let far := spSpace n == 0 && (s.isFar (spAddr n) || s.isFar buf.toNat)
  if !nameOk n || bits buf.toNat 63 56 != 0 || buf.toNat % 64 != 0 || bits p5 31 16 != 0 || p7 != 0 || far then 1
  else if slotBytes % 64 ≠ 0 ∨ slotBytes < 64 ∨ 2 ^ 24 < slotBytes ∨ 256 % slots ≠ 0 then 2
  else if !s.spaceMapped r (spSpace n) (spAddr n) (64 + 8 * slots) || !s.spaceMapped r (spSpace n) buf.toNat (slots * slotBytes) then 3
  else match s.spoolRec r n with
    | some (_, b) => if spState b = 1 ∧ (spRsv b ≠ spRd b ∨ spWr b ≠ spRd b) then 4 else 0
    | none => 0

/-- The bytes that SPINIT writes: the record and its slot words (R266). -/
def spinitBytes (buf : Dword) (w4 w5 w6 : Nat) : List Byte :=
  let slots := bits w5 7 0 + 1
  toBytes 8 buf.toNat ++ toBytes 4 w4 ++ toBytes 1 (slots - 1) ++ [0] ++ toBytes 1 (bits w5 15 8) ++ [1] ++ toBytes 4 w6 ++
    List.replicate (44 + 8 * slots) 0

/-- SPINIT (R266, R268): the record and every slot word in one event of its thread, which fails where their SPAN page is out of reach (R389). -/
def execSpinit (o : EFmt) (s : State) : Out :=
  pathOp o.g (fun s r f => s.spoolClass r (f.s64 o.p.toNat)) (fun r f =>
    let w := fun (i : Nat) => (f.s (o.p.toNat + i)).toNat
    let n := f.s64 o.p.toNat
    let buf := f.s64 (o.p.toNat + 2)
    let bs := spinitBytes buf (w 4) (w 5) (w 6)
    let early := s.spinitCode r n buf (w 4) (w 5) (w 7)
    if 1 ≤ early ∧ early ≤ 3 then s.retire r (f.setS o.d.toNat (BitVec.ofNat 32 early))
    else match s.spaceStop r (spSpace n) (spAddr n) bs.length true with
      | some e => s.memStop r 2 e
      | none =>
        let done := fun (s : State) (f : Flight) => s.retire r (f.setS o.d.toNat (BitVec.ofNat 32 early))
        if early ≠ 0 then done s f
        else match s.spaceKeys r (spSpace n) (spAddr n) bs.length true with
          | some ks => done ({ s with mem := writeKeys s.mem (ks.zip bs) }.modSpoolSt ks (fun _ => ⟨[], [], bs.take 32⟩)) f
          | none => done s (f.setPeer s.image.devIdx.toNat)) s

/-! ### Copy geometry (R260–R265) -/

/-- A word of the parameter block. -/
def bw (b : List Word) (i : Nat) : Nat := (b.getD i 0).toNat

/-- Source and destination space, rm and sat of CTL. -/
def ctlSrc (b : List Word) : Nat := bits (bw b 15) 1 0
def ctlDst (b : List Word) : Nat := bits (bw b 15) 3 2
def ctlRm (b : List Word) : Nat := bits (bw b 15) 6 4
def ctlSat (b : List Word) : Bool := bitAt (bw b 15) 7

/-- The sides of a copy, the destination displaced by its slot (R261, R269). -/
def srcSide (b : List Word) (e : List Byte) : Side := Side.ofEntry e (ctlSrc b) (bw b 16) ((bw b 16 + bw b 17 : Nat) : Int) 0
def dstSide (b : List Word) (e : List Byte) (disp : Nat) : Side :=
  Side.ofEntry e (ctlDst b) (bw b 18) ((bw b 18 + bw b 19 : Nat) : Int) disp

/-- Sizes of the region. -/
def regionSizes (b : List Word) : List Nat := (List.range 5).map (fun i => bw b (10 + i))

/-- The region's pairs of source and destination coordinates; gather and scatter map the rows of their mask (R263, R265). -/
def copyPairs (op : Nat) (b : List Word) (rows : List Nat) : List (List Nat × List Nat) :=
  let at_ := fun (o : Nat) (c : List Nat) => (List.range 5).map (fun i => bw b (o + i) + co c i)
  if op = 0x90 then (coords (regionSizes b)).map (fun c => (at_ 0 c, at_ 5 c))
  else (List.range rows.length).flatMap (fun k => (List.range (bw b 10)).map (fun x =>
    let s_k := rows.getD k 0
    if op = 0x91 then (at_ 0 [x, s_k, 0, 0, 0], at_ 5 [x, k, 0, 0, 0]) else (at_ 0 [x, k, 0, 0, 0], at_ 5 [x, s_k, 0, 0, 0])))

/-- Rows that the mask register names, below N1 (R265). -/
def Flight.maskRows (f : Flight) (v n1 : Nat) : List Nat :=
  (List.range (min n1 1024)).filter (fun j => (f.vx (j / 32) v).getLsbD (j % 32))

/-- The copy moves codes unchanged (R264). -/
def rawPair (a b : TRec) : Bool := a.fmt == b.fmt && a.mode == b.mode && a.axis == b.axis

/-- In a raw copy of scaled sides, blocks move whole (R264). -/
def blocksWhole (b : List Word) (s d : TRec) : Bool :=
  let i := s.axis
  let n := bw b (10 + i)
  s.mode == 0 || (bw b i % 128 == 0 && bw b (5 + i) % 128 == 0 && (n % 128 == 0 ||
    (bw b i + n == s.sizes.getD i 0 && bw b (5 + i) + n == d.sizes.getD i 0)))

/-- A floating format that a copy converts (R264). -/
def convertible (fmt : Nat) (dst : Bool) : Bool := decide (fmt ≤ 6) || fmt == 9 || (!dst && fmt == 7)

/-- The pair of formats is accepted (R264). -/
def pairOk (b : List Word) (s d : TRec) : Bool :=
  if rawPair s d then blocksWhole b s d
  else s.fmt != d.fmt && convertible s.fmt false && convertible d.fmt true && d.mode == 0

/-- Step 5 of R262. -/
def regionOk (b : List Word) (t : TRec) (o : Nat) : Bool :=
  (List.range 5).all (fun i => if i < t.ndim then decide (bw b (o + i) + bw b (10 + i) ≤ t.sizes.getD i 0)
    else bw b (o + i) == 0 && bw b (10 + i) == 1)

/-- Addresses a copy touches on one side: elements and, in a raw copy, the scale bytes of their blocks; a converting copy reads the
source's scale bytes and writes none. -/
def Side.touched (d : Side) (scales : Bool) (cs : List (List Nat)) : List Int :=
  cs.flatMap (fun c => d.elemBytes c ++ (if scales && d.t.mode != 0 then [d.scale c] else []))

/-- The writes of a copy and the flags of its conversions (R263, R264). -/
def copyWrites (b : List Word) (s d : Side) (byte : Int → Byte) (pairs : List (List Nat × List Nat)) : WriteTab × Byte :=
  let raw := rawPair s.t d.t
  pairs.foldl (fun (p : WriteTab × Byte) (c, e) =>
    let put_ := fun (t : WriteTab) (x : Nat) => t.elem (d.elem e) (elemSpan d.t.fmt) (fmtBits d.t.fmt) x
    if raw then
      let t1 := put_ p.1 (s.code byte c)
      (if d.t.mode = 0 then t1 else t1.byte (d.scale e).toNat (byte (s.scale c)) 0xFF, p.2)
    else
      let y := (fmtOfCode d.t.fmt).convert (ctlRm b) (ctlSat b) 0 (s.value byte c)
      (put_ p.1 y.1, p.2 ||| y.2)) ([], 0)

/-! ### Completion records (R275) -/

/-- FLAGS of a completion record. -/
def recordFlags (f : Byte) : Nat :=
  let b := fun (i j : Nat) => if f.getLsbD i then 2 ^ j else 0
  b 0 0 + b 2 1 + b 3 2 + b 4 3 + b 5 4 + b 6 5

/-- Every address that a copy touches, its source's first. -/
def Copy.touches (c : Copy) (disp : Nat) : List Int :=
  let sd := srcSide c.block c.src
  let dd := dstSide c.block c.dst disp
  let pairs := copyPairs c.op c.block c.rows
  (if sd.space = 0 then sd.touched true (pairs.map (·.1)) else []) ++
    (if dd.space = 0 then dd.touched (rawPair sd.t dd.t) (pairs.map (·.2)) else [])

/-- The device of a copy's remote side: the one whose path was lost, else the first that its sides or its spool name; the own one if
none. -/
def State.copyPeer (s : State) (c : Copy) : Nat :=
  match c.lost with
  | some d => d
  | none => match (c.touches 0).find? s.isFar with
    | some a => farDev a
    | none => match c.spool with
      | some n => if s.spoolFar n then vaDev n else s.image.devIdx.toNat
      | none => s.image.devIdx.toNat

/-- A copy's completion record. -/
def State.copyRecord (s : State) (core : Nat) (c : Copy) (status nbytes flags count : Nat) : List Byte :=
  let fl := match c.owner with
    | .wg _ fl => fl
    | .ctl _ _ => 0
  toBytes 32 (s.clk.toNat * 2 ^ 192 + c.lid.toNat * 2 ^ 160 + nbytes * 2 ^ 128 + count * 2 ^ 96 + c.count.toNat * 2 ^ 64 +
    s.copyPeer c * 2 ^ 56 + flags * 2 ^ 48 + status * 2 ^ 40 + c.op * 2 ^ 32 + core * 2 ^ 22 + fl * 2 ^ 17)

/-- Elements a copy copies, or m for gather and scatter. -/
def Copy.elems (c : Copy) : Nat := if c.op = 0x90 then (regionSizes c.block).foldl (· * ·) 1 else c.rows.length

/-- COUNT of a slot word: the bytes delivered, or m (R266). -/
def Copy.slotCount (c : Copy) (nbytes : Nat) : Nat := if c.op = 0x90 then nbytes else c.rows.length

/-! ### Slots (R269, R270, R274) -/

/-- What a claim finds: the claimed count, or no room. -/
def claimOf (st : SpoolSt) (rd rsv : Word) (slots : Nat) : Option Word :=
  match st.failed with
  | c :: _ => some c
  | [] => if (rsv - rd).toNat < slots then some rsv else none

/-- Advances the write pointer over the counts that are done (R269, R270). -/
def advance : Nat → Word → List Word → Word × List Word
  | 0, w, ds => (w, ds)
  | n + 1, w, ds => if ds.contains w then advance n (w + 1) (ds.filter (· != w)) else (w, ds)

/-- The slot of a failed or cancelled copy becomes FAILED, and held copies test again (R270, R276). -/
def State.failSlot (s : State) (core : Nat) (c : Copy) : State :=
  match c.spool with
  | none => s
  | some n =>
    let s1 := if s.spoolFar n then s.modCore core (fun x => x.modShadow c.part n (fun h =>
          { h with st := { h.st with failed := h.st.failed ++ [c.count] } }))
      else match s.spoolRec c.owner n with
        | some (ks, _) => s.modSpoolSt ks (fun t => { t with failed := t.failed ++ [c.count] })
        | none => s
    s1.wakeSpools

/-- The slot word of a completed copy into a local spool is written; its count is DONE (R269, R270). -/
def State.fillSlot (s : State) (c : Copy) (n : Dword) (nbytes : Nat) : State :=
  match s.spoolRec c.owner n, s.spaceKeys c.owner (spSpace n) c.wordAt 8 true with
  | some (ks, _), some ws => { s with mem := writeKeys s.mem (ws.zip (toBytes 8 (c.slotCount nbytes))) }.modSpoolSt ks (fun t =>
      { t with dones := t.dones ++ [c.count] })
  | _, _ => s

/-- WR passes one count that is DONE, as one event, if the next one is (R269). -/
def State.passSlot (s : State) (r : FlightRef) (n : Dword) : Option State :=
  match s.spoolRec r n with
  | none => none
  | some (ks, b) =>
    if (s.spoolSt ks).dones.contains (spWr b) then
      some (((s.modSpoolSt ks (fun t => { t with dones := t.dones.filter (· != spWr b) })).putSpool ks 24 (spWr b + 1)).wakeSpools)
    else none

/-- A copy ends: its record is written and it leaves its streamer. -/
def State.endCopy (s : State) (core k : Nat) (c : Copy) (status nbytes flags count : Nat) : State :=
  (s.modCore core (fun x => { x with copies := del x.copies k })).postEvent (dieOfCore core) (some c.owner)
    (s.copyRecord core c status nbytes flags count)

/-- A copy of a core's streamer. -/
def State.copy? (s : State) (core k : Nat) : Option Copy := look (s.core core).copies k

/-- Changes a copy. -/
def State.modCopy (s : State) (core k : Nat) (f : Copy → Copy) : State :=
  s.modCore core (fun x => { x with copies := alter x.copies k f })

/-! ### Issue (R262, R269, R279) -/

/-- What a copy instruction finds of its spool: none named, a claim, a wait for a slot, a wait for the shadow, a bad name, a
record that is not at hand. -/
inductive SlotView where
  | none
  | claim (c : Word) (b : List Byte)
  | full
  | fetch
  | bad
  | stop (e : MemStop)
  deriving DecidableEq, Repr

/-- The spool of a copy as its streamer knows it (R267, R269, R274). A local record that is not at hand stops the instruction as an access
to it would. -/
def State.slotView (s : State) (r : FlightRef) (n : Dword) : SlotView :=
  if n = 0 then .none
  else if !nameOk n then .bad
  else if s.spoolAway r n then
    match (s.core (s.coreOf r)).shadow (s.partOf r) n with
    | .none => .fetch
    | some h => if spState h.spoolRec ≠ 1 then .bad
      else match claimOf h.st (h.rdAt (s.det r) (s.now r)) h.rsv (spSlots h.spoolRec) with
        | some c => .claim c h.spoolRec
        | .none => .full
  else match s.spaceStop r (spSpace n) (spAddr n) 64 true with
    | some e => .stop e
    | .none => match s.spool r n with
      | .none => .bad
      | some (ks, b) => match claimOf (s.spoolSt ks) (spRd b) (spRsv b) (spSlots b) with
        | some c => .claim c b
        | .none => .full

/-- Takes the claim (R269). -/
def State.takeSlot (s : State) (r : FlightRef) (n : Dword) (c : Word) : State :=
  let take := fun (t : SpoolSt) => { t with failed := t.failed.filter (· != c) }
  if s.spoolFar n then s.modCore (s.coreOf r) (fun x => x.modShadow (s.partOf r) n (fun h =>
    { h with rsv := if h.st.failed.isEmpty then h.rsv + 1 else h.rsv, st := take h.st, used := s.clk.toNat }))
  else match s.spool r n with
    | some (ks, b) =>
      let fresh := (s.spoolSt ks).failed.isEmpty
      (if fresh then s.putSpool ks 28 (spRsv b + 1) else s).modSpoolSt ks take
    | none => s

/-- Sends the reads of an engine operation's addresses on other devices: one operation for each device, so that the bytes from it form one
snapshot (R228, R387). -/
def State.askReads (s : State) (part : Nat) (who : Nat → Waiter) (as_ : List Int) : State :=
  (s.farDevs as_).foldl (fun s d =>
    let runs := runsOf (sortedAddrs (as_.filter (fun a => s.isFar a && farDev a == d)))
    s.send part d (who d) ⟨.copyRead, BitVec.ofNat 64 ((runs.headD (0, 0)).1), 0, 0, [],
      runs.map (fun p => (BitVec.ofNat 64 p.1, (p.2, [])))⟩) s

/-- The checks of R262 from step 3 on: both sealed entries, or the trap. Step 8 comes before step 9 also where the record has still to be
fetched, or its page to be served. -/
def State.copyCheck (s : State) (r : FlightRef) (f : Flight) (o : EFmt) (op : Nat) (b : List Word) :
    Except (Byte × Byte) (List Byte × List Byte × List Nat) :=
  match s.launchOf r with
  | none => .error (cHandle, 1)
  | some l =>
    match s.handleCheck f l (f.s o.h.toNat) with
    | .error sub => .error (cHandle, sub)
    | .ok e =>
      match s.handleCheck f l (f.s o.x.toNat) with
      | .error sub => .error (cHandle, sub)
      | .ok d =>
        let st := entryRec e
        let dt := entryRec d
        let rows := if op = 0x90 then [] else f.maskRows o.v.toNat (bw b 11)
        let local_ := fun (t : TRec) (sp : Nat) => t.bt && sp != 0
        if !pairOk b st dt ∨ local_ st (ctlSrc b) ∨ local_ dt (ctlDst b) then .error (cHandle, 3)
        else if ctlSat b ∧ dt.fmt ≠ 4 then .error (cIllegalOp, 4)
        else if (regionSizes b).any (· == 0) ∨ !regionOk b st 0 ∨ !regionOk b dt 5 then .error (cHandle, 4)
        else
          let pairs := copyPairs op b rows
          let raw := rawPair st dt
          let out := fun (d : Side) (w sc : Bool) (cs : List (List Nat)) => d.space != 0 &&
            (d.touched sc cs).any (fun a => s.byteAt r (s.partOf r) (s.ctxOf r) d.space a w == .outside)
          if out (dstSide b d 0) true raw (pairs.map (·.2)) then .error (cScratchBounds, 1)
          else if out (srcSide b e) false true (pairs.map (·.1)) then .error (cScratchBounds, 2)
          else match s.slotView r (BitVec.ofNat 64 (bw b 20 + bw b 21 * 2 ^ 32)) with
            | .bad => .error (cHandle, 5)
            | .fetch | .stop _ => .ok (e, d, rows)
            | _ => if op ≠ 0x90 ∧ (bw b 12 ≠ 1 ∨ bw b 13 ≠ 1 ∨ bw b 14 ≠ 1 ∨ 1024 < bw b 11) then .error (cHandle, 6) else .ok (e, d, rows)

/-- A copy enters its core's streamer (R259, R279). -/
def State.startCopy (s : State) (r : FlightRef) (f : Flight) (o : EFmt) (op : Nat) (b : List Word) (e d : List Byte)
    (rows : List Nat) (name : Dword) (count : Word) (disp wordAt : Nat) : State :=
  let part := s.partOf r
  let ctx := s.ctxOf r
  let core := s.coreOf r
  let pairs := copyPairs op b rows
  let sd := srcSide b e
  let dd := dstSide b d disp
  let sa := sd.touched true (pairs.map (·.1))
  let da := dd.touched (rawPair sd.t dd.t) (pairs.map (·.2))
  let snapAt := s.now r + s.sideLat r part ctx sd.space sa
  let due := max (snapAt + s.sideLat r part ctx dd.space da + ((sortedAddrs da).length + 255) / 256) f.lastCopyE
  let far := sd.space == 0 && sa.any s.isFar || dd.space == 0 && da.any s.isFar || name != 0 && s.spoolFar name
  let c : Copy := ⟨r, part, ctx, ((s.launchOf r).map (·.id)).getD 0, f.header, f.ix, op, b, rows, e, d,
    if name = 0 then none else some name, count, disp, wordAt, due, far, [], 0, 0, none, none, snapAt, pastOf s.free f.pastC, none, []⟩
  let s0 := s.noteSpan part ctx ((if sd.space = 0 then sa else []) ++ (if dd.space = 0 then da else []))
  let s1 := if name = 0 then s0 else s0.takeSlot r name count
  let s2 := { s1 with uid := s1.uid + 1, free := s1.free + 1 }.modCore core (fun x => { x with copies := put x.copies s1.uid c })
  let s3 := s2.retire r { f.setS o.d.toNat count with nCopies := f.nCopies + 1, lastCopyE := due }
  if far && !s.reaches part ctx then s3.events [.copyFail core s1.uid 0]
  else if sd.space = 0 then s3.askReads part (fun d => .copy r core s1.uid d) sa else s3

/-- The record of a remote spool is asked for, for the copy that is held for it, in the delivery context of its device (R274, R387, R391);
without a path that fails at once. -/
def State.askShadow (s : State) (r : FlightRef) (n : Dword) : State :=
  let part := s.partOf r
  let asked := fun (c : SrcCtx) => c.waiting.any (fun p => p.who == .fetch r) || c.queued.any (fun p => p.2.1 == .fetch r)
  if !s.reaches part (s.ctxOf r) then s.events [.shadowFetch r none]
  else if ((look s.srcCtx (part * 256 + vaDev n)).map asked).getD false then s
  else s.send part (vaDev n) (.fetch r) ⟨.load, BitVec.ofNat 64 (spAddr n), 0, 64, [], []⟩

/-- A copy instruction (R258–R269). -/
def copyOp (op : Nat) (o : EFmt) (s : State) : Out :=
  onceWith o.g (fun r f =>
    let b := (List.range 24).map (fun i => f.s (o.p.toNat + i))
    let core := s.coreOf r
    let producer := match r, s.launchOf r with
      | .wg _ fl, some l => fl == recBits l.record 0x10 36 32
      | _, _ => false
    if bits (bw b 15) 31 8 ≠ 0 ∨ bw b 22 ≠ 0 ∨ bw b 23 ≠ 0 then s.fault r cIllegalOp 2 0
    else if 4 ≤ ctlRm b then s.fault r cIllegalOp 4 0
    else if !(s.part (s.partOf r)).desc.strms.getLsbD core then s.fault r cStreamerRights 2 0
    else if !producer then s.fault r cStreamerRights 1 0
    else
      let name := BitVec.ofNat 64 (bw b 20 + bw b 21 * 2 ^ 32)
      match s.copyCheck r f o op b with
      | .error (c, sub) => s.fault r c sub 0
      | .ok (e, d, rows) =>
        if 14 ≤ f.nCopies then s.stall r .drain
        else
          let hold := fun (w : Wait) => (s.modFlight r (fun f => { f with copyHeld := some (f.copyHeld.getD (s.now r)) })).stall r w
          match s.slotView r name with
          | .none => s.startCopy r f o op b e d rows name 0xFFFFFFFF 0 0
          | .full => hold (.copySlot name)
          | .fetch => (s.stall r (.shadow name)).askShadow r name
          | .stop e => s.memStop r 0x23 e
          | .bad => s.fault r cHandle 5 0
          | .claim c sp =>
            let disp := c.toNat % spSlots sp * spSlotBytes sp
            let dd := dstSide b d disp
            let ends := spBuf sp + spSlots sp * spSlotBytes sp
            let inside := dd.space == spSpace name &&
              (dd.touched (rawPair (entryRec e) (entryRec d)) ((copyPairs op b (List.range (bw b 11))).map (·.2))).all (fun a =>
                decide ((spBuf sp : Int) ≤ a) && decide (a < (ends : Int)))
            if inside then s.startCopy r f o op b e d rows name c disp (spAddr name + (64 + 8 * (c.toNat % spSlots sp))) else s.fault r cHandle 5 0) s

/-- CPY (R263). -/
def execCpy (o : EFmt) (s : State) : Out := copyOp 0x90 o s

/-- CPYG (R265). -/
def execCpyg (o : EFmt) (s : State) : Out := copyOp 0x91 o s

/-- CPYS (R265). -/
def execCpys (o : EFmt) (s : State) : Out := copyOp 0x92 o s

/-! ### Completion (R263, R269, R279) -/

/-- A byte of a copy's source: of its snapshot, or, before that, as memory stands at its place in T (R228). -/
def State.copyByte (s : State) (c : Copy) : Int → Byte :=
  match c.snap with
  | some m => fun (a : Int) => (look m a.toNat).getD 0
  | none => s.sideByte (c.past.getD s.mem) c.owner c.part c.ctx (srcSide c.block c.src).space c.got

/-- The sides, the touched addresses, and the writes of a copy as memory stands: its snapshot (R228, R263). -/
def State.copyPlan (s : State) (c : Copy) : Side × Side × List Int × (WriteTab × Byte) :=
  let sd := srcSide c.block c.src
  let dd := dstSide c.block c.dst c.disp
  let pairs := copyPairs c.op c.block c.rows
  (sd, dd, sd.touched true (pairs.map (·.1)), copyWrites c.block sd dd (s.copyByte c) pairs)

/-- The addresses of a write table. -/
def WriteTab.addrs (t : WriteTab) : List Int := t.map (fun p => (p.1 : Int))

/-- The writes of a copy that have still to be made. -/
def Copy.rest (c : Copy) (t : WriteTab) : WriteTab := t.filter (fun p => !c.given.contains (p.1 / 4))

/-- The bytes a copy has delivered. -/
def Copy.delivered (c : Copy) (t : WriteTab) : Nat := (t.filter (fun p => c.given.contains (p.1 / 4))).length

/-- The addresses of a local spool that a copy writes next, once its data stands: the slot word and the write pointer, then the latter
alone. -/
def State.slotAddrs (s : State) (c : Copy) : List Int :=
  match c.spool with
  | none => []
  | some n =>
    let run := fun (a n : Nat) => (List.range n).map (fun i => ((a + i : Nat) : Int))
    if s.spoolFar n then [] else (if c.stage = 2 then [] else run c.wordAt 8) ++ run (spAddr n + 24) 4

/-- The first byte that a copy needs next and that is not at hand: of the source until its snapshot, of the destination, then of its
spool's record; its address, where it lies, whether it is written. -/
def State.copyBad (s : State) (c : Copy) (sd dd : Side) (sa : List Int) (t : WriteTab) : Option (Int × ByteAt × Bool) :=
  match if c.snap.isSome then none else s.firstBad c.owner c.part c.ctx sd.space false sa with
  | some (a, b) => some (a, b, false)
  | none =>
    let rest := c.rest t
    (if rest.isEmpty then s.firstBad c.owner c.part c.ctx ((c.spool.map spSpace).getD 0) true (s.slotAddrs c)
      else s.firstBad c.owner c.part c.ctx dd.space true rest.addrs).map (fun p => (p.1, p.2, true))

/-- A byte of a copy's source has been brought from another device, or lies here. -/
def Copy.has (s : State) (c : Copy) (sd : Side) (a : Int) : Bool :=
  sd.space != 0 || !s.isFar a || c.got.any (fun p => decide (p.1 ≤ a.toNat) && decide (a.toNat < p.1 + p.2.length))

/-- Every remote byte of the source has been brought. -/
def Copy.brought (s : State) (c : Copy) (sd : Side) (sa : List Int) : Bool := c.snap.isSome || sa.all (c.has s sd)

/-- Sends the bytes of one word to its device, values then masks (R228). -/
def State.sendWord (s : State) (part : Nat) (who : Nat → Waiter) (b : WriteTab) : State :=
  let a := (b.map (·.1)).headD 0
  let n := (b.map (·.1)).getLastD 0 + 1 - a
  let vm := (List.range n).map (fun i => (look b (a + i)).getD (0, 0))
  s.send part (farDev (a : Int)) (who a) ⟨.copyWrite, BitVec.ofNat 64 a, 0, n, vm.map (·.1) ++ vm.map (·.2), []⟩

/-- Sends words to a copy's remote destination, each an operation of its own; the number of operations. -/
def State.tellWrites (s : State) (core k : Nat) (c : Copy) (t : WriteTab) : State × Nat :=
  (t.words.foldl (fun s w => s.sendWord c.part (fun a => .copy c.owner core k a) (t.inWords [w])) s, t.words.length)

/-- Bytes of one write, whole. -/
def plainWrite (a : Nat) (bs : List Byte) : WriteTab := (List.range bs.length).map (fun i => (a + i, (bs.getD i 0, 0xFF)))

/-- The bytes of a copy's source are at hand, here or brought by replies. -/
def State.sourceReady (s : State) (c : Copy) : Bool :=
  let (sd, _, sa, _) := s.copyPlan c
  c.brought s sd sa && (s.firstBad c.owner c.part c.ctx sd.space false sa).isNone

/-- A copy takes its snapshot of the source, before its writes; in deterministic mode at a tick of its own (R228, R263, R279). Uncorrectable
data in it is consumed instead (R361). -/
def State.snapCopy (s : State) (core k : Nat) (c : Copy) : State :=
  if c.snap.isSome || s.det c.owner && decide (s.now c.owner < c.snapAt) || !s.sourceReady c then s
  else
    let (sd, _, sa, _) := s.copyPlan c
    if s.poisonedSide c.owner c.part c.ctx sd.space sa then s.events [.uncorrConsumed ⟨.flight c.owner, none⟩]
    else s.modCopy core k (fun c => { c with snap := some (sa.foldl (fun m a => put m a.toNat (s.copyByte c a)) []) })

/-- A copy with its snapshot goes on by its data (R228, R263): remote words are sent, then words of this device are written, in
deterministic mode all of them together. -/
def State.copyData (s : State) (core k : Nat) (c : Copy) : State :=
  let (_, dd, _, t, _) := s.copyPlan c
  let far : WriteTab := if dd.space = 0 then t.filter (fun p => s.isFar p.1) else []
  if c.stage = 0 then
    let (s1, n) := s.tellWrites core k c far
    s1.modCopy core k (fun c => { c with stage := 1, left := n })
  else
    let here : WriteTab := (c.rest t).filter (fun p => !far.contains p)
    let ws := if s.det c.owner then here.words else someWords s.free here.words
    let s1 := { s with free := s.free + 2 }.applyWrites c.owner c.part c.ctx dd.space (here.inWords ws)
    (s1.noteWrites c.owner c.part c.ctx dd.space (here.inWords ws) s.mem).modCopy core k (fun c => { c with given := c.given ++ ws })

/-- A copy ends as completed, with its record (R275). -/
def State.finishCopy (s : State) (core k : Nat) (c : Copy) : State :=
  let (_, _, _, t, flags) := s.copyPlan c
  s.endCopy core k c 0 t.length (recordFlags flags) c.elems

/-- A copy whose data stands in the slot of a remote spool (R231, R269, R270, R274): the slot word is sent; once that is acknowledged the slot
is DONE; then each advance of WR is sent, and counts in the shadow when it is acknowledged; another copy of the spool may be doing that. -/
def State.copySlotFar (s : State) (core k : Nat) (c : Copy) (n : Dword) (h : Shadow) (nbytes : Nat) : State :=
  let goto_ := fun (s : State) (stage left : Nat) => s.modCopy core k (fun x => { x with stage, left })
  let note := fun (f : Shadow → Shadow) => s.modCore core (fun x => x.modShadow c.part n f)
  match c.stage with
  | 1 =>
    let (s1, m) := s.tellWrites core k c (plainWrite c.wordAt (toBytes 8 (c.slotCount nbytes)))
    goto_ s1 2 m
  | 2 => goto_ (note (fun h => { h with st := { h.st with dones := h.st.dones ++ [c.count] } })) 3 0
  | 4 => goto_ (note (fun h => { h with wr := h.wr + 1, st := { h.st with dones := h.st.dones.filter (· != h.wr) } })) 3 0
  | _ =>
    if h.st.dones.contains h.wr && (s.core core).copies.all (fun p => p.2.stage != 4 || p.2.spool != some n || p.2.part != c.part) then
      let (s1, m) := s.tellWrites core k c (plainWrite (spAddr n + 24) (toBytes 4 (h.wr + 1).toNat))
      goto_ s1 4 m
    else s.finishCopy core k c

/-- A copy whose data stands writes its slot word, lets WR pass, and ends with its record (R269, R275). -/
def State.copySlot (s : State) (core k : Nat) (c : Copy) : State :=
  let (_, _, _, t, _) := s.copyPlan c
  match c.spool with
  | none => s.finishCopy core k c
  | some n =>
    if s.spoolFar n then match (s.core core).shadow c.part n with
      | none => s.finishCopy core k c
      | some h => s.copySlotFar core k c n h t.length
    else if c.stage = 1 then (s.fillSlot c n t.length).modCopy core k (fun x => { x with stage := 2 })
    else match s.passSlot c.owner n with
      | some s1 => s1
      | none => s.finishCopy core k c

/-- One move of a copy: its snapshot, some of its data, its slot word, an advance of WR, its record. -/
def State.copyMove (s : State) (core k : Nat) : State :=
  match s.copy? core k with
  | none => s
  | some c =>
    if c.paused.isSome || c.lost.isSome then s
    else if c.snap.isNone then s.snapCopy core k c
    else if s.det c.owner && decide (s.now c.owner < c.due) then s
    else
      let (sd, dd, sa, t, _) := s.copyPlan c
      if (s.copyBad c sd dd sa t).isSome then s
      else if c.stage = 0 then s.copyData core k c
      else if (c.rest t).any (fun p => dd.space != 0 || !s.isFar p.1) then s.copyData core k c
      else if c.left ≠ 0 then s
      else s.copySlot core k c

/-- Moves of a copy, one after another. -/
def State.copyMoves (core k : Nat) : Nat → State → State
  | 0, s => s
  | n + 1, s => State.copyMoves core k n (s.copyMove core k)

/-- The next move of a copy sends something to another device. -/
def State.copySends (s : State) (c : Copy) : Bool :=
  let (_, dd, _, t, _) := s.copyPlan c
  let isFar := fun (p : Nat × (Byte × Byte)) => dd.space == 0 && s.isFar p.1
  c.snap.isSome && ((c.stage == 0 && t.any isFar) ||
    ((c.stage == 1 || c.stage == 3) && c.left == 0 && (c.spool.map s.spoolFar).getD false && (c.rest t).all isFar))

/-- COPY_COMPLETE (R263, R269, R275): a move of the copy; in deterministic mode what it sends, or all that its tick allows, one after
another (R403). -/
def execCopyComplete (core copy : Nat) (s : State) : Out :=
  .next (match s.copy? core copy with
  | none => s
  | some c => State.copyMoves core copy (if s.det c.owner && !s.copySends c then 264 else 1) s)

/-- The slot of a copy is DONE: its slot word stands (R270). -/
def State.slotStands (s : State) (c : Copy) : Bool :=
  match c.spool with
  | none => false
  | some n => decide ((if s.spoolFar n then 3 else 2) ≤ c.stage)

/-- Elements that a copy has copied, m for gather and scatter, and the flags of their conversions (R275). -/
def State.copyTally (s : State) (c : Copy) : Nat × Nat :=
  let sd := srcSide c.block c.src
  let dd := dstSide c.block c.dst c.disp
  let done := (copyPairs c.op c.block c.rows).filter (fun p => (dd.elemBytes p.2).all (fun a => c.given.contains (a.toNat / 4)))
  (if c.op = 0x90 then done.length else c.rows.length, recordFlags (copyWrites c.block sd dd (s.copyByte c) done).2)

/-- A copy stops early with a status: the words delivered stay, its slot becomes FAILED, unless it is DONE (R270, R276, R278). -/
def State.stopCopy (s : State) (core k : Nat) (c : Copy) (status : Nat) : State :=
  let (_, _, _, t, _) := s.copyPlan c
  let (n, flags) := s.copyTally c
  (if s.slotStands c then s else s.failSlot core c).endCopy core k c status (c.delivered t) flags n

/-- WR passes every count that it can. -/
def State.passAll (r : FlightRef) (n : Dword) : Nat → State → State
  | 0, s => s
  | k + 1, s => match s.passSlot r n with
    | some s1 => State.passAll r n k s1
    | none => s

/-- A copy whose slot is DONE has completed, whatever happens to its flight or to the path meanwhile: it ends so, after WR has passed what it
can in a spool of this device (R270; log 33). -/
def State.closeCopy (s : State) (core k : Nat) (c : Copy) : State :=
  let s1 := match c.spool with
    | some n => if s.spoolFar n then s else State.passAll c.owner n 257 s
    | none => s
  s1.finishCopy core k c

/-- The writes of a copy that stops which can still be delivered: to words of this device whose source bytes are all at hand. -/
def State.copyAvail (s : State) (c : Copy) : WriteTab :=
  let (sd, dd, _, t, _) := s.copyPlan c
  let ok := fun (p : List Nat × List Nat) => c.snap.isSome || (sd.touched true [p.1]).all (fun a => c.has s sd a &&
    (match s.byteAt c.owner c.part c.ctx sd.space a false with
    | .here _ | .far _ => true
    | _ => false))
  let lacking := ((copyPairs c.op c.block c.rows).filter (fun p => !ok p)).flatMap (fun p =>
    (dd.touched (rawPair sd.t dd.t) [p.2]).map (fun a => a.toNat / 4))
  (c.rest t).filter (fun p => !lacking.contains (p.1 / 4) && (match s.byteAt c.owner c.part c.ctx dd.space p.1 true with
    | .here _ => true
    | _ => false))

/-- A copy that is to stop first delivers some more words. -/
def State.copyLast (s : State) (core k : Nat) (c : Copy) (words : Nat) : State × Copy :=
  let t := s.copyAvail c
  let ws := t.words.take words
  let (_, dd, _, _, _) := s.copyPlan c
  let c1 := { c with given := c.given ++ ws }
  (((s.applyWrites c.owner c.part c.ctx dd.space (t.inWords ws)).noteWrites c.owner c.part c.ctx dd.space (t.inWords ws) s.mem).modCopy core k
    (fun _ => c1), c1)

/-- What a copy needs next is on a SPAN page of this device while no plane is live (R389). -/
def State.copyCut (s : State) (c : Copy) : Bool :=
  let (sd, dd, sa, t, _) := s.copyPlan c
  ((s.copyBad c sd dd sa t).map (fun p => p.2.1 == .cut)).getD false

/-- COPY_FAIL (R276, R389): no path remains to a copy's remote side, or to a SPAN page: it stops at a word, and the peer bit is set. -/
def execCopyFail (core copy words : Nat) (s : State) : Out :=
  .next (match s.copy? core copy with
  | none => s
  | some c =>
    let own := s.image.devIdx.toNat
    let cut := s.copyCut c
    let peer := if cut then own else s.copyPeer c
    if !cut && (peer = own || (c.lost.isNone && s.reaches c.part c.ctx)) then s
    else
      let c0 := if cut then { c with lost := some own } else c
      let (s1, c1) := if 2 ≤ c.stage then (s, c0) else s.copyLast core copy c0 words
      (if s.slotStands c then s.closeCopy core copy c0 else s1.stopCopy core copy c1 1).modFlight c.owner (fun f => f.setPeer peer))

/-- STREAMER_FAULT (R278, R381): a replayable fault pauses the copy and writes a queue entry, once the queue has room; any other stops it
with STATUS FAULT and leaves a deferred trap to the producer flight. -/
def execStreamerFault (core copy words : Nat) (s : State) : Out :=
  .next (match s.copy? core copy with
  | none => s
  | some c =>
    let (sd, dd, sa, t, _) := s.copyPlan c
    if c.paused.isSome then s
    else match s.copyBad c sd dd sa t with
      | none => s
      | some (a, b, wr) =>
        match b, s.engineCause c.part c.ctx b with
        | .page e, none =>
          if s.faultRoom c.part c.ctx (a.toNat / 4096) then
            (s.engineFault c.owner c.part c.ctx a e wr).modCopy core copy (fun x => { x with paused := some (a.toNat / 4096) })
          else s
        | _, none => s
        | _, some cause =>
          let (s1, c1) := if wr && !(c.rest t).isEmpty then s.copyLast core copy c words else (s, c)
          (s1.stopCopy core copy c1 3).deferTrap c.owner
            { cause, sub := 0, kind := 2, info := BitVec.ofInt 64 a, org := some (c.pc, c.ix) })

/-- Stops every running copy of some flights with STATUS CANCELLED (R278); one whose slot is DONE completes. -/
def State.cancelCopies (s : State) (core : Nat) (mine : FlightRef → Bool) : State :=
  (s.core core).copies.foldl (fun s p =>
    if !mine p.2.owner then s
    else if s.slotStands p.2 then (if (p.2.spool.map s.spoolFar).getD false then s else s.closeCopy core p.1 p.2)
    else s.stopCopy core p.1 p.2 2) s

/-! ### Shadows and time-outs (R274, R277) -/

/-- Room for one more shadow: the least recently used one without a running copy goes (R274). -/
def Core.dropShadow (c : Core) : List Shadow :=
  if c.shadows.length < 64 then c.shadows
  else
    let idle := c.shadows.filter (fun h => c.copies.all (fun p => p.2.spool != some h.name || p.2.part != h.part))
    match idle.foldl (fun (b : Option Shadow) h => match b with
      | none => some h
      | some x => if h.used < x.used then some h else some x) none with
    | some h => c.shadows.filter (· != h)
    | none => c.shadows

/-- SHADOW_FETCH (R274): the record of a remote spool is fetched into the streamer's shadow, and the copy tests again; a failed
fetch, as one without a path (R387), completes the copy as FAILED without a claim. -/
def execShadowFetch (r : FlightRef) (record : Option (List Byte)) (s : State) : Out :=
  .next (match s.flight? r with
  | none => s
  | some f =>
    match f.wait with
    | .shadow n =>
      let core := s.coreOf r
      match (if s.reaches (s.partOf r) (s.ctxOf r) then record else none) with
      | some b =>
        let c := s.core core
        if 64 ≤ c.dropShadow.length then s else
        let h : Shadow := ⟨s.partOf r, n, b, spRd b, [], spWr b, spWr b, .none, s.clk.toNat⟩
        (s.modCore core (fun x => { x with shadows := c.dropShadow ++ [h] })).wakeSpools.modFlight r (fun f => { f with wait := .ready })
      | none =>
        match f.clause.bind (fun c => (c.words[f.ix]?).bind (fun w => (decode f.dctx w).toOption)) with
        | some (.cpy o) | some (.cpyg o) | some (.cpys o) =>
          let f1 := { f.setS o.d.toNat 0xFFFFFFFF with nCopies := f.nCopies + 1 }.setPeer (vaDev n)
          let op := (f.clause.bind (fun c => c.words[f.ix]?)).map opcodeOf
          let b := (List.range 24).map (fun i => f.s (o.p.toNat + i))
          let c : Copy := ⟨r, s.partOf r, s.ctxOf r, ((s.launchOf r).map (·.id)).getD 0, f.header, f.ix, op.getD 0, b, [], [], [],
            none, 0xFFFFFFFF, 0, 0, 0, true, [], 0, 0, none, some (vaDev n), 0, none, none, []⟩
          (s.retire r f1).postEvent (dieOfCore core) (some r) (s.copyRecord core c 1 0 0 0)
        | _ => s
    | _ => s)

/-- SLOT_RETURN (R274): a slot-return message arrives. -/
def execSlotReturn (part : Nat) (name : Dword) (rd : Word) (s : State) : Out := .next (s.slotReturn part name rd)

/-- TIMEOUT of the spool a copy is held at, µs. -/
def State.spoolLimit (s : State) (r : FlightRef) (n : Dword) : Nat :=
  if s.spoolFar n then (((s.core (s.coreOf r)).shadow (s.partOf r) n).map (fun h => spTimeout h.spoolRec)).getD 0
  else ((s.spoolRec r n).map (fun p => spTimeout p.2)).getD 0

/-- SPOOL_TIMEOUT (R277). -/
def execSpoolTimeout (r : FlightRef) (s : State) : Out :=
  .next (match s.flight? r with
  | none => s
  | some f =>
    match f.wait, f.copyHeld with
    | .copySlot n, some t =>
      let unit := if s.det r then 3600 else 1000
      let lim := s.spoolLimit r n
      if !f.stopped ∧ s.accessible r ∧ lim ≠ 0 ∧ t + lim * unit < s.now r then s.fault r cSpoolTimeout 0 0 else s
    | _, _ => s)

end Sys2Proof.Machine
end

