-- ==== Sys2Proof/Machine/Spill.lean ====
section
/-! DEFINITION. The save area, and resources of a LAZY context that the incoming context claims (R340, R342). -/

namespace Sys2Proof.Machine

/-! ### The save area (R340) -/

/-- A partition owns a core (R347). -/
def PartDesc.hasCore (d : PartDesc) (c : Nat) : Bool := d.quads.getLsbD (quadOfCore c)

/-- Address of a core's frame in a context's save area: 4 MiB for each owned core, in ascending order. -/
def State.coreFrame (s : State) (part ctx core : Nat) : Nat :=
  let p := s.part part
  (p.ctx ctx).desc.save.toNat + ((List.range core).filter p.desc.hasCore).length * 2 ^ 22

/-- A frame's bytes cut at the lines of its addresses. -/
def lineChunks : Nat → Nat → List Byte → List (Nat × List Byte)
  | 0, _, _ => []
  | n + 1, va, bs =>
    if bs.isEmpty then [] else
    let k := 256 - va % 256
    (va, bs.take k) :: lineChunks n (va + k) (bs.drop k)

/-- Writes bytes of a context's memory where that is mapped writable. -/
def State.saveBytes (s : State) (part ctx va : Nat) (bs : List Byte) : State :=
  (lineChunks (bs.length / 256 + 2) va bs).foldl (fun s c => match s.vaKey part ctx c.1 { w := true } with
    | some k => { s with mem := writeBytes s.mem k c.2 }
    | none => s) s

/-- The image of a resource whose bytes the model lists in an order of its own: the spec does not give the order in the image (log 4). -/
def imageOf (kind : Nat) (bs : List Byte) : List Byte := (List.range bs.length).map (fun i => bs.getD (Config.imageOrder kind i) 0)

/-- The lowest indexes of a core's row file that no workgroup holds there: the spec does not say which rows one gets (log 33). -/
def State.freeRows (s : State) (core n : Nat) : List Nat :=
  let held := (s.wgs.filter (fun p => p.2.core == core && !p.2.away.rows)).flatMap (fun p => p.2.rowAt)
  ((List.range 512).filter (fun i => !held.contains i)).take n

/-! ### Records (R338, R339) -/

/-- A flight is parked on fault service (R195, R196, R332, R339). -/
def Flight.onFault (f : Flight) : Bool :=
  f.homeParked || match f.wait with
  | .fault _ | .homeDown _ | .dirLock => true
  | _ => false

/-- A flight is parked: on fault service, or at a twin read that blocks (R332, R343). -/
def Flight.parked (f : Flight) : Bool :=
  f.onFault || (match f.wait with
  | .twin _ => true
  | _ => false)

/-- ACCBIND of a name: the image index of the tile that it is bound to; 0xFF while it is unbound, or its tile has still to be granted. -/
def State.accBind (s : State) (g : Wg) (n : Nat) : Nat :=
  match (g.acc[n]?).getD none with
  | none => 0xFF
  | some k => match (look (s.mxe (quadOfCore g.core)).tiles k).or (look g.away.tiles k) with
    | some t => if t.granted then t.phys else 0xFF
    | none => 0xFF

/-- STATE of a workgroup's record. -/
def Wg.stateCode (g : Wg) : Nat :=
  if g.st = .switchedOut then 4 else (if g.st = .halted then 1 else 0) + (if g.dbg then 2 else 0)

/-- STAGECNT of a workgroup's record: the staging entries saved with its tether, in the record of rank 0 (R247). -/
def State.stageCount (s : State) (g : Wg) : Nat :=
  if g.rank = 0 ∧ g.st = .switchedOut then
    (((look s.launches g.launch).bind (fun l => look l.tethers g.tether)).map (fun y => y.stage.length)).getD 0
  else 0

/-- A workgroup's record in 256 bytes, as the context window presents it (R338). -/
def State.wgRecord (s : State) (g : Wg) : List Byte :=
  let lid := ((look s.launches g.launch).map (fun l => l.id.toNat)).getD 0
  let b := toBytes 4 lid ++ toBytes 4 g.wgid ++ toBytes 4 g.core ++ toBytes 1 g.firstFlt.toNat ++ toBytes 1 g.stateCode ++ toBytes 2 0 ++
    toBytes 4 g.barK ++ toBytes 4 g.bartK ++ toBytes 4 g.sortK ++ toBytes 4 g.barArr.toNat ++ toBytes 4 g.bartArr.toNat ++
    toBytes 4 g.sortArr.toNat ++ (List.range 8).flatMap (fun n => toBytes 1 (s.accBind g n)) ++ toBytes 4 g.replay.length ++
    toBytes 4 (s.stageCount g)
  b ++ List.replicate (256 - b.length) 0

/-- The flight holds a reuse latch, in its engine or in the save area (R287, R342). -/
def State.holdsLatch (s : State) (r : FlightRef) : Bool :=
  (s.mxe (quadOfCore (s.coreOf r))).latches.any (fun l => l.owner == r) ||
    ((s.wgOf r).map (fun g => g.away.latches.any (fun l => l.owner == r))).getD false

/-- DONE of a flight's record (R207, R339): the mask of the instruction it stands at, or that of an access that has met HOME_DOWN. -/
def Flight.doneShown (f : Flight) : Dword :=
  match f.accs.find? (fun a => a.pieces.any Piece.down) with
  | some a => f.doneMask ||| doneBits a.pieces (a.pieces.filter (·.done))
  | none => f.doneMask

/-- A flight record in 2 KiB (R339, R340). -/
def State.flightRecord (s : State) (r : FlightRef) (f : Flight) : List Byte :=
  let flags := (if f.tpend then 1 else 0) + (if f.spend then 2 else 0) + (if f.npOpen then 4 else 0) +
    (if s.holdsLatch r then 8 else 0) + (if f.onFault then 16 else 0)
  let le := toBytes
  let b := le 8 f.stopPc.toNat ++ le 1 f.stopIx ++ le 1 f.skid ++ le 1 f.cause.toNat ++ le 1 f.sub.toNat ++ le 1 f.kind.toNat ++
    le 1 flags ++ le 2 0 ++ le 4 f.sg.toNat ++ le 4 f.exited.toNat ++ le 4 f.held.toNat ++ le 4 f.late.toNat ++ le 8 f.doneShown.toNat ++
    le 8 f.info.toNat ++ le 8 f.rngctr.toNat ++ le 8 f.wtime.toNat ++ le 8 f.retired.toNat ++ le 4 f.timerRem.toNat ++
    le 4 (if f.timerOn then 1 else 0) ++ le 4 f.fsr.toNat ++ le 4 f.qpred.toNat ++ le 8 f.npClk.toNat ++ le 32 f.peer.toNat ++
    f.cb.flatMap (fun h => le 2 h.toNat) ++ (List.range 160).flatMap (fun i => le 4 (f.s i).toNat) ++
    lanes.flatMap (fun l => le 8 (f.pc.getD l 0).toNat ++ le 8 (f.mr.getD l 0).toNat) ++
    lanes.map (fun l => BitVec.ofNat 8 ((List.range 7).foldl (fun n i => n + (if f.p l i then 2 ^ i else 0)) 0))
  b ++ List.replicate (2048 - b.length) 0

/-- A flight's vector row j: its eight registers of 32 lanes. -/
def Flight.rowBytes (f : Flight) (j : Nat) : List Byte :=
  (List.range 8).flatMap (fun k => lanes.flatMap (fun l => toBytes 4 (f.v l (8 * j + k)).toNat))

/-- The image of a flight's vector row j (R339, R340; log 4). -/
def Flight.rowImage (f : Flight) (j : Nat) : List Byte := imageOf 0 (f.rowBytes j)

/-- What the context window presents of a flight: its record, then its vector rows (R339). -/
def State.flightWindow (s : State) (r : FlightRef) (f : Flight) : List Byte :=
  s.flightRecord r f ++ (List.range f.vrows).flatMap f.rowImage

/-- A staging entry in 128 bytes: what R242 says an entry records, and which elements are present. -/
def stageBytes (g : Nat) (e : StageEntry) : List Byte :=
  let present := (List.range 64).foldl (fun n i => n + (if (look e.sum i).isSome then 2 ^ i else 0)) 0
  let size := max (stageSize (e.fmt.getD 0)) 1
  let b := toBytes 8 g ++ toBytes 2 e.i ++ toBytes 2 e.d ++ toBytes 1 (e.fmt.getD 0xFF) ++ toBytes 1 (if e.poison then 1 else 0) ++
    toBytes 8 present ++ (List.range (64 / size)).flatMap (fun i => toBytes size ((look e.sum i).getD 0))
  b ++ List.replicate (128 - b.length) 0

/-- The image of a staging entry (R340; log 4). -/
def stageImage (g : Nat) (e : StageEntry) : List Byte := imageOf 2 (stageBytes g e)

/-- Writes the records of a core's workgroups and then of their flights into the core's frame (R340), by age: the spec does not order
them further (log 33). -/
def State.saveCore (s : State) (part ctx core : Nat) : State :=
  let gs := s.wgs.filter (fun p => p.2.part == part && p.2.ctx == ctx && p.2.core == core)
  let bs := gs.flatMap (fun p => s.wgRecord p.2) ++ gs.flatMap (fun p => (List.range p.2.flights.length).flatMap (fun i =>
    s.flightRecord (.wg p.1 i) (p.2.flights.getD i default)))
  s.saveBytes part ctx (s.coreFrame part ctx core + 2 ^ 21 + 2 ^ 17) bs

/-- The dies on which a partition owns a core, ascending. -/
def PartDesc.coreDies (d : PartDesc) : List Nat := (List.range 4).filter (fun e => d.quads.extractLsb' (32 * e) 32 != 0)

/-- Address of a die's staging frame in a context's save area. -/
def State.stagingFrame (s : State) (part ctx die : Nat) : Nat :=
  s.coreFrame part ctx 512 + ((s.part part).desc.coreDies.takeWhile (fun e => e != die)).length * 2 ^ 23

/-- The staging entries of a context's tethers on a die, by the age of their tethers. -/
def State.stagedOn (s : State) (part ctx die : Nat) : List (Nat × StageEntry) :=
  let ys := (s.launches.filter (fun p => p.2.part == part && p.2.ctx == ctx)).flatMap (fun p => p.2.tethers.map (fun t => t.2))
  (ys.filter (fun y => dieOfCore (y.cores.headD 0) == die)).flatMap (·.stage)

/-- Writes the staging entries of a context's tethers on a die into the die's staging frame (R247, R340), by age: the spec does not order
them (log 33). -/
def State.saveStaging (s : State) (part ctx die : Nat) : State :=
  s.saveBytes part ctx (s.stagingFrame part ctx die) ((s.stagedOn part ctx die).flatMap (fun e => stageImage e.1 e.2))

/-- What a context that is switched out with work writes into its save area at once: the records of its workgroups and flights, and its
staging entries (R247, R340). -/
def State.saveContext (s : State) (part ctx : Nat) : State :=
  let d := (s.part part).desc
  let cores := s.wgs.foldl (fun (cs : List Nat) p => if p.2.part = part ∧ p.2.ctx = ctx ∧ !cs.contains p.2.core then cs ++ [p.2.core] else cs) []
  d.coreDies.foldl (fun s e => s.saveStaging part ctx e) (cores.foldl (fun s c => s.saveCore part ctx c) s)

/-! ### Spilling (R342) -/

/-- A workgroup's rows are spilled to its core's frame: one image at each row's index. -/
def State.spillRows (s : State) (w : Nat) : State :=
  match look s.wgs w with
  | none => s
  | some g =>
    let at_ := s.coreFrame g.part g.ctx g.core
    let images := g.flights.flatMap (fun f => (List.range f.vrows).map f.rowImage)
    ((g.rowAt.zip images).foldl (fun s p => s.saveBytes g.part g.ctx (at_ + 1024 * p.1) p.2) s).modWg w
      (fun g => { g with away := { g.away with rows := true } })

/-- A workgroup's scratchpad bytes are spilled to their places in its core's frame and zeroed. -/
def State.spillScratch (s : State) (w : Nat) : State :=
  match look s.wgs w with
  | none => s
  | some g =>
    let bytes := readBytes s.mem (spKey g.core g.scratchBase) g.scratchBytes
    let s1 := s.saveBytes g.part g.ctx (s.coreFrame g.part g.ctx g.core + 2 ^ 19 + g.scratchBase) bytes
    let k := spKey g.core g.scratchBase
    let held := fun (x : Nat) => decide (k ≤ x) && decide (x < k + g.scratchBytes)
    let sps := (s.spools.filter (fun p => held p.1)).map (fun p => (p.1 - k, p.2))
    (({ s1 with mem := writeBytes s1.mem k (List.replicate g.scratchBytes 0) }).dropSpools held).modWg w
      (fun g => { g with away := { g.away with scratch := some bytes, spools := sps } })

/-- A tile of a matrix engine is spilled to the frame of its workgroup's core, at the index of its image. -/
def State.spillTile (s : State) (q k : Nat) : State :=
  match look (s.mxe q).tiles k with
  | none => s
  | some t => match look s.wgs t.wg with
    | none => s
    | some g =>
      let at_ := s.coreFrame g.part g.ctx g.core + 2 ^ 20 + 32768 * t.phys
      let s1 := if t.granted then s.saveBytes g.part g.ctx at_ (imageOf 1 (t.vals.flatMap (fun v => toBytes 4 v.toNat))) else s
      (s1.modMxe q (fun m => { m with tiles := del m.tiles k })).modWg t.wg
        (fun g => { g with away := { g.away with tiles := put g.away.tiles k t } })

/-- Where a flight's latch comes among those that the flights of its core hold: in flight-place order, by dispatcher, then age (R340; log
33). -/
def State.latchRank (s : State) (r : FlightRef) : Nat :=
  let core := s.coreOf r
  let k := s.partOf r
  let c := s.ctxOf r
  let mine := (s.wgs.filter (fun p => p.2.core == core && p.2.part == k && p.2.ctx == c)).flatMap (fun p =>
    (List.range p.2.flights.length).map (fun i => (FlightRef.wg p.1 i, ((p.2.flights[i]?).map (·.disp)).getD 0)))
  ((orderBy (fun p => p.2) mine).filter (fun p => s.holdsLatch p.1)).findIdx (fun p => p.1 == r)

/-- The contents of a reuse latch: 4 KiB of A, 64 scale bytes, the codebook (R340). -/
def Latch.bytes (l : Latch) : List Byte := l.a ++ l.scales ++ l.cb.flatMap (fun h => toBytes 2 h.toNat)

/-- A reuse latch of a matrix engine is spilled to the frame of its flight's core (R340). -/
def State.spillLatch (s : State) (q : Nat) (l : Latch) : State :=
  match l.owner with
  | .ctl _ _ => s
  | .wg w _ => match look s.wgs w with
    | none => s
    | some g =>
      let at_ := s.coreFrame g.part g.ctx g.core + 2 ^ 21 + 8192 * s.latchRank l.owner
      ((s.saveBytes g.part g.ctx at_ l.bytes).modMxe q (fun m => { m with latches := m.latches.filter (· != l) })).modWg w
        (fun g => { g with away := { g.away with latches := g.away.latches ++ [l] } })

/-! ### Reloading (R342): a restore takes what was spilled from its frame as the frame then stands -/

/-- The bytes at a place of a frame; where its page is not mapped, the resource comes back as it left (log 23). -/
def State.loadBytes (s : State) (part ctx va : Nat) (held : List Byte) : List Byte :=
  (lineChunks (held.length / 256 + 2) va held).flatMap (fun c => match s.vaKey part ctx c.1 { w := true } with
    | some k => readBytes s.mem k c.2.length
    | none => c.2)

/-- The bytes of a resource from its image: each is taken from the byte of the image that held it. -/
def ofImage (kind : Nat) (held image : List Byte) : List Byte :=
  (List.range held.length).map (fun j => match (List.range held.length).find? (fun i => Config.imageOrder kind i == j) with
    | some i => image.getD i 0
    | none => held.getD j 0)

/-- A resource's bytes from its image at a place of a frame. -/
def State.loadImage (s : State) (part ctx va kind : Nat) (held : List Byte) : List Byte :=
  ofImage kind held (s.loadBytes part ctx va (imageOf kind held))

/-- The words of a list of bytes. -/
def wordsAt (bs : List Byte) (n : Nat) : List Word := (List.range n).map (fun i => BitVec.ofNat 32 (fieldAt bs (4 * i) 4))

/-- Sets a flight's vector row j. -/
def Flight.putRow (f : Flight) (j : Nat) (ws : List Word) : Flight :=
  (List.range 8).foldl (fun f k => lanes.foldl (fun f l => f.setV l (8 * j + k) (ws.getD (32 * k + l) 0)) f) f

/-- The rows of a flight from a frame, at the indexes given. -/
def State.loadRows (s : State) (part ctx frame : Nat) (rows : List Nat) (f : Flight) : Flight :=
  (List.range f.vrows).foldl (fun f j =>
    f.putRow j (wordsAt (s.loadImage part ctx (frame + 1024 * rows.getD j 0) 0 (f.rowBytes j)) 256)) f

/-- The flights of a workgroup with their rows from its frame. -/
def State.loadFlights (s : State) (g : Wg) : List Flight :=
  let frame := s.coreFrame g.part g.ctx g.core
  (g.flights.foldl (fun (p : List Flight × List Nat) f =>
    (p.1 ++ [s.loadRows g.part g.ctx frame (p.2.take f.vrows) f], p.2.drop f.vrows)) ([], g.rowAt)).1

/-- A tile of a workgroup from its frame. -/
def State.loadTile (s : State) (g : Wg) (t : Tile) : Tile :=
  if !t.granted then t
  else
    let at_ := s.coreFrame g.part g.ctx g.core + 2 ^ 20 + 32768 * t.phys
    { t with vals := wordsAt (s.loadImage g.part g.ctx at_ 1 (t.vals.flatMap (fun v => toBytes 4 v.toNat))) t.vals.length }

/-- A latch of a workgroup from its frame. -/
def State.loadLatch (s : State) (g : Wg) (l : Latch) : Latch :=
  let bs := s.loadBytes g.part g.ctx (s.coreFrame g.part g.ctx g.core + 2 ^ 21 + 8192 * s.latchRank l.owner) l.bytes
  let n := l.a.length
  let m := l.scales.length
  { l with
    a := slice bs 0 n
    scales := slice bs n m
    cb := (List.range l.cb.length).map (fun i => BitVec.ofNat 16 (fieldAt bs (n + m + 2 * i) 2)) }

/-- A staging entry from its 128 bytes. -/
def stageOf (bs : List Byte) : Nat × StageEntry :=
  let n := fieldAt bs 12 1
  let size := stageSize (if n = 0xFF then 0 else n)
  let present := fieldAt bs 14 8
  (fieldAt bs 0 8, {
    i := fieldAt bs 8 2
    d := fieldAt bs 10 2
    fmt := if n = 0xFF then none else some n
    poison := fieldAt bs 13 1 != 0
    sum := ((List.range (64 / size)).filter (fun i => present.testBit i)).map (fun i => (i, fieldAt bs (22 + size * i) size)) })

/-- A context's staging entries on a die go back, from the die's staging frame (R247). -/
def State.loadStaging (s : State) (part ctx die : Nat) : State :=
  let at_ := s.stagingFrame part ctx die
  let ls := s.launches.foldl (fun (p : List (Nat × Launch) × Nat) x =>
    if x.2.part ≠ part ∨ x.2.ctx ≠ ctx then (p.1 ++ [x], p.2)
    else
      let (ts, n) := x.2.tethers.foldl (fun (q : List (Nat × Tether) × Nat) t =>
        if dieOfCore (t.2.cores.headD 0) ≠ die then (q.1 ++ [t], q.2)
        else
          let es := (List.range t.2.stage.length).map (fun i => match t.2.stage[i]? with
            | some e => stageOf (s.loadImage part ctx (at_ + 128 * (q.2 + i)) 2 (stageBytes e.1 e.2))
            | none => default)
          (q.1 ++ [(t.1, { t.2 with stage := es })], q.2 + es.length)) ([], p.2)
      (p.1 ++ [(x.1, { x.2 with tethers := ts })], n)) ([], 0)
  { s with launches := ls.1 }

/-! ### Claims (R342) -/

/-- A workgroup is switched out. -/
def State.isOut (s : State) (w : Nat) : Bool := ((look s.wgs w).map (fun g => g.st == .switchedOut)).getD false

/-- The flight belongs to a switched-out workgroup. -/
def State.outFlight (s : State) (r : FlightRef) : Bool :=
  match r with
  | .wg w _ => s.isOut w
  | .ctl _ _ => false

/-- Rows taken on a core by workgroups that hold theirs there. -/
def State.rowsHeld (s : State) (c : Nat) : Nat :=
  (s.wgs.filter (fun p => p.2.core == c && !p.2.away.rows)).foldl (fun n p => n + p.2.rows) 0

/-- A claim of rows on a core: rows that a switched-out workgroup still holds there are spilled as needed. -/
def State.claimRows (core n : Nat) : Nat → State → State
  | 0, s => s
  | fuel + 1, s =>
    if s.rowsHeld core + n ≤ 512 then s
    else match s.wgs.find? (fun p => p.2.core == core && p.2.st == .switchedOut && !p.2.away.rows) with
      | some p => State.claimRows core n fuel (s.spillRows p.1)
      | none => s

/-- Scratchpad bytes taken on a core by workgroups that hold theirs there. -/
def State.scratchHeld (s : State) (c : Nat) : Nat :=
  (s.wgs.filter (fun p => p.2.core == c && p.2.away.scratch.isNone)).foldl (fun n p => n + p.2.scratchBytes) 0

/-- A claim of scratchpad bytes on a core. -/
def State.claimScratch (core n : Nat) : Nat → State → State
  | 0, s => s
  | fuel + 1, s =>
    if s.scratchHeld core + n ≤ 524288 then s
    else match s.wgs.find? (fun p => p.2.core == core && p.2.st == .switchedOut && p.2.away.scratch.isNone) with
      | some p => State.claimScratch core n fuel (s.spillScratch p.1)
      | none => s

/-- A claim of a workgroup's place on a core. -/
def State.claimCore (s : State) (core rows scratch : Nat) : State :=
  let s1 := State.claimRows core rows (s.wgs.length + 1) s
  State.claimScratch core scratch (s.wgs.length + 1) s1

/-- Tiles in use whose workgroups are not switched out. -/
def State.tilesLive (s : State) (q : Nat) : Nat := ((s.mxe q).tiles.filter (fun p => p.2.granted && !s.isOut p.2.wg)).length

/-- A claim of a tile: with every tile in use, one of a switched-out workgroup is spilled. -/
def State.claimTile (s : State) (q : Nat) : State :=
  if ((s.mxe q).tiles.filter (fun p => p.2.granted)).length < 32 then s
  else match (s.mxe q).tiles.find? (fun p => p.2.granted && s.isOut p.2.wg) with
    | some p => s.spillTile q p.1
    | none => s

/-- Latches whose workgroups are not switched out. -/
def State.latchesLive (s : State) (q : Nat) : Nat := ((s.mxe q).latches.filter (fun l => !s.outFlight l.owner)).length

/-- A claim of a latch. -/
def State.claimLatch (s : State) (q : Nat) : State :=
  if (s.mxe q).latches.length < 16 then s
  else match (s.mxe q).latches.find? (fun l => s.outFlight l.owner) with
    | some l => s.spillLatch q l
    | none => s

/-- The lowest physical tile of an engine that holds no tile: the spec does not say which one a grant takes (log 33). -/
def Mxe.freePhys (m : Mxe) : Nat :=
  ((List.range 32).find? (fun i => m.tiles.all (fun p => !p.2.granted || p.2.phys != i))).getD 0

/-- Tiles and latches come to an engine. -/
def State.takeTiles (s : State) (q : Nat) (ts : List (Nat × Tile)) (ls : List Latch) : State :=
  let s1 := ts.foldl (fun s p => (s.claimTile q).modMxe q (fun m => { m with tiles := put m.tiles p.1 { p.2 with phys := m.freePhys } })) s
  ls.foldl (fun s l => (s.claimLatch q).modMxe q (fun m => { m with latches := m.latches ++ [l] })) s1

end Sys2Proof.Machine
end

