-- ==== Sys2Proof/Machine/Matrix.lean ====
section
/-! DEFINITION. The matrix engine: MMA, MMAS, ACCZ, ACCST, ACCLD, ACCREL, its arbiter, passes and self-check (R281–R305). -/

namespace Sys2Proof.Machine

/-! ### Tables, tiles, latches (R281, R292) -/

/-- Entries issued and not granted (R282). -/
def Mxe.waiting (m : Mxe) : List (Nat × MxeEntry) := m.entries.filter (fun p => !p.2.granted)

/-- A tile that has drained is free (R292). -/
def Mxe.freeTiles (m : Mxe) : Mxe := { m with tiles := m.tiles.filter (fun p => p.2.bound || p.2.ops != 0) }

/-- Changes a tile. -/
def Mxe.modTile (m : Mxe) (k : Nat) (f : Tile → Tile) : Mxe := { m with tiles := alter m.tiles k f }

/-- A tile of an engine. -/
def Mxe.tile (m : Mxe) (k : Nat) : Tile := (look m.tiles k).getD default

/-- The latch a flight holds (R287). -/
def Mxe.latch (m : Mxe) (r : FlightRef) : Option Latch := m.latches.find? (fun l => l.owner == r)

/-- Flights of a quad that wait for an entry or a latch test again (R282, R287). -/
def State.wakeMxe (s : State) (q : Nat) : State :=
  { s with wgs := mapVals s.wgs (fun _ g => if quadOfCore g.core ≠ q then g else
      { g with flights := g.flights.map (fun f => if f.wait = .mxe then { f with wait := .ready } else f) }) }

/-- A flight's latch is released (R287). -/
def State.dropLatch (s : State) (r : FlightRef) : State :=
  let q := quadOfCore (s.coreOf r)
  if ((s.mxe q).latch r).isNone then s
  else (s.modMxe q (fun m => { m with latches := m.latches.filter (fun l => l.owner != r) })).wakeMxe q

/-- The flight is one of a workgroup's. -/
def ofWg (r : FlightRef) (w : Nat) : Bool :=
  match r with
  | .wg u _ => u == w
  | .ctl _ _ => false

/-- A workgroup's tile operations stop, and its tiles and its flights' latches are freed (R292, R305, R363). -/
def State.freeMxe (s : State) (w : Nat) : State :=
  match look s.wgs w with
  | none => s
  | some g =>
    let q := quadOfCore g.core
    (s.modMxe q (fun m => { m with
      entries := m.entries.filter (fun p => !ofWg p.2.owner w)
      tiles := m.tiles.filter (fun p => p.2.wg != w)
      latches := m.latches.filter (fun l => !ofWg l.owner w) })).wakeMxe q

/-- An operation enters the table: it counts in its tile and in its flight (R27, R282, R292). -/
def State.enterTile (s : State) (r : FlightRef) (f : Flight) (e : MxeEntry) : State :=
  let q := quadOfCore (s.coreOf r)
  let (k, s1) := s.fresh
  (s1.modMxe q (fun m => { (m.modTile e.tile (fun t => { t with ops := t.ops + 1 })) with
    entries := put m.entries k e })).retire r { f with nTiles := f.nTiles + 1 }

/-- An entry as it is issued; `lat` is the latency class of its memory side (R301). -/
def State.mxeEntry (s : State) (r : FlightRef) (f : Flight) (op tile lat : Nat) : MxeEntry where
  owner := r
  part := s.partOf r
  ctx := s.ctxOf r
  lid := ((s.launchOf r).map (·.id)).getD 0
  pc := f.header
  ix := f.ix
  op := op
  quant := false
  block := []
  handle := []
  a := []
  scales := []
  cb := []
  tile := tile
  prio := ((s.launchOf r).map (fun l => recBits l.record 0x08 55 54)).getD 0
  since := s.now r
  granted := false
  due := s.now r + lat
  flags := 0
  paused := none
  sent := false
  got := []
  left := 0
  lost := none
  given := []
  past := pastOf (s.free + s.uid) f.pastM

/-- Room in the table and in the tile count, or the wait (R27, R282). -/
def State.tileRoom (s : State) (r : FlightRef) (f : Flight) (k : Unit → State) : State :=
  if 14 ≤ f.nTiles then s.stall r .drain
  else if 32 ≤ (s.mxe (quadOfCore (s.coreOf r))).waiting.length then s.stall r .mxe
  else k ()

/-- The tile a name is bound to (R292). -/
def Wg.accTile (g : Wg) (n : Nat) : Option Nat := (g.acc[n]?).getD none

/-! ### MMA and MMAS (R283–R289, R297) -/

/-- The pair of formats of a pass: K, and whether MMA and MMAS may issue it (R283). -/
def passPair (a b : Nat) : Option (Nat × Bool × Bool) :=
  if a = 7 ∧ b = 7 then some (128, false, true)
  else if 3 ≤ a ∧ a ≤ 6 ∧ 3 ≤ b ∧ b ≤ 6 then some (64, true, true)
  else if a = 8 ∧ b = 8 then some (64, true, false)
  else if (a = 1 ∨ a = 2) ∧ (b = 1 ∨ b = 2) then some (32, true, false)
  else none

/-- A fields of the block of R288. -/
def mmaAcc (b : List Word) : Nat := bits (bw b 0) 31 29
def mmaA (b : List Word) : Nat := bits (bw b 0) 27 24
def mmaB (b : List Word) : Nat := bits (bw b 0) 23 20
def mmaTr (b : List Word) : Bool := bitAt (bw b 3) 27
def mmaSat (b : List Word) : Bool := bitAt (bw b 3) 26
def mmaSpace (b : List Word) : Nat := if bitAt (bw b 3) 25 then 2 else 1
def mmaRoot (b : List Word) : Nat := bits (bw b 3) 24 0
def mmaK (b : List Word) : Nat := ((passPair (mmaA b) (mmaB b)).map (·.1)).getD 0

/-- Zero bits of the block of R288. -/
def mmaZeroBits (b : List Word) : Bool :=
  bitAt (bw b 0) 28 || bits (bw b 0) 19 0 != 0 || bits (bw b 3) 31 28 != 0 || (mmaSpace b == 1 && bits (bw b 3) 24 19 != 0)

/-- The side of an operand at a root, its plane at ROOT + (SBASE − BASE) (R289, R298). -/
def matSide (e : List Byte) (space root : Nat) : Side :=
  let t := entryRec e
  Side.ofEntry e space root ((root : Int) + t.sbase - t.base) 0

/-- The stored coordinate of B's element (k, n) (R289). -/
def mmaCoord (b : List Word) (k j : Nat) : List Nat :=
  let n := bw b 2 + j
  let k := bw b 1 + k
  if mmaTr b then [k, n, 0, 0, 0] else [n, k, 0, 0, 0]

/-- Every stored coordinate of the slice. -/
def mmaCoords (b : List Word) : List (List Nat) :=
  (List.range (mmaK b)).flatMap (fun k => (List.range 128).map (mmaCoord b k))

/-- Step 4 of R297: FMT, NDIM, BT and SCL of R289. -/
def mmaRecOk (scaled : Bool) (b : List Word) (t : TRec) : Bool :=
  t.fmt == mmaB b && t.ndim == 2 && !t.bt && (if scaled then decide (t.mode ≤ 2) else t.mode == 0)

/-- Step 5 of R297. -/
def mmaInside (b : List Word) (t : TRec) : Bool :=
  let n := bw b 2 + 128
  let k := bw b 1 + mmaK b
  if mmaTr b then decide (k ≤ co t.sizes 0) && decide (n ≤ co t.sizes 1) else decide (n ≤ co t.sizes 0) && decide (k ≤ co t.sizes 1)

/-- Some byte of a side lies outside its space. -/
def State.anyOutside (s : State) (r : FlightRef) (d : Side) (scales w : Bool) (cs : List (List Nat)) : Bool :=
  d.space != 0 && (d.touched scales cs).any (fun a => s.byteAt r (s.partOf r) (s.ctxOf r) d.space a w == .outside)

/-- Operand A from registers V to V+31: 64 rows of 64 bytes (R285). -/
def Flight.readA (f : Flight) (v : Nat) : List Byte :=
  (List.range 64).flatMap (fun i => (List.range 16).flatMap (fun j => toBytes 4 (f.vx (i / 2) (v + 16 * (i % 2) + j)).toNat))

/-- The scale byte of each row, from register X (R286). -/
def Flight.readScales (f : Flight) (x imm : Nat) : List Byte :=
  (List.range 64).map (fun i =>
    let sel := if i % 2 = 0 then bits imm 1 0 else bits imm 3 2
    BitVec.ofNat 8 ((f.vx (i / 2) x).toNat / 2 ^ (8 * sel)))

/-- The checks of R297 up to the entry: the tile and the sealed entry of B, or the trap. -/
def State.mmaCheck (s : State) (r : FlightRef) (f : Flight) (o : EFmt) (scaled : Bool) (b : List Word) :
    Except (Byte × Byte) (Nat × List Byte) :=
  let ok := match passPair (mmaA b) (mmaB b) with
    | some (_, m, ms) => if scaled then ms else m
    | none => false
  if mmaZeroBits b then .error (cIllegalOp, 2)
  else if !ok then .error (cIllegalOp, 4)
  else match (s.wgOf r).bind (fun g => g.accTile (mmaAcc b)), s.launchOf r with
    | some tile, some l =>
      match s.handleCheck f l (f.s o.h.toNat) with
      | .error sub => .error (cHandle, sub)
      | .ok e =>
        if !mmaRecOk scaled b (entryRec e) then .error (cHandle, 3)
        else if !mmaInside b (entryRec e) then .error (cHandle, 4)
        else if s.anyOutside r (matSide e (mmaSpace b) (mmaRoot b)) true false (mmaCoords b) then .error (cScratchBounds, 2)
        else .ok (tile, e)
    | _, _ => .error (cAccName, 1)

/-- A pass instruction (R284–R289, R297). -/
def mmaOp (op : Nat) (o : EFmt) (s : State) : Out :=
  onceWith o.g (fun r f =>
    let scaled := op == 0xA1
    let b := (List.range 4).map (fun i => f.s (o.p.toNat + i))
    match s.mmaCheck r f o scaled b with
    | .error (c, sub) => s.fault r c sub 0
    | .ok (tile, e) =>
      s.tileRoom r f (fun _ =>
        let q := quadOfCore (s.coreOf r)
        let m := s.mxe q
        let held := if o.ru then m.latch r else none
        if o.ru && held.isNone && decide (16 ≤ s.latchesLive q) then s.stall r .mxe
        else
          let l := held.getD ⟨r, f.readA o.v.toNat, if scaled then f.readScales o.x.toNat o.imm.toNat else List.replicate 64 0, f.cb⟩
          let s1 := if o.ru then (if held.isNone then s.claimLatch q else s).modMxe q (fun m => { m with
              latches := m.latches.filter (fun x => x.owner != r) ++ [l] })
            else s.dropLatch r
          let d := matSide e (mmaSpace b) (mmaRoot b)
          let lat := s.sideLat r (s.partOf r) (s.ctxOf r) d.space []
          s1.enterTile r f { s1.mxeEntry r f op tile lat with block := b, handle := e, a := l.a, scales := l.scales, cb := l.cb })) s

/-- MMA (R297). -/
def execMma (o : EFmt) (s : State) : Out := mmaOp 0xA0 o s

/-- MMAS (R297). -/
def execMmas (o : EFmt) (s : State) : Out := mmaOp 0xA1 o s

/-! ### ACCZ and ACCREL (R292, R294, R300) -/

/-- Unbinds a name; its tile drains (R292). -/
def State.unbind (s : State) (r : FlightRef) (n : Nat) (new : Option Nat) : State :=
  match r, s.wgOf r with
  | .wg w _, some g =>
    let q := quadOfCore g.core
    let s1 := match g.accTile n with
      | some t => s.modMxe q (fun m => m.modTile t (fun t => { t with bound := false }))
      | none => s
    s1.modWg w (fun g => { g with acc := modAt g.acc n (fun _ => new) })
  | _, _ => s

/-- ACCZ (R292, R294): a fresh tile, which its grant zeroes. -/
def execAccz (o : EFmt) (s : State) : Out :=
  onceWith o.g (fun r f =>
    s.tileRoom r f (fun _ =>
      let q := quadOfCore (s.coreOf r)
      let n := bits o.imm.toNat 2 0
      let w := match r with
        | .wg w _ => w
        | .ctl _ _ => 0
      let (k, s1) := s.fresh
      let s2 := (s1.unbind r n (some k)).modMxe q (fun m => { m with tiles := put m.tiles k ⟨w, n, false, true, 0, [], 0, 0⟩ })
      (s2.enterTile r f (s2.mxeEntry r f 0xA2 k 0)).modMxe q Mxe.freeTiles)) s

/-- ACCREL (R300). -/
def execAccrel (o : EFmt) (s : State) : Out :=
  onceWith o.g (fun r f =>
    let n := bits o.imm.toNat 2 0
    match (s.wgOf r).bind (fun g => g.accTile n) with
    | none => s.fault r cAccName 1 0
    | some t => s.tileRoom r f (fun _ =>
      let s1 := s.unbind r n none
      s1.enterTile r f (s1.mxeEntry r f 0xA5 t 0))) s

/-! ### ACCST and ACCLD (R298–R300) -/

/-- Fields of the block of R298. -/
def accAcc (b : List Word) : Nat := bits (bw b 0) 31 29
def accFmt (b : List Word) : Nat := bits (bw b 0) 23 20
def accSat (b : List Word) : Bool := bitAt (bw b 0) 19
def accRm (b : List Word) : Nat := bits (bw b 0) 18 16
def accSpace (b : List Word) : Nat := bits (bw b 0) 15 14

/-- Zero bits of the block of R298. -/
def accZeroBits (b : List Word) : Bool :=
  bits (bw b 0) 28 24 != 0 || bits (bw b 0) 13 0 != 0 || (accSpace b == 0 && bw b 3 != 0)

/-- The values that R298 and R299 give sub-code 0x4. -/
def accBad (store quant : Bool) (b : List Word) : Bool :=
  let fmts := if store then [0, 1, 2, 3, 4] else [0, 1, 2]
  decide (3 < accRm b) || (accSat b && accFmt b != 4) || !fmts.contains (accFmt b) ||
    (!store && (accRm b != 0 || accSat b)) || (quant && accFmt b != 3 && accFmt b != 4)

/-- The stored coordinate of tile element (i, j) (R298). -/
def accCoord (b : List Word) (i j : Nat) : List Nat := [bw b 2 + j, bw b 1 + i, 0, 0, 0]

/-- Every stored coordinate of the region, row by row. -/
def accCoords (b : List Word) : List (List Nat) := (List.range 64).flatMap (fun i => (List.range 128).map (accCoord b i))

/-- Step 4 of R298. -/
def accRecOk (quant : Bool) (b : List Word) (t : TRec) : Bool :=
  t.ndim == 2 && !t.bt && t.fmt == accFmt b && (if quant then (t.mode == 1 || t.mode == 2) && t.axis == 0 else t.mode == 0)

/-- Step 5 of R298. -/
def accInside (quant : Bool) (b : List Word) (t : TRec) : Bool :=
  decide (bw b 1 + 64 ≤ co t.sizes 1) && decide (bw b 2 + 128 ≤ co t.sizes 0) && (!quant || bw b 2 % 128 == 0)

/-- The side of an ACCST or ACCLD: its own addresses in global space, else at the root (R298). -/
def accSide (b : List Word) (e : List Byte) : Side :=
  if accSpace b = 0 then Side.ofEntry e 0 0 0 0 else matSide e (accSpace b) (bw b 3)

/-- The checks of R298: the tile and the sealed entry, or the trap. -/
def State.accCheck (s : State) (r : FlightRef) (f : Flight) (o : EFmt) (store quant : Bool) (b : List Word) :
    Except (Byte × Byte) (Nat × List Byte) :=
  if accZeroBits b then .error (cIllegalOp, 2)
  else if accBad store quant b then .error (cIllegalOp, 4)
  else match (s.wgOf r).bind (fun g => g.accTile (accAcc b)), s.launchOf r with
    | some tile, some l =>
      match s.handleCheck f l (f.s o.h.toNat) with
      | .error sub => .error (cHandle, sub)
      | .ok e =>
        if !accRecOk quant b (entryRec e) then .error (cHandle, 3)
        else if !accInside quant b (entryRec e) then .error (cHandle, 4)
        else if s.anyOutside r (accSide b e) quant store (accCoords b) then .error (cScratchBounds, if store then 1 else 2)
        else .ok (tile, e)
    | _, _ => .error (cAccName, 1)

/-- The addresses of an ACCST's or ACCLD's memory side. -/
def MxeEntry.addrs (e : MxeEntry) : List Int := (accSide e.block e.handle).touched e.quant (accCoords e.block)

/-- The bytes of a tile operation's memory side that lie on other devices (R186, R298). -/
def State.tileFar (s : State) (e : MxeEntry) : List Int :=
  if (e.op = 0xA3 ∨ e.op = 0xA4) ∧ accSpace e.block = 0 then e.addrs.filter s.isFar else []

/-- A path to another device that a tile operation needs is missing, or lost: it takes no effect there, and the peer bit is set (R387,
R393; log 20). -/
def State.loseTile (s : State) (q k : Nat) (dev : Nat) : State :=
  match look (s.mxe q).entries k with
  | none => s
  | some e => (s.modMxe q (fun m => { m with entries := put m.entries k { e with lost := some dev } })).modFlight e.owner
      (fun f => f.setPeer dev)

/-- An ACCLD sends the reads of the part of its source that lies on other devices (R186, R298). -/
def State.askTile (s : State) (q k : Nat) : State :=
  match look (s.mxe q).entries k with
  | none => s
  | some e =>
    let far := s.tileFar e
    if e.op ≠ 0xA4 ∨ far.isEmpty then s
    else if !s.reaches e.part e.ctx then s.loseTile q k (farDev (far.headD 0))
    else s.askReads e.part (fun d => .tile e.owner q k d) far

/-- ACCST or ACCLD (R298). -/
def accOp (op : Nat) (o : EFmt) (s : State) : Out :=
  onceWith o.g (fun r f =>
    let b := (List.range 4).map (fun i => f.s (o.p.toNat + i))
    let quant := op == 0xA3 && o.f.getLsbD 0
    match s.accCheck r f o (op == 0xA3) quant b with
    | .error (c, sub) => s.fault r c sub 0
    | .ok (tile, e) => s.tileRoom r f (fun _ =>
      let d := accSide b e
      let at_ := (accCoords b).map (fun c => (d.elem c).1)
      let lat := s.sideLat r (s.partOf r) (s.ctxOf r) d.space at_
      let s1 := (s.enterTile r f { s.mxeEntry r f op tile lat with quant, block := b, handle := e }).askTile (quadOfCore (s.coreOf r)) s.uid
      s1.noteSpan (s.partOf r) (s.ctxOf r) (if d.space = 0 then at_ else []))) s

/-- ACCST (R299). -/
def execAccst (o : EFmt) (s : State) : Out := accOp 0xA3 o s

/-- ACCLD (R300). -/
def execAccld (o : EFmt) (s : State) : Out := accOp 0xA4 o s

/-! ### A pass (R284–R291) -/

/-- Element k of row i of A, decoded (R285, R286). -/
def aValue (e : MxeEntry) (i k : Nat) : FVal :=
  let fmt := mmaA e.block
  let (o, bit) := elemOff fmt k
  let code := ofBytes (slice e.a (64 * i + o) (elemSpan fmt)) / 2 ^ bit % 2 ^ fmtBits fmt
  if e.op = 0xA1 then scaledVal fmt (e.scales.getD i 0) e.cb code else (fmtOfCode fmt).decode code

/-- Element (K0 + k, N0 + j) of B as memory stands (R289, R290, R295). -/
def State.bValue (s : State) (e : MxeEntry) (k j : Nat) : FVal :=
  let d := matSide e.handle (mmaSpace e.block) (mmaRoot e.block)
  d.value (s.sideByte (e.past.getD s.mem) e.owner e.part e.ctx d.space []) (mmaCoord e.block k j)

/-- FP32 with the overflow of a SAT pass (R291). -/
def satFp32 (sat fin : Bool) (x : Nat) : Nat :=
  if sat && fin && x % 2 ^ 31 == 0x7F800000 then x - 1 else x

/-- A product cut toward zero to a multiple of 2^g (R291). -/
def cutTo (g : Int) (x : Xr) : Int :=
  let m : Nat := if g ≤ x.e then x.m * 2 ^ (x.e - g).toNat else x.m / 2 ^ (g - x.e).toNat
  if x.neg then -(m : Int) else m

/-- The sum of one group of products (R291). -/
def groupSum (sat : Bool) (ps : List FVal) : Nat :=
  if ps.any (·.isNan) || (ps.any (·.isInfOf true) && ps.any (·.isInfOf false)) then 0x7FC00000
  else if ps.any (·.isInfOf true) then 0xFF800000
  else if ps.any (·.isInfOf false) then 0x7F800000
  else
    let xs := finOf ps
    let top := fun (x : Xr) => (Nat.log2 x.m : Int) + x.e
    match (xs.filter (fun x => x.m != 0)).map top with
    | [] => if xs.all (·.neg) then 0x80000000 else 0
    | t :: ts =>
      let g := ts.foldl max t - 44
      let q : Int := xs.foldl (fun q x => q + cutTo g x) 0
      if q = 0 then 0 else satFp32 sat true (Fmt.fp32.round 0 false 0 { neg := decide (q < 0), m := q.natAbs, e := g }).1

/-- A group's sum added to an accumulator value (R291). -/
def accumulate (sat : Bool) (c s : Nat) : Nat :=
  let x := Fmt.fp32.decode c
  let y := Fmt.fp32.decode s
  satFp32 sat (!x.isInf && !y.isInf) (fused .fp32 0 0 [] [x, y]).1

/-- Consecutive groups of 32. -/
def groupsOf {α : Type} : Nat → List α → List (List α)
  | 0, _ => []
  | n + 1, xs => xs.take 32 :: groupsOf n (xs.drop 32)

/-- One accumulator value after a pass over its products, group by group (R291). -/
def passValue (sat : Bool) (c : Word) (ps : List FVal) : Word :=
  BitVec.ofNat 32 ((groupsOf (ps.length / 32) ps).foldl (fun c g => accumulate sat c (groupSum sat g)) c.toNat)

/-- The tile after a pass (R284, R291). -/
def State.passResult (s : State) (e : MxeEntry) (vals : List Word) : List Word :=
  let ks := List.range (mmaK e.block)
  let cols := (List.range 128).map (fun j => ks.map (fun k => s.bValue e k j))
  (List.range 64).flatMap (fun i =>
    let row := ks.map (aValue e i)
    (cols.zip (vals.drop (128 * i))).map (fun p => passValue (mmaSat e.block) p.2 (List.zipWith FVal.times row p.1)))

/-! ### The self-check (R302, R303) -/

/-- What run n of a checked pass gives: the exact values but for those that the array gets wrong (log 4). -/
def checkedRun (n : Nat) (exact : List Word) : List Word :=
  (Config.arrayError n).foldl (fun vs p => modAt vs p.1 (fun _ => p.2)) exact

/-- Rows in which two results differ. -/
def differingRows (a b : List Word) : List Nat :=
  (List.range 64).filter (fun i => (a.drop (128 * i)).take 128 != (b.drop (128 * i)).take 128)

/-- The verdict of a check (R302). -/
inductive CheckVerdict where
  | equal
  | transient (rows : List Nat)
  | uncorrectable
  deriving DecidableEq, Repr

/-- The result a checked pass uses, and its verdict, on the c-th check (R302). -/
def judge (c : Nat) (first second third old : List Word) : List Word × CheckVerdict :=
  let rho := c % 63 + 1
  let rows := differingRows first second
  if first = second then (first, .equal)
  else if third = first then (first, .transient (rows.map (fun i => (i + 64 - rho) % 64)))
  else if third = second then (second, .transient rows)
  else (old, .uncorrectable)

/-- The first core of a quad. -/
def firstCore (q : Nat) : Nat := q / 16 * 64 + q % 16 / 4 * 16 + q % 4 * 2

/-- The four cores of a quad (R347). -/
def coresOfQuad (q : Nat) : List Nat := let c := firstCore q; [c, c + 1, c + 8, c + 9]

/-- A lasting fault (R303): the engine is fenced, the partition loses the quad, and the workgroups of its cores halt; tethers in
deterministic mode are killed. -/
def State.fenceMxe (s : State) (q : Nat) : State :=
  let mine := s.wgs.filter (fun p => (coresOfQuad q).contains p.2.core && p.2.st != .switchedOut && p.2.st != .killed)
  let s0 := s.modMxe q (fun m => { m with fenced := true })
  let s1 : State := { s0 with
    parts := s.parts.map (fun (p : Part) => { p with desc := { p.desc with quads := setBit p.desc.quads q false } }) }
  s1.events (mine.map (fun p =>
    if s.det (.wg p.1 0) then Instr.tetherKill p.2.launch p.2.tether 4 else Instr.workgroupHalt p.1))

/-- Code of a transient mismatch in the error log. -/
def errMxe : Nat := 2

/-- A verdict's consequences (R302, R303). -/
def State.verdict (s : State) (q : Nat) (owner : FlightRef) (v : CheckVerdict) : State :=
  match v with
  | .equal => s
  | .uncorrectable => s.events [.uncorrConsumed ⟨.flight owner, none⟩]
  | .transient rows =>
    let m := s.mxe q
    let recent := m.blamed.filter (fun p => decide (m.checks < p.1 + 256))
    let s1 := (s.modMxe q (fun m => { m with blamed := recent ++ rows.map (fun i => (m.checks, i)) })).events [.correctedError ⟨errMxe, none⟩]
    if !m.fenced && rows.any (fun i => recent.any (fun p => p.2 == i)) then s1.fenceMxe q else s1

/-! ### The arbiter (R282, R293, R301) -/

/-- The bytes of an ACCST's or ACCLD's memory side that it still needs and that are not at hand, with their addresses. -/
def State.matBad (s : State) (e : MxeEntry) : List (Int × ByteAt) :=
  let as_ := e.addrs.filter (fun a => !e.given.contains (a.toNat / 4))
  (as_.map (fun a => (a, s.byteAt e.owner e.part e.ctx (accSpace e.block) a (e.op == 0xA3)))).filter (fun p => match p.2 with
    | .here _ | .far _ => false
    | .cut => e.lost.isNone
    | _ => true)

/-- Every byte that an ACCLD reads on another device has been brought, or its device is lost. -/
def State.tileBrought (s : State) (e : MxeEntry) : Bool :=
  e.lost.isSome || (s.tileFar e).all (fun a => e.got.any (fun p => decide (p.1 ≤ a.toNat) && decide (a.toNat < p.1 + p.2.length)))

/-- No earlier operation on the entry's tile is still ungranted. -/
def Mxe.first (m : Mxe) (k : Nat) (e : MxeEntry) : Bool := m.waiting.all (fun p => decide (k ≤ p.1) || p.2.tile != e.tile)

/-- The arbiter considers the entry. -/
def State.grantable (s : State) (q k : Nat) (e : MxeEntry) : Bool :=
  let m := s.mxe q
  let det := s.det e.owner
  !e.granted && e.paused.isNone && m.first k e && (e.op != 0xA2 || decide (s.tilesLive q < 32)) &&
    (e.op != 0xA4 || (s.matBad e).isEmpty && s.tileBrought e) &&
    (!det || (decide (max e.due (max m.freeTick (m.tile e.tile).eff) ≤ s.now e.owner) && (m.waiting.head?.map (·.1)) == some k))

/-- The entry the arbiter grants: the highest priority, then the oldest. -/
def State.arbiter (s : State) (q : Nat) : Option Nat :=
  (((s.mxe q).waiting.filter (fun p => s.grantable q p.1 p.2)).foldl (fun (b : Option (Nat × MxeEntry)) p => match b with
    | none => some p
    | some x => if x.2.prio < p.2.prio then some p else some x) none).map (·.1)

/-- Time between grants of a pass that takes some cycles, ns. -/
def State.grantGap (s : State) (cycles : Nat) : Nat := (cycles * 1000 + s.mhz - 1) / s.mhz

/-- The values ACCLD loads and the flags they raise (R300). -/
def State.loadedTile (s : State) (e : MxeEntry) : List Word × Byte :=
  let d := accSide e.block e.handle
  let ys := (accCoords e.block).map (fun c =>
    Fmt.fp32.convert 0 false 0 (d.value (s.sideByte (e.past.getD s.mem) e.owner e.part e.ctx d.space e.got) c))
  (ys.map (fun y => BitVec.ofNat 32 y.1), ys.foldl (fun f y => f ||| y.2) 0)

/-- Bytes an ACCST or ACCLD takes in memory (R301). -/
def accBytes (e : MxeEntry) : Nat := 8192 * fmtBits (accFmt e.block) / 8 + (if e.quant then 64 else 0)

/-- A granted pass: its result in the tile, its check, its cores (R291, R302, R357). -/
def State.runPass (s : State) (q k : Nat) (e : MxeEntry) : State :=
  let m := s.mxe q
  let n := m.passes + 1
  let every := (s.die (q / 32)).mxchk
  let old := (m.tile e.tile).vals
  let exact := s.passResult e old
  let checked := every != 0 && n % every == 0
  let third := s.grantGap 48
  let s0 := match e.owner with
    | .wg w _ => s.noteCore w (firstCore q)
    | .ctl _ _ => s
  if !checked then
    s0.modMxe q (fun m => { (m.modTile e.tile (fun t => { t with vals := exact })) with passes := n, freeAt := s.clk.toNat + s.grantGap 16 })
  else
    let c := m.checks + 1
    let run := fun i => checkedRun (3 * s.free + i) exact
    let j := judge c (run 0) (run 1) (run 2) old
    let vals : List Word := j.1
    let v : CheckVerdict := j.2
    let s1 := { s0 with free := s.free + 1 }.modMxe q (fun m => { (m.modTile e.tile (fun t => { t with vals })) with
      passes := n, checks := c, freeAt := s.clk.toNat + (if v = CheckVerdict.equal then s.grantGap 32 else third) })
    (s1.verdict q e.owner v).modMxe q (fun m => { m with entries := m.entries.filter (fun p => p.1 != k || v != CheckVerdict.uncorrectable) })

/-- MXE_GRANT (R282, R284, R291–R295, R300–R303): the arbiter's entry is granted and performed. -/
def execMxeGrant (quad entry : Nat) (s : State) : Out :=
  .next (
    let m := s.mxe quad
    match look m.entries entry with
    | none => s
    | some e =>
      let det := s.det e.owner
      if m.fenced || s.arbiter quad != some entry || (!det && decide (s.clk.toNat < m.freeAt)) then s
      else if e.op == 0xA4 && s.poisonedSide e.owner e.part e.ctx (accSpace e.block) e.addrs then
        s.events [.uncorrConsumed ⟨.flight e.owner, none⟩]
      else
        let g := s.now e.owner
        let d := accSide e.block e.handle
        let len := (accBytes e + 255) / 256
        let lw := s.sideLat e.owner e.part e.ctx d.space ((accCoords e.block).map (fun c => (d.elem c).1))
        let (due, eff) := match e.op with
          | 0xA3 => (g + 16 + lw + len, g + 16)
          | 0xA4 => (g + 16 + len, g + 16 + len)
          | _ => (g + 16, g + 16)
        let s1 := (if e.op = 0xA2 then s.claimTile quad else s).modMxe quad (fun m => { (m.modTile e.tile (fun t => { t with eff })) with
          entries := put m.entries entry { e with granted := true, due, a := [], scales := [] }
          freeAt := s.clk.toNat + s.grantGap 16
          freeTick := if det then g + 16 else m.freeTick })
        let vals : List Word := (m.tile e.tile).vals
        (match e.op with
        | 0xA0 | 0xA1 => s1.runPass quad entry e
        | 0xA2 => s1.modMxe quad (fun m => m.modTile e.tile (fun t => { t with granted := true, vals := List.replicate 8192 0, phys := m.freePhys }))
        | 0xA3 => s1.modMxe quad (fun m => { m with
            entries := alter m.entries entry (fun x => { x with a := vals.flatMap (fun (v : Word) => toBytes 4 v.toNat) }) })
        | 0xA4 =>
          let (vs, flags) := s.loadedTile e
          s1.modMxe quad (fun m => { (m.modTile e.tile (fun t => { t with vals := vs })) with
            entries := alter m.entries entry (fun x => { x with flags }) })
        | _ => s1).wakeMxe quad)

/-- MXE_PRIO_RAISE (R282): an entry rises by one level for each full 256 cycles it waits, to at most 3. -/
def execMxePrioRaise (quad entry : Nat) (s : State) : Out :=
  .next (match look (s.mxe quad).entries entry with
  | none => s
  | some e =>
    if e.granted || decide (3 ≤ e.prio) || s.det e.owner || decide (s.clk.toNat < e.since + s.grantGap 256) then s
    else s.modMxe quad (fun m => { m with
      entries := put m.entries entry { e with prio := e.prio + 1, since := e.since + s.grantGap 256 } }))

/-! ### Completion (R295, R298, R299) -/

/-- What one row of a stored tile writes: the scale byte, the codes, and the flags (R299). -/
def storedRow (b : List Word) (quant : Bool) (vs : List FVal) : Nat × List Nat × Byte :=
  let (e, f0) := if quant then sclOf (accFmt b) 1 [] vs else (31, 0)
  let ys := vs.map (fun v => if quant then narrowEncode (accFmt b) (BitVec.ofNat 8 (0x40 + e)) [] (accRm b) (accSat b) 0 v
    else (fmtOfCode (accFmt b)).convert (accRm b) (accSat b) 0 v)
  (0x40 + e, ys.map (·.1), ys.foldl (fun f y => f ||| y.2) (f0 &&& fSAT))

/-- The writes of a granted ACCST and its flags (R298, R299). -/
def storedTile (e : MxeEntry) : WriteTab × Byte :=
  let d := accSide e.block e.handle
  let b := e.block
  (List.range 64).foldl (fun (p : WriteTab × Byte) i =>
    let vs := (List.range 128).map (fun j => Fmt.fp32.decode (fieldAt e.a (4 * (128 * i + j)) 4))
    let (sb, codes, fl) := storedRow b e.quant vs
    let t := (List.range 128).foldl (fun (t : WriteTab) j =>
      t.elem (d.elem (accCoord b i j)) (elemSpan d.t.fmt) (fmtBits d.t.fmt) (codes.getD j 0)) p.1
    (if e.quant then t.byte (d.scale (accCoord b i 0)).toNat (BitVec.ofNat 8 sb) 0xFF else t, p.2 ||| fl)) ([], 0)

/-- A tile operation leaves its engine: the tile count falls, its flags reach fsr (R295, R299); flights that wait for an entry test again
(R282). -/
def State.endTileOp (s : State) (q k : Nat) (e : MxeEntry) (flags : Byte) : State :=
  ((s.modMxe q (fun m => { (m.modTile e.tile (fun t => { t with ops := t.ops - 1 })) with entries := del m.entries k }.freeTiles)).modFlight
    e.owner (fun f => Flight.poke { f.raise flags with nTiles := f.nTiles - 1 })).wakeMxe q

/-- An ACCST sends what it writes on other devices, each word an operation of its own (R228). -/
def State.sendTile (s : State) (q k : Nat) (e : MxeEntry) (t : WriteTab) : State :=
  let ws := t.words
  let s1 := s.modMxe q (fun m => { m with entries := put m.entries k { e with sent := true, left := ws.length } })
  if ws.isEmpty then s1
  else if !s.reaches e.part e.ctx then
    (s.modMxe q (fun m => { m with entries := put m.entries k { e with sent := true } })).loseTile q k (farDev ((t.map (·.1)).headD 0 : Nat))
  else ws.foldl (fun s w => s.sendWord e.part (fun a => .tile e.owner q k a) (t.inWords [w])) s1

/-- One move of a granted ACCST: its remote words are sent, then words of this device are written, in deterministic mode all of them
together; with the last it completes (R228, R295). -/
def State.tileMove (s : State) (q k : Nat) : State :=
  match look (s.mxe q).entries k with
  | none => s
  | some e =>
    if !(s.matBad e).isEmpty then s
    else
      let (t, flags) := storedTile e
      let isFar := fun (p : Nat × (Byte × Byte)) => accSpace e.block == 0 && s.isFar p.1
      let here : WriteTab := t.filter (fun p => !isFar p && !e.given.contains (p.1 / 4))
      if !e.sent then s.sendTile q k e (t.filter isFar)
      else if !here.isEmpty then
        let ws := if s.det e.owner then here.words else someWords s.free here.words
        let s1 := { s with free := s.free + 2 }.applyWrites e.owner e.part e.ctx (accSpace e.block) (here.inWords ws)
        (s1.noteWrites e.owner e.part e.ctx (accSpace e.block) (here.inWords ws) s.mem).modMxe q (fun m => { m with
          entries := put m.entries k { e with given := e.given ++ ws } })
      else if e.left ≠ 0 ∧ e.lost.isNone then s
      else s.endTileOp q k e flags

/-- Moves of an ACCST, one after another. -/
def State.tileMoves (q k : Nat) : Nat → State → State
  | 0, s => s
  | n + 1, s => State.tileMoves q k n (s.tileMove q k)

/-- A granted ACCST has still to send what it writes on other devices. -/
def State.tileSends (s : State) (e : MxeEntry) : Bool := e.op == 0xA3 && e.granted && !e.sent && !(s.tileFar e).isEmpty

/-- TILE_OP_COMPLETE (R295): an ACCST's writes take effect, word by word outside deterministic mode; a finished operation leaves the tile
count. -/
def execTileOpComplete (quad entry : Nat) (s : State) : Out :=
  .next (match look (s.mxe quad).entries entry with
  | none => s
  | some e =>
    if !e.granted || e.paused.isSome || s.det e.owner && decide (s.now e.owner < e.due) then s
    else if e.op = 0xA3 then State.tileMoves quad entry (if s.det e.owner && !s.tileSends e then 3 else 1) s
    else s.endTileOp quad entry e e.flags)

/-- MATRIX_FAULT (R278, R298): a byte of a SPAN page while no plane is live is lost to the operation (R389); a replayable page fault on
a byte of the global side pauses the operation and writes a queue entry, once the
queue has room; any other fault stops it, an ACCST after a free choice of its other words, and leaves a deferred trap to the flight (log
4). -/
def execMatrixFault (quad entry : Nat) (va : Dword) (s : State) : Out :=
  .next (match look (s.mxe quad).entries entry with
  | none => s
  | some e =>
    let m := s.mxe quad
    let reached := (e.op == 0xA3 && e.granted) || (e.op == 0xA4 && !e.granted && m.first entry e)
    if !reached || e.paused.isSome then s
    else match (s.matBad e).find? (fun p => p.1 == (va.toNat : Int)) with
      | none => s
      | some (a, b) =>
        match b, s.engineCause e.part e.ctx b with
        | .cut, _ => s.loseTile quad entry s.image.devIdx.toNat
        | .page w, none =>
          if s.faultRoom e.part e.ctx (a.toNat / 4096) then
            (s.engineFault e.owner e.part e.ctx a w (e.op == 0xA3)).modMxe quad (fun m => { m with
              entries := put m.entries entry { e with paused := some (a.toNat / 4096) } })
          else s
        | _, none => s
        | _, some cause =>
          let bad := (s.matBad e).map (fun p => (p.1 : Int).toNat / 4)
          let t : WriteTab := if e.op = 0xA3 then (storedTile e).1.filter (fun p =>
            !bad.contains (p.1 / 4) && !e.given.contains (p.1 / 4) && Config.freeBool (s.free + p.1 / 4)) else []
          let s1 := { s with free := s.free + 1 }.applyWrites e.owner e.part e.ctx (accSpace e.block) t
          ((s1.noteWrites e.owner e.part e.ctx (accSpace e.block) t s.mem).endTileOp quad entry e 0).deferTrap
            e.owner { cause, sub := 0, kind := 2, info := va, org := some (e.pc, e.ix) })

end Sys2Proof.Machine
end

