-- ==== Sys2Proof/Machine/Estimator.lean ====
section
/-! DEFINITION. The estimator: decks, rounds, merges, the stop test, DRAW, ESMP, ESTAT, ESTOP (R311–R328). -/

namespace Sys2Proof.Machine

/-! ### Decks (R311–R314) -/

/-- The deck parameters of a launch record (R151, R312). -/
structure Deck where
  n : Nat
  mode : Nat
  seed : Nat
  k : Nat
  z : Nat
  tol : Nat
  nmin : Nat
  nmax : Nat
  deriving DecidableEq, Repr, Inhabited

/-- The deck fields of a record. -/
def deckOf (record : List Byte) : Deck where
  n := recBits record 0x20 39 0
  mode := recBits record 0x20 40 40
  seed := fieldAt record 0x28 8
  k := recBits record 0x30 16 0
  z := recBits record 0x30 63 32
  tol := recBits record 0x38 31 0
  nmin := recBits record 0x40 39 0
  nmax := recBits record 0x48 39 0

/-- The smallest m with 2^m ≥ n (R313). -/
def deckBits (n : Nat) : Nat := if n ≤ 1 then 0 else Nat.log2 (n - 1) + 1

/-- One step of mode 0 (R313). -/
def affineStep (n seed x : Nat) : Nat :=
  let m := deckBits n
  let a := Nat.lor (seed % 2 ^ 32) 1 % 2 ^ m
  let y := (a * x + seed / 2 ^ 32 % 2 ^ m) % 2 ^ m
  Nat.xor y (y / 2 ^ ((m + 1) / 2))

/-- The SplitMix64 finaliser (R314). -/
def splitMix (z : Nat) : Nat :=
  let z1 := Nat.xor z (z / 2 ^ 30) * 0xBF58476D1CE4E5B9 % 2 ^ 64
  let z2 := Nat.xor z1 (z1 / 2 ^ 27) * 0x94D049BB133111EB % 2 ^ 64
  Nat.xor z2 (z2 / 2 ^ 31)

/-- One step of mode 1 (R314). -/
def feistelStep (n seed x : Nat) : Nat :=
  let h := (deckBits n + 1) / 2
  let (hi, lo) := [0, 1, 2, 3].foldl (fun (p : Nat × Nat) i =>
    let key := splitMix ((seed + i * 0x9E3779B97F4A7C15) % 2 ^ 64)
    (p.2, Nat.xor p.1 (splitMix (Nat.xor p.2 key) % 2 ^ h))) (x / 2 ^ h, x % 2 ^ h)
  hi * 2 ^ h + lo

/-- Applies a step until the value lies below n. -/
def cycleWalk (step : Nat → Nat) (n : Nat) : Nat → Nat → Nat
  | 0, x => x
  | fuel + 1, x => let y := step x; if y < n then y else cycleWalk step n fuel y

/-- perm(j): the item of a position (R313, R314). -/
def Deck.perm (d : Deck) (j : Nat) : Nat :=
  cycleWalk (if d.mode = 0 then affineStep d.n d.seed else feistelStep d.n d.seed) d.n (4 * d.n) j

/-- Positions of a round (R315). -/
def Deck.roundSize (d : Deck) (t : Nat) : Nat := min ((t + 1) * d.k) d.n - t * d.k

/-- The last round. -/
def Deck.lastRound (d : Deck) : Nat := (d.n - 1) / d.k

/-- Limits of the deck fields (R312). -/
def Deck.ok (d : Deck) : Bool :=
  let fin := fun (x : Nat) => bits x 30 23 != 255
  -- DECKN's field is 40 bits wide, so that its limit 2^40 cannot be written there.
  decide (1 ≤ d.n) && decide (8 ≤ d.k) && decide (d.k ≤ 65536) && fin d.z && !bitAt d.z 31 && d.z != 0 &&
    fin d.tol && (!bitAt d.tol 31 || d.tol == 2 ^ 31) && decide (2 ≤ d.nmin) && decide (d.nmin ≤ d.nmax)

/-! ### Exact fractions and FP64 (R319) -/

/-- An exact fraction. -/
structure Frac where
  num : Int
  den : Nat
  deriving DecidableEq, Repr, Inhabited

/-- Sum, product and negation. -/
def Frac.add (a b : Frac) : Frac := ⟨a.num * b.den + b.num * a.den, a.den * b.den⟩
def Frac.mul (a b : Frac) : Frac := ⟨a.num * b.num, a.den * b.den⟩
def Frac.neg (a : Frac) : Frac := ⟨-a.num, a.den⟩

/-- The exact value of a finite code. -/
def Frac.ofCode (f : Fmt) (x : Nat) : Frac :=
  match f.decode x with
  | .fin v =>
    let m : Nat := v.m * 2 ^ v.e.toNat
    ⟨if v.neg then -(m : Int) else m, 2 ^ (-v.e).toNat⟩
  | _ => ⟨0, 1⟩

/-- A fraction as a bracketed real. -/
def Frac.toXr (q : Frac) : Xr :=
  let k := Nat.log2 q.den + 80
  let x := q.num.natAbs * 2 ^ k
  { neg := decide (q.num < 0), m := x / q.den, e := -(k : Int), st := x % q.den != 0 }

/-- RN64 (R319). -/
def rn64 (q : Frac) : Dword := if q.num = 0 then 0 else BitVec.ofNat 64 (Fmt.fp64.round 0 false 0 q.toXr).1

/-- RN64 of the square root of an FP64 value that is not negative (R320). -/
def sqrt64 (x : Dword) : Dword :=
  match Fmt.fp64.decode x.toNat with
  | .fin v => if v.m = 0 then 0 else BitVec.ofNat 64 (Fmt.fp64.round 0 false 0 (xSqrt v)).1
  | _ => x

/-- An FP64 value as a fraction. -/
def q64 (x : Dword) : Frac := Frac.ofCode .fp64 x.toNat

/-! ### Runs (R315–R322) -/

/-- A run as a launch takes its slot (R319). -/
def Run.fresh (launch : Nat) : Run where
  launch := launch
  cursor := 0
  reissue := []
  drawn := []
  resolved := []
  rounds := []
  merged := 0
  n := 0
  mean := 0
  m2 := 0
  h := 0x7FF0000000000000
  status := 0
  altered := false
  discards := 0
  stopReq := false
  stopAt := 0
  closed := false

/-- A round's accumulator. -/
def Run.round (r : Run) (t : Nat) : RoundAcc := (look r.rounds t).getD ⟨0, 0, 0, false⟩

/-- The position lies in a round after the stop round of a stopped run (R322). -/
def Run.past (r : Run) (k j : Nat) : Bool :=
  r.status != 0 && (if r.status = 6 then decide (r.merged < j / k) else decide (r.merged ≤ j / k))

/-- The position is resolved (R315). -/
def Run.done (r : Run) (k j : Nat) : Bool := decide (j / k < r.merged) || r.resolved.contains j

/-- The value a sample enters with, in units of 2^−64, and whether it sets ESR; a NaN marks its round (R317). -/
def sampleVal (x : Nat) : Option (Int × Bool) :=
  let top : Int := 2 ^ 104
  match Fmt.fp32.decode x with
  | .nan _ _ => none
  | .inf neg => some (if neg then -top else top, true)
  | .fin v =>
    if v.m = 0 then some (0, false)
    else if !magLe 1 (-40) v.m v.e then some (0, true)
    else if !magLe v.m v.e 1 40 then some (if v.neg then -top else top, true)
    else some ((if v.neg then -1 else 1) * ((v.m * 2 ^ (v.e + 64).toNat : Nat) : Int), false)

/-- Resolves a position, with its sample unless it is skipped (R318, R322, R326); whether ESR is due. -/
def Run.resolve (r : Run) (k j : Nat) (sample : Option Nat) : Run × Bool :=
  let r1 := { r with resolved := r.resolved ++ [j], drawn := r.drawn.filter (fun p => p.1 != j), reissue := r.reissue.filter (· != j) }
  let a := r.round (j / k)
  match sample.map sampleVal with
  | none => (r1, false)
  | some none => ({ r1 with rounds := put r1.rounds (j / k) { a with bad := true } }, false)
  | some (some (v, esr)) =>
    ({ r1 with rounds := put r1.rounds (j / k) { a with c := a.c + 1, s := a.s + v, q := a.q + (v * v).toNat }
               altered := r1.altered || esr }, esr)

/-- The run stops (R320). -/
def Run.stop (r : Run) (code now : Nat) : Run := { r with status := code, stopAt := now }

/-- The stop test after round t has merged (R320). -/
def Run.stopTest (r : Run) (d : Deck) (t now : Nat) : Run :=
  let inv := fun (n : Nat) (x : Dword) => rn64 ((q64 x).mul ⟨1, n⟩)
  let r1 := if r.n < d.nmin then r
    else { r with h := rn64 ((Frac.ofCode .fp32 d.z).mul (q64 (sqrt64 (inv r.n (inv (r.n - 1) r.m2))))) }
  let tol := Frac.ofCode .fp32 d.tol
  let h := q64 r1.h
  if d.nmin ≤ r.n ∧ h.num * tol.den ≤ tol.num * h.den then r1.stop 1 now
  else if d.nmax ≤ r.n then r1.stop 2 now
  else if t = d.lastRound then r1.stop 3 now
  else if r.stopReq then r1.stop 4 now else r1

/-- Merges the next round (R319). -/
def Run.merge (r : Run) (d : Deck) (now : Nat) : Run :=
  let t := r.merged
  let a := r.round t
  if a.bad then r.stop 6 now
  else
    let c := a.c
    let mr := rn64 ⟨a.s, c * 2 ^ 64⟩
    let qr := rn64 (Frac.add ⟨a.q, 2 ^ 128⟩ (Frac.neg ⟨a.s * a.s, c * 2 ^ 128⟩))
    let r1 := if c = 0 then r
      else if r.n = 0 then { r with n := c, mean := mr, m2 := qr }
      else
        let n2 := r.n + c
        let dl := q64 (rn64 ((q64 mr).add (q64 r.mean).neg))
        { r with
          n := n2
          mean := rn64 ((q64 r.mean).add (q64 (rn64 (dl.mul ⟨c, n2⟩))))
          m2 := rn64 (((q64 r.m2).add (q64 qr)).add ((dl.mul dl).mul ⟨(r.n : Int) * c, n2⟩)) }
    { r1 with
      merged := t + 1
      rounds := del r1.rounds t
      resolved := r1.resolved.filter (fun j => decide (j / d.k ≠ t)) }.stopTest d t now

/-- Merges every complete round in order (R315). -/
def Run.mergeAll (d : Deck) (now : Nat) : Nat → Run → Run
  | 0, r => r
  | n + 1, r =>
    let t := r.merged
    if r.status = 0 ∧ t * d.k < d.n ∧ (r.resolved.filter (fun j => decide (j / d.k = t))).length = d.roundSize t
    then Run.mergeAll d now n (r.merge d now) else r

/-- Merges at the end of a launch: every round up to that of the highest drawn position (R322). -/
def Run.mergeTo (d : Deck) (now last : Nat) : Nat → Run → Run
  | 0, r => r
  | n + 1, r => if r.status = 0 ∧ r.merged ≤ last then Run.mergeTo d now last n (r.merge d now) else r

/-- The resolution at the end of the launch's last tether (R322). -/
def Run.conclude (r : Run) (d : Deck) (now : Nat) : Run :=
  if r.status ≠ 0 then r
  else
    let r1 := (List.range r.cursor).foldl (fun r j => if r.done d.k j then r else (r.resolve d.k j none).1) r
    let r2 := if r1.cursor = 0 then r1 else Run.mergeTo d now ((r1.cursor - 1) / d.k) (r1.cursor + 1) r1
    if r2.status = 0 then r2.stop 5 now else r2

/-- Changes the run of a launch. -/
def State.modRun (s : State) (l : Nat) (f : Run → Run) : State :=
  { s with runs := s.runs.map (fun p => if p.2.launch = l then (p.1, f p.2) else p) }

/-- The operations of an estimating launch that wait for a merge or for the stop are looked at again. -/
def State.wakeEst (s : State) (l : Nat) : State :=
  s.events ((s.estQ.filter (fun p => p.2.launch == l && p.2.held)).map (fun p => .estimatorApply p.1))

/-- The end of a launch's last tether resolves its run (R322). -/
def State.concludeRun (s : State) (key : Nat) (l : Launch) (now : Nat) : State :=
  (s.modRun key (fun r => r.conclude (deckOf l.record) now)).wakeEst key

/-- A run ends with a launch that is killed or cancelled (R316); the operations that wait at it are discarded, as those that reach it
later are. -/
def State.endRun (s : State) (key : Nat) : State :=
  (s.modRun key (fun r => { r with closed := true, status := if r.status = 0 then 5 else r.status })).wakeEst key

/-- The positions that a killed tether drew and did not resolve go onto the reissue list, and its operations vanish (R316). -/
def State.reissue (s : State) (key tether : Nat) (mine : FlightRef → Bool) : State :=
  { s.modRun key (fun r =>
      let back := (r.drawn.filter (fun p => p.2 == tether)).map (·.1)
      { r with
        reissue := (back.foldl (fun (t : List (Nat × Nat)) j => put t j 0) (r.reissue.map (fun j => (j, 0)))).map (·.1)
        drawn := r.drawn.filter (fun p => p.2 != tether) }) with
    estQ := s.estQ.filter (fun p => !mine p.2.owner) }

/-! ### Issue (R323, R324) -/

/-- The lanes that participate: the active lanes, in a mix clause those whose guard holds (R323). -/
def Flight.estLanes (f : Flight) (g : BitVec 4) : List Nat := if f.cls = .mix then f.acting g else maskLanes f.sg

/-- Sends an estimator operation (R324). -/
def estOp (i : Instr) (g : BitVec 4) (posted : Bool) (data : Flight → Nat → Nat × Nat) (s : State) : Out :=
  onceWith g (fun r f =>
    match s.launchOf r, s.wgOf r with
    | some l, some w =>
      if !bitAt (fieldAt l.record 0x10 8) 42 then s.fault r cDeck 3 0
      else
        let (k, s1) := s.fresh
        let due := max (s.now r + 256) f.lastEstE
        let op : EstOp := ⟨r, w.part, w.ctx, s.det r, s.placeOf r f, w.launch, i, (f.estLanes g).map (fun l => (l, data f l)), posted, false, f.header, f.ix, due⟩
        let f1 := { f with nEst := f.nEst + 1, lastEstE := due }
        let s2 := { s1 with estQ := put s1.estQ k op }
        if posted then s2.retire r f1 else (s2.setFlight r f1).stall r (.reply k)
    | _, _ => s.retire r f) s

/-- DRAW (R325). -/
def execDraw (o : EFmt) (s : State) : Out := estOp (.draw o) o.g false (fun _ _ => (0, 0)) s

/-- Position and sample of a lane of ESMP (R326). -/
def Flight.sample (f : Flight) (o : EFmt) (l : Nat) : Nat × Nat := ((f.v64 l o.v.toNat).toNat, (f.v l o.x.toNat).toNat)

/-- ESMP (R326). -/
def execEsmp (o : EFmt) (s : State) : Out := estOp (.esmp o) o.g false (fun f l => f.sample o l) s

/-- ESMP posted (R326). -/
def execEsmpPost (o : EFmt) (s : State) : Out := estOp (.esmpPost o) o.g true (fun f l => f.sample o l) s

/-- ESTAT (R327). -/
def execEstat (o : EFmt) (s : State) : Out := estOp (.estat o) o.g false (fun _ _ => (0, 0)) s

/-- ESTOP (R328). -/
def execEstop (o : EFmt) (s : State) : Out := estOp (.estop o) o.g true (fun _ _ => (0, 0)) s

/-! ### At the estimator (R324–R328) -/

/-- An operation leaves the estimator; a flight that waits for its reply goes on, with what is written. -/
def State.estReply (s : State) (k : Nat) (op : EstOp) (write : Flight → Flight) : State :=
  { s with estQ := del s.estQ k }.modFlight op.owner (fun f =>
    let f1 := Flight.poke { write f with nEst := f.nEst - 1 }
    if f.wait = Wait.reply k then f1.released op.det else f1)

/-- The positions a DRAW is given: lanes with positions, and the run after it; none where the whole DRAW must wait (R325). -/
def dealOut (d : Deck) (open_ : Bool) : List Nat → Nat → Run → List (Nat × Nat) → Option (List (Nat × Nat) × Run)
  | [], _, r, out => some (out, r)
  | l :: ls, tether, r, out =>
    if !open_ || (r.reissue.isEmpty && decide (d.n ≤ r.cursor)) then some (out, r)
    else
      let j := r.reissue.headD r.cursor
      if r.merged + 64 ≤ j / d.k then (if out.isEmpty then none else some (out, r))
      else
        let r1 := if r.reissue.isEmpty then { r with cursor := r.cursor + 1 } else { r with reissue := r.reissue.tail }
        dealOut d open_ ls tether { r1 with drawn := put r1.drawn j tether } (out ++ [(l, j)])

/-- What DRAW writes (R325). -/
def Flight.dealt (f : Flight) (o : EFmt) (d : Deck) (all : List Nat) (out : List (Nat × Nat)) : Flight :=
  let n := bits o.imm.toNat 2 0
  let f1 := all.foldl (fun f l => f.setP l n (out.any (fun p => p.1 == l))) f
  let f2 := out.foldl (fun f p => (f.setV64 p.1 o.v.toNat (BitVec.ofNat 64 (d.perm p.2))).setV64 p.1 (o.v.toNat + 2)
    (BitVec.ofNat 64 p.2)) f1
  (f2.setS o.d.toNat (BitVec.ofNat 32 out.length)).setQ (bits o.x.toNat 2 0) (!out.isEmpty)

/-- DRAW at the estimator. Outside deterministic mode a DRAW that arrives within 2 µs of the stop may still be given positions: a
free choice (R322). -/
def State.applyDraw (s : State) (k : Nat) (op : EstOp) (o : EFmt) (r : Run) (d : Deck) : State :=
  let late := !op.det && !op.held && decide (s.clk.toNat < r.stopAt + 2000) && Config.freeBool s.free
  let tether := ((s.wgOf op.owner).map (·.tether)).getD 0
  let s0 := { s with free := s.free + 1 }
  match dealOut d (r.status == 0 || late) (op.lanes.map (·.1)) tether r [] with
  | none =>
    if r.status ≠ 0 then s0.estReply k op (fun f => f.dealt o d (op.lanes.map (·.1)) [])
    else { s0 with estQ := put s0.estQ k { op with held := true } }
  | some (out, r1) => (s0.modRun op.launch (fun _ => r1)).estReply k op (fun f => f.dealt o d (op.lanes.map (·.1)) out)

/-- The sub-code of DECK that ESMP's check gives, if it fails (R326). -/
def esmpBad (d : Deck) (r : Run) (js : List Nat) : Option Byte :=
  if js.any (fun j => decide (d.n ≤ j) || decide (r.cursor ≤ j) || r.reissue.contains j) then some 1
  else
    let live := js.filter (fun j => !r.past d.k j)
    if live.any (fun j => r.done d.k j || decide (1 < (live.filter (· == j)).length)) then some 2 else none

/-- ESMP at the estimator (R317, R322, R326). -/
def State.applyEsmp (s : State) (k : Nat) (op : EstOp) (o : EFmt) (r : Run) (d : Deck) : State :=
  match esmpBad d r (op.lanes.map (fun p => p.2.1)) with
  | some sub =>
    if op.posted then (s.estReply k op id).deferTrap op.owner { cause := cDeck, sub, kind := 2, info := 0, org := some (op.pc, op.ix) }
    else { s with estQ := del s.estQ k }.modFlight op.owner (fun f => { f with nEst := f.nEst - 1 })
      |>.fault op.owner cDeck sub 0
  | none =>
    let skip := bitAt o.imm.toNat 3
    let (r1, acc, esr) := op.lanes.foldl (fun (p : Run × List (Nat × Bool) × Bool) (l, j, x) =>
      if r.past d.k j then ({ p.1 with discards := p.1.discards + 1 }, p.2.1 ++ [(l, false)], p.2.2)
      else
        let (r2, e) := p.1.resolve d.k j (if skip then none else some x)
        (r2, p.2.1 ++ [(l, true)], p.2.2 || e)) (r, [], false)
    let r2 := Run.mergeAll d s.clk.toNat (d.n + 1) r1
    let n := (acc.filter (·.2)).length
    let write := fun (f : Flight) =>
      let f1 := f.raise (flagIf esr fESR)
      if op.posted then f1
      else (acc.foldl (fun f p => f.setP p.1 (bits o.imm.toNat 2 0) p.2) f1).setS o.d.toNat (BitVec.ofNat 32 n)
    let s1 := (s.modRun op.launch (fun _ => r2)).estReply k op write
    if r2.merged ≠ r.merged ∨ r2.status ≠ r.status then s1.wakeEst op.launch else s1

/-- The twelve registers of ESTAT (R327). -/
def Run.stat (r : Run) : List Word :=
  let two := fun (x : Dword) => [x.extractLsb' 0 32, x.extractLsb' 32 32]
  two (BitVec.ofNat 64 r.n) ++ two r.mean ++ two r.m2 ++ two r.h ++
    [BitVec.ofNat 32 (r.status + (if r.altered then 16 else 0)), BitVec.ofNat 32 (min r.discards 0xFFFFFFFF)] ++
    two (BitVec.ofNat 64 r.merged)

/-- ESTAT at the estimator (R327). -/
def State.applyEstat (s : State) (k : Nat) (op : EstOp) (o : EFmt) (r : Run) : State :=
  if o.imm.getLsbD 0 && r.status == 0 then { s with estQ := put s.estQ k { op with held := true } }
  else s.estReply k op (fun f => (List.range 12).foldl (fun f i => f.setS (o.d.toNat + i) (r.stat.getD i 0)) f)

/-- ESTIMATOR_APPLY (R324): the estimator applies one operation it has received; of a run that is over it is discarded (R316). -/
def execEstimatorApply (op : Nat) (s : State) : Out :=
  .next (match look s.estQ op with
  | none => s
  | some e =>
    if e.det && ((s.part e.part).cur != some e.ctx || decide ((s.part e.part).tick < e.due)) then s
    else match s.runOf e.launch, look s.launches e.launch with
      | some (_, r), some l =>
        let d := deckOf l.record
        if r.closed then s.estReply op e id
        else match e.instr with
        | .draw o => s.applyDraw op e o r d
        | .esmp o | .esmpPost o => s.applyEsmp op e o r d
        | .estat o => s.applyEstat op e o r
        | .estop _ => (s.modRun e.launch (fun r => { r with stopReq := r.stopReq || r.status == 0 })).estReply op e id
        | _ => s
      | _, _ => s.estReply op e id)

end Sys2Proof.Machine
end

