-- ==== Sys2Proof/Machine/Teardown.lean ====
section
/-! DEFINITION. How work ends: trap queue entries, the end of workgroups, tethers and launches, kills and cancels
(R146, R167, R244, R245, R292, R336, R363, R364). -/

namespace Sys2Proof.Machine

/-! ### The error log (R362) -/

/-- Reports an error: the AER status bit of its class, 0 correctable, 1 non-fatal, 2 fatal, and a record in the error log. -/
def State.logErr (s : State) (cls code at_ : Nat) (names : List ErrName) : State :=
  { s with
    errLog := s.errLog ++ [⟨cls, code, at_, s.clk.toNat, names⟩]
    aer := s.aer ||| (1#3 <<< cls) }

/-- The VALID partitions that own a resource on a die (R347). -/
def State.partsOn (s : State) (d : Nat) : List Nat :=
  (List.range 16).filter (fun k =>
    let x := (s.part k).desc
    x.valid && ((List.range 32).any (fun q => x.quads.getLsbD (d * 32 + q)) || x.ownsSlice d || x.pchan.extractLsb' (d * 128) 128 != 0))

/-- The VALID partitions that own the pseudo-channel of a sector (R347). -/
def State.partsAt (s : State) (sector : Nat) : List Nat :=
  (List.range 16).filter (fun k => (s.part k).desc.valid && (s.part k).desc.pchan.getLsbD (paDie (sector * 128) * 128 + paChan (sector * 128)))

/-- Counts an error at a sector: corrected, or uncorrectable (R359). -/
def State.noteErr (s : State) (sector : Nat) (bad : Bool) : State :=
  let n := sget (0, 0) s.errAt sector
  { s with errAt := sput (0, 0) s.errAt sector (if bad then (n.1, n.2 + 1) else (n.1 + 1, n.2)) }

/-- The error at a sector is lasting: it has recurred after the rewrite of its first, or been uncorrectable twice (R359). -/
def State.lasting (s : State) (sector : Nat) : Bool :=
  let n := sget (0, 0) s.errAt sector
  decide (2 ≤ n.1) || decide (2 ≤ n.2)

/-- Codes of what a record names. -/
def errUncorr : Nat := 16
def errLost : Nat := 17
def errSuspect : Nat := 18
def errDie : Nat := 19

/-! ### Switches of contexts in progress (R341, R342) -/

/-- The resident workgroups of a context. -/
def State.residents (s : State) (part ctx : Nat) : List (Nat × Wg) :=
  s.wgs.filter (fun p => p.2.part == part && p.2.ctx == ctx && p.2.st != .switchedOut)

/-- The next context of the run list after a slot, itself last. -/
def Part.nextOn (p : Part) (c : Nat) : Option Nat :=
  ((List.range 16).map (fun i => (c + 1 + i) % 16)).find? (fun k => (p.ctx k).canRun)

/-- A flight of a switched-out workgroup (R277, R342, R368): in deterministic mode it keeps its slot, so that its turns fall at the same ticks
as without the switch; otherwise it holds none, and the time that a copy has been held at a full spool stands still, as an elapsed time. -/
def State.seatOut (s : State) (det : Bool) (f : Flight) : Flight :=
  { f with
    slot := if det then f.slot else none
    pastC := []
    pastM := []
    copyHeld := if det then f.copyHeld else f.copyHeld.map (fun t => s.clk.toNat - t) }

/-- The ticks from which a partition's matrix engines can grant again go with the context that leaves (R301). -/
def State.keepGrants (s : State) (part c : Nat) : State :=
  let mine := s.mxes.filter (fun m => (s.part part).desc.quads.getLsbD m.1)
  { s.modCtx part c (fun x => { x with grants := mine.map (fun m => (m.1, m.2.freeTick)) }) with
    mxes := mapVals s.mxes (fun q m => if (s.part part).desc.quads.getLsbD q then { m with freeTick := 0 } else m) }

/-- The running context has left its partition (R342): its workgroups are switched out, its tick is kept, and the next context is
to be restored. -/
def State.leaveCtx (s : State) (part c : Nat) (st : CtxState) : State :=
  let s1 := ((s.keepGrants part c).modCtx part c (fun x => { x with st, drained := x.st == .draining, tick := (s.part part).tick })).modPart part (fun p =>
    { p with cur := none, lastTenant := (p.ctx c).desc.tenant })
  let s2 : State := { s1 with
    wgs := mapVals s1.wgs (fun w g => if g.part ≠ part ∨ g.ctx ≠ c ∨ g.st = .switchedOut then g else
      { g with st := .switchedOut, flights := g.flights.map (s.seatOut (s.det (.wg w 0))) })
    cur := match s1.cur with
      | some r => if s1.partOf r = part ∧ (s1.wgOf r).isSome then none else some r
      | none => none }
  let s2 := if st = .lazy then s2.saveContext part c else s2
  let p := s2.part part
  let s3 := p.onLeave.foldl (fun s o => s.owe part o) (s2.modPart part (fun p => { p with onLeave := [] }))
  if p.vfOff = 1 then s3.events [.vfDisable part]
  else match (p.switch.bind (·.target)).or (p.nextOn c) with
  | some k => s3.events [.contextRestore part k]
  | none => s3

/-- A tether of a context is still there: it runs, or commits its staging (R244). -/
def State.tethersLeft (s : State) (part ctx : Nat) : Bool :=
  s.launches.any (fun p => p.2.part == part && p.2.ctx == ctx && !p.2.tethers.isEmpty)

/-- A switch in progress goes on as far as it can: DRAINING and FORCING end with the last tether, its commits included (R234), HALTING when
every workgroup has halted (R342). -/
def State.settleCtx (s : State) (part : Nat) : State :=
  match (s.part part).cur with
  | none => s
  | some c =>
    let mine := s.residents part c
    match ((s.part part).ctx c).st with
    | .draining | .forcing => if mine.isEmpty && !s.tethersLeft part c then s.leaveCtx part c .saved else s
    | .halting => if mine.all (fun p => p.2.st == .halted) then s.leaveCtx part c .lazy else s
    | _ => s

/-! ### Workgroups and tethers (R146, R244) -/

/-- A workgroup leaves its core: its tiles and latches are freed (R292). Its tether keeps where its scratchpad was (R178). -/
def State.removeWg (s : State) (w : Nat) : State :=
  let s1 := match look s.wgs w with
    | some g => (s.freeMxe w).modTether g.launch g.tether (fun y =>
        { y with pads := modAt y.pads g.rank (fun _ => (g.core, (g.scratchBase, g.scratchBytes))) })
    | none => s
  { s1 with
    wgs := del s1.wgs w
    cur := match s1.cur with
      | some r => if ofWg r w then none else some r
      | none => none }

/-- The cores that have executed a part of a tether (R357). -/
def State.ranCores (s : State) (l t : Nat) : List Nat := ((look s.launches l).map (fun x => sget [] x.ran t)).getD []

/-- A tether of a launch. -/
def State.tether? (s : State) (l t : Nat) : Option Tether := (look s.launches l).bind (fun x => look x.tethers t)

/-- The counter that a chain of PARENTs from i reaches, up to a number of steps (R165). -/
def State.chain (s : State) (part ctx : Nat) : Nat → Nat → List Nat
  | 0, _ => []
  | n + 1, i => if noCounter ≤ i then [] else i :: s.chain part ctx n (s.ctr part ctx i).parent

/-- The chain of PARENTs from a counter meets another within a number of steps; a counter that is its own parent leads no further. -/
def State.meets (s : State) (part ctx j : Nat) : Nat → Nat → Bool
  | 0, _ => false
  | n + 1, i =>
    if noCounter ≤ i then false
    else i == j || (let p := (s.ctr part ctx i).parent; p != i && s.meets part ctx j n p)

/-- A counter's PARENT chain reaches another. -/
def State.chains (s : State) (part ctx i j : Nat) : Bool := s.meets part ctx j 4096 i

/-- Some part of the work a counter counts still runs: a tether of its own launch, or a launch or a cancelled counter below it. -/
def State.workRuns (s : State) (part ctx i : Nat) : Bool :=
  s.launches.any (fun p => !p.2.ended && p.2.part == part && p.2.ctx == ctx && s.chains part ctx p.2.ctrl i &&
    (p.2.ctrl != i || !p.2.tethers.isEmpty)) ||
  s.cancels.any (fun c => c.1 == part && c.2.1 == ctx && c.2.2 != i && s.chains part ctx c.2.2 i &&
    (s.ctr part ctx c.2.2).state == stPending)

/-- Counters being cancelled become CANCELLED once no part of their work runs (R150, R167). -/
def State.settleCancels : Nat → State → State
  | 0, s => s
  | n + 1, s =>
    let live := s.cancels.filter (fun c => (s.ctr c.1 c.2.1 c.2.2).state == stPending)
    match live.find? (fun c => !s.workRuns c.1 c.2.1 c.2.2) with
    | some c => State.settleCancels n ({ s with cancels := live.filter (· != c) }.finish c.1 c.2.1 c.2.2 stCancelled)
    | none => { s with cancels := live }

/-- A tether is over for its launch: a killed launch without a tether left becomes KILLED, a cancelled one CANCELLED, and a launch
whose counter is final leaves (R150). -/
def State.tetherGone (s : State) (l t : Nat) : State :=
  let s1 := s.modLaunch l (fun x => { x with tethers := del x.tethers t })
  match look s1.launches l with
  | none => s1
  | some x =>
    let s2 := if x.killed.isSome && !x.cancelled && x.tethers.isEmpty && !x.ended then s1.finish x.part x.ctx x.ctrl stKilled else s1
    ((State.settleCancels (s2.cancels.length + 1) s2).reap l).settleCtx x.part

/-- A tether ends (R146, R149): with the launch's last tether its estimation run is resolved (R322), then the tether signals the
launch counter. -/
def State.endTether (s : State) (l t : Nat) : State :=
  match look s.launches l, s.tether? l t with
  | some x, some _ =>
    let s1 := s.modLaunch l (fun x => { x with tethers := del x.tethers t })
    let last := ((look s1.launches l).map (fun x => x.spent && !x.cancelled && x.killed.isNone)).getD false
    let s2 := if last then s1.concludeRun l x s.clk.toNat else s1
    let s3 := s2.signal x.part x.ctx x.ctrl 1 stDone none (s2.ranCores l t)
    ((State.settleCancels (s3.cancels.length + 1) s3).reap l).settleCtx x.part
  | _, _ => s

/-- Every workgroup of a tether has ended. -/
def State.tetherEmpty (s : State) (t : Tether) : Bool := t.wgs.all (fun w => (look s.wgs w).isNone)

/-- After a workgroup has gone: with its tether's last one, the tether's staging commits and the tether ends; under a cancel the
staging is discarded (R167, R244, R245). -/
def State.afterWg (s : State) (l t : Nat) : State :=
  match look s.launches l, s.tether? l t with
  | some x, some y =>
    if !s.tetherEmpty y || y.dying.isSome then s
    else if x.cancelled && y.ended.isNone then s.tetherGone l t
    else if y.stage.isEmpty then s.endTether l t
    else
      let now := if s.isDet x then (s.part x.part).tick else s.clk.toNat
      let s1 := s.modTether l t (fun y => { y with ended := some now })
      if s.isDet x then s1 else s1.events (y.stage.map (fun _ => .twinCommit l t 0))
  | _, _ => s

/-- A workgroup ends (R146). -/
def State.endWg (s : State) (w : Nat) : State :=
  match look s.wgs w with
  | some g => ((s.removeWg w).afterWg g.launch g.tether).settleCtx g.part
  | none => s

/-- TWIN_COMMIT (R243, R244): one staging entry of an ended tether of the running context commits, after which a kill can no longer run the
tether anew without staging it twice (R245; log 33). The tether ends with its last entry, in deterministic mode once the commits of the
tick are done, by this event again (R403). -/
def execTwinCommit (launch tether idx : Nat) (s : State) : Out :=
  .next (match look s.launches launch, s.tether? launch tether with
  | some x, some y =>
    if y.dying.isSome ∨ (s.part x.part).cur ≠ some x.ctx then s
    else match y.ended, y.stage[idx]? with
    | some t, some (k, e) =>
      let core := y.cores.headD 0
      let early := s.isDet x && decide ((s.part x.part).tick < t + homeLat (dieOfCore core) (paDie k))
      if early || !s.dieUp (paDie k) then s
      else
        let s1 := (s.commit k e).modTether launch tether (fun y => { y with stage := del y.stage k, norelaunch := true })
        if !s.isDet x && ((s1.tether? launch tether).map (·.stage.isEmpty)).getD false then s1.endTether launch tether else s1
    | some _, none => if y.stage.isEmpty then s.endTether launch tether else s
    | none, _ => s
  | _, _ => s)

/-! ### Cancels (R167) -/

/-- A workgroup of cancelled work: a halted or switched-out one ends at once; another halts, its copies stopped (R278, R337). -/
def State.cancelWg (s : State) (w : Nat) : State :=
  match look s.wgs w with
  | none => s
  | some g =>
    let s1 := s.cancelCopies g.core (fun r => ofWg r w)
    if g.st = .halted ∨ g.st = .switchedOut then (s1.closeSections w).endWg w
    else (s1.modWg w (fun g => { g.halt with cancelled := true })).events [.haltDrainComplete w]

/-- A launch is cancelled: no further tether is placed, its run ends, its workgroups halt, their staging is discarded. -/
def State.cancelLaunch (s : State) (l : Nat) : State :=
  match look s.launches l with
  | none => s
  | some _ =>
    let s1 := (s.modLaunch l (fun x => { x with
      cancelled := true
      tethers := mapVals x.tethers (fun _ t => if t.ended.isSome then t else { t with stage := [] }) })).endRun l
    ((s.wgs.filter (fun p => p.2.launch == l && p.2.st != .killed)).map (·.1)).foldl State.cancelWg s1

/-- CANCEL of a counter (R167): it and every PENDING counter below it, with their launches. -/
def State.cancelCounter (s : State) (part ctx i : Nat) : State :=
  if noCounter ≤ i ∨ (s.ctr part ctx i).state ≠ stPending then s
  else
    let set := (List.range noCounter).filter (fun j => (s.ctr part ctx j).state == stPending && s.chains part ctx j i)
    let s1 := { s with cancels := s.cancels ++ (set.map (fun j => (part, (ctx, j)))).filter (fun c => !s.cancels.contains c) }
    let ls := (s.launches.filter (fun p => !p.2.ended && p.2.part == part && p.2.ctx == ctx && set.contains p.2.ctrl)).map (·.1)
    let s2 := ls.foldl State.cancelLaunch s1
    State.settleCancels (s2.cancels.length + 1) s2

/-! ### Kills (R245, R363, R364) -/

/-- The outcome of the kill being judged, the count including it: 0 relaunched, else why the launch is killed. -/
def Launch.killOutcome (l : Launch) (t : Nat) (y : Tether) : Nat :=
  if !bitAt (fieldAt l.record 0x10 8) 41 then 2
  else if y.norelaunch then 1
  else if 4 < l.killsOf t then 3 else 0

/-- A kill begins (R363): the tether's workgroups stop at once, their copies and tile operations stop, its staging is discarded,
its handles are freed by the count of its kills, and its unresolved positions go back; accesses that have not taken their place
still do, or fail at a home that is down. -/
def State.startKill (s : State) (l t reason : Nat) (fr : FlightRef) (out : Nat) : State :=
  match s.tether? l t with
  | none => s
  | some y =>
    if y.dying.isSome then s
    else
      let mine := fun (r : FlightRef) => y.wgs.any (ofWg r)
      let s1 := y.wgs.foldl (fun s w => match look s.wgs w with
        | some g => (((s.closeSections w).cancelCopies g.core (fun r => ofWg r w)).freeMxe w).modWg w (fun g =>
            { g with st := .killed, flights := g.flights.map (fun f => { (if f.stopped || f.ended then f else f.stopHere) with slot := none }) })
        | none => s) s
      let s2 := (s1.modLaunch l (fun x => { x with kills := put x.kills t (x.killsOf t + 1) })).modTether l t (fun y =>
        { y with stage := [], dying := some (reason, (fr, out)) })
      let s3 := s2.reissue l t mine
      let ending : Bool := match look s3.launches l with
        | some x => x.killOutcome t y != 0
        | none => false
      let s4 := if ending then s3.endRun l else s3
      { s4 with cur := match s4.cur with
          | some r => if mine r then none else some r
          | none => none }.events [.tetherKill l t reason]

/-- T stands still for a workgroup in deterministic mode because its context halts or is switched out: what it has outstanding cannot take
its place. -/
def State.tStands (s : State) (w : Nat) (g : Wg) : Bool :=
  s.det (.wg w 0) && ((s.part g.part).cur != some g.ctx || ((s.part g.part).ctx g.ctx).st == .halting)

/-- Every access of a dying tether has taken its place or failed; where T stands still for it, its accesses fail (R363; log 33). -/
def State.killDrained (s : State) (y : Tether) : Bool :=
  y.wgs.all (fun w => ((look s.wgs w).map (fun g => s.tStands w g || g.flights.all (fun f => f.accs.isEmpty))).getD true)

/-- The tether and place of a workgroup that has ended before its tether. -/
def State.endedWg (s : State) (w : Nat) : Option (Nat × (Nat × (Launch × Tether))) :=
  s.launches.findSome? (fun p => (p.2.tethers.find? (fun t => t.2.wgs.contains w)).map (fun t => (p.1, (t.1, (p.2, t.2)))))

/-- The entry of a kill (R364): of a flight whose workgroup has ended already it holds what still names it. -/
def State.killEntry (s : State) (r : FlightRef) (cause : Byte) (info : Dword) : List Byte :=
  match r with
  | .ctl _ _ => s.flightEntry r s.clk.toNat 3 0 cause info none
  | .wg w fl => match look s.wgs w, s.endedWg w with
    | none, some (_, t, l, y) =>
      let rank := y.wgs.findIdx (· == w)
      trapBytes 0 0 s.clk.toNat l.id (t * y.wgs.length + rank) fl (y.pads.getD rank (0, (0, 0))).1 0 3 0 cause info
    | _, _ => s.flightEntry r s.clk.toNat 3 0 cause info none

/-- CAUSE of a kill's entry (R364). -/
def killCause (reason : Nat) (named : Bool) : Byte := if reason = 1 then cUncorr else if reason = 3 ∧ named then cNpOverrun else 0

/-- A kill is judged (R363, R364): the entry, then the relaunch or the end of the launch and the kill of its other tethers. -/
def State.judgeKill (s : State) (l t : Nat) : State :=
  match look s.launches l, s.tether? l t with
  | some x, some y =>
    match y.dying with
    | none => s
    | some (reason, (fr, out0)) =>
      let own := x.killOutcome t y
      let out := if reason = 5 then out0 else if own = 0 then x.killed.getD 0 else own
      let named := (s.wgOf fr).isSome && out0 == 1 && reason == 3
      let entry := s.killEntry fr (killCause reason named) (BitVec.ofNat 64 (reason + 256 * out))
      let s1 := y.wgs.foldl State.removeWg (s.postTrap x.part x.ctx none entry)
      (if out = 0 then
        (s1.modLaunch l (fun x => { x with again := (put (x.again.map (fun t => (t, 0))) t 0).map (·.1) })).tetherGone l t
      else
        let s2 := (s1.modLaunch l (fun x => { x with killed := some (x.killed.getD out), again := [] })).endRun l
        let others := (x.tethers.filter (fun p => p.1 != t && p.2.dying.isNone)).map (fun p => (p.1, p.2.wgs.headD 0))
        (others.foldl (fun s p => s.startKill l p.1 5 (.wg p.2 0) out) s2).tetherGone l t).settleCtx x.part
  | _, _ => s

/-- The workgroups of a tether stand on a quad whose matrix engine is fenced (R303). -/
def State.onFenced (s : State) (y : Tether) : Bool :=
  y.wgs.any (fun w => ((look s.wgs w).map (fun g => (s.mxe (quadOfCore g.core)).fenced)).getD false)

/-- TETHER_KILL (R363): a kill in progress is judged once its accesses are done; a tether on a fenced engine is killed (R303). -/
def execTetherKill (launch tether reason : Nat) (s : State) : Out :=
  .next (match s.tether? launch tether with
  | none => s
  | some y =>
    if y.dying.isSome then (if s.killDrained y then s.judgeKill launch tether else s)
    else if reason = 4 && s.onFenced y then s.startKill launch tether 4 (.wg (y.wgs.headD 0) 0) 0
    else s)

end Sys2Proof.Machine
end

