-- ==== Sys2Proof/Machine/Halt.lean ====
section
/-! DEFINITION. Halts and resumes of workgroups, resolutions of traps, timers, the watchdog, the passing of time
(R333–R337, R342, R344–R346). -/

namespace Sys2Proof.Machine

/-! ### Resuming (R334, R337) -/

/-- The flight waits for something that does not execute its instruction again. -/
def Wait.keeps : Wait → Bool
  | .bar | .bart | .sort | .reply _ | .remote _ | .op | .far => true
  | _ => false

/-- The replay list is issued again: parts of an access that were refused are to be sent again (R333, R337). -/
def Acc.reissue (a : Acc) : Acc := { a with pieces := a.pieces.map (fun p => if p.done then p else { p with refused := 0 }) }

/-- A stopped flight continues from its stop point (R334): its clause is fetched again before it issues; one that waits at a rendezvous, for
a reply or for the outcome of an access goes on waiting first; a copy that was held for a slot is withdrawn and issues again (R278), its
hold counting anew (R277). A trap that is still pending is taken at the first clause boundary (R333). -/
def Flight.resume (f : Flight) : Flight :=
  if !f.stopped then f
  else
    let g := { f with stopped := false, cause := 0, sub := 0, kind := 0, info := 0, org := none, skid := 0, accs := f.accs.map Acc.reissue }
    if f.ended then g
    else if f.wait.keeps then { g with clause := none, ix := 0, wait := if f.wait = .op ∧ f.opDue.isNone then .ready else f.wait }
    else { g with clause := none, ix := 0, opDue := none, opBuf := none, known := [], copyHeld := none, wait := match f.wait with
      | .counts | .drain | .copySlot _ | .shadow _ => .ready
      | w => w }

/-- A workgroup runs again (R337). -/
def Wg.resume (g : Wg) : Wg :=
  { g with
    st := .running
    trapped := false
    firstFlt := 0xFF
    firstAt := 0
    entryOwed := false
    entryAt := none
    resolve := none
    replay := []
    flights := g.flights.map Flight.resume }

/-- The trapping flight passes its instruction as if it had retired with no effect (R337). One that stopped at the fetch of its clause
passes the instruction of its stop point. Where an access that had issued has met HOME_DOWN, that access is dropped instead: its
instruction is past already (log 33). -/
def Flight.skip (det : Bool) (f : Flight) : Flight :=
  let g := { f with stopped := true, opFlags := 0 }.released det
  if f.homeParked then (f.accs.filter (fun a => a.pieces.any Piece.down)).foldl Flight.dropAcc f
  else if f.clause.isSome then g
  else { g with ix := f.ix, stopPc := f.stopPc, stopIx := f.stopIx + 1, sg := if f.sg = 0 then ((f.pick.map (·.2)).getD 0) else f.sg }

/-! ### Halting (R333, R342) -/

/-- A workgroup has a reason to halt beside its own traps: its context is being switched out by mode H, its work is cancelled,
or its matrix engine is fenced. -/
def State.mustHalt (s : State) (g : Wg) : Bool :=
  g.cancelled || ((s.part g.part).ctx g.ctx).st == .halting || (s.mxe (quadOfCore g.core)).fenced

/-- WORKGROUP_HALT (R333): the workgroup's flights stop, each at once or at its next clause boundary. -/
def execWorkgroupHalt (wg : Nat) (s : State) : Out :=
  .next (match look s.wgs wg with
  | none => s
  | some g => if g.st = .running ∧ s.mustHalt g then (s.modWg wg Wg.halt).events [.haltDrainComplete wg] else s)

/-- The homes of an access's parts that have not taken place are all down, or have refused them: it goes onto the replay list
(R333). -/
def State.refused (s : State) (a : Acc) : Bool :=
  a.pieces.all (fun p => p.done || (if p.dev.isSome then decide (4 ≤ p.refused) && !p.sent else p.keys.any (fun k => !s.keyUp k)))

/-- A flight has stopped and its operations have drained, its workgroup's tile operations apart (R333). -/
def State.flightDrained (s : State) (f : Flight) : Bool :=
  (f.stopped || f.ended) && f.nCopies == 0 && f.nEst == 0 && f.accs.all s.refused

/-- A workgroup's tile operations have drained, but for those that a fenced engine grants no more: they move with its tiles (R303). -/
def State.tilesDrained (s : State) (w : Nat) (g : Wg) : Bool :=
  let m := s.mxe (quadOfCore g.core)
  decide (g.flights.foldl (fun n f => n + f.nTiles) 0 ≤
    if m.fenced then (m.entries.filter (fun p => ofWg p.2.owner w && !p.2.granted)).length else 0)

/-- Everything that a halting workgroup waits for has drained. -/
def State.drained (s : State) (w : Nat) (g : Wg) : Bool := g.flights.all s.flightDrained && s.tilesDrained w g

/-- Accesses of a workgroup that wait for their homes. -/
def Wg.replays (g : Wg) : List (Nat × Nat) :=
  (List.range g.flights.length).flatMap (fun k => ((g.flights[k]?).getD default).accs.map (fun a => (k, a.id)))

/-- Operations of a workgroup that its engines hold: copies, tile operations, operations of the estimator (R368). -/
def State.engineOps (s : State) (w : Nat) (g : Wg) : List (Nat × Nat) :=
  (((s.core g.core).copies.filter (fun p => ofWg p.2.owner w)).map (·.1) ++
    ((s.mxe (quadOfCore g.core)).entries.filter (fun p => ofWg p.2.owner w)).map (·.1) ++
    (s.estQ.filter (fun p => ofWg p.2.owner w)).map (·.1)).map (fun k => (0, k))

/-- The workgroup is halted (R333 step 5): its trap queue entry is written if it trapped; cancelled work ends (R167). -/
def State.halted (s : State) (w : Nat) (g : Wg) : State :=
  if g.cancelled then ((s.closeSections w).cancelCopies g.core (fun r => ofWg r w)).endWg w
  else
    let s1 := s.modWg w (fun g => { g with st := .halted, entryOwed := false, replay := g.replays })
    let s2 := if g.entryOwed then s1.haltEntry (.wg w g.firstFlt.toNat) else s1
    s2.settleCtx g.part

/-- HALT_DRAIN_COMPLETE (R333). -/
def execHaltDrainComplete (wg : Nat) (s : State) : Out :=
  .next (match look s.wgs wg with
  | none => s
  | some g =>
    if g.st ≠ .halting then s
    else
      let s1 := if g.cancelled then s.cancelCopies g.core (fun r => ofWg r wg) else s
      match look s1.wgs wg with
      | some h => if s1.drained wg h then s1.halted wg h else s1
      | none => s1)

/-! ### Debugger (R335, R337) -/

/-- A workgroup in deterministic mode stops where it stands, SKID 0 (R368). -/
def Wg.freeze (g : Wg) : Wg :=
  { g with
    flights := g.flights.map (fun f => if f.stopped || f.ended then f else { f.stopHere with skid := 0 }) }

/-- DEBUG_HALT (R335): a debugger takes a workgroup; its flights stop as in a halt, and no trap queue entry is written. In
deterministic mode they stop at the end of the tick, and T stops with them; what is outstanding is on the replay list (R368). -/
def execDebugHalt (wg : Nat) (s : State) : Out :=
  .next (match look s.wgs wg with
  | none => s
  | some g =>
    if g.dbg ∨ g.st = .killed ∨ g.st = .switchedOut then s
    else if s.det (.wg wg 0) then
      if s.inTick g.part then s.afterTick g.part (.event (.debugHalt wg)) else s.modWg wg (fun g =>
        { g.freeze with dbg := true, replay := g.replays ++ s.engineOps wg g })
    else s.modWg wg (fun g => { g with dbg := true, flights := g.halt.flights }))

/-- A workgroup without a reason to stand goes on. -/
def State.goOn (s : State) (w : Nat) : State :=
  match look s.wgs w with
  | none => s
  | some g =>
    if g.dbg ∨ g.trapped ∨ g.st = .switchedOut ∨ g.st = .killed ∨ s.mustHalt g then s else (s.modWg w Wg.resume).sendPart g.part

/-- Carries out a resolution: 0 RESUME, 1 SKIP, 2 KILL (R337). -/
def State.resolveTrap (s : State) (w action : Nat) : State :=
  match look s.wgs w with
  | none => s
  | some g =>
    let fl := g.firstFlt.toNat
    if action = 2 then s.startKill g.launch g.tether 2 (.wg w fl) 0
    else
      let g1 := if action = 1 then { g with flights := modAt g.flights fl (Flight.skip (s.det (.wg w fl))) } else g
      (s.modWg w (fun _ => { g1 with trapped := false, entryAt := none, firstFlt := 0xFF, firstAt := 0, resolve := none })).goOn w

/-- A halted control program is resolved (R169, R337); KILL ends it, with its command's entry. -/
def State.resolveCtl (s : State) (die part action : Nat) : State :=
  s.modPart part (fun p => { p with ctls := alter p.ctls die (fun c =>
    { c with halted := false, entryAt := none, flight := (if action = 1 then c.flight.skip false else c.flight).resume }) })

/-- DEBUGGER_RELEASE (R337): the debugger lets the workgroup go; a resolution given meanwhile acts. -/
def execDebuggerRelease (wg : Nat) (s : State) : Out :=
  .next (match look s.wgs wg with
  | none => s
  | some g =>
    if !g.dbg then s
    else
      let s1 := s.modWg wg (fun g => { g with dbg := false })
      match g.resolve with
      | some a => s1.resolveTrap wg a
      | none => s1.goOn wg)

/-! ### Mode F and the watchdog (R342, R345) -/

/-- FORCING (R342): every resident tether of a context is killed, also one that has still to commit its staging (R247); the entry of one
tether names the flight that overran. -/
def State.forceOut (s : State) (part ctx : Nat) (overrun : Option FlightRef) : State :=
  let s1 := s.modCtx part ctx (fun c => { c with st := .forcing })
  let ts := (s1.launches.filter (fun p => p.2.part == part && p.2.ctx == ctx)).flatMap (fun p =>
    p.2.tethers.map (fun t => (p.1, (t.1, t.2.wgs))))
  let s2 := ts.foldl (fun s x =>
    let wgs := x.2.2.filter (fun w => (look s.wgs w).isSome)
    match overrun with
    | some r => if wgs.any (ofWg r) then s.startKill x.1 x.2.1 3 r 1 else s.startKill x.1 x.2.1 3 (.wg (x.2.2.headD 0) 0) 0
    | none => s.startKill x.1 x.2.1 3 (.wg (x.2.2.headD 0) 0) 0) s1
  s2.settleCtx part

/-- NP_WATCHDOG (R345): a section at four times its budget forces mode F on its context. -/
def execNpWatchdog (r : FlightRef) (s : State) : Out :=
  .next (match s.flight? r with
  | none => s
  | some f =>
    if f.npOpen && decide (4 * s.npBudget r ≤ f.npClk.toNat) then
      let k := s.partOf r
      let c := s.ctxOf r
      (s.modPart k (fun p => { p with switch := some ⟨2, (p.nextOn c).or (some c), false, 0⟩ })).forceOut k c (some r)
    else s)

/-! ### Timers and time (R344, R346; log 13) -/

/-- TIMER_EXPIRY (R346): a timer that has counted down disarms itself, and its trap is pending. -/
def execTimerExpiry (r : FlightRef) (s : State) : Out :=
  .next (match s.flight? r with
  | none => s
  | some f =>
    if f.timerOn && f.timerRem == 0 then
      let s1 := s.setFlight r { f with timerOn := false, tpend := true }
      if f.clause.isNone && s1.live r f then s1.events [.clauseFetch r] else s1
    else s)

/-- A resident flight's clocks after some cycles: WTIME, its timer and an open section's budget clock (R344, R345). -/
def Flight.age (f : Flight) (cycles : Nat) (det : Bool) : Flight :=
  if f.ended then f
  else { f with
    wtime := f.wtime + BitVec.ofNat 64 cycles
    timerRem := if f.timerOn && !det then BitVec.ofNat 32 (f.timerRem.toNat - cycles) else f.timerRem
    npClk := if f.npOpen && !det then f.npClk + BitVec.ofNat 64 cycles else f.npClk }

/-- Device time passes, in ns (R382): CLK, and the clocks of the flights of running contexts. -/
def State.pass (s : State) (ns : Nat) : State :=
  let cycles := (s.mcyc + ns * s.mhz) / 1000 - s.cyc
  { s with
    clk := s.clk + BitVec.ofNat 64 ns
    mcyc := s.mcyc + ns * s.mhz
    wgs := mapVals s.wgs (fun w g => if g.st = .switchedOut then g else
      let det := s.det (.wg w 0)
      { g with flights := g.flights.map (fun f => f.age cycles det) })
    parts := s.parts.map (fun p => { p with ctls := mapVals p.ctls (fun _ c => { c with flight := c.flight.age cycles false }) }) }

end Sys2Proof.Machine
end

