-- ==== Sys2Proof/Machine/Launch.lean ====
section
/-! DEFINITION. Acceptance of launches, LAUNCH, CANCEL, CSIG, placement, the end of flights, migration
(R146, R152–R157, R165–R169, R172, R303, R311). -/

namespace Sys2Proof.Machine

/-! ### Records (R151, R153) -/

/-- Fields of a launch record that placement reads. -/
def Launch.flights (l : Launch) : Nat := recBits l.record 0x08 39 32
def Launch.width (l : Launch) : Nat := recBits l.record 0x08 47 40
def Launch.vrows (l : Launch) : Nat := recBits l.record 0x08 53 48
def Launch.prio (l : Launch) : Nat := recBits l.record 0x08 55 54
def Launch.scratch (l : Launch) : Nat := recBits l.record 0x10 31 0
def Launch.estimates (l : Launch) : Bool := bitAt (fieldAt l.record 0x10 8) 42

/-- The fields lie in their stated ranges (R151). -/
def recordInRange (r : List Byte) : Bool :=
  let entry := fieldAt r 0 8
  let wgs := recBits r 0x08 31 0
  let fls := recBits r 0x08 39 32
  let tether := recBits r 0x08 47 40
  let rows := recBits r 0x08 53 48
  let scratch := recBits r 0x10 31 0
  entry % 8 == 0 && decide (entry < 2 ^ 56) && wgs != 0 && decide (1 ≤ fls) && decide (fls ≤ 32) && decide (1 ≤ tether) &&
    decide (tether ≤ 64) && wgs % tether == 0 && decide (wgs * fls * 32 ≤ 2 ^ 32) && decide (1 ≤ rows) && decide (rows ≤ 32) &&
    decide (scratch ≤ 524288) && scratch % 256 == 0 && decide (recBits r 0x10 36 32 < fls) && recBits r 0x50 11 0 != noCounter &&
    fieldAt r 0x78 8 % 4096 == 0 && fieldAt r 0x80 8 % 64 == 0

/-- The reserved bits of a record: offset of the word and bits h..l (R151). -/
def reservedFields : List (Nat × (Nat × Nat)) :=
  [(0x08, (63, 56)), (0x10, (39, 37)), (0x10, (63, 44)), (0x20, (63, 41)), (0x30, (31, 17)), (0x38, (63, 32)), (0x40, (63, 40)),
   (0x48, (63, 40)), (0x50, (15, 12)), (0x50, (63, 28)), (0x58, (15, 12)), (0x58, (31, 28)), (0x58, (63, 34)), (0x60, (63, 32)),
   (0x70, (63, 32))]

/-- Every reserved bit is zero. -/
def reservedZero (r : List Byte) : Bool :=
  reservedFields.all (fun p => recBits r p.1 p.2.1 p.2.2 == 0) && (r.drop 0xB0).all (· == 0)

/-- The deck fields are zero. -/
def deckZero (r : List Byte) : Bool :=
  fieldAt r 0x20 8 == 0 && fieldAt r 0x28 8 == 0 && fieldAt r 0x30 8 == 0 && fieldAt r 0x38 8 == 0 && fieldAt r 0x40 8 == 0 &&
    fieldAt r 0x48 8 == 0

/-- The deck fields are valid, and an estimating launch's partition owns the estimator (R311, R312). Of a launch without ESTIMATE they are
valid only where they are zero: the spec calls them zero there and does not say which reason a nonzero one gives (log 33). -/
def State.deckFine (s : State) (part : Nat) (r : List Byte) : Bool :=
  if bitAt (fieldAt r 0x10 8) 42 then (s.part part).desc.ctl.getLsbD 1 && (deckOf r).ok else deckZero r

/-- Cores that a partition owns and that can hold work (R347, R358). -/
def State.ownsCore (s : State) (part c : Nat) : Bool :=
  (s.part part).desc.quads.getLsbD (quadOfCore c) && s.image.cores.getLsbD c && !(s.core c).fenced

/-- The cores of a board that a partition owns, by its ownership bitmap alone, ascending (R156, R347). -/
def State.ownedCores (s : State) (part b : Nat) : List Nat :=
  ((List.range 64).map (fun i => b * 64 + i)).filter (fun c => (s.part part).desc.quads.getLsbD (quadOfCore c))

/-- The owned cores of a board that can hold work, ascending. -/
def State.boardCores (s : State) (part b : Nat) : List Nat := ((List.range 64).map (fun i => b * 64 + i)).filter (s.ownsCore part)

/-- The reason for which a record is rejected, if any, the lowest that applies (R153); the record and its argument block are none
where they cannot be read. -/
def State.launchReason (s : State) (part ctx : Nat) (record args : Option (List Byte)) : Option Nat :=
  match record with
  | none => some 6
  | some r =>
    let tether := recBits r 0x08 47 40
    if !recordInRange r then some 1
    else if !reservedZero r then some 2
    else if 512 < recBits r 0x08 39 32 * recBits r 0x08 53 48 then some 3
    else if (List.range 8).all (fun b => decide ((s.ownedCores part b).length < tether)) then some 4
    else if (s.ctr part ctx (recBits r 0x50 11 0)).state = stPending then some 5
    else if args.isNone then some 6
    else if !s.deckFine part r then some 7 else none

/-! ### Acceptance (R152, R365) -/

/-- The run log's eleven records of an accepted launch. -/
def launchRecs (origin q : Nat) (seq lid : Word) (record args : List Byte) (clk : Nat) : List (List Byte) :=
  let body := record ++ args
  logRec 1 origin q lid.toNat (fieldAt record 0x18 8) (if origin = 0 then seq.toNat else 0) clk ::
    (List.range 10).map (fun i => slice body (32 * i) 32)

/-- An accepted launch is given its LAUNCHID, armed and logged (R152). -/
def State.takeLaunch (s : State) (part ctx q : Nat) (seq : Word) (origin : Nat) (r a : List Byte) : State × Word :=
  let lid := (s.part part).nextLaunch
  let next : Word := if lid + 1 = 0 then 1 else lid + 1
  let (k, s1) := (s.modPart part (fun p => { p with nextLaunch := next })).fresh
  let l : Launch := ⟨lid, part, ctx, q, seq, origin, r, a, 0, [], [], [], false, none, false, [], []⟩
  let s2 : State := { s1 with launches := put s1.launches k l }
  let s3 := s2.arm part ctx l.ctrl (l.tetherCount + recBits r 0x60 31 0) (recBits r 0x50 27 16) 0
  let s4 := s3.logAppend part ctx (launchRecs origin (q % 16) seq lid r a s.clk.toNat)
  (if s4.dep l = Dep.never then s4.events [.tetherPlace k []] else s4, lid)

/-- A rejected launch: its completion entry alone (R153). -/
def State.rejectLaunch (s : State) (part q : Nat) (seq : Word) (origin reason : Nat) : State :=
  s.owe part { queue := q, seq, lid := 0, kind := 1, code := 0, reason, origin, part := 0, state := stFailed, ctr := none }

/-- A launch enters a partition: it is accepted or rejected (R152, R153). Queue 16 is the PF's. -/
def State.acceptLaunch (s : State) (part ctx q : Nat) (seq : Word) (origin va : Nat) : State × Word :=
  let record : Option (List Byte) := if va % 256 = 0 then s.readVa part ctx va 256 else none
  let args : Option (List Byte) := record.bind (fun r => s.readVa part ctx (fieldAt r 0x80 8) 64)
  match s.launchReason part ctx record args with
  | some reason => (s.rejectLaunch part q seq origin reason, 0)
  | none => s.takeLaunch part ctx q seq origin (record.getD []) (args.getD [])

/-- A launch queue takes nothing more: its ring is full or disabled, its completion ring is full (R375, R376), or the run log has no
room for the launch (R365). LAUNCH then returns 0, as for any full queue: the spec does not say that it waits for the log (log 33). -/
def State.queueFull (s : State) (part ctx q : Nat) : Bool :=
  let p := s.part part
  p.vfOff != 0 || (p.rings.getD q Ring.off).full || (p.rings.getD (16 + q) Ring.off).full || s.logFull part ctx 11

/-! ### LAUNCH, CANCEL, CSIG (R165–R168) -/

/-- How LAUNCH's reads of the record and its argument block wait or stop, though they are mapped: at a home that is down or out, at a lost
sector (R360, R381). -/
def State.recordStop (s : State) (part ctx va : Nat) : Option MemStop :=
  (s.pathStop part ctx va 256 false).or ((s.readVa part ctx va 256).bind (fun r => s.pathStop part ctx (fieldAt r 0x80 8) 64 false))

/-- LAUNCH (R166): its reads are events of the lowest acting thread (R225), in deterministic mode at the class of the record (log 33). -/
def execLaunch (o : EFmt) (s : State) : Out :=
  pathOp o.g (fun s r f => s.vaClass r (f.s64 o.p.toNat).toNat) (fun r f =>
    let w := fun (i : Nat) => f.s (o.p.toNat + i)
    let part := s.partOf r
    let ctx := s.ctxOf r
    let va := (f.s64 o.p.toNat).toNat
    let q := (w 2).toNat
    if w 3 ≠ 0 then s.fault r cIllegalOp 2 0
    else if va % 256 ≠ 0 ∨ 16 ≤ q ∨ s.queueFull part ctx q then s.retire r (f.setS o.d.toNat 0)
    else match s.recordStop part ctx va with
      | some e => s.memStop r 1 e
      | none =>
        let seq := (s.part part).seqs.getD q 0
        let s1 := s.modPart part (fun p => { p with seqs := modAt p.seqs q (· + 1) })
        let (s2, lid) := s1.acceptLaunch part ctx q seq 1 va
        s2.retire r (f.setS o.d.toNat lid)) s

/-- The counter that PARENT reaches from a flight's launch counter in a number of steps; none where the chain ends first (R165). -/
def State.levelCounter (s : State) (r : FlightRef) (level : Nat) : Option Nat :=
  match s.launchOf r with
  | none => none
  | some l => (s.chain l.part l.ctx (level + 1) l.ctrl)[level]?

/-- A cancel of a counter, by index, with its earlier state in D. -/
def State.cancelBy (s : State) (r : FlightRef) (f : Flight) (d : Nat) (i : Option Nat) : State :=
  match i with
  | none => s.retire r (f.setS d 0xFFFFFFFF)
  | some i =>
    let part := s.partOf r
    let ctx := s.ctxOf r
    (s.retire r (f.setS d (BitVec.ofNat 32 (s.ctr part ctx i).state))).cancelCounter part ctx i

/-- CANCEL by level (R167). -/
def execCancel (o : EFmt) (s : State) : Out :=
  onceWith o.g (fun r f => s.cancelBy r f o.d.toNat (s.levelCounter r (bits o.imm.toNat 1 0))) s

/-- The counter index in an s register; none for "no counter", for which the forms that take an index write 0xFFFF_FFFF: the spec gives no
value for it (log 33). -/
def Flight.counter (f : Flight) (r : Nat) : Option Nat :=
  let i := bits (f.s r).toNat 11 0
  if i = noCounter then none else some i

/-- CANCEL by index, in a control program (R167). -/
def execCancelIdx (o : EFmt) (s : State) : Out :=
  controlOnly s (fun r f =>
    if f.actsOnce o.g then s.cancelBy r f o.d.toNat (f.counter o.h.toNat) else s.retire r f)

/-- The cores a signal of an instruction waits for: those that executed its tether, the issuing one among them (R168, R357). A control
program has no core, and its signals are confirmed at once: the spec names none to wait for (log 33). -/
def State.signalCores (s : State) (r : FlightRef) : List Nat :=
  match r, s.tetherOf r with
  | .wg _ _, some (l, t, _) =>
    let cs := s.ranCores l t
    if cs.contains (s.coreOf r) then cs else cs ++ [s.coreOf r]
  | .wg _ _, none => [s.coreOf r]
  | .ctl _ _, _ => []

/-- The latency class of a counter's update, an event of the thread that signals it (R173, R403; log 33). -/
def State.ctrClass (s : State) (r : FlightRef) (i : Option Nat) : Nat :=
  match i with
  | some i => homeLat (s.dieOf r) (paDie (s.ctrKey (s.partOf r) (s.ctxOf r) i))
  | none => 0

/-- CSIG's addition to a counter; D takes DONECNT after it (R168). -/
def State.csigBy (s : State) (r : FlightRef) (f : Flight) (d x : Nat) (i : Option Nat) : State :=
  match i with
  | none => s.retire r (f.setS d 0xFFFFFFFF)
  | some i =>
    let part := s.partOf r
    let ctx := s.ctxOf r
    let n := (f.s x).toNat
    let s1 := if n = 0 then s else s.signal part ctx i n stDone none (s.signalCores r)
    s1.retire r (f.setS d (BitVec.ofNat 32 (s1.ctr part ctx i).done))

/-- CSIG by level (R168). -/
def execCsig (o : EFmt) (s : State) : Out :=
  pathOp o.g (fun s r _ => s.ctrClass r (s.levelCounter r (bits o.imm.toNat 1 0))) (fun r f => s.csigBy r f o.d.toNat o.x.toNat (s.levelCounter r (bits o.imm.toNat 1 0))) s

/-- A form of CSIG of a control program: it waits for the earlier accesses of the thread whose event it is (R225, R233). -/
def controlSig (g : BitVec 4) (body : FlightRef → Flight → State) (s : State) : Out :=
  controlOnly s (fun r f =>
    if !f.actsOnce g then s.retire r f else if s.threadClear r (f.lowTid g) s.uid then body r f else s.stall r .drain)

/-- CSIG by index, in a control program (R168). -/
def execCsigIdx (o : EFmt) (s : State) : Out :=
  controlSig o.g (fun r f => s.csigBy r f o.d.toNat o.x.toNat (f.counter o.h.toNat)) s

/-- CSIG arm, in a control program (R168). -/
def execCsigArm (o : EFmt) (s : State) : Out :=
  controlSig o.g (fun r f =>
    let part := s.partOf r
    let ctx := s.ctxOf r
    let y := (f.s (o.x.toNat + 1)).toNat
    match f.counter o.h.toNat with
    | none => s.retire r (f.setS o.d.toNat 0xFFFFFFFF)
    | some i =>
      if (s.ctr part ctx i).state = stPending then s.retire r (f.setS o.d.toNat 0xFFFFFFFF)
      else (s.arm part ctx i (f.s o.x.toNat).toNat (bits y 11 0) (bits y 17 16)).retire r (f.setS o.d.toNat 0)) s

/-! ### Fit (R155, R172, R178) -/

/-- Workgroups that take a core's places: the resident ones. -/
def State.onCore (s : State) (c : Nat) : List (Nat × Wg) := s.wgs.filter (fun p => p.2.core == c && p.2.st != .switchedOut)

/-- Private regions that a partition's flights hold on a die, from admission to their end, while switched out too (R177). -/
def State.poolUsed (s : State) (part die : Nat) : Nat :=
  (s.wgs.filter (fun p => p.2.part == part && dieOfCore p.2.core == die)).foldl (fun n p =>
    n + (p.2.flights.filter (fun f => !f.ended)).length) 0

/-- A workgroup of some flights, rows per flight and scratchpad bytes fits a core (R155). -/
def State.fits (s : State) (c flights rows scratch : Nat) : Bool :=
  let gs := (s.onCore c).map (·.2)
  let sum := fun (h : Wg → Nat) => gs.foldl (fun n g => n + h g) 0
  !(s.core c).fenced && !(s.core c).closed && !(s.core c).scanning &&
    decide (sum (fun g => (g.flights.filter (fun f => !f.ended)).length) + flights ≤ 64) &&
    decide (sum (·.rows) + flights * rows ≤ 512) && decide (sum (·.scratchBytes) + scratch ≤ 524288)

/-- The tether that a launch places next, with the lowest index. -/
def Launch.nextTether (l : Launch) : Option Nat :=
  match l.again with
  | t :: _ => some t
  | [] => if l.next < l.tetherCount then some l.next else none

/-- The fixed cores of a tether in deterministic mode, which depend on its record and the ownership bitmaps alone (R156). -/
def State.fixedCores (s : State) (part tether width : Nat) : List Nat :=
  let bs := (List.range 8).filter (fun b => decide (width ≤ (s.ownedCores part b).length))
  let nb := max bs.length 1
  let cs := s.ownedCores part (bs.getD (tether % nb) 0)
  let c := max cs.length 1
  (List.range width).map (fun k => cs.getD ((tether / nb * width + k) % c) 0)

/-- The clearance token that a launch asks for is recorded (R355); without a token buffer its flights trap instead (R346). -/
def State.tokenReady (s : State) (l : Launch) : Bool :=
  !bitAt (fieldAt l.record 0x10 8) 43 || ((s.part l.part).ctx l.ctx).desc.tokbuf == 0 || s.hasToken l.part (recNonce l.record)

/-- A launch may place tethers: its context runs, it is neither cancelled nor killed, its token is recorded, and its dependences allow
(R154, R355). -/
def State.placing (s : State) (l : Launch) : Bool :=
  let p := s.part l.part
  s.tokenReady l && !l.cancelled && l.killed.isNone && p.cur == some l.ctx && (p.ctx l.ctx).st == .running && l.nextTether.isSome &&
    (l.next != 0 || s.dep l == .go)

/-- The launch needs a run slot for its next tether and has none: it estimates, and its counter is still PENDING (R311). -/
def State.wantsRun (s : State) (key : Nat) (l : Launch) : Bool := l.estimates && !l.ended && (s.runOf key).isNone

/-- One launch comes before another: higher PRIO, or the same and accepted earlier (R156). -/
def Launch.before (key : Nat) (l : Launch) (key' : Nat) (l' : Launch) : Bool :=
  key != key' && (decide (l'.prio < l.prio) || (l.prio == l'.prio && decide (key < key')))

/-- The estimator has a slot for the launch: free ones go to the waiting launches in the order of PRIO and acceptance, whether or not there
is room for those (R311). -/
def State.slotFor (s : State) (key : Nat) (l : Launch) : Bool :=
  let used := (s.runs.filter (fun p => match look s.launches p.2.launch with
    | some x => x.part == l.part && x.ctx == l.ctx
    | none => false)).length
  let ahead := (s.launches.filter (fun p => p.2.part == l.part && s.placing p.2 && s.wantsRun p.1 p.2 && p.2.before p.1 key l)).length
  !s.wantsRun key l || decide (used + ahead < 8)

/-- Workgroups of a quad all belong to launches of one timing model (R172). -/
def State.quadModel (s : State) (q : Nat) (det : Bool) : Bool :=
  s.wgs.all (fun p => quadOfCore p.2.core != q || p.2.st == .switchedOut || s.det (.wg p.1 0) == det)

/-- A launch in deterministic mode waits for the quad (R172). -/
def State.quadWanted (s : State) (part q : Nat) : Bool :=
  s.launches.any (fun p => p.2.part == part && s.isDet p.2 && s.placing p.2 &&
    ((s.fixedCores part (p.2.nextTether.getD 0) p.2.width).map quadOfCore).contains q)

/-- A core can take a workgroup of the launch; the pool of its die has a private region for each flight of a tether (R177). -/
def State.takes (s : State) (l : Launch) (c : Nat) : Bool :=
  let det := s.isDet l
  decide (s.poolUsed l.part (dieOfCore c) + l.width * l.flights ≤ s.image.pool) &&
  s.ownsCore l.part c && s.dieUp (dieOfCore c) && s.fits c l.flights l.vrows l.scratch && s.quadModel (quadOfCore c) det &&
    (det || !s.quadWanted l.part (quadOfCore c))

/-- There is room for the launch's next tether (R156). -/
def State.hasRoom (s : State) (l : Launch) : Bool :=
  if s.isDet l then (s.fixedCores l.part (l.nextTether.getD 0) l.width).all (s.takes l)
  else (List.range 8).any (fun b => decide (l.width ≤ ((s.boardCores l.part b).filter (s.takes l)).length))

/-- A ready launch that is served before another (R156). -/
def State.servedFirst (s : State) (key : Nat) (l : Launch) : Bool :=
  s.launches.any (fun p => p.2.part == l.part && p.2.before p.1 key l && s.placing p.2 && s.slotFor p.1 p.2 && s.hasRoom p.2)

/-! ### Admission (R22, R155, R158) -/

/-- The dispatcher with the fewest resident flights, the lowest index among equals (R155). -/
def leastLoaded (n : List Nat) : Nat :=
  (List.range 4).foldl (fun b i => if n.getD i 0 < n.getD b 0 then i else b) 0

/-- Flights of a core's dispatchers. -/
def State.loads (s : State) (c : Nat) : List Nat :=
  (List.range 4).map (fun d => ((s.onCore c).flatMap (fun p => p.2.flights)).filter (fun f => f.disp == d && !f.ended) |>.length)

/-- Dispatchers of a workgroup's flights, in order. -/
def placeFlights : Nat → List Nat → List Nat
  | 0, _ => []
  | n + 1, loads => let d := leastLoaded loads; d :: placeFlights n (modAt loads d (· + 1))

/-- The lowest base at which bytes are free among taken ranges, which stand in no order. -/
def holeAt (taken : List (Nat × Nat)) (n : Nat) : Nat → Nat → Nat
  | 0, b => b
  | fuel + 1, b => match taken.find? (fun p => decide (p.1 < b + n) && decide (b < p.1 + p.2)) with
    | some p => holeAt taken n fuel (p.1 + p.2)
    | none => b

/-- Scratchpad ranges held on a core, by workgroups of LAZY contexts too. -/
def State.heldScratch (s : State) (c : Nat) : List (Nat × Nat) :=
  (s.wgs.filter (fun p => p.2.core == c && p.2.away.scratch.isNone)).map (fun p => (p.2.scratchBase, p.2.scratchBytes))

/-- The base of a workgroup's scratchpad bytes on a core. -/
def State.scratchHole (s : State) (c n : Nat) : Nat :=
  let taken := s.heldScratch c
  holeAt taken n (taken.length + 1) 0

/-- An offset lies in one of some ranges. -/
def inRanges (rs : List (Nat × Nat)) (x : Nat) : Bool := rs.any (fun p => decide (p.1 ≤ x) && decide (x < p.1 + p.2))

/-- The bytes an admitted workgroup finds in its scratchpad: each is zero or one that an earlier workgroup left on the core, a free
choice (R155; log 16). -/
def State.foundBytes (s : State) (c base n : Nat) : State :=
  let held := s.heldScratch c
  let pick := fun (i : Nat) =>
    let x := Config.freeNat (s.free + i) % 2 ^ 19
    if Config.freeBool (s.free + i) || inRanges held x then 0 else readByte s.mem (spKey c x)
  { s.dropSpools (fun k => decide (spKey c base ≤ k) && decide (k < spKey c base + n)) with
    mem := writeKeys s.mem ((List.range n).map (fun i => (spKey c (base + i), pick i)))
    free := s.free + n }

/-- WORKGROUP_ADMIT (R155): a workgroup of a tether on a core. -/
def State.enterWg (s : State) (key tether rank : Nat) (l : Launch) (c : Nat) : State × Nat :=
  let s := s.claimCore c (l.flights * l.vrows) l.scratch
  let wgid := tether * l.width + rank
  let s015 := (List.range 16).map (fun i => BitVec.ofNat 32 (fieldAt l.args (4 * i) 4))
  let disps := placeFlights l.flights (s.loads c)
  let flight := fun (i : Nat) =>
    { Flight.fresh l.vrows (BitVec.ofNat 64 (fieldAt l.record 0 8)) s015
        ((List.range 32).map (fun k => BitVec.ofNat 32 ((wgid * l.flights + i) * 32 + k))) with
      disp := disps.getD i 0 }
  let base := s.scratchHole c l.scratch
  let (w, s1) := (s.foundBytes c base l.scratch).fresh
  let g : Wg := {
    launch := key, part := l.part, ctx := l.ctx, wgid, tether, rank, core := c
    flights := (List.range l.flights).map flight
    acc := List.replicate 8 none
    barK := 0, bartK := 0, sortK := 0, barArr := 0, bartArr := 0, sortArr := 0, sortIn := []
    st := .running, dbg := false, trapped := false, firstFlt := 0xFF, firstAt := 0
    entryOwed := false, entryAt := none, resolve := none, cancelled := false, replay := []
    scratchBase := base, scratchBytes := l.scratch, rows := l.flights * l.vrows, rowAt := s.freeRows c (l.flights * l.vrows), age := w, away := Away.none }
  ({ s1 with wgs := put s1.wgs w g }, w)

/-- Admits a whole tether (R156). -/
def State.placeTether (s : State) (key : Nat) (l : Launch) (t : Nat) (cores : List Nat) : State :=
  let s0 := if s.wantsRun key l then { s with runs := put s.runs key (Run.fresh key) } else s
  let (s1, ws) := (List.range cores.length).foldl (fun (p : State × List Nat) k =>
    let (s2, w) := p.1.enterWg key t k l (cores.getD k 0)
    (s2, p.2 ++ [w])) (s0, [])
  s1.modLaunch key (fun x => { x with
    next := if x.again.contains t then x.next else x.next + 1
    again := x.again.filter (· != t)
    tethers := put x.tethers t { wgs := ws, pads := cores.map (fun c => (c, (0, l.scratch))), stage := [], cores, norelaunch := false, dying := none, ended := none } })

/-- TETHER_PLACE (R154, R156, R311): the next tether of a ready launch goes to cores with room, in deterministic mode to its fixed
cores; a launch whose dependence failed is cancelled. -/
def execTetherPlace (launch : Nat) (cores : List Nat) (s : State) : Out :=
  .next (match look s.launches launch with
  | none => s
  | some l =>
    if l.next = 0 ∧ l.tethers.isEmpty ∧ !l.cancelled ∧ !l.ended ∧ s.dep l = .never then
      (s.modLaunch launch (fun x => { x with cancelled := true })).finish l.part l.ctx l.ctrl stCancelled
    else
      match l.nextTether with
      | none => s
      | some t =>
        let boards := cores.map boardOfCore
        let legal := cores.length == l.width && cores.Nodup && boards.all (· == boards.headD 0) && cores.all (s.takes l) &&
          (!s.isDet l || cores == s.fixedCores l.part t l.width)
        if s.placing l && s.slotFor launch l && legal && !s.servedFirst launch l then s.placeTether launch l t cores else s)

/-! ### The end of a flight (R146) -/

/-- The control program that a partition has on a die that is not admitted passes to the lowest admitted die, once the controller there holds
none for the partition (R169, R380; log 24). -/
def State.passCtl (s : State) (k : Nat) : State :=
  let ctls := (s.part k).ctls
  match ctls.find? (fun c => !s.dieUp c.1), (List.range 4).find? s.dieUp with
  | some (d, c), some e =>
    if (look ctls e).isSome then s
    else { s.modPart k (fun p => { p with ctls := put (del p.ctls d) e c }) with
      cur := if s.cur = some (FlightRef.ctl d k) then some (.ctl e k) else s.cur }
  | _, _ => s

/-- A control program ends (R169): CTLRUN's completion entry is due; one that waits for its place passes there. -/
def State.endControl (s : State) (die part : Nat) : State :=
  match look (s.part part).ctls die with
  | none => s
  | some c =>
    let s1 := { s.modPart part (fun p => { p with ctls := del p.ctls die }) with
      cur := if s.cur = some (FlightRef.ctl die part) then none else s.cur }
    (s1.passCtl part).owe part { queue := 16, seq := c.cmdSeq, lid := 0, kind := 2, code := 0, reason := 0, origin := 0, part, state := 0, ctr := none }

/-- A flight has consumed uncorrectable data (R361): its tether is killed, as long as it has not ended (R257); a control program, which has
none, ends (log 34). -/
def State.consume (s : State) (r : FlightRef) (at_ : Nat) : State :=
  let kill := fun (l t : Nat) (x : Launch) => (s.logErr 1 errUncorr at_ [.tether x.part x.id t]).startKill l t 1 r 0
  match s.tetherOf r, r with
  | some (l, t, _), _ => match look s.launches l with
    | some x => kill l t x
    | none => s
  | none, .ctl die part => (s.logErr 1 errUncorr at_ [.part part]).endControl die part
  | none, .wg w _ => match s.endedWg w with
    | some (l, t, x, _) => kill l t x
    | none => s

/-- UNCORR_CONSUMED (R359, R361): uncorrectable data of a sector is consumed by a flight or the host, to which it is not delivered; or by
nothing: then its line, and the sector it is written back to, carry the poison mark. -/
def execUncorrConsumed (error : Uncorrectable) (s : State) : Out :=
  .next (
    let sector := error.sector
    let s1 := match sector with
      | some x => s.noteErr x true
      | none => s
    let at_ := sector.getD 0
    match error.who with
    | .flight r => s1.consume r at_
    | .host => s1.logErr 1 errUncorr at_ ((match sector with
      | some x => s.partsAt x
      | none => []).map .part)
    | .nobody => if sector.isSome && !s.poison.contains at_ then { s1 with poison := s.poison ++ [at_] } else s1)

/-- A flight is done (R146): every thread has exited, its four counts are zero, no store of an UNSEAL is under way and no trap waits for
it: a deferred trap of a flight that has no clause left is taken first, where R78 would end the flight (log 33). -/
def Flight.done (f : Flight) : Bool :=
  f.allExited && f.clause.isNone && f.accessesDone && f.nCopies == 0 && f.nTiles == 0 && f.deferred.isNone && !f.ended

/-- FLIGHT_END (R146): a flight ends once it is done; the workgroup with its last one. It counts as arrived at every later barrier, those of
its tether's other workgroups among them (R163). -/
def execFlightEnd (r : FlightRef) (s : State) : Out :=
  .next (match s.flight? r with
  | none => s
  | some f =>
    if !f.done then s
    else match r with
      | .ctl die part => if ((look (s.part part).ctls die).map (·.halted)).getD false then s else s.endControl die part
      | .wg w _ =>
        let s1 := (((s.closeNp r f).setFlight r { f with ended := true, slot := none, npOpen := false }).dropLatch r)
        let s2 := { s1 with cur := if s1.cur = some r then none else s1.cur }
        match look s2.wgs w with
        | none => s2
        | some g => if g.st = .killed then s2
          else if g.flights.all (·.ended) then (s2.barrierCheck w).endWg w else (s2.barrierCheck w).events [.haltDrainComplete w])

/-! ### Migration (R157, R303, R356) -/

/-- A workgroup stands at clause boundaries with nothing outstanding. -/
def Wg.still (g : Wg) : Bool :=
  g.flights.all (fun f => f.ended || (f.clause.isNone && f.sg == 0 && f.accessesDone && f.nCopies == 0 && f.nTiles == 0))

/-- The workgroup may migrate (R157). -/
def State.eligible (s : State) (w : Nat) (g : Wg) : Bool :=
  let width := ((look s.launches g.launch).map (·.width)).getD 0
  width == 1 && !s.det (.wg w 0) && g.acc.all (·.isNone) && g.flights.all (fun f => !f.npOpen) && g.st == .running && !g.dbg && g.still

/-- A reason to migrate: a launch outside deterministic mode for whose next tether no board has room, or a core about to be tested (R157). -/
def State.needsMove (s : State) (g : Wg) : Bool :=
  (s.core g.core).closed || s.launches.any (fun p => p.2.part == g.part && !s.isDet p.2 && s.placing p.2 && !s.hasRoom p.2)

/-- A core of the workgroup's board can take it (R157, R172), with the latches that its flights hold (R287). -/
def State.canTake (s : State) (w : Nat) (g : Wg) (core : Nat) : Bool :=
  let rows := g.rows / max g.flights.length 1
  let q := quadOfCore g.core
  let held := ((s.mxe q).latches.filter (fun l => ofWg l.owner w)).length
  (quadOfCore core == q || held == 0 || decide (s.latchesLive (quadOfCore core) + held ≤ 16)) && core != g.core && boardOfCore core == boardOfCore g.core && s.ownsCore g.part core && s.dieUp (dieOfCore core) &&
    s.fits core g.flights.length rows g.scratchBytes && s.quadModel (quadOfCore core) false && !s.quadWanted g.part (quadOfCore core)

/-- Moves a workgroup's rows, scratchpad and places to another core, where it counts as admitted now (R157, R158). -/
def State.moveWg (s : State) (w : Nat) (g : Wg) (c : Nat) : State :=
  let s := s.claimCore c g.rows g.scratchBytes
  let base := s.scratchHole c g.scratchBytes
  let bytes := (List.range g.scratchBytes).map (fun i => readByte s.mem (spKey g.core (g.scratchBase + i)))
  let disps := placeFlights g.flights.length (s.loads c)
  let s1 := { s.moveSpools (spKey g.core g.scratchBase) g.scratchBytes (spKey c base) with mem := writeKeys s.mem ((List.range g.scratchBytes).map (fun i => (spKey c (base + i), bytes.getD i 0))) }
  State.modWg { s1 with uid := s1.uid + 1 } w (fun g => { g with
    core := c
    age := s1.uid
    scratchBase := base
    rowAt := s.freeRows c g.rows
    flights := (List.range g.flights.length).map (fun i =>
      { (g.flights.getD i default) with disp := disps.getD i 0, slot := none, readySince := none, pastC := [], pastM := [] }) })

/-- The answers of another device to a tile operation go where it has gone. -/
def Waiter.follow (w q' : Nat) : Waiter → Waiter
  | .tile r q k p => .tile r (if ofWg r w then q' else q) k p
  | x => x

/-- A delivery context after a workgroup's tile operations have moved to another quad. -/
def SrcCtx.follow (w q' : Nat) (c : SrcCtx) : SrcCtx :=
  { c with
    waiting := c.waiting.map (fun p => { p with who := p.who.follow w q' })
    queued := c.queued.map (fun x => (x.1, (x.2.1.follow w q', x.2.2))) }

/-- Moves a workgroup's tiles and latches, and the operations on them that have not been granted, to another quad's engine (R287, R303);
flights that wait at either engine test again. -/
def State.moveTiles (s : State) (w q q' : Nat) : State :=
  let m := s.mxe q
  let ts := m.tiles.filter (fun p => p.2.wg == w)
  let ls := m.latches.filter (fun l => ofWg l.owner w)
  let es := m.entries.filter (fun p => ofWg p.2.owner w)
  let s1 := s.modMxe q (fun m => { m with
    tiles := m.tiles.filter (fun p => p.2.wg != w)
    latches := m.latches.filter (fun l => !ofWg l.owner w)
    entries := m.entries.filter (fun p => !ofWg p.2.owner w) })
  let s2 := (s1.takeTiles q' ts ls).modMxe q' (fun m => { m with entries := putAll m.entries es })
  ({ s2 with srcCtx := mapVals s2.srcCtx (fun _ c => c.follow w q') }.wakeMxe q).wakeMxe q'

/-- The engine of a quad works and has room for a workgroup's tiles and latches (R303). -/
def State.tilesFit (s : State) (w q q' : Nat) : Bool :=
  let m := s.mxe q
  let m' := s.mxe q'
  !m'.fenced && decide (s.tilesLive q' + (m.tiles.filter (fun p => p.2.wg == w)).length ≤ 32) &&
    decide (s.latchesLive q' + (m.latches.filter (fun l => ofWg l.owner w)).length ≤ 16)

/-- A halted workgroup of a fenced quad can go to a core (R303). -/
def State.refuge (s : State) (w : Nat) (g : Wg) (c : Nat) : Bool :=
  let rows := g.rows / max g.flights.length 1
  boardOfCore c == boardOfCore g.core && quadOfCore c != quadOfCore g.core && s.ownsCore g.part c &&
    s.fits c g.flights.length rows g.scratchBytes && s.quadModel (quadOfCore c) false && s.tilesFit w (quadOfCore g.core) (quadOfCore c)

/-- A workgroup that may migrate moves, with the latches of its flights (R157, R287). -/
def State.migrateWg (s : State) (w : Nat) (g : Wg) (c : Nat) : State :=
  let q := quadOfCore g.core
  (if quadOfCore c = q then s else s.moveTiles w q (quadOfCore c)).moveWg w g c

/-- MIGRATE (R157, R303, R356): an eligible workgroup moves to a core of its board; one halted on a fenced quad moves with its tiles
and latches and resumes, or its tether is killed when no core can take it. -/
def execMigrate (wg core : Nat) (s : State) : Out :=
  .next (match look s.wgs wg with
  | none => s
  | some g =>
    let q := quadOfCore g.core
    if (s.mxe q).fenced then
      if g.st ≠ .halted ∨ s.det (.wg wg 0) then s
      else if s.refuge wg g core then ((s.moveTiles wg q (quadOfCore core)).moveWg wg g core).goOn wg
      else if (List.range 512).all (fun c => !s.refuge wg g c) then s.startKill g.launch g.tether 4 (.wg (((s.tether? g.launch g.tether).map
        (fun t => t.wgs.headD wg)).getD wg) 0) 0
      else s
    else if s.eligible wg g && s.needsMove g && s.canTake wg g core then s.migrateWg wg g core else s)

end Sys2Proof.Machine
end

