-- ==== Sys2Proof/Machine/Context.lean ====
section
/-! DEFINITION. Contexts: slices, switches in modes D, H and F, halts at a tick, restores, spills, the scrub (R340–R345, R352, R353,
R368). -/

namespace Sys2Proof.Machine

/-! ### Halts at a tick boundary (R368) -/

/-- The operations of a workgroup in deterministic mode are saved on its replay list: accesses stay with their flights, engine
operations leave their engines. -/
def State.saveOps (s : State) (w : Nat) : State :=
  match look s.wgs w with
  | none => s
  | some g =>
    let q := quadOfCore g.core
    let cs := (s.core g.core).copies.filter (fun p => ofWg p.2.owner w)
    let ts := (s.mxe q).entries.filter (fun p => ofWg p.2.owner w)
    let es := s.estQ.filter (fun p => ofWg p.2.owner w)
    let s1 : State := (s.modCore g.core (fun c => { c with copies := c.copies.filter (fun p => !ofWg p.2.owner w) })).modMxe q (fun m =>
      { m with entries := m.entries.filter (fun p => !ofWg p.2.owner w) })
    State.modWg { s1 with estQ := s1.estQ.filter (fun p => !ofWg p.2.owner w) } w (fun g => { g with
      away := { g.away with copies := cs, tileOps := ts, ests := es }
      replay := g.replays ++ s.engineOps w g })

/-- The saved operations of a workgroup are reissued (R342, R368); copies whose path was lost meanwhile fail (R276). -/
def State.reissueOps (s : State) (w : Nat) : State :=
  match look s.wgs w with
  | none => s
  | some g =>
    let s1 := (s.modCore g.core (fun c => { c with copies := putAll c.copies g.away.copies })).modMxe
      (quadOfCore g.core) (fun m => { m with entries := putAll m.entries g.away.tileOps })
    (State.modWg { s1 with estQ := putAll s1.estQ g.away.ests } w (fun g => { g with
      away := { g.away with copies := [], tileOps := [], ests := [] } })).events
      ((g.away.copies.filter (fun p => p.2.lost.isSome)).map (fun p => .copyFail g.core p.1 (Config.freeNat s.free)))

/-- A workgroup in deterministic mode halts in place at a tick boundary (R368): every flight stops where it stands, SKID 0, and
nothing is drained. One that was halting for a trap has its entry written (R333, R342). -/
def State.haltAtTick (s : State) (w : Nat) : State :=
  match look s.wgs w with
  | none => s
  | some g =>
    let s1 := (s.saveOps w).modWg w (fun g => { g.freeze with st := .halted, entryOwed := false })
    if g.entryOwed then s1.haltEntry (.wg w g.firstFlt.toNat) else s1

/-! ### Requests for a switch (R341–R343) -/

/-- A flight of the context has a non-pre-emptible section open (R224). -/
def State.npHeld (s : State) (part ctx : Nat) : Bool :=
  (s.residents part ctx).any (fun p => p.2.st == .running && p.2.flights.any (·.npOpen))

/-- A running context begins to leave by mode D or H (R342, R368). -/
def State.beginLeave (s : State) (part c mode : Nat) (target : Option Nat) : State :=
  let s1 := s.modPart part (fun p => { p with switch := some ⟨mode, target, false, s.clk.toNat⟩ })
  if mode = 0 then (s1.modCtx part c (fun x => { x with st := .draining })).settleCtx part
  else
    let s2 := s1.modCtx part c (fun x => { x with st := .halting })
    let mine := (s2.residents part c).filter (fun p => p.2.st == .running || (p.2.st == .halting && s2.det (.wg p.1 0)))
    let s3 := (mine.filter (fun p => s2.det (.wg p.1 0))).foldl (fun s p => s.haltAtTick p.1) s2
    (s3.settleCtx part).events ((mine.filter (fun p => !s2.det (.wg p.1 0))).map (fun p => .workgroupHalt p.1))

/-- A request that the running context be switched out by a mode: 0 D, 1 H, else F; mode F is never deferred (R342). -/
def State.requestSwitch (s : State) (part mode : Nat) (target : Option Nat) : State :=
  let p := s.part part
  match p.cur with
  | none => s
  | some c =>
    let st := (p.ctx c).st
    let dest := target.or (p.switch.bind (·.target))
    if 2 ≤ mode then
      if st = .forcing then s.modPart part (fun p => { p with switch := some ⟨2, dest, false, 0⟩ })
      else (s.modPart part (fun p => { p with switch := some ⟨2, dest, false, 0⟩ })).forceOut part c none
    else if st = .running then
      if s.npHeld part c then s.modPart part (fun p => { p with switch := some ⟨mode, target, true, 0⟩ })
      else s.beginLeave part c mode target
    else s.modPart part (fun p => { p with switch := p.switch.map (fun x => { x with target := dest }) })

/-- Another context of the run list is ready. -/
def State.otherReady (s : State) (part : Nat) : Bool :=
  let p := s.part part
  match p.cur with
  | some c => (p.nextOn c).isSome
  | none => false

/-- The parked flights exceed PARKTH percent of the resident ones (R343). -/
def State.parkedShare (s : State) (part ctx : Nat) : Bool :=
  let fs := (s.residents part ctx).flatMap (fun p => p.2.flights.filter (fun f => !f.ended))
  let th := min (s.part part).parkth.toNat 100
  th != 0 && decide (th * fs.length < 100 * (fs.filter Flight.parked).length)

/-- Mode at slice expiry: 3 reads as F (R341). -/
def Part.sliceMode (p : Part) : Nat := min p.smode.toNat 2

/-- Length of a slice in ns, what DEBT leaves of it, and the debt that carries on (R341, R345). -/
def State.sliceLen (s : State) (part : Nat) : Nat × Nat :=
  let p := s.part part
  let full := p.slice.toNat * 1000
  let owed := p.debt.toNat * 1000 / max s.mhz 1
  if full ≤ owed then (0, p.debt.toNat - full * s.mhz / 1000) else (full - owed, 0)

/-- A slice of a partition begins (R341, R345). -/
def State.startSlice (s : State) (part : Nat) : State :=
  if (s.part part).slice = 0 then s
  else
    let (n, rest) := s.sliceLen part
    s.modPart part (fun p => { p with sliceEnd := s.clk.toNat + n, debt := BitVec.ofNat 32 rest })

/-- A slice expiry that finds a workgroup held by a debugger or halted by a trap stays pending there (R335). -/
def State.pendSlice (s : State) (part ctx : Nat) : State :=
  { s with wgs := mapVals s.wgs (fun _ g =>
      if g.part = part ∧ g.ctx = ctx ∧ (g.dbg || g.trapped) ∧ g.st ≠ .switchedOut then
        { g with flights := g.flights.map (fun f => if f.ended then f else { f with spend := true }) }
      else g) }

/-- SLICE_EXPIRY (R335, R341–R345): a slice that is over, or whose expiry was pending at a clause boundary, switches its context out when
another is ready; the parked share is compared at each slice boundary and whenever a flight parks; a switch put off by a section begins
once none is open. Of a partition with work in deterministic mode it acts at the end of the tick (R368). -/
def execSliceExpiry (part : Nat) (s : State) : Out :=
  .next (match (s.part part).cur with
  | none => s
  | some c =>
    let p := s.part part
    if s.inTick part then s.afterTick part (.event (.sliceExpiry part))
    else if (p.switch.map (·.deferred)).getD false then
      match p.switch with
      | some x => if s.npHeld part c then s else s.beginLeave part c x.mode x.target
      | none => s
    else if (p.ctx c).st ≠ .running then s
    else
      let ends := p.slice != 0 && decide (p.sliceEnd ≤ s.clk.toNat)
      let s0 := s.modPart part (fun p => { p with parkDue := false, spendDue := false })
      if (p.parkDue || ends || p.spendDue) && s.otherReady part && s.parkedShare part c then s0.requestSwitch part 1 none
      else if ends then
        let s1 := s0.pendSlice part c
        if s.otherReady part then s1.requestSwitch part p.sliceMode none else s1.startSlice part
      else if p.spendDue && s.otherReady part then s0.requestSwitch part p.sliceMode none
      else s0)

/-- DDEAD_EXPIRY (R342): a drain that has taken DDEAD µs escalates. -/
def execDdeadExpiry (part : Nat) (s : State) : Out :=
  .next (match (s.part part).cur, (s.part part).switch with
  | some c, some x =>
    if ((s.part part).ctx c).st = .draining ∧ x.since + (s.part part).ddead.toNat * 1000 ≤ s.clk.toNat then s.forceOut part c none else s
  | _, _ => s)

/-! ### Spills (R342) -/

/-- A switched-out workgroup of a LAZY context. -/
def State.lazyWg (s : State) (part ctx w : Nat) : Bool :=
  ((look s.wgs w).map (fun g => g.part == part && g.ctx == ctx && g.st == .switchedOut)).getD false

/-- LAZY_CLAIM_SPILL (R342, R353): a resource that a LAZY context still holds is spilled to its frame and cleared, before the
incoming context's claim of it completes. -/
def execLazyClaimSpill (part slot : Nat) (res : LazyRes) (s : State) : Out :=
  .next (
    let p := s.part part
    if (p.ctx slot).st ≠ .lazy ∨ p.cur.isNone then s
    else match res with
      | .rows w => if s.lazyWg part slot w && ((look s.wgs w).map (fun g => !g.away.rows)).getD false then s.spillRows w else s
      | .scratch w => if s.lazyWg part slot w && ((look s.wgs w).map (fun g => g.away.scratch.isNone)).getD false then s.spillScratch w else s
      | .tile q k => if ((look (s.mxe q).tiles k).map (fun t => s.lazyWg part slot t.wg)).getD false then s.spillTile q k else s
      | .latch q i => match (s.mxe q).latches[i]? with
        | some l => (match l.owner with
          | .wg w _ => if s.lazyWg part slot w then s.spillLatch q l else s
          | .ctl _ _ => s)
        | none => s)

/-- Everything a switched-out workgroup still holds on its core is spilled. -/
def State.spillWg (s : State) (w : Nat) : State :=
  match look s.wgs w with
  | none => s
  | some g =>
    let q := quadOfCore g.core
    let s1 := if g.away.rows then s else s.spillRows w
    let s2 := if g.away.scratch.isSome then s1 else s1.spillScratch w
    let s3 := ((s2.mxe q).tiles.filter (fun p => p.2.wg == w)).foldl (fun s p => s.spillTile q p.1) s2
    ((s3.mxe q).latches.filter (fun l => ofWg l.owner w)).foldl (fun s l => s.spillLatch q l) s3

/-- LAZY contexts of a partition, all but one, become SAVED: what they still hold is spilled first (R342). -/
def State.saveLazy (s : State) (part : Nat) (keep : Option Nat) : State :=
  let lazies := (List.range 16).filter (fun k => ((s.part part).ctx k).st == .lazy && keep != some k)
  let ws := (s.wgs.filter (fun p => p.2.part == part && p.2.st == .switchedOut && lazies.contains p.2.ctx)).map (·.1)
  lazies.foldl (fun s k => s.modCtx part k (fun c => { c with st := .saved })) (ws.foldl State.spillWg s)

/-! ### The scrub (R352–R355) -/

/-- Some context of the partition is LAZY. -/
def Part.anyLazy (p : Part) : Bool := p.ctxs.any (fun c => c.st == .lazy)

/-- Bytes of a number kept in a token. -/
def le (n x : Nat) : List Byte := toBytes n x

/-- The body of a token before it is signed: COUNTER and SCOPEH are filled in when it is recorded (R354). -/
def tokenBody (part vf flags : Nat) (outTen inTen : Dword) (nonce : BitVec 256) (clk ns : Nat) : List Byte :=
  le 8 0x314B54434C43584E ++ le 2 1 ++ le 2 flags ++ le 1 part ++ le 1 vf ++ le 2 0 ++ List.replicate 16 0 ++ le 8 outTen.toNat ++
    le 8 inTen.toNat ++ List.replicate 24 0 ++ le 32 nonce.toNat ++ le 8 clk ++ le 4 ns ++ List.replicate 12 0

/-- A scrub of a partition clears a core: all of its own, or only those that have changed hands (R351). -/
def Part.scrubs (p : Part) (all : Bool) (core : Nat) : Bool := p.desc.hasCore core && (all || !p.clean.hasCore core)

/-- A byte of a core's scratchpad that a scrub leaves: the core is not cleared, or some switched-out workgroup still holds the byte. -/
def State.scratchKept (s : State) (part : Nat) (all : Bool) (k : Nat) : Bool :=
  let core := (k - 2 ^ 44) / 2 ^ 30
  let off := (k - 2 ^ 44) % 2 ^ 30
  !(decide (2 ^ 44 ≤ k) && decide (k < 2 ^ 48) && (s.part part).scrubs all core) || inRanges (s.heldScratch core) off

/-- An offset of a die's chip scratchpad lies in a descriptor's window (R347). -/
def PartDesc.inWindow (d : PartDesc) (die off : Nat) : Bool :=
  let win := (bits d.cswin.toNat (8 * die + 7) (8 * die)) * 2 ^ 20
  let base := (bits d.csoff.toNat (8 * die + 7) (8 * die)) * 2 ^ 20
  decide (base ≤ off) && decide (off < base + win)

/-- A byte of a chip scratchpad that a scrub leaves: it lies outside the partition's windows, or has not changed hands. -/
def State.chipKept (s : State) (part : Nat) (all : Bool) (k : Nat) : Bool :=
  let die := (k - 2 ^ 41) / 2 ^ 26
  let off := (k - 2 ^ 41) % 2 ^ 26
  let p := s.part part
  !(decide (2 ^ 41 ≤ k) && decide (k < 2 ^ 44) && p.desc.inWindow die off && (all || !p.clean.inWindow die off))

/-- The state that a scrub clears (R352): scratchpads but for what a LAZY context holds, chip scratchpad windows, translations, spool
shadows, delivery contexts, what stands in the partition's name of its last token and its recorded nonces (R355). A switch that is a tenant
switch by an ownership change alone clears only what has changed hands (R351). -/
def State.clear (s : State) (part : Nat) (all : Bool) : State :=
  let p := s.part part
  let kept := fun (k : Nat) => s.scratchKept part all k && s.chipKept part all k
  { s with
    mem := s.mem.filter (fun c => kept c.1)
    spools := s.spools.filter (fun c => kept c.1)
    cores := mapVals s.cores (fun i c => { c with shadows := c.shadows.filter (fun h =>
      h.part != part || (!all && p.desc.hasCore i && p.clean.hasCore i)) })
    srcCtx := if all then s.srcCtx.filter (fun x => x.1 / 256 != part) else s.srcCtx }.modPart part (fun p =>
      { p with tlb := [], nonces := [], token := [], clean := p.desc })

/-- Every operation that a partition has sent to another device is acknowledged or reported (R234, R392). -/
def State.fabricQuiet (s : State) (part : Nat) : Bool :=
  s.srcCtx.all (fun x => x.1 / 256 != part || (x.2.waiting.isEmpty && x.2.queued.isEmpty))

/-- OFFSET and size of a descriptor's window on a die, in MiB. -/
def PartDesc.window (d : PartDesc) (die : Nat) : Nat × Nat :=
  (bits d.csoff.toNat (8 * die + 7) (8 * die), bits d.cswin.toNat (8 * die + 7) (8 * die))

/-- What two windows share. -/
def meetWindows (a b : Nat × Nat) : Nat × Nat := let lo := max a.1 b.1; (lo, min (a.1 + a.2) (b.1 + b.2) - lo)

/-- The resources of a descriptor that another one names too. -/
def PartDesc.meet (a b : PartDesc) : PartDesc :=
  let w := fun (x : Nat) => meetWindows (a.window x) (b.window x)
  let pack := fun (f : Nat → Nat) => BitVec.ofNat 32 ((List.range 4).foldl (fun n x => n + f x * 256 ^ x) 0)
  { quads := a.quads &&& b.quads, slices := a.slices &&& b.slices, pchan := a.pchan &&& b.pchan, strms := a.strms &&& b.strms,
    ctl := a.ctl &&& b.ctl, vf := b.vf, cswin := pack (fun x => (w x).2), csoff := pack (fun x => (w x).1) }

/-- A descriptor names resources that another does not. -/
def PartDesc.beyond (a b : PartDesc) : Bool :=
  a.quads &&& ~~~b.quads != 0 || a.slices &&& ~~~b.slices != 0 || a.pchan &&& ~~~b.pchan != 0 || a.strms &&& ~~~b.strms != 0 ||
    (a.ctl &&& ~~~b.ctl).getLsbD 1 || (List.range 4).any (fun x => (meetWindows (a.window x) (b.window x)).2 != (a.window x).2)

/-- Resources have come to the partition since the last scrub (R351). -/
def Part.changed (p : Part) : Bool := p.desc.beyond p.clean

/-- A switch into a context is between tenants, or the first since the partition was formed: every resource is scrubbed (R351, R352). -/
def Part.newTenant (p : Part) (k : Nat) : Bool := !p.formed || p.lastTenant != (p.ctx k).desc.tenant

/-- A switch into a context is a tenant switch (R351). -/
def Part.tenantSwitch (p : Part) (k : Nat) : Bool := p.newTenant k || p.changed

/-- SCRUB (R352, R353, R355): the clearing of a tenant switch completes, once the outgoing tenant's operations on other devices are done
(R234, R392). Contexts that are LAZY from an earlier switch are SAVED by now (R342); the outgoing one keeps what it holds, clear-on-claim
(R352; log 33). The incoming context can be restored, and its token is due. -/
def execScrub (part : Nat) (s : State) : Out :=
  .next (
    let p := s.part part
    match p.scrubDue, p.switch.bind (·.target) with
    | some t, some k =>
      if p.cur.isSome || !s.fabricQuiet part then s
      else
        let c := p.ctx k
        let now := s.clk.toNat
        let s1 := s.saveLazy part p.last
        let flags := (if (s1.part part).anyLazy then 1 else 0) + (if p.formed then 0 else 4)
        let body := tokenBody part p.desc.vf.toNat flags p.lastTenant c.desc.tenant c.desc.nonce now (now - t)
        ((s1.clear part (p.newTenant k)).modPart part (fun p => { p with
          scrubDue := none
          lastTenant := c.desc.tenant
          formed := true
          tokenDue := p.tokenDue ++ [(body, some k)] })).events [.contextRestore part k, .tokenRecord part]
    | _, _ => s)

/-! ### Restores (R342) -/

/-- A flight of a workgroup that comes back: the time that a copy has been held goes on from where it stood (R277). -/
def State.seatIn (s : State) (det : Bool) (f : Flight) : Flight :=
  { f with copyHeld := if det then f.copyHeld else f.copyHeld.map (fun t => s.clk.toNat - t) }

/-- A workgroup takes its place on its core again: what was spilled is reloaded from its frame (R342). -/
def State.reload (s : State) (w : Nat) : State :=
  match look s.wgs w with
  | none => s
  | some g =>
    let a := g.away
    let s1 := s.claimCore g.core (if a.rows then g.rows else 0) (if a.scratch.isSome then g.scratchBytes else 0)
    let flights := if a.rows then s.loadFlights g else g.flights
    let s2 := match a.scratch with
      | some held =>
        let bs := s.loadBytes g.part g.ctx (s.coreFrame g.part g.ctx g.core + 2 ^ 19 + g.scratchBase) held
        let base := s1.scratchHole g.core g.scratchBytes
        let sps := a.spools.map (fun (p : Nat × SpoolSt) => (spKey g.core base + p.1, p.2))
        { s1 with mem := writeBytes s1.mem (spKey g.core base) bs, spools := putAll s1.spools sps }.modWg w (fun g => { g with scratchBase := base })
      | none => s1
    let rowAt := if a.rows then s1.freeRows g.core g.rows else g.rowAt
    let s3 := s2.modWg w (fun g => { g with
      st := .halted
      rowAt
      flights := flights.map (s.seatIn (s.det (.wg w 0)))
      away := { g.away with rows := false, scratch := none, spools := [], tiles := [], latches := [] } })
    let tiles := a.tiles.map (fun (p : Nat × Tile) => (p.1, s.loadTile g p.2))
    (s3.takeTiles (quadOfCore g.core) tiles (a.latches.map (s.loadLatch g))).reissueOps w

/-- A restored workgroup goes on, unless a trap or a debugger holds it; a resolution given meanwhile acts (R337, R342). -/
def State.restart (s : State) (w : Nat) : State :=
  match look s.wgs w with
  | none => s
  | some g => match g.resolve with
    | some a => if g.dbg then s else s.resolveTrap w a
    | none => s.goOn w

/-- The context can be switched in: its partition is VALID and runs nothing, and it is SAVED or LAZY. -/
def Part.admits (p : Part) (k : Nat) : Bool :=
  p.cur.isNone && p.vfOff == 0 && p.desc.ctl.getLsbD 0 && ((p.ctx k).st == .saved || (p.ctx k).st == .lazy)

/-- CONTEXT_RESTORE (R342, R351, R353): a SAVED or LAZY context becomes the running one; on a tenant switch the scrub comes first. -/
def execContextRestore (part slot : Nat) (s : State) : Out :=
  .next (
    let p := s.part part
    if !p.admits slot then s
    else if p.tenantSwitch slot then
      (s.modPart part (fun p => { p with
        scrubDue := some (p.scrubDue.getD s.clk.toNat)
        switch := some ⟨1, some slot, false, 0⟩ })).events [.scrub part]
    else
      let s0 := (s.modPart part (fun p => { p with
        cur := some slot, switch := none, last := some slot, onEnter := [], tick := (p.ctx slot).tick })).modCtx
        part slot (fun c => { c with st := .running, grants := [] })
      let s0 := (p.ctx slot).grants.foldl (fun s g => s.modMxe g.1 (fun m => { m with freeTick := g.2 })) s0
      let s1 := p.onEnter.foldl (fun s o => s.owe part o) s0
      let ws := (s1.wgs.filter (fun x => x.2.part == part && x.2.ctx == slot && x.2.st == .switchedOut)).map (·.1)
      let s2 := ws.foldl State.reload ((p.desc.coreDies).foldl (fun s e => s.loadStaging part slot e) s1)
      (ws.foldl State.restart s2).startSlice part)

end Sys2Proof.Machine
end

