-- ==== Sys2Proof/Machine/Tenant.lean ====
section
/-! DEFINITION. Clearance tokens, scan turns and confirmation, errors and retired frames, the end of a VF (R347–R362). -/

namespace Sys2Proof.Machine

/-! ### Clearance tokens (R354, R355) -/

/-- The first 208 bytes of a partition descriptor (R347). -/
def PartDesc.scope (d : PartDesc) : List Byte :=
  le 16 d.quads.toNat ++ le 64 d.slices.toNat ++ le 64 d.pchan.toNat ++ le 64 d.strms.toNat

/-- The device's public keys, Ed25519 and ML-DSA-65 (R354; log 18). -/
def edKey : List Byte := (List.range 32).map Config.ed25519Key
def dsaKey : List Byte := (List.range 1952).map Config.mldsaKey

/-- DEVID: the first 16 bytes of SHA-256 over both public keys (R354). -/
def deviceId : List Byte := (sha256 (edKey ++ dsaKey)).take 16

/-- The full token of a body: DEVID, SCOPEH, COUNTER and the two signatures over the completed body (R354; log 18, log 19). -/
def signedToken (body scope : List Byte) (counter : Nat) : List Byte :=
  let b := body.take 16 ++ deviceId ++ slice body 32 16 ++ (sha256 scope).take 16 ++ le 8 counter ++ slice body 72 56
  b ++ (List.range 64).map (Config.ed25519Sign edKey b) ++ (List.range 3309).map (Config.mldsaSign dsaKey b) ++ List.replicate 595 0

/-- Signs a token: COUNTER rises by one for each (R354). -/
def State.sign (s : State) (part : Nat) (body : List Byte) : State × List Byte :=
  let n := s.counter + 1
  ({ s with counter := n }, signedToken body (s.part part).written n.toNat)

/-- Writes tokens that wait for the PF's token ring, while there is room (R350, R376). -/
def State.flushTokens : Nat → State → State
  | 0, s => s
  | n + 1, s =>
    let ring := s.pfRing 32
    match s.pfTokens with
    | [] => s
    | t :: ts =>
      if ring.full then s
      else State.flushTokens n (({ s with pfTokens := ts }.putBytes (ring.entryAt ring.prod 4096) t).modPf 32 Ring.produced)

/-- Records a signed token for a context (R355): it goes to TOKBUF where that is mapped writable, and its nonce enters the
partition's set of 16, if it attests the present tenancy. -/
def State.record (s : State) (part ctx : Nat) (tok : List Byte) (present : Bool) : State :=
  let c := (s.part part).ctx ctx
  let s1 := if c.desc.tokbuf = 0 then s else (s.writeVa part ctx c.desc.tokbuf.toNat tok).getD s
  s1.modPart part (fun p => { p with
    token := tok
    nonces := if present then (let ns := p.nonces ++ [BitVec.ofNat 256 (fieldAt tok 72 32)]; ns.drop (ns.length - 16)) else p.nonces })

/-- TOKEN_RECORD (R350, R355): the oldest token that is due is signed and recorded for its context; that of a disabled VF goes to the PF. One
that a later tenant switch has overtaken attests no present tenancy, and its nonce enters no set. -/
def execTokenRecord (part : Nat) (s : State) : Out :=
  .next (
    match (s.part part).tokenDue with
    | [] => s
    | (body, dest) :: due =>
      let (s1, tok) := (s.modPart part (fun p => { p with tokenDue := due })).sign part body
      match dest with
      | none => State.flushTokens (s1.pfTokens.length + 1) { s1 with pfTokens := s1.pfTokens ++ [tok] }
      | some k => s1.record part k tok due.isEmpty)

/-- A reissue of the last token with another nonce (R355). -/
def reissued (tok : List Byte) (nonce : List Byte) : List Byte :=
  let flags := Nat.lor (fieldAt tok 10 2) 8
  tok.take 10 ++ le 2 flags ++ slice tok 12 60 ++ nonce.take 32 ++ slice tok 104 24

/-! ### Scan turns (R356–R358) -/

/-- The next core of a board's rotation, from a grid position on: enabled and not fenced. -/
def State.nextScan (s : State) (board : Nat) : Option Nat :=
  let from_ := s.scanPos.getD board 0
  ((List.range 64).map (fun i => board * 64 + (from_ + i) % 64)).find? (fun c => s.image.cores.getLsbD c && !(s.core c).fenced)

/-- The workgroups on a core that can migrate do (R157, R356). -/
def State.vacate (s : State) (core : Nat) : State :=
  (s.onCore core).foldl (fun s p => match look s.wgs p.1 with
    | some g =>
      match (List.range 64).map (fun i => boardOfCore core * 64 + i) |>.find? (fun c => s.eligible p.1 g && s.canTake p.1 g c) with
      | some c => s.migrateWg p.1 g c
      | none => s
    | none => s) s

/-- A turn of a core begins for a signal. -/
def Sig.begins (core : Nat) (g : Sig) : Sig :=
  if g.need.contains core && !g.begun.contains core then { g with begun := g.begun ++ [core] } else g

/-- A turn of a core that began after the signalling work ends for a signal. -/
def Sig.passes (core : Nat) (g : Sig) : Sig :=
  if g.begun.contains core && !g.passed.contains core then { g with passed := g.passed ++ [core] } else g

/-- SCAN_TURN_START (R356): admission to the rotation's next core closes; 100 µs later, once the core is empty, its turn begins. A
core that is not empty then defers its turn, and the rotation moves on. -/
def execScanTurnStart (core : Nat) (s : State) : Out :=
  .next (
    let b := boardOfCore core
    let c := s.core core
    let now := s.clk.toNat
    let busy := (List.range 64).any (fun i => (s.core (b * 64 + i)).scanning)
    if 512 ≤ core || !s.image.cores.getLsbD core || c.fenced || c.scanning then s
    else if !c.closed then
      if s.nextScan b = some core then s.modCore core (fun c => { c with closed := true, turnAt := now }) else s
    else if now < c.turnAt + 100000 ∨ busy then s
    else
      let s1 := (s.vacate core)
      let s2 := if s1.nextScan b = some core then { s1 with scanPos := s1.scanPos.set b (core % 64 + 1) } else s1
      if !(s2.onCore core).isEmpty then s2
      else
        { s2.modCore core (fun c => { c with scanning := true, turnAt := now }) with
          sigs := s2.sigs.map (Sig.begins core) })

/-- A signal whose every core has passed. -/
def Sig.ready (g : Sig) : Bool := g.child.isNone && g.need.all g.passed.contains

/-- Some cores have passed a turn (R357): signals that waited for them alone are confirmed. -/
def State.passCores (s : State) (cs : List Nat) : State :=
  let s1 := { s with sigs := s.sigs.map (fun g => cs.foldl (fun g c => Sig.passes c g) g) }
  (s1.sigs.filter Sig.ready).foldl (fun s g => State.confirm 4096 s g) s1

/-- SCAN_TURN_END (R356, R357): after 250 µs the core reopens, and signals that waited for its turn are confirmed. -/
def execScanTurnEnd (core : Nat) (s : State) : Out :=
  .next (
    let c := s.core core
    if !c.scanning || decide (s.clk.toNat < c.turnAt + 250000) then s
    else (s.modCore core (fun c => { c with scanning := false, closed := false })).passCores [core])

/-- The counters that a suspicion of one reaches: itself, and above a DONE one those that hold its signal (R150, R358). -/
def State.suspects : Nat → State → Nat × (Nat × Nat) → List (Nat × (Nat × Nat))
  | 0, _, _ => []
  | n + 1, s, (part, ctx, i) =>
    let st := (s.ctr part ctx i).state
    (if st = stDone ∨ st = stPending then [(part, ctx, i)] else []) ++
      (if st = stDone then (s.sigs.filter (fun x => x.part == part && x.ctx == ctx && x.child == some i)).flatMap (fun x =>
        State.suspects n s (x.part, x.ctx, x.idx)) else [])

/-- The jobs that a failed turn of a core makes SUSPECT (R358). -/
def State.suspectJobs (s : State) (core : Nat) : List (Nat × (Nat × Nat)) :=
  ((s.sigs.filter (fun g => g.need.contains core)).flatMap (fun g => State.suspects 4096 s (g.part, g.ctx, g.idx))).foldl
    (fun l x => if l.contains x then l else l ++ [x]) []

/-- A core fails a turn (R358): it is fenced; counters with an unconfirmed signal that it executed a part of become SUSPECT; a report names
the core and every job so affected. -/
def State.failCore (s : State) (core : Nat) : State :=
  let s1 := s.modCore core (fun c => { c with scanning := false, closed := false, fenced := true })
  ((s1.sigs.filter (fun g => g.need.contains core)).foldl (fun s g => State.suspect 4096 s (g.part, g.ctx, g.idx)) s1).logErr 1 errSuspect
    core (.core core :: (s.suspectJobs core).map (fun x => .job x.1 x.2.1 x.2.2))

/-- SCAN_TURN_FAIL (R358). -/
def execScanTurnFail (core : Nat) (s : State) : Out := .next (if (s.core core).scanning then s.failCore core else s)

/-! ### Errors (R359–R362) -/

/-- CORRECTED_ERROR (R359, R362): counted and logged, at its sector where it has one. -/
def execCorrectedError (error : Corrected) (s : State) : Out :=
  let s1 := match error.sector with
    | some x => s.noteErr x false
    | none => s
  .next ({ s1 with corrected := s.corrected + 1 }.logErr 0 error.what (error.sector.getD 0) [])

/-- FATAL_ERROR (R362): a fatal report, and the host's port is contained. -/
def execFatalError (what : Nat) (s : State) : Out := .next ({ s with contained := true }.logErr 2 what 0 [])

/-- A spare frame of a frame's pseudo-channel (R360). -/
def State.spareFor (s : State) (frame spare : Nat) : Bool :=
  s.image.spares.contains spare && paDie (spare * 4096) == paDie (frame * 4096) && paChan (spare * 4096) == paChan (frame * 4096)

/-- Marks sectors of a frame lost (R360). -/
def State.loseSectors (s : State) (frame : Nat) (mask : Word) : State :=
  { s with lost := s.lost ++ ((maskLanes mask).map (fun i => frame * 32 + i)).filter (fun k => !s.lost.contains k) }

/-- A frame has a lasting error (R359). -/
def State.ails (s : State) (frame : Nat) : Bool := (List.range 32).any (fun i => s.lasting (frame * 32 + i))

/-- The poisoned sectors of a frame, as a mask of its 32. -/
def State.poisonMask (s : State) (frame : Nat) : Word := maskOf (fun i => s.poison.contains (frame * 32 + i))

/-- Errors and poison marks of a frame stay behind with it. -/
def State.leaveFrame (s : State) (frame : Nat) : State :=
  { s with errAt := s.errAt.filter (fun p => p.1 / 32 != frame), poison := s.poison.filter (fun x => x / 32 != frame) }

/-- PAGE_RETIRE (R359, R360): a frame with a lasting error is copied to a spare of its pseudo-channel, which its address is redirected to;
sectors that cannot be read, or all of them where there is no spare, are lost. No access sees the move: memory keeps the address that
software uses (log 3). -/
def execPageRetire (frame : Nat) (spare : Option Nat) (lost : Word) (s : State) : Out :=
  .next (
    let gone := lost ||| s.poisonMask frame
    let report := fun (s : State) => s.logErr (if gone = 0 && spare.isSome then 0 else 1) errLost frame ((s.partsAt (frame * 32)).map .part)
    if !s.ails frame then s
    else match spare with
    | some t =>
      if !s.spareFor frame t then s
      else
        let s1 : State := { s.leaveFrame frame with
          redirect := put s.redirect frame t
          image := { s.image with spares := s.image.spares.filter (· != t) } }
        report (s1.loseSectors frame gone)
    | none =>
      if s.image.spares.any (s.spareFor frame) || decide (2 ^ 28 ≤ frame) then s
      else report ((s.leaveFrame frame).loseSectors frame (BitVec.allOnes 32)))

/-! ### The end of a VF (R350) -/

/-- A place in a queue's order whose entry goes elsewhere (R375): the later ones move up. -/
def voidEntry (o : OwedEntry) : OwedEntry := { o with kind := 0 }

/-- An accepted launch that has not reached a final state is CANCELLED_BY_HOST, and so signals its PARENT (R149, R150); its completion
entry goes to the PF, and its own queue goes on without one. -/
def State.hostCancel (s : State) (key : Nat) : State :=
  match look s.launches key with
  | none => s
  | some l =>
    let c := s.ctr l.part l.ctx l.ctrl
    let now := s.clk.toNat
    let o : OwedEntry := { queue := l.queue % 16, seq := l.seq, lid := l.id, kind := 1, code := 0, reason := 0, origin := l.origin,
                           part := l.part, state := stCancelledByHost, ctr := none }
    let s1 := (s.putCtr l.part l.ctx l.ctrl { c with state := stCancelledByHost, tdone := now }).modLaunch key (fun x =>
      { x with
        ended := true
        cancelled := true
        again := []
        tethers := mapVals x.tethers (fun _ t => { t with norelaunch := true }) })
    let s2 := { s1.endRun key with pfDirect := s1.pfDirect ++ [compBytes o 0 stCancelledByHost 0 true] }
    let s3 := s2.owe l.part (voidEntry { o with queue := l.queue })
    if c.parent = noCounter then s3 else s3.events [.counterSignal l.part l.ctx c.parent stCancelledByHost (some l.ctrl) []]

/-- Counters of a partition that are still PENDING when its VF is disabled, once its launches are over (R150): graph, phase and job
counters of every context whose table has been set up. -/
def State.cancelCounters (s : State) (part : Nat) : State :=
  ((List.range 16).filter (fun x => ((s.part part).ctx x).trans != Ctx.reset.trans)).foldl (fun s x =>
    ((List.range noCounter).filter (fun i => (s.ctr part x i).state == stPending)).foldl (fun s i =>
      s.putCtr part x i { s.ctr part x i with state := stCancelledByHost, tdone := s.clk.toNat }) s) s

/-- Saved contexts of a partition are discarded with their workgroups and launches, their translation and domain contexts cleared
(R189); signals to their counters go with them. -/
def State.discard (s : State) (part : Nat) : State :=
  let ws := (s.wgs.filter (fun p => p.2.part == part)).map (·.1)
  let s1 := ws.foldl State.removeWg s
  let gone := (s1.launches.filter (fun p => p.2.part == part)).map (·.1)
  State.modPart { s1 with
    launches := s1.launches.filter (fun p => p.2.part != part)
    runs := s1.runs.filter (fun p => !gone.contains p.2.launch)
    estQ := s1.estQ.filter (fun p => p.2.part != part)
    sigs := s1.sigs.filter (fun g => g.part != part)
    agenda := s1.agenda.filter (fun x => match x with
      | .event (.counterSignal k _ _ _ _ _) => k != part
      | _ => true) } part (fun p =>
    { p with
      last := none
      ctxs := p.ctxs.map (fun (c : Ctx) => { c with
        st := .absent, onList := false, trans := Ctx.reset.trans, dom := Ctx.reset.dom, faults := [], trapOwed := [], reports := [], grants := [] }) })

/-- The scrub of every resource of a partition, and the token of R350. -/
def State.scrubOff (s : State) (part : Nat) : State :=
  let p := s.part part
  let nonce : BitVec 256 := BitVec.ofNat 256 (ofBytes ((List.range 32).map (fun i => Config.freeByte (s.free + i))))
  let ns := Config.freeNat s.free % 40001
  let body := tokenBody part p.desc.vf.toNat 2 p.lastTenant 0 nonce s.clk.toNat ns
  let s1 : State := { s with free := s.free + 32 }
  ((s1.clear part true).modPart part (fun p => { p with
    vfOff := 2, formed := false, lastTenant := 0, switch := none, tokenDue := p.tokenDue ++ [(body, none)] })).events [.tokenRecord part]

/-- VF_DISABLE (R350): the partition accepts nothing further, its launches are cancelled by the host, its running context is forced
out; once that has left and the partition's operations on other devices are done (R392), its counters are final, its saved contexts are
discarded, its resources scrubbed and a token recorded. -/
def execVfDisable (part : Nat) (s : State) : Out :=
  .next (
    let p := s.part part
    if p.vfOff = 0 then
      let keys := (List.range 17).flatMap (fun q =>
        (s.launches.filter (fun x => x.2.part == part && !x.2.ended && x.2.queue == q)).map (·.1))
      let s0 := s.modPart part (fun p => { p with vfOff := 1 })
      let s1 := keys.foldl State.hostCancel (if p.cur.isNone then s0.events [.vfDisable part] else s0)
      let s2 := State.flushPf (s1.pfDirect.length + s1.pfOwed.length + 1) s1
      let s3 := ((List.range 4).filter (fun d => !s.dieUp d) ++ List.range 4).foldl (fun s d => s.endControl d part) s2
      match p.cur with
      | some c => s3.forceOut part c none
      | none => s3
    else if p.vfOff = 1 && p.cur.isNone && s.fabricQuiet part then ((s.cancelCounters part).discard part).scrubOff part
    else s)

end Sys2Proof.Machine
end

