-- ==== Sys2Proof/Machine/Die.lean ====
section
/-! DEFINITION. Boot, the warm reset of a die, the clock (R372, R378–R382). -/

namespace Sys2Proof.Machine

/-! ### Die states (R372, R380) -/

/-- A die changes its STATE; TCHG takes CLK[41:10] (R372). -/
def State.dieTo (s : State) (d st : Nat) : State :=
  s.modDie d (fun x => { x with st, tchg := s.clk.extractLsb' 10 32 })

/-- A reset of the die is counted, saturating (R372). -/
def Die.count (x : Die) : Die := { x with resets := if x.resets = 255 then 255 else x.resets + 1, tries := 0 }

/-- Nothing that a workgroup holds lies on its core or in its matrix engine any more (R342). -/
def State.allAway (s : State) (w : Nat) (g : Wg) : Bool :=
  g.away.rows && g.away.scratch.isSome && (s.mxe (quadOfCore g.core)).tiles.all (fun p => p.2.wg != w) &&
    (s.mxe (quadOfCore g.core)).latches.all (fun l => !ofWg l.owner w)

/-- Tethers with a workgroup that holds places on a die's cores. -/
def State.tethersOn (s : State) (d : Nat) : List (Nat × (Nat × Nat)) :=
  s.launches.flatMap (fun p => (p.2.tethers.filter (fun t => t.2.wgs.any (fun w =>
    ((look s.wgs w).map (fun g => dieOfCore g.core == d && !(g.st == .switchedOut && s.allAway w g))).getD false))).map (fun t =>
      (p.1, (t.1, t.2.wgs.headD 0))))

/-- The control programs of dies that are not admitted pass to the lowest admitted die (R380). -/
def State.passControl (s : State) : State := (List.range 16).foldl State.passCtl s

/-- A die leaves ADMITTED (R380): it is FENCING, the tethers on its cores are killed as under mode F, and a report names it. -/
def State.fenceDie (s : State) (d : Nat) : State :=
  let s1 := ((s.dieTo d 1).modDie d Die.count).logErr 1 errDie d ((s.partsOn d).map .part)
  (s1.tethersOn d).foldl (fun s t => s.startKill t.1 t.2.1 3 (.wg t.2.2 0) 0) s1.passControl

/-- DIE_FAULT (R380). -/
def execDieFault (die : Nat) (s : State) : Out :=
  .next (if die < 4 ∧ (s.die die).st = 0 then s.fenceDie die else s)

/-- DIE_FENCING_DONE (R380): once its killed operations have stopped. -/
def execDieFencingDone (die : Nat) (s : State) : Out :=
  .next (if die < 4 ∧ (s.die die).st = 1 ∧ s.tethersOn die = [] then s.dieTo die 2 else s)

/-- DIE_FLUSH_DONE (R380): HBM keeps every byte that took effect before FENCING. -/
def execDieFlushDone (die : Nat) (s : State) : Out := .next (if die < 4 ∧ (s.die die).st = 2 then s.dieTo die 3 else s)

/-- A matrix engine after a reset of its die: passes and checks count anew (R302). -/
def Mxe.recount (m : Mxe) : Mxe := { m with passes := 0, checks := 0, blamed := [] }

/-- DIE_RESET_DONE (R380): the die's engines count from 1 again, with the check interval 64 (R302, R304); a scan turn that the reset met
is over without a result (R357). -/
def execDieResetDone (die : Nat) (s : State) : Out :=
  .next (if die < 4 ∧ (s.die die).st = 3 then
      { (s.dieTo die 4).modDie die (fun x => { x with mxchk := 64 }) with
        mxes := mapVals s.mxes (fun q m => if q / 32 = die then m.recount else m)
        cores := mapVals s.cores (fun k c => if dieOfCore k = die then { c with closed := false, scanning := false } else c) }
    else s)

/-- A flight that is parked for an access to a die takes HOME_DOWN as a fault when the die goes OUT (R332, R380). -/
def State.failHomes (die : Nat) (s : State) (r : FlightRef) : State :=
  match (s.flight? r).bind (fun f => f.accs.findSome? (fun a => (a.pieces.find? (fun p =>
      p.down && p.refused == farHome s.image.devIdx.toNat die)).map (fun p => (a.id, p.va)))) with
  | some (id, va) => s.outHome r id cHomeDown va
  | none => s

/-- Every flight that has a name. -/
def State.flightRefs (s : State) : List FlightRef :=
  s.wgs.flatMap (fun p => (List.range p.2.flights.length).map (fun i => .wg p.1 i)) ++
    (List.range 16).flatMap (fun k => (s.part k).ctls.map (fun c => .ctl c.1 k))

/-- The cores of a die. -/
def coresOfDie (die : Nat) : List Nat := (List.range 128).map (fun i => 128 * die + i)

/-- DIE_TRAINING_DONE (R380): links trained, with which the scan turn of the die's cores begins (R357); or, at the third attempt that fails,
the die is OUT, with a fatal report, and its parked requesters re-execute to trap HOME_DOWN. -/
def execDieTrainingDone (die : Nat) (trained : Bool) (s : State) : Out :=
  .next (
    if ¬(die < 4 ∧ (s.die die).st = 4) then s
    else
      let s1 := s.modDie die (fun x => { x with tries := x.tries + 1 })
      if trained then { s1.dieTo die 5 with sigs := s1.sigs.map (fun g => (coresOfDie die).foldl (fun g c => Sig.begins c g) g) }
      else if (s1.die die).tries.toNat < 3 then s1
      else
        let s2 := (s1.dieTo die 6).allFlights (Flight.wakeHome die)
        (s2.flightRefs.foldl (State.failHomes die) s2).events [.fatalError errDie])

/-- Bytes of a die's chip scratchpad and of its cores' scratchpads. -/
def onDie (die k : Nat) : Bool :=
  (decide (2 ^ 41 ≤ k) && decide (k < 2 ^ 44) && (k - 2 ^ 41) / 2 ^ 26 == die) ||
    (decide (2 ^ 44 ≤ k) && decide (k < 2 ^ 48) && dieOfCore ((k - 2 ^ 44) / 2 ^ 30) == die)

/-- Journal entries: START, OK, FAIL of a step. -/
def jStart (step : Nat) : Nat := 4 * step
def jOk (step : Nat) : Nat := 4 * step + 1
def jFail (step : Nat) : Nat := 4 * step + 2

/-- The pseudo-channels of a die's stacks that have not trained: four stacks a die, 32 pseudo-channels a stack. -/
def badStacks (die : Nat) (ok : List Bool) : BitVec 512 :=
  (List.range 4).foldl (fun m k => if ok.getD k false then m else m ||| (0xFFFFFFFF#512 <<< (128 * die + 32 * k))) 0

/-- The journal entries of a die's boot steps 4–7 (R379, R380). -/
def rejoinJournal (stackOk : List Bool) (badCores : List Nat) : List Nat :=
  [4, 5, 6, 7].flatMap (fun i => [jStart i,
    if (i == 5 && !(List.range 4).all (fun k => stackOk.getD k false)) || (i == 7 && !badCores.isEmpty) then jFail i else jOk i])

/-- DIE_REJOIN_DONE (R357, R358, R380, R381): boot steps 4–7, journalled, a scan turn of its cores and the scrub of its resources are complete, and
the die is ADMITTED; a core that fails its turn is fenced, a stack that does not train is unmappable (R379). Parked requesters re-execute, and
other devices that met HOME_DOWN there are told. HBM keeps its contents, twin windows and count planes among them (log 24). -/
def execDieRejoinDone (report : Rejoin) (s : State) : Out :=
  .next (
    let die := report.die
    if ¬(die < 4 ∧ (s.die die).st = 5) then s
    else
      let bad := report.badCores.filter (fun c => dieOfCore c == die)
      let s1 : State := { (s.dieTo die 0).dropSpools (onDie die) with
        mem := s.mem.filter (fun c => !onDie die c.1)
        cores := mapVals s.cores (fun k c => if dieOfCore k = die then { c with shadows := [] } else c)
        badChans := s.badChans ||| badStacks die report.stackOk
        readmit := s.readmit.filter (fun p => p.2 != die)
        journal := s.journal ++ rejoinJournal report.stackOk bad }
      let s2 := bad.foldl State.failCore s1
      ((s2.passCores ((coresOfDie die).filter (fun c => !bad.contains c))).allFlights (fun f =>
        ((f.wakeHome die).resendFor (· == farHome s.image.devIdx.toNat die)).restage)).passControl)

/-- READMISSION_MESSAGE (R381): flights that wait for a die of the sending device re-execute, those held for other lanes send the refused
ones again, and so do the sides of copies. -/
def execReadmissionMessage (dev : Nat) (s : State) : Out :=
  .next (
    let s0 := s.allFlights (fun f => [0, 1, 2, 3].foldl (fun f d => f.wakeHome (farHome dev d)) f)
    let s1 := s0.flightRefs.foldl (fun s r => s.resend r (fun n => decide (farHome dev 0 ≤ n) && decide (n ≤ farHome dev 3))) s0
    (List.range 16).foldl (fun s k => State.pumpCtx (256 * k + dev) 65536 s) s1)

/-! ### Boot (R379) -/

/-- A step runs in its fallback form: its last journal entry is a FAIL, or a START without its end. -/
def inFallback (journal : List Nat) (step : Nat) : Bool :=
  match (journal.filter (fun j => j / 4 == step)).getLast? with
  | some j => j % 4 != 1
  | none => false

/-- A boot step whose failure in the fallback form is skipped. -/
def skippable (step : Nat) : Bool := step == 4 || step == 5 || step == 7

/-- An image that a boot step verifies is accepted (R378): both of its signatures verify, and its version is at least the rollback floor. -/
def imageOk (floor : Nat) (x : BootImage) : Bool := x.ed25519 && x.mldsa && decide (floor ≤ x.version)

/-- A boot step passes in the form it runs in. Steps 1 and 2 verify an image, in the fallback form the second copy, or the last image that booted
OK (R378, R379). -/
def bootPasses (floor : Nat) (b : BootReport) (fallback : Bool) (step : Nat) : Bool :=
  if (step == 1 || step == 2) && !imageOk floor (b.images.getD (2 * (step - 1) + (if fallback then 1 else 0)) default) then false
  else if fallback then b.fallback.getD (step - 1) false
  else b.first.getD (step - 1) false && (step != 4 || (List.range 4).all (fun d => b.dieOk.getD d false)) &&
    (step != 5 || (List.range 16).all (fun k => b.stackOk.getD k false)) && (step != 7 || b.badCores.isEmpty)

/-- Pseudo-channels of the stacks that did not train: four stacks a die, 32 pseudo-channels a stack. -/
def bootBadChans (b : BootReport) : BitVec 512 :=
  (List.range 16).foldl (fun m k => if b.stackOk.getD k false then m else m ||| (0xFFFFFFFF#512 <<< (32 * k))) 0

/-- A configuration image takes effect (R378): the board's part stays, and spare frames that replace retired ones are spare no more. -/
def State.takeImage (s : State) (x : Image) : State :=
  { s with image := { x with pool := s.image.pool, spares := x.spares.filter (fun t => s.redirect.all (fun p => p.2 != t)) } }

/-- What a step does to the device (R379). -/
def State.bootWork (s : State) (b : BootReport) (fallback : Bool) (step : Nat) : State :=
  match step with
  | 2 => s.takeImage (if fallback then s.lastImage else (b.images.getD 2 default).content)
  | 4 => if !fallback then s else (List.range 4).foldl (fun s d => if b.dieOk.getD d false then s else s.dieTo d 7) s
  | 5 => if fallback then { s with badChans := bootBadChans b } else s
  | 6 => { s with mem := s.mem.filter (fun c => decide (2 ^ 40 ≤ c.1) ||
      !(s.inTwinWindow (paDie c.1) c.1 || s.inCountPlane (paDie c.1) c.1)) }
  | 7 => if fallback then b.badCores.foldl (fun s c => s.modCore c (fun x => { x with fenced := true })) s else s
  | 8 => { s with mem := s.mem.filter (fun c => decide (c.1 < 2 ^ 40)), booted := true, lastImage := s.image }
  | _ => s

/-- The boot steps in order, journalled, up to the first that leaves the device unbooted, or at which the boot is interrupted: that leaves a
START without its end. -/
def State.bootSteps (b : BootReport) (old : List Nat) : List Nat → State → State
  | [], s => s
  | i :: is, s =>
    if b.cut = some i then { s with journal := s.journal ++ [jStart i] }
    else
    let fb := inFallback old i
    let ok := bootPasses s.rollback b fb i
    let s1 : State := { s with journal := s.journal ++ [jStart i, if ok then jOk i else jFail i] }
    if ok then State.bootSteps b old is (s1.bootWork b fb i)
    else if fb && skippable i then State.bootSteps b old is (s1.bootWork b fb i)
    else s1

/-- BOOT (R379): the device comes up from its reset values; the image, boot flash, and HBM with its retired frames, its lost and its poisoned
sectors and the errors noted of them stay. -/
def execBoot (report : BootReport) (s : State) : Out :=
  .next (State.bootSteps report s.journal [1, 2, 3, 4, 5, 6, 7, 8] { State.reset with
    uid := s.uid, free := s.free, mem := s.mem, image := s.image, lastImage := s.lastImage, lost := s.lost, redirect := s.redirect, poison := s.poison,
    errAt := s.errAt, journal := s.journal, counter := s.counter, rollback := s.rollback })

/-! ### Clock (R382) -/

/-- CLOCK_THROTTLE (R382): 100 MHz down to 1.8 GHz, or up to 3.6 GHz. -/
def execClockThrottle (hot : Bool) (s : State) : Out :=
  .next { s with mhz := if hot then max 1800 (s.mhz - 100) else min 3600 (s.mhz + 100) }

end Sys2Proof.Machine
end

