-- ==== Sys2Proof/Machine/HostCmd.lean ====
section
/-! DEFINITION. The host's side: doorbells, rings, the commands of the launch queues and of the PF, register writes through BAR2
(R373–R377). -/

namespace Sys2Proof.Machine

/-! ### Queues of commands (R373–R375) -/

/-- The ring a command source reads. -/
def State.cmdRing (s : State) : CmdSrc → Ring
  | .vf k q => (s.part k).rings.getD q Ring.off
  | .pf => s.pfRing 0

/-- Changes a command source's ring. -/
def State.modCmd (s : State) (src : CmdSrc) (f : Ring → Ring) : State :=
  match src with
  | .vf k q => s.modPart k (fun p => { p with rings := modAt p.rings q f })
  | .pf => s.modPf 0 f

/-- The source takes commands: its completion ring has room, and it answers PCIe. Partition k does so as the VF that its descriptor names,
while that is VALID and the VF is not disabled (R349, R350); `vf k q` names queue q of that VF. -/
def State.takes? (s : State) : CmdSrc → Bool
  | .vf k q => (s.part k).desc.valid && !((s.part k).rings.getD (16 + q) Ring.off).full && (s.part k).vfOff == 0
  | .pf => !(s.pfRing 16).full

/-- The command at the head of a queue: 64 bytes. -/
def State.headCmd (s : State) (src : CmdSrc) : Option (List Byte) :=
  let r := s.cmdRing src
  if !s.booted || s.contained || r.size = 0 || r.count = 0 || !s.takes? src then none
  else some (readBytes s.mem ((r.entryAt r.cons 64)) 64)

/-- The command's operand of a number: an 8-byte word from byte 8 on (R377; log 9). -/
def opWord (c : List Byte) (i : Nat) : Nat := fieldAt c (8 + 8 * i) 8

/-- The partition a command acts on: its VF's, or the one that byte 1 of a PF command names (R377). -/
def cmdPart (src : CmdSrc) (c : List Byte) : Nat :=
  match src with
  | .vf k _ => k
  | .pf => fieldAt c 1 1

/-- The event of a command code (R374, R377); none where the code is unknown to the source. -/
def cmdEvent (src : CmdSrc) (code : Nat) : Option Instr :=
  let pf := src == .pf
  let only := fun (i : Instr) => if pf then some i else none
  match code with
  | 0x01 => some (.launchCommand src)
  | 0x02 => some (.inval src)
  | 0x03 => some (.fresume src)
  | 0x04 => some (.trapres src)
  | 0x05 => some (.arm src)
  | 0x06 => some (.tokreq src)
  | 0x07 => some (.tokread src)
  | 0x08 => only (.clearlost src)
  | 0x09 => some (.logput src)
  | 0x0A => some (.capture src)
  | 0x0B => some (.preempt src)
  | 0x0C => only (.diereset src)
  | 0x10 => only (.partset src)
  | 0x11 => only (.ctxset src)
  | 0x12 => only (.regset src)
  | 0x13 => only (.ctxrun src)
  | 0x14 => only (.ringset src)
  | 0x15 => only (.ctlrun src)
  | _ => none

/-- The position the next command of a source takes. -/
def State.cmdSeq (s : State) : CmdSrc → Word
  | .vf k q => (s.part k).seqs.getD q 0
  | .pf => s.pfSeq

/-- The queue of a source, as entries name it; 16 is the PF's. -/
def cmdQueue : CmdSrc → Nat
  | .vf _ q => q
  | .pf => 16

/-- A command leaves its queue. -/
def State.popCmd (s : State) (src : CmdSrc) : State :=
  let s1 := s.modCmd src (fun r => { r with cons := r.cons + 1 })
  match src with
  | .vf k q => s1.modPart k (fun p => { p with seqs := modAt p.seqs q (· + 1) })
  | .pf => { s1 with pfSeq := s1.pfSeq + 1 }

/-- The completion entry of a command other than LAUNCH (R375). -/
def cmdEntry (src : CmdSrc) (part : Nat) (seq : Word) (code : Nat) : OwedEntry :=
  { queue := cmdQueue src, seq, lid := 0, kind := 2, code, reason := 0, origin := 0, part, state := 0, ctr := none }

/-- Looks at the head of a queue: an unknown code completes with 0xFF, a known one is the next event. -/
def State.pump (src : CmdSrc) : Nat → State → State
  | 0, s => s
  | n + 1, s =>
    match s.headCmd src with
    | none => s
    | some c =>
      match cmdEvent src (fieldAt c 0 1) with
      | some i => s.events [i]
      | none => State.pump src n ((s.popCmd src).owe (cmdPart src c) (cmdEntry src (cmdPart src c) (s.cmdSeq src) 0xFF))

/-- Looks at every queue. -/
def State.pumpAll (s : State) : State :=
  let s1 := (List.range 16).foldl (fun s k => (List.range 16).foldl (fun s q => State.pump (.vf k q) 65536 s) s) s
  State.pump .pf 65536 s1

/-- What a command comes to: it waits at the head of its queue, with or without an effect already, completes with a code, or completes
later. -/
inductive CmdEnd where
  | hold
  | stay (f : State → State)
  | code (c : Nat)
  | later

/-- Runs the head command of a queue if it has the code. -/
def command (src : CmdSrc) (code : Nat) (body : State → Nat → Word → List Byte → State × CmdEnd) (s : State) : Out :=
  .next (match s.headCmd src with
  | none => s
  | some c =>
    if fieldAt c 0 1 ≠ code then s
    else
      let k := cmdPart src c
      let seq := s.cmdSeq src
      let s0 := s.popCmd src
      let done := fun (s : State) (x : Nat) => State.pump src 65536 (s.owe k (cmdEntry src k seq x))
      if src = .pf ∧ (16 ≤ k ∨ fieldAt c 2 6 ≠ 0) then done s0 0xFE
      else match body s0 k seq c with
        | (_, .hold) => s
        | (_, .stay f) => f s
        | (s1, .code x) => done s1 x
        | (s1, .later) => State.pump src 65536 s1)

/-- A command that halts workgroups waits for the end of a tick under way (R368). -/
def atBoundary (src : CmdSrc) (i : Instr) (run : State → Out) (s : State) : Out :=
  match s.headCmd src with
  | some c => if s.inTick (cmdPart src c) then .next (s.afterTick (cmdPart src c) (.event i)) else run s
  | none => run s

/-- The context a partition's command acts on: the running one, else the one that ran last. -/
def State.cmdCtx (s : State) (k : Nat) : Option Nat := (s.part k).cur.or (s.part k).last

/-! ### The doorbell and consumer counts (R373, R376) -/

/-- The producer count of a queue of commands rises; its commands are taken. -/
def State.doorbell (src : CmdSrc) (prod : Word) (s : State) : State :=
  let r := s.cmdRing src
  let legal := match src with
    | .vf k q => decide (k < 16) && decide (q < 16) && (s.part k).desc.valid
    | .pf => true
  if !legal || s.contained || r.size = 0 || decide (r.size.toNat < (prod - r.cons).toNat) then s
  else State.pump src 65536 (s.modCmd src (fun r => { r with prod }))

/-- LAUNCH_DOORBELL (R373, R376). -/
def execLaunchDoorbell (src : CmdSrc) (prod : Word) (s : State) : Out := .next (s.doorbell src prod)

/-- Applies a change to every flight of a context, its control programs among them. -/
def State.ctxFlights (s : State) (part ctx : Nat) (f : Flight → Flight) : State :=
  { s with
    wgs := mapVals s.wgs (fun _ g => if g.part ≠ part ∨ g.ctx ≠ ctx then g else { g with flights := g.flights.map f })
    parts := modAt s.parts part (fun p => { p with ctls := mapVals p.ctls (fun _ c => if c.ctx ≠ ctx then c else { c with flight := f c.flight }) }) }

/-- Flights that wait for a page without an outstanding entry fault again (R195). -/
def State.wakeFaults (s : State) (part ctx : Nat) : State :=
  let fs := ((s.part part).ctx ctx).faults
  s.ctxFlights part ctx (fun f => match f.wait with
    | .fault page => if fs.any (fun p => p.2 == page) then f else { f with wait := .ready }
    | _ => f)

/-- A ring has room again, or is placed anew: the entries that waited for it are written, and commands that it held up are taken
(R376). -/
def State.ringMoved (s : State) (table : RingTable) (n : Nat) : State :=
  match table with
  | .pf =>
    if n = 16 then State.pump .pf 65536 (State.flushPf (s.pfDirect.length + s.pfOwed.length + 1) s)
    else if n = 32 then State.flushTokens (s.pfTokens.length + 1) s
    else if 48 ≤ n ∧ n < 52 then State.flushEvents (n - 48) ((s.die (n - 48)).evWait.length + 1) s
    else s
  | .part k =>
    if n < 16 then s
    else if n < 32 then State.pump (.vf k (n - 16)) 65536 (s.flush k)
    else match s.cmdCtx k with
      | none => s
      | some c =>
        if n = 32 then s.wakeFaults k c
        else if n = 33 then State.flushTraps k c (((s.part k).ctx c).trapOwed.length + 1) s
        else if n = 34 then (List.range 16).foldl (fun s q => State.pump (.vf k q) 65536 s) s
        else s

/-- A ring with a new consumer count, if it lies within the entries held. -/
def Ring.consume (r : Ring) (cons : Word) : Ring := if (cons - r.cons).toNat ≤ r.count then { r with cons } else r

/-- A new consumer count of a device-produced ring; entries that waited for room are written. -/
def State.consWrite (table : RingTable) (ring : Nat) (cons : Word) (s : State) : State :=
  if s.contained then s else match table with
  | .pf => if ring = 16 ∨ ring = 32 ∨ (48 ≤ ring ∧ ring ≤ 51) then (s.modPf ring (fun r => r.consume cons)).ringMoved .pf ring else s
  | .part k =>
    if !(s.part k).desc.valid || decide (ring < 16) then s
    else if ring < 32 then
      (s.modPart k (fun p => { p with rings := modAt p.rings ring (fun r => r.consume cons) })).ringMoved table ring
    else match s.cmdCtx k with
      | none => s
      | some c => (s.modCtx k c (fun x =>
          if ring = 32 then { x with fqring := x.fqring.consume cons }
          else if ring = 33 then { x with trapring := x.trapring.consume cons }
          else if ring = 34 then { x with logring := x.logring.consume cons } else x)).ringMoved table ring

/-- RING_CONS_WRITE (R376): the host frees room in a device-produced ring. -/
def execRingConsWrite (table : RingTable) (ring : Nat) (cons : Word) (s : State) : Out := .next (s.consWrite table ring cons)

/-! ### Commands of every queue (R374) -/

/-- LAUNCH_COMMAND (R152, R153): a launch enters; with a full run log it waits (R365). A partition whose VF is disabled accepts nothing
(R350): a LAUNCH that the PF sends it completes with 0xFE, the code of R377 (log 33). -/
def execLaunchCommand (src : CmdSrc) (s : State) : Out :=
  command src 0x01 (fun s0 k seq c =>
    if (s0.part k).vfOff ≠ 0 then (s0, .code 0xFE)
    else match s0.cmdCtx k with
    | none => (s0, .hold)
    | some x =>
      if s0.logFull k x 11 then (s0, .hold)
      else
        let (s1, _) := s0.acceptLaunch k x (cmdQueue src) seq 0 (opWord c 0)
        (s1, .later)) s

/-- The flight has an access outstanding whose address lies in a range of local addresses. -/
def Flight.outstandingIn (f : Flight) (lo n : Nat) : Bool :=
  f.accs.any (fun a => a.pieces.any (fun q =>
    !q.done && !q.keys.isEmpty && decide (vaLocal q.va < lo + n) && decide (lo < vaLocal q.va + q.len)))

/-- Some flight of a partition has an access outstanding in a range of local addresses. -/
def State.outstandingIn (s : State) (part lo n : Nat) : Bool :=
  s.wgs.any (fun p => p.2.part == part && p.2.flights.any (fun f => f.outstandingIn lo n)) ||
    (s.part part).ctls.any (fun c => c.2.flight.outstandingIn lo n)

/-- A cached translation of a page in a range of local addresses. -/
def TlbEntry.within (lo n : Nat) (e : TlbEntry) : Bool := decide (lo < e.vpage * 4096 + 4096) && decide (e.vpage * 4096 < lo + n)

/-- INVAL (R194, R388): the cached translations of a range are dropped, of every context of the partition; DEVICE and TWIN of the range's
address do not matter, since twin accesses translate through their primal's entry (R238). The command completes once the accesses of the
range have taken their place, and 4,096 cycles after it has dropped an entry of a SPAN page. -/
def execInval (src : CmdSrc) (s : State) : Out :=
  command src 0x02 (fun s0 k _ c =>
    let q := cmdQueue src
    let lo := vaLocal (BitVec.ofNat 64 (opWord c 0))
    let n := opWord c 1
    let p := s0.part k
    let gone := p.tlb.filter (TlbEntry.within lo n)
    let invals := if gone.any (fun e => e.leaf.span) then put p.invals q s0.cyc else p.invals
    let drop := fun (s : State) => s.modPart k (fun p => { p with tlb := p.tlb.filter (fun e => !e.within lo n), invals })
    if s0.outstandingIn k lo n || ((look invals q).map (fun t => decide (s0.cyc < t + 4096))).getD false then (s0, .stay drop)
    else ((drop s0).modPart k (fun p => { p with invals := del p.invals q }), .code 0)) s

/-- Everything that waits for a page goes on (R195, R278). -/
def State.resumePage (s : State) (part ctx page : Nat) : State :=
  let s1 := s.ctxFlights part ctx (fun f => if f.wait = Wait.fault page then { f with wait := .ready } else f)
  { s1 with
    cores := mapVals s1.cores (fun _ c => { c with copies := mapVals c.copies (fun _ x =>
      if x.part = part ∧ x.ctx = ctx ∧ x.paused = some page then { x with paused := none } else x) })
    mxes := mapVals s1.mxes (fun _ m => { m with entries := mapVals m.entries (fun _ x =>
      if x.part = part ∧ x.ctx = ctx ∧ x.paused = some page then { x with paused := none } else x) }) }

/-- FRESUME (R195): a fault queue entry is resumed. -/
def execFresume (src : CmdSrc) (s : State) : Out :=
  command src 0x03 (fun s0 k _ c =>
    let n := opWord c 0
    match (List.range 16).find? (fun x => ((s0.part k).ctx x).faults.any (fun p => p.1 == n) && (s0.cmdCtx k == some x)) with
    | none => (s0, .code 0xFE)
    | some x =>
      let fs := ((s0.part k).ctx x).faults
      let page := ((fs.find? (fun p => p.1 == n)).map (·.2)).getD 0
      ((s0.modCtx k x (fun y => { y with faults := y.faults.filter (fun p => p.1 != n) })).resumePage k x page, .code 0)) s

/-- The halted workgroup of a partition whose trap queue entry has a count: of the running context first. -/
def State.halted? (s : State) (k n : Nat) : Option (Nat × Wg) :=
  let mine := s.wgs.filter (fun p => p.2.part == k && p.2.entryAt == some n)
  (mine.find? (fun p => s.cmdCtx k == some p.2.ctx)).or mine.head?

/-- TRAPRES (R337): an entry is resolved by 0 RESUME, 1 SKIP or 2 KILL. -/
def execTrapres (src : CmdSrc) (s : State) : Out :=
  command src 0x04 (fun s0 k _ c =>
    let n := opWord c 0
    let action := opWord c 1
    if 2 < action then (s0, .code 0xFE)
    else match s0.halted? k n with
      | some (w, g) =>
        let kind := ((g.flights[g.firstFlt.toNat]?).map (·.kind)).getD 0
        if action = 1 ∧ kind ≠ 0 then (s0, .code 0xFE)
        else if g.dbg ∨ g.st = .switchedOut then (s0.modWg w (fun g => { g with resolve := some action }), .code 0)
        else (s0.resolveTrap w action, .code 0)
      | none =>
        match (s0.part k).ctls.find? (fun p => p.2.halted && p.2.entryAt == some n) with
        | some (d, x) =>
          if action = 1 ∧ x.flight.kind ≠ 0 then (s0, .code 0xFE)
          else if action = 2 then (s0.endControl d k, .code 0)
          else (s0.resolveCtl d k action, .code 0)
        | none =>
          let named := ((s0.part k).ctx ((s0.cmdCtx k).getD 0)).reports.contains n
          (s0, .code (if action = 1 ∧ named then 0xFE else 0))) s

/-- ARM (R149). -/
def execArm (src : CmdSrc) (s : State) : Out :=
  command src 0x05 (fun s0 k _ c =>
    let i := opWord c 0
    if noCounter ≤ i ∨ 3 < opWord c 3 then (s0, .code 0xFE)
    else match s0.cmdCtx k with
      | none => (s0, .hold)
      | some x =>
        if (s0.ctr k x i).state = stPending then (s0, .code 1)
        else (s0.arm k x i (opWord c 1) (opWord c 2 % 4096) (opWord c 3), .code 0)) s

/-- TOKREQ (R355): a reissue of the last token with the nonce given. -/
def execTokreq (src : CmdSrc) (s : State) : Out :=
  command src 0x06 (fun s0 k _ c =>
    let p := s0.part k
    match p.cur with
    | some x =>
      if p.token.isEmpty then (s0, .hold)
      else
        let (s1, tok) := s0.sign k (reissued p.token (slice c 8 32))
        (s1.record k x tok true, .code 0)
    | none => (s0, .hold)) s

/-- TOKREAD (R355): the host reads the last token into the 4,096 bytes it names (log 9). -/
def execTokread (src : CmdSrc) (s : State) : Out :=
  command src 0x07 (fun s0 k _ c =>
    let p := s0.part k
    if p.token.isEmpty then (s0, .code 0xFE) else (s0.putBytes ((opWord c 0)) p.token, .code 0)) s

/-- CLEARLOST (R360): the lost sectors in a physical range read zero from now on. -/
def execClearlost (src : CmdSrc) (s : State) : Out :=
  command src 0x08 (fun s0 _ _ c =>
    let pa := opWord c 0
    let n := opWord c 1
    let keys := s0.lost.filter (fun k => (List.range ((n + 127) / 128 + 1)).any (fun i =>
      let a := pa / 128 * 128 + 128 * i
      decide (a < pa + n) && a / 128 == k))
    let mem := keys.foldl (fun m k => writeBytes m (128 * k) (List.replicate 128 0)) s0.mem
    ({ s0.dropSpools (fun k => keys.contains (k / 128)) with mem, lost := s0.lost.filter (fun k => !keys.contains k) }, .code 0)) s

/-- LOGPUT (R365): a kind 4 record; with a full log it waits. -/
def execLogput (src : CmdSrc) (s : State) : Out :=
  command src 0x09 (fun s0 k seq c =>
    match s0.cmdCtx k with
    | none => (s0, .hold)
    | some x =>
      if s0.logFull k x 1 then (s0, .hold)
      else (s0.logAppend k x [logRec 4 0 (cmdQueue src % 16) 0 (opWord c 0) seq.toNat s0.clk.toNat], .code 0)) s

/-- A byte string in 32-byte records. -/
def records32 : Nat → List Byte → List (List Byte)
  | 0, _ => []
  | n + 1, bs => bs.take 32 :: records32 n (bs.drop 32)

/-- The records of a capture (R366): a kind 2 record, a kind 3 record for every run, the records of halted and saved flights. -/
def State.captureRecs (s : State) (k x : Nat) : List (List Byte) :=
  let now := s.clk.toNat
  let runs := s.runs.filterMap (fun p => (look s.launches p.2.launch).bind (fun l =>
    if l.part = k ∧ l.ctx = x then some (logRec 3 0 0 l.id.toNat p.2.cursor p.2.reissue.length now) else none))
  let tick := if (s.part k).cur = some x then (s.part k).tick else ((s.part k).ctx x).tick
  let gs := s.wgs.filter (fun p => p.2.part == k && p.2.ctx == x && (p.2.st == .halted || p.2.st == .switchedOut))
  [logRec 2 0 0 0 tick 0 now] ++ runs ++ gs.flatMap (fun p => (List.range p.2.flights.length).flatMap (fun i =>
    match p.2.flights[i]? with
    | some f => records32 64 (s.flightRecord (.wg p.1 i) f)
    | none => []))

/-- CAPTURE (R366): once the context is SAVED under mode D, or none of its launches is PENDING, its records are written; with too little room in
the log it waits. -/
def execCapture (src : CmdSrc) (s : State) : Out :=
  command src 0x0A (fun s0 k _ _ =>
    match s0.cmdCtx k with
    | none => (s0, .hold)
    | some x =>
      let busy := s0.launches.any (fun p => p.2.part == k && p.2.ctx == x && !p.2.ended)
      let recs := s0.captureRecs k x
      if (busy && !(((s0.part k).ctx x).st == .saved && ((s0.part k).ctx x).drained)) || s0.logFull k x recs.length then (s0, .hold)
      else (s0.logAppend k x recs, .code 0)) s

/-- PREEMPT (R341, R342): the running context is to leave by mode 0 D, 1 H or 2 F; the entry follows once it has left. -/
def execPreempt (src : CmdSrc) (s : State) : Out :=
  atBoundary src (.preempt src) (command src 0x0B (fun s0 k seq c =>
    let mode := opWord c 0
    if 2 < mode then (s0, .code 0xFE)
    else if (s0.part k).cur.isNone then (s0, .code 0)
    else
      let e := cmdEntry src k seq 0
      ((s0.modPart k (fun p => { p with onLeave := p.onLeave ++ [e] })).requestSwitch k mode none, .later))) s

/-- DIERESET (R380). -/
def execDiereset (src : CmdSrc) (s : State) : Out :=
  command src 0x0C (fun s0 _ _ c =>
    let d := opWord c 0
    if 4 ≤ d then (s0, .code 0xFE)
    else match (s0.die d).st with
      | 0 => (s0.fenceDie d, .code 0)
      | 6 => (((s0.dieTo d 3).modDie d Die.count).logErr 1 errDie d ((s0.partsOn d).map .part), .code 0)
      | 7 => (s0, .code 2)
      | _ => (s0, .code 1)) s

/-! ### Commands of the PF (R377) -/

/-- A partition descriptor from its 256-byte image (R347). -/
def PartDesc.ofBytes (b : List Byte) : PartDesc where
  quads := BitVec.ofNat 128 (fieldAt b 0 16)
  slices := BitVec.ofNat 512 (fieldAt b 16 64)
  pchan := BitVec.ofNat 512 (fieldAt b 80 64)
  strms := BitVec.ofNat 512 (fieldAt b 144 64)
  ctl := BitVec.ofNat 8 (fieldAt b 208 1 % 8)
  vf := BitVec.ofNat 8 (fieldAt b 209 1)
  cswin := BitVec.ofNat 32 (fieldAt b 212 4)
  csoff := BitVec.ofNat 32 (fieldAt b 216 4)

/-- Two windows share a byte. -/
def windowsMeet (a b : Nat × Nat) : Bool := a.2 != 0 && b.2 != 0 && decide (a.1 < b.1 + b.2) && decide (b.1 < a.1 + a.2)

/-- A context cannot be changed while it is on its way (R348, R377). -/
def CtxState.busy (c : CtxState) : Bool := c == .running || c == .draining || c == .halting

/-- The refusal code of a descriptor write; 0 where it is accepted (R348). -/
def State.partCode (s : State) (k : Nat) (d : PartDesc) : Nat :=
  let others := ((List.range 16).filter (· != k)).map (fun i => (s.part i).desc) |>.filter PartDesc.valid
  let dies := List.range 4
  if others.any (fun e => e.quads &&& d.quads != 0 || e.slices &&& d.slices != 0 || e.pchan &&& d.pchan != 0 || e.strms &&& d.strms != 0) then 1
  else if d.ctl.getLsbD 1 && others.any (fun e => e.ctl.getLsbD 1) then 2
  else if d.vf = 0 ∨ 16 < d.vf.toNat ∨ others.any (fun e => e.vf == d.vf) then 3
  else if (List.range 512).any (fun c => d.strms.getLsbD c && !d.quads.getLsbD (quadOfCore c)) then 4
  else if dies.any (fun x => d.pchan.extractLsb' (x * 128) 128 != 0 && !d.ownsSlice x) then 5
  else if dies.any (fun x => decide (56 < (d.window x).1 + (d.window x).2) || others.any (fun e => windowsMeet (d.window x) (e.window x))) then 6
  else if (s.part k).ctxs.any (fun c => c.st.busy) then 7 else 0

/-- PARTSET (R347, R348, R351): an accepted write changes hands: what the partition gives up it has to have cleared anew, should it come
back; a descriptor that becomes VALID forms the partition, and T starts
at 0. While a VF is being disabled the write waits for the end of that (R350); a VALID descriptor then makes the partition anew. -/
def execPartset (src : CmdSrc) (s : State) : Out :=
  command src 0x10 (fun s0 k _ c =>
    let image := readBytes s0.mem ((opWord c 0)) 256
    let d := PartDesc.ofBytes image
    let code := s0.partCode k d
    if (s0.part k).vfOff = 1 then (s0, .hold)
    else if code ≠ 0 then (s0, .code code)
    else
      let s1 := s0.saveLazy k none
      let fresh := d.valid && !(s1.part k).desc.valid
      (s1.modPart k (fun p => { p with
        desc := d
        clean := p.clean.meet d
        written := image.take 208
        formed := p.formed && !fresh
        vfOff := if d.valid then 0 else p.vfOff
        tick := if fresh then 0 else p.tick }), .code 0)) s

/-- A power of two between bounds. -/
def powerIn (lo hi n : Nat) : Bool := decide (lo ≤ n) && decide (n ≤ hi) && 2 ^ Nat.log2 n == n

/-- CTXSET (R351). -/
def execCtxset (src : CmdSrc) (s : State) : Out :=
  command src 0x11 (fun s0 k _ c =>
    let slot := opWord c 0
    let b := readBytes s0.mem ((opWord c 1)) 128
    let d : CtxDesc := {
      tenant := BitVec.ofNat 64 (fieldAt b 0 8), save := BitVec.ofNat 64 (fieldAt b 8 8), tokbuf := BitVec.ofNat 64 (fieldAt b 16 8)
      nonce := BitVec.ofNat 256 (fieldAt b 24 32), logbase := BitVec.ofNat 64 (fieldAt b 56 8), logsize := BitVec.ofNat 32 (fieldAt b 64 4) }
    let size := d.logsize.toNat
    let ok := decide (slot < 16) && d.tenant != 0 && d.save.toNat % 2 ^ 21 == 0 && d.tokbuf.toNat % 4096 == 0 && d.logbase.toNat % 4096 == 0 &&
      (if d.logbase = 0 then size == 0 else powerIn 1 512 size)
    if !ok then (s0, .code 0xFE)
    else if ((s0.part k).ctx slot).st.busy then (s0, .code 7)
    else (s0.modCtx k slot (fun x => { x with
      desc := d, onList := bitAt (opWord c 2) 0, st := if x.st = .absent then .saved else x.st }), .code 0)) s

/-- The translation context of a 40-byte image (R189). -/
def TransCtx.ofBytes (b : List Byte) : TransCtx :=
  let w := fun i => fieldAt b (8 * i) 8
  { root1 := BitVec.ofNat 64 (bits (w 0) 39 12 * 4096), stage2 := bitAt (w 0) 0, root2 := BitVec.ofNat 64 (bits (w 1) 39 12 * 4096),
    twd := BitVec.ofNat 11 (w 2), fqbase := BitVec.ofNat 64 (bits (w 3) 39 12 * 4096), fqsize := BitVec.ofNat 32 (bits (w 3) 11 0),
    ctrbase := BitVec.ofNat 64 (bits (w 4) 39 17 * 2 ^ 17) }

/-- The domain context of a 40-byte image; QUIET reads as the nearer limit (R386). -/
def DomCtx.ofBytes (b : List Byte) : DomCtx :=
  let w := fieldAt b 0 8
  { quiet := BitVec.ofNat 32 (min 1000 (max 12 (bits w 41 32))), domen := bitAt w 16, domid := BitVec.ofNat 16 w,
    peers := BitVec.ofNat 256 (fieldAt b 8 32) }

/-- REGSET (R189, R341, R377, R386). -/
def execRegset (src : CmdSrc) (s : State) : Out :=
  command src 0x12 (fun s0 k _ c =>
    let slot := opWord c 0
    let block := opWord c 1
    let b := readBytes s0.mem ((opWord c 2)) 40
    if 16 ≤ slot ∨ 2 < block then (s0, .code 0xFE)
    else if block = 2 then
      let w := fieldAt b 0 8
      let s1 := s0.modPart k (fun p => { p with
        slice := BitVec.ofNat 32 (bits w 63 32), ddead := BitVec.ofNat 16 (bits w 31 16), parkth := BitVec.ofNat 8 (bits w 15 8)
        smode := BitVec.ofNat 2 w })
      (if (s0.part k).slice = 0 ∧ (s0.part k).cur.isSome then s1.startSlice k else s1, .code 0)
    else if ((s0.part k).ctx slot).st.busy then (s0, .code 7)
    else if block = 1 then (s0.modCtx k slot (fun x => { x with dom := DomCtx.ofBytes b }), .code 0)
    else
      let t := TransCtx.ofBytes b
      if !(t.fqsize = 0 || powerIn 16 2048 t.fqsize.toNat) then (s0, .code 0xFE)
      else ((s0.modCtx k slot (fun x => { x with trans := t })).initCounters k slot, .code 0)) s

/-- CTXRUN (R342, R377): the running context leaves by the mode and the slot's context is switched in; the entry follows once it
runs. -/
def execCtxrun (src : CmdSrc) (s : State) : Out :=
  atBoundary src (.ctxrun src) (command src 0x13 (fun s0 k seq c =>
    let slot := opWord c 0
    let mode := opWord c 1
    let p := s0.part k
    if 16 ≤ slot ∨ 2 < mode ∨ !p.desc.valid ∨ (p.ctx slot).st = .absent then (s0, .code 0xFE)
    else if p.cur = some slot ∧ (p.ctx slot).st = .running ∧ (p.switch.map (·.deferred)).getD true then (s0, .code 0)
    else
      let s1 := s0.modPart k (fun p => { p with onEnter := p.onEnter ++ [cmdEntry src k seq 0] })
      (if p.cur.isSome then s1.requestSwitch k mode (some slot) else s1.events [.contextRestore k slot], .later))) s

/-- The image of a ring descriptor: BASE and SIZE (R376). -/
def ringImage (b : List Byte) : Ring := { base := BitVec.ofNat 64 (fieldAt b 0 8), size := BitVec.ofNat 32 (fieldAt b 8 4), prod := 0, cons := 0 }

/-- A ring's descriptor can be placed: SIZE 0 or a power of two from 16 to 65,536, BASE 4 KiB-aligned. -/
def Ring.placed (r : Ring) : Bool := (r.size = 0 || powerIn 16 65536 r.size.toNat) && r.base.toNat % 4096 == 0

/-- RINGSET (R376). -/
def execRingset (src : CmdSrc) (s : State) : Out :=
  command src 0x14 (fun s0 k _ c =>
    let table := opWord c 0
    let n := opWord c 1
    let r := ringImage (readBytes s0.mem ((opWord c 2)) 32)
    let busy := fun (x : Ring) => x.prod != x.cons
    if table = 1 then
      if !(n = 0 || n = 16 || n = 32 || (48 ≤ n && n ≤ 51)) || !r.placed then (s0, .code 0xFE)
      else if busy (s0.pfRing n) then (s0, .code 1)
      else ((s0.modPf n (fun _ => r)).ringMoved .pf n, .code 0)
    else if 1 < table ∨ 34 < n then (s0, .code 0xFE)
    else if n < 32 then
      if !r.placed then (s0, .code 0xFE)
      else if busy ((s0.part k).rings.getD n Ring.off) then (s0, .code 1)
      else ((s0.modPart k (fun p => { p with rings := modAt p.rings n (fun _ => r) })).ringMoved (.part k) n, .code 0)
    else
      let x := (s0.cmdCtx k).getD 0
      let ctx := (s0.part k).ctx x
      let old := if n = 32 then ctx.fqring else if n = 33 then ctx.trapring else ctx.logring
      if n = 33 ∧ !r.placed then (s0, .code 0xFE)
      else if busy old then (s0, .code 1)
      else ((s0.modCtx k x (fun y => if n = 32 then { y with fqring := Ring.off } else if n = 33 then { y with trapring := r, reports := [] }
        else { y with logring := Ring.off })).ringMoved (.part k) n, .code 0)) s

/-- CTLRUN (R169): a control program starts; its entry follows when it exits. -/
def execCtlrun (src : CmdSrc) (s : State) : Out :=
  command src 0x15 (fun s0 k seq c =>
    let die := opWord c 0
    match s0.cmdCtx k with
    | none => (s0, .hold)
    | some x =>
      match s0.readVa k x (opWord c 2) 64 with
      | none => (s0, .code 0xFE)
      | some args =>
        if 4 ≤ die then (s0, .code 0xFE)
        else if (look (s0.part k).ctls die).isSome then (s0, .code 1)
        else
          let s015 := (List.range 16).map (fun i => BitVec.ofNat 32 (fieldAt args (4 * i) 4))
          let f := { Flight.fresh 0 (BitVec.ofNat 64 (opWord c 1)) s015 (List.replicate 32 0) with
            exited := 0xFFFFFFFE, late := 0 }
          (s0.modPart k (fun p => { p with ctls := put p.ctls die ⟨x, seq, f, false, none⟩ }), .later)) s

/-! ### Register writes (R338, R339, R377, R382) -/

/-- A flight whose RW fields software may write: of a halted or switched-out workgroup (R338). -/
def State.writable (s : State) (r : FlightRef) : Bool :=
  ((s.wgOf r).map (fun g => g.st == .halted || g.st == .switchedOut)).getD false

/-- A flight with a new resume point (R339) waits no longer for the outcome of the instruction it stood at; where it has arrived at a
rendezvous, its arrival stands (log 33). -/
def Flight.leaveHold (f : Flight) : Flight :=
  { f with opDue := none, opBuf := none, known := [], wait := if f.wait.keeps then .ready else f.wait }

/-- A new STOPPC (R339): threads that stand at the old one, outside a clause, stand at the new one. -/
def Flight.setStopPc (f : Flight) (x : Dword) : Flight :=
  let moved : Word := maskOf (fun l => f.sg = 0 && x != f.stopPc && f.running.getLsbD l && f.pc.getD l 0 == f.stopPc)
  { f.leaveHold with
    stopPc := x
    late := f.late &&& ~~~moved
    lateHdrs := f.lateHdrs.filter (fun p => !moved.getLsbD p.1)
    pc := setLanes f.pc (fun l => moved.getLsbD l) (fun _ => x) }

/-- A new IX (R339): the threads at STOPPC resume there. -/
def Flight.setStopIx (f : Flight) (i : Nat) : Flight :=
  { f.leaveHold with
    stopIx := i
    sg := if f.sg = 0 ∧ i ≠ 0 then maskOf (fun l => f.running.getLsbD l && f.pc.getD l 0 == f.stopPc) else f.sg }

/-- A new pc of a thread (R339): the thread stands at that header, outside the clause that others stopped in, and has not met the wait test
there (R126). -/
def Flight.setStopAt (f : Flight) (l : Nat) (x : Dword) : Flight :=
  let out : Word := maskOf (fun k => k == l && (f.sg = 0 || x != f.stopPc))
  { (if f.sg &&& ~~~out = f.sg then f else f.leaveHold) with
    pc := setLanes f.pc (fun k => k == l) (fun _ => x)
    late := f.late &&& ~~~out
    lateHdrs := f.lateHdrs.filter (fun p => !out.getLsbD p.1)
    sg := f.sg &&& ~~~out }

/-- Changes an empty ring through BAR2 (R376). -/
def State.modRing (s : State) (table : RingTable) (n : Nat) (f : Ring → Ring) : State :=
  let g := fun (r : Ring) => if r.prod = r.cons ∧ (f r).placed then f r else r
  let s1 := match table with
    | .pf => if n = 0 || n = 16 || n = 32 || (48 ≤ n && n ≤ 51) then s.modPf n g else s
    | .part k => if n < 32 then s.modPart k (fun p => { p with rings := modAt p.rings n g })
      else if n = 33 then (match s.cmdCtx k with
        | some c => s.modCtx k c (fun x => { x with trapring := g x.trapring })
        | none => s)
      else s
  s1.ringMoved table n

/-- REGISTER_WRITE (R338, R339, R376, R382): a written STOPPC, IX or pc takes effect as the new resume point. -/
def execRegisterWrite (target : RegTarget) (value : Dword) (s : State) : Out :=
  .next (
    let w : Word := value.extractLsb' 0 32
    let on := fun (r : FlightRef) (f : Flight → Flight) => if s.writable r && !s.contained then s.modFlight r f else s
    match target with
    | .pcap => if s.contained then s else { s with pcap := w }
    | .ringBase t n => if s.contained then s else s.modRing t n (fun r => { r with base := value })
    | .ringSize t n => if s.contained then s else s.modRing t n (fun r => { r with size := w })
    | .ringProd t n => (match t with
      | .pf => if n = 0 then s.doorbell .pf w else s
      | .part k => if n < 16 then s.doorbell (.vf k n) w else s)
    | .ringCons t n => s.consWrite t n w
    | .portRelease => if s.contained then { s with contained := false }.pumpAll else s
    | .stopPc r => on r (fun f => f.setStopPc value)
    | .ix r => on r (fun f => f.setStopIx (bits value.toNat 3 0))
    | .rngctr r => on r (fun f => { f with rngctr := value })
    | .fsr r => on r (fun f => { f with fsr := w &&& 0xFF })
    | .qpred r => on r (fun f => { f with qpred := value.extractLsb' 0 8 &&& 0x7F })
    | .cb r i => on r (fun f => { f with cb := modAt f.cb i (fun _ => value.extractLsb' 0 16) })
    | .sreg r i => on r (fun f => if i < 160 then f.setS i w else f)
    | .pc r l => on r (fun f => f.setStopAt l value)
    | .mr r l => on r (fun f => { f with mr := setLanes f.mr (fun k => k == l) (fun _ => value) })
    | .pred r l => on r (fun f => (List.range 7).foldl (fun f i => f.setP l i (value.getLsbD i)) f))

end Sys2Proof.Machine
end

