-- ==== Sys2Proof/Machine/Fabric.lean ====
section
/-! DEFINITION. The fabric: planes, requests of other devices, replies, delivery contexts, link stops (R383–R395). -/

namespace Sys2Proof.Machine

/-! ### Planes (R383, R389) -/

/-- A line lies in a SPAN page that this device has reached. -/
def State.spanLine (s : State) (line : Nat) : Bool :=
  s.parts.any (fun p => p.tlb.any (fun e => e.leaf.span && e.leaf.base / 4096 == line / 16))

/-- PLANES changes by one plane: the planes as they were are remembered, for the writes that their lines' new homes hold, and such a line
takes its logical times from the first request that its new home serves (R389). -/
def State.replane (s : State) (plane : Nat) (up : Bool) : State :=
  let dev := s.image.devIdx.toNat
  let planes := setBit s.planes plane up
  { s with
    planes
    spanHold := s.spanHold.filter (fun p => p.1 != plane) ++ [(plane, (s.planes.toNat, s.cyc))]
    lineTime := s.lineTime.filter (fun p =>
      !(s.spanLine p.1 && homePlane s.planes dev (256 * p.1) != homePlane planes dev (256 * p.1))) }

/-- PLANE_DOWN (R383, R389): a port leaves PLANES; its lines take new homes. With PLANES empty every delivery context fails (R392). -/
def execPlaneDown (plane : Nat) (s : State) : Out :=
  .next (
    if 64 ≤ plane || !s.planes.getLsbD plane then s
    else
      let s1 := s.replane plane false
      if s1.planes = 0 then s1.events (s1.srcCtx.map (fun p => .deliveryFail (p.1 / 256) (p.1 % 256))) else s1)

/-- PLANE_UP (R383, R389): a trained port of a booted device joins PLANES, and its lines return to it. -/
def execPlaneUp (plane : Nat) (s : State) : Out :=
  .next (if 64 ≤ plane || !s.booted || s.planes.getLsbD plane then s
    else State.pumpCtxs (s.replane plane true))

/-! ### At the target (R387–R392, R395) -/

/-- A VALID partition serves other devices under a context: the running one, or, while none runs, the one that ran last, until a scrub has
cleared its tenant's state (R189, R352; log 33). -/
def State.servesAs (s : State) (k c : Nat) : Bool :=
  let p := s.part k
  p.desc.valid && (p.cur.isSome || p.lastTenant == (p.ctx c).desc.tenant)

/-- The partition that accepts a request (R387). -/
def State.acceptor (s : State) (req : RemoteReq) : Option (Nat × Nat) :=
  ((List.range 16).filterMap (fun k => (s.cmdCtx k).map (fun c => (k, c)))).find? (fun p =>
    let d := ((s.part p.1).ctx p.2).dom
    s.servesAs p.1 p.2 && d.domen && d.domid == req.domid && d.peers.getLsbD req.srcDev)

/-- What a kind of operation asks of its pages. -/
def remSpec (k : RemKind) : MemSpec :=
  match k with
  | .load | .copyRead | .probe => ⟨.load false false, { r := true }, 1, false, false, false, true⟩
  | .store | .copyWrite | .spoolReturn => ⟨.store, { w := true }, 1, false, true, true, false⟩
  | .pstp => ⟨.pstp, { w := true }, 1, false, true, true, false⟩
  | .atom op ty => ⟨.atom op ty, { r := true, w := true }, 1, false, true, true, true⟩
  | .acas | .spoolRelease => ⟨.acas, { r := true, w := true }, 1, false, true, true, true⟩
  | .ldf cnt => ⟨.ldf cnt false, { r := true }, 1, false, cnt, false, true⟩
  | .sta fmt cnt => ⟨.sta fmt cnt, { r := true, w := true }, 1, true, true, true, false⟩
  | .lda _ => ⟨.lda, { r := true }, 1, true, true, false, true⟩
  | .twReset => ⟨.twReset, { r := true }, 4, true, true, false, false⟩
  | .twQuery => ⟨.twQuery, { r := true }, 4, true, true, false, true⟩

/-- KIND of a fault that a request of another device meets (R195): read, write, twin, counting load, engine path. -/
def remKindBits (k : RemKind) : Nat :=
  match k with
  | .load | .probe => 1
  | .store | .pstp => 2
  | .atom _ _ | .acas => 3
  | .ldf cnt => if cnt then 0x11 else 1
  | .sta _ _ => 0xA
  | .lda _ | .twReset | .twQuery => 9
  | .copyRead => 0x21
  | .copyWrite => 0x22
  | .spoolReturn | .spoolRelease => 3

/-- The keys of the bytes of one range that a request addresses, and whether they are of a SPAN page; or how the request ends. -/
def State.remPiece (s : State) (k c : Nat) (kind : RemKind) (va len : Nat) : Except MemStop (List Nat × Bool) :=
  let sp := remSpec kind
  let counts := match kind with
    | .ldf cnt => cnt
    | _ => false
  if vaDev (BitVec.ofNat 64 va) ≠ s.image.devIdx.toNat then .error (.trap cProt 0 (BitVec.ofNat 64 va))
  else match (lineParts va len).mapM (s.pieceAt k c 0 false sp counts 0) with
    | .error e => .error e
    | .ok ps => .ok (ps.flatMap (·.keys), ps.any (·.span))

/-- The ranges of a request: of a twin operation or a snapshot its parts, of a PSTP both positions, of SPREL the record. -/
def remRanges (o : RemOp) : List (Nat × Nat) :=
  let own := fun (va : Nat) => if o.kind matches .lda _ | .sta _ _ | .twReset | .twQuery then va % 2 ^ 55 else va
  if o.kind = RemKind.spoolRelease then [(o.va.toNat, 64)]
  else if o.parts.isEmpty then
    (if o.kind = RemKind.pstp then [(o.va.toNat, o.len), (o.va2.toNat, o.len)] else [(own o.va.toNat, o.len)])
  else o.parts.map (fun p => (own p.1.toNat, p.2.1))

/-- How a refused request is answered (R207, R381, R387). The fault queue entry of a page fault names launch 0, workgroup 0, flight 0 and core
512: the spec does not say what it names for a request of another device (log 33). -/
def State.remStop (s : State) (k c dev : Nat) (e : MemStop) (kind : Nat) : State × RemoteAns :=
  match e with
  | .trap cause sub info => (s, .fault cause sub info)
  | .park va w => (s.faultEntry (.ctl 0 k) k c va w kind, .parked)
  | .locked => (s, .parked)
  | .homeDown d _ => ({ s with readmit := if s.readmit.contains (dev, d) then s.readmit else s.readmit ++ [(dev, d)] }, .homeDown d)

/-- The logical times of a remote access to a line: it carries its Pts, and the reply the home's Wts (R235, R387; log 6). -/
def State.remTouch (s : State) (line : Nat) (write : Bool) (pts : Nat) : State × Nat :=
  let (w, rt) := sget (0, 0) s.lineTime line
  if write then
    let t := max pts (rt + 1)
    ({ s with lineTime := sput (0, 0) s.lineTime line (t, t) }, t)
  else
    let t := max pts w
    ({ s with lineTime := sput (0, 0) s.lineTime line (w, max rt t) }, w)

/-- Entries that an instruction's lanes form on each granule of one line (R249). -/
def formEntries (kind : RemKind) (parts : List (List Nat × List Byte)) : List (Nat × StageEntry) :=
  parts.foldl (fun t p =>
    let gs := granulesOf p.1
    let upd := fun (t : List (Nat × StageEntry)) (g : Nat) (f : StageEntry → StageEntry) => put t g (f ((look t g).getD .empty))
    match kind with
    | .sta fmt cnt =>
      let t1 := if cnt then gs.foldl (fun t g => upd t g StageEntry.addD) t else t
      let sz := stageSize fmt
      (List.range (p.1.length / sz)).foldl (fun t i =>
        let k := p.1.getD (i * sz) 0
        upd t (k / 64 * 64) (fun e => e.addElem fmt (k % 64 / sz) (fieldAt p.2 (i * sz) sz))) t1
    | _ => gs.foldl (fun t g => upd t g StageEntry.addI) t) []

/-- A remote waiter for the open granules of one line is recorded, by the flight that waits, at most 1,024 a die (R395). -/
def State.addWaiter (s : State) (dev fl : Nat) (gs : List Nat) : State :=
  if (s.ldaWaiters.filter (fun p => paDie (p.2.headD 0) == paDie (gs.headD 0))).length < 1024 ∧ !s.ldaWaiters.contains ((dev, fl), gs) then
    { s with ldaWaiters := s.ldaWaiters ++ [((dev, fl), gs)] }
  else s

/-- Performs a twin operation of another device at its granules' home (R249, R253, R254); the reply carries the home's Wts. -/
def State.remTwin (s : State) (dev fl wts : Nat) (o : RemOp) (parts : List (List Nat × List Byte)) : State × RemoteAns :=
  let keys := parts.flatMap (·.1)
  let gs := granulesOf keys
  match o.kind with
  | .lda _ =>
    if gs.any (fun g => (s.granule g).1 == 3) then (s, .fault cTwinPoison 0 o.va)
    else if gs.any (fun g => (s.granule g).1 == 1) then
      (s.addWaiter dev fl (gs.filter (fun g => (s.granule g).1 == 1)), .twinOpen)
    else
      let data := keys.map (fun k => if (s.granule (k / 64 * 64)).1 = 2 then readByte s.mem k else 0)
      (gs.foldl (fun s g => if (s.granule g).1 = 2 then (s.zeroGranule g).putGranule g 0 0 else s) s, .data data wts 0)
  | .twReset => (gs.foldl (fun s g => (s.zeroGranule g).putGranule g 0 0) s, .data [] wts 0)
  | .twQuery => (s, .data (parts.flatMap (fun p =>
      let (st, count) := s.granule (p.1.headD 0 / 64 * 64)
      toBytes 4 (st * 2 ^ 16 + count))) wts 0)
  | _ => ((formEntries o.kind parts).foldl (fun s p => s.commit p.1 p.2) s, .data [] wts 0)

/-- The access kind by which a plain remote operation acts on its bytes. -/
def remAccess (k : RemKind) : AccKind :=
  match k with
  | .load | .copyRead | .ldf _ | .probe => .load false false
  | .atom op ty => .atom op ty
  | .acas => .acas
  | .pstp => .pstp
  | _ => .store

/-- Bytes under a mask (R263): values, then masks. -/
def maskedWrite (m : List Host.Cell) (keys : List Nat) (data : List Byte) : List Host.Cell :=
  (List.range keys.length).foldl (fun m i =>
    let k := keys.getD i 0
    writeByte m k (mergeByte (readByte m k) (data.getD i 0) (data.getD (keys.length + i) 0))) m

/-- A word of a spool's record that its producer has written from another device: the device knows its pointers, and flights that wait at it
test again (R231, R269, R271). -/
def State.notePointer (s : State) (keys : List Nat) (data : List Byte) : State :=
  let k := keys.headD 0 - 24
  if keys.length ≠ 4 ∨ ((look s.spools k).map (fun t => t.made.isEmpty)).getD true then s
  else ({ s with spools := alter s.spools k (fun t => { t with made := t.made.take 24 ++ data.take 4 ++ t.made.drop 28 }) }).wakeSpools

/-- SPREL of another device at a spool of this one (R267, R272): the new RD and PRODDEV. -/
def State.remRelease (s : State) (wts : Nat) (va : Dword) (keys : List Nat) : State × RemoteAns :=
  let b := s.recordAt (keys.headD 0) (keys.map (readByte s.mem))
  if spState b ≠ 1 ∨ va.toNat % 64 ≠ 0 then (s, .fault cIllegalOp 4 0)
  else if spWr b - spRd b = 0 then (s, .data (toBytes 4 0xFFFFFFFF ++ [0]) wts 0)
  else ((s.putSpool keys 20 (spRd b + 1)).wakeSpools, .data (toBytes 4 (spRd b + 1).toNat ++ toBytes 1 (spProdDev b)) wts 0)

/-- What SEAL of another device asks of one range (R203, R218): whether its bytes lie in readable pages, and the bytes; a range of none tests
the page of its address. A home that is down or out, or a lost sector, stops a read of bytes (R360, R381). -/
def State.probe (s : State) (k c : Nat) (p : Nat × Nat) : Except MemStop (List Byte) :=
  match s.remPiece k c .probe p.1 (max p.2 1) with
  | .ok x => .ok (1 :: (x.1.map (readByte s.mem)).take p.2)
  | .error (.homeDown d v) => if p.2 = 0 then .ok [1] else .error (.homeDown d v)
  | .error (.trap cause sub v) =>
    if cause ≠ cHomeDown ∧ cause ≠ cLostData then .ok (0 :: List.replicate p.2 0)
    else if p.2 = 0 then .ok [1] else .error (.trap cause sub v)
  | .error _ => .ok (0 :: List.replicate p.2 0)

/-- Pages that a request has translated may be cached, as those of this device's own accesses (R194, R388). -/
def State.noteRanges (s : State) (k c : Nat) (o : RemOp) : State :=
  s.noteTlb k c ((remRanges o).flatMap (fun p => (lineParts p.1 p.2).map (fun q => vaLocal (BitVec.ofNat 64 q.2.1) / 4096)))

/-- A request as performed at this device (R387): the state after it and its answer; none where a SPAN write is held, or no plane reaches its line (R389). A load of 64
bytes is one of a spool's record (R266). -/
def State.performRemote (s : State) (req : RemoteReq) : Option (State × RemoteAns) :=
  let o := req.op
  match s.acceptor req with
  | none => some (s, .fault cProt 0 o.va)
  | some (k, c) =>
    if o.kind = RemKind.spoolReturn then
      some (s.slotReturn k o.va (BitVec.ofNat 32 (ofBytes o.data)), .data [] 0 0)
    else if o.kind = RemKind.probe then some (match (remRanges o).mapM (s.probe k c) with
      | .ok bs => (s.noteRanges k c o, .data bs.flatten 0 0)
      | .error e => s.remStop k c req.srcDev e 1)
    else match (remRanges o).mapM (fun p => s.remPiece k c o.kind p.1 p.2) with
      | .error e =>
        let dev := match e with
          | .homeDown d _ => if (s.die d).st = 6 then MemStop.trap cHomeDown 0 o.va else e
          | e => e
        some (s.remStop k c req.srcDev dev (remKindBits o.kind))
      | .ok ps =>
        let keys := ps.flatMap (·.1)
        let ev := eventOn s.mem (remAccess o.kind) keys o.data
        let writes := match o.kind with
          | .load | .copyRead | .ldf _ => false
          | .acas => ev.got == o.data.take keys.length
          | _ => true
        if ps.any (·.2) && (!s.planesUp || ((remSpec o.kind).writes && s.spanHeld (keys.headD 0))) then none
        else
          let (s1, wts) := (s.noteRanges k c o).remTouch (keys.headD 0 / 256) writes req.pts
          some (match o.kind with
          | .lda _ | .twReset | .twQuery | .sta _ _ =>
            let data := if o.parts.isEmpty then [o.data] else o.parts.map (·.2.2)
            s1.remTwin req.srcDev req.flight wts o ((ps.map (·.1)).zip data)
          | .ldf true =>
            let got := keys.map (readByte s1.mem)
            let twins := (remRanges o).map (fun p => match s1.translate k c (BitVec.ofNat 64 p.1) { r := true } with
              | .ok (pa, l) => (match s1.twinPa k c pa l (BitVec.ofNat 64 p.1) with
                | some t => (List.range p.2).map (fun i => t + i)
                | none => [])
              | .error _ => [])
            (((formEntries o.kind (twins.map (fun ks => (ks, [])))).foldl (fun s p => s.commit p.1 p.2) s1), .data got wts 0)
          | .copyWrite => (({ s1 with mem := maskedWrite s1.mem keys o.data }).notePointer keys o.data, .data [] wts 0)
          | .spoolRelease => s1.remRelease wts o.va keys
          | .load => (s1, .data (if o.len = 64 then s1.recordAt (keys.headD 0) ev.got else ev.got) wts 0)
          | _ => ({ s1 with mem := ev.mem }, .data ev.got wts ev.flags))

/-- Key of the target side of a delivery context: source device and partition. -/
def dstKey (dev part : Nat) : Nat := dev * 256 + part

/-- Performs buffered requests while the expected one is there (R391, R392). -/
def State.drain (key : Nat) : Nat → State → State
  | 0, s => s
  | n + 1, s =>
    match look s.dstCtx key with
    | none => s
    | some c =>
      match c.buffered.find? (fun r => r.seq == c.expect) with
      | none => s
      | some req =>
        match s.performRemote req with
        | none => s
        | some (s1, a) =>
          let rs := c.replies ++ [(req.seq, a)]
          State.drain key n { s1 with dstCtx := put s1.dstCtx key { c with
            expect := c.expect + 1
            replies := rs.drop (rs.length - 64)
            buffered := c.buffered.filter (fun r => r.seq != req.seq)
            lastUse := s.clk.toNat } }

/-- A CREATE packet opens a context, or opens it anew under another epoch (R392). -/
def State.openDst (s : State) (key : Nat) (epoch : Word) : State :=
  let now := s.clk.toNat
  match look s.dstCtx key with
  | some c => if c.epoch = epoch then { s with dstCtx := put s.dstCtx key { c with lastUse := now } }
    else { s with dstCtx := put s.dstCtx key ⟨epoch, 0, [], [], now⟩ }
  | none => { s with dstCtx := put s.dstCtx key ⟨epoch, 0, [], [], now⟩ }

/-- CREATE_PACKET (R392). -/
def execCreatePacket (dev part : Nat) (epoch : Word) (s : State) : Out := .next (s.openDst (dstKey dev part) epoch)

/-- A packet is older than 10 µs, by the time of its operation's first sending (R391). -/
def State.stale (s : State) (req : RemoteReq) : Bool := decide (req.sent + 10000 ≤ s.clk.toNat)

/-- REMOTE_REQUEST (R387, R391, R392): a packet is performed in SEQ order, answered again from the reply cache, buffered, or dropped; one
older than 10 µs does not arrive. -/
def execRemoteRequest (req : RemoteReq) (s : State) : Out :=
  .next (
    if s.stale req then s
    else
    let key := dstKey req.srcDev req.srcPart
    let s1 := if req.create then s.openDst key req.epoch else s
    match look s1.dstCtx key with
    | none => s1
    | some c =>
      if c.epoch ≠ req.epoch ∨ c.replies.any (fun p => p.1 == req.seq) ∨ c.buffered.any (fun r => r.seq == req.seq) ∨
          2 ^ 31 ≤ (req.seq - c.expect).toNat then
        { s1 with dstCtx := alter s1.dstCtx key (fun c => if c.epoch = req.epoch then { c with lastUse := s.clk.toNat } else c) }
      else State.drain key (c.buffered.length + 1) { s1 with
        dstCtx := put s1.dstCtx key { c with buffered := c.buffered ++ [req], lastUse := s.clk.toNat } })

/-- SPAN_WRITE_RELEASE (R389): 4,096 cycles after a plane left or returned, held writes take their places. -/
def execSpanWriteRelease (plane : Nat) (s : State) : Out :=
  .next (
    if s.spanHold.any (fun p => p.1 == plane && decide (p.2.2 + 4096 ≤ s.cyc)) then
      let s1 := { s with spanHold := s.spanHold.filter (fun p => p.1 != plane) }
      s1.dstCtx.foldl (fun s p => State.drain p.1 (p.2.buffered.length + 1) s) s1
    else s)

/-! ### At the source (R392, R393) -/

/-- Offsets of a group's pieces in the data of its answer. -/
def groupOffsets (unit : Piece → Nat) (ps : List Piece) : List (Nat × Nat) :=
  (ps.foldl (fun (p : Nat × List (Nat × Nat)) q => (p.1 + unit q, p.2 ++ [(p.1, unit q)])) (0, [])).2

/-- A reply for an access (R23, R207, R253, R387); accesses that waited for it go out. -/
def State.answerAccess (s : State) (r : FlightRef) (id i dev : Nat) (ans : RemoteAns) : State :=
  match s.acc? r id with
  | none => s
  | some (f, a) =>
    let is := a.farGroup i
    let nothing := fun (_ : Piece) => (none : Option (List Byte))
    (match ans with
    | .data bytes wts flags =>
      let ps : List Piece := a.at is
      let at_ : List (Nat × (Nat × Nat)) := (ps.map Piece.bit).zip (groupOffsets (fun q => if a.kind = AccKind.twQuery then 4 else q.len) ps)
      let got := fun (p : Piece) => if !a.kind.isLoad then none
        else some (((look at_ p.bit).map (fun (o : Nat × Nat) => slice bytes o.1 o.2)).getD [])
      ((s.modCore (s.coreOf r) (fun c => { c with pts := max c.pts wts })).setFlight r (f.raiseFor id flags)).answer r id is got 0
    | .twinOpen => s.answer r id is nothing 1
    | .homeDown die => s.answer r id is nothing (farHome dev die)
    | .parked => s.answer r id is nothing (farPark dev)
    | .fault cause sub va =>
      if cause = cTwinPoison ∧ a.kind = AccKind.lda then s.answer r id is nothing 2
      else
        let lane := ((a.at is).map Piece.lane).headD 0
        (s.setFlight r (f.putAcc (a.faultAt lane (cause, (sub, va))))).answer r id is nothing 3).sendAfter r

/-- The bytes that a snapshot of several ranges brings, by address. -/
def snapshotParts (op : RemOp) (bytes : List Byte) : List (Nat × List Byte) :=
  (op.parts.foldl (fun (p : Nat × List (Nat × List Byte)) q =>
    (p.1 + q.2.1, p.2 ++ [(q.1.toNat, slice bytes p.1 q.2.1)])) (0, [])).2

/-- An operation of an engine that a down home, or a page fault at the target, has refused is sent again (R278, R381). -/
def State.askAgain (s : State) (key : Nat) (who : Waiter) (op : RemOp) : State :=
  { s with srcCtx := alter s.srcCtx key (fun x => x.enqueue who op) }

/-- Changes the operations of a flight's workgroup that are saved with its context (R368). -/
def State.modSaved (s : State) (r : FlightRef) (f : Away → Away) : State :=
  match r with
  | .wg w _ => s.modWg w (fun g => { g with away := f g.away })
  | .ctl _ _ => s

/-- A copy with what a reply has brought: bytes read, or one write fewer to wait for. -/
def Copy.meet (x : Copy) (va : Nat) (op : RemOp) (bytes : List Byte) : Copy :=
  if op.kind = RemKind.copyRead then { x with got := x.got ++ snapshotParts op bytes }
  else { x with left := x.left - 1, given := x.given ++ [va / 4] }

/-- A tile operation with what a reply has brought. -/
def MxeEntry.meet (e : MxeEntry) (va : Nat) (op : RemOp) (bytes : List Byte) : MxeEntry :=
  if op.kind = RemKind.copyRead then { e with got := e.got ++ snapshotParts op bytes }
  else { e with left := e.left - 1, given := e.given ++ [va / 4] }

/-- A reply for a copy or a tile operation that has been saved with its context: its data is kept with it until the restore; anything else
has it asked again (R368). -/
def State.answerSaved (s : State) (r : FlightRef) (key : Nat) (who : Waiter) (op : RemOp) (ans : RemoteAns) : State :=
  match ans with
  | .data bytes wts _ =>
    let s1 := s.modCore (s.coreOf r) (fun x => { x with pts := max x.pts wts })
    (match who with
    | .copy r _ k va => s1.modSaved r (fun a => { a with copies := alter a.copies k (fun c => c.meet va op bytes) })
    | .tile r _ k va => s1.modSaved r (fun a => { a with tileOps := alter a.tileOps k (fun e => e.meet va op bytes) })
    | _ => s1)
  | _ => s.askAgain key who op

/-- A copy or tile operation of a flight is saved with its context. -/
def State.isSaved (s : State) (r : FlightRef) (k : Nat) : Bool :=
  ((s.wgOf r).map (fun g => (look g.away.copies k).isSome || (look g.away.tileOps k).isSome)).getD false

/-- A reply for a side of a copy (R228, R276, R278, R381). -/
def State.answerCopy (s : State) (r : FlightRef) (core k va : Nat) (op : RemOp) (key : Nat) (ans : RemoteAns) : State :=
  match s.copy? core k with
  | none => if s.isSaved r k then s.answerSaved r key (.copy r core k va) op ans else s
  | some c =>
    match ans with
    | .data bytes wts _ =>
      let s1 := s.modCore core (fun x => { x with pts := max x.pts wts })
      (s1.modCopy core k (fun x => x.meet va op bytes)).events [.copyComplete core k]
    | .fault cause sub a =>
      (s.stopCopy core k c 3).deferTrap r { cause, sub, kind := 2, info := a, org := some (c.pc, c.ix) }
    | _ => s.askAgain key (.copy r core k va) op

/-- A reply for a tile operation's memory side (R186, R228, R298). -/
def State.answerTile (s : State) (r : FlightRef) (q k va : Nat) (op : RemOp) (key : Nat) (ans : RemoteAns) : State :=
  match look (s.mxe q).entries k with
  | none => if s.isSaved r k then s.answerSaved r key (.tile r q k va) op ans else s
  | some e =>
    match ans with
    | .data bytes wts _ =>
      let s1 := s.modCore (s.coreOf r) (fun x => { x with pts := max x.pts wts })
      s1.modMxe q (fun m => { m with entries := put m.entries k (e.meet va op bytes) })
    | .fault cause sub a =>
      (s.endTileOp q k e 0).deferTrap r { cause, sub, kind := 2, info := a, org := some (e.pc, e.ix) }
    | _ => s.askAgain key (.tile r q k va) op

/-- What an answer to SEAL says of the ranges it asked for. -/
def probeParts (op : RemOp) (bytes : List Byte) : List ((Nat × Nat) × List Byte) :=
  (op.parts.foldl (fun (p : Nat × List ((Nat × Nat) × List Byte)) q =>
    (p.1 + 1 + q.2.1, p.2 ++ [((q.1.toNat, q.2.1), slice bytes p.1 (1 + q.2.1))])) (0, [])).2

/-- A flight that waits for the answer to a spool operation goes on with it, in deterministic mode at its effect tick; one that has stopped
does so at its resume. -/
def State.gotSpool (s : State) (r : FlightRef) (b : List Byte) : State :=
  s.modFlight r (fun f => if f.wait ≠ .far then f else
    { f with opBuf := some b, wait := if s.det r || f.stopped then .op else .ready })

/-- A SEAL that waits for the answer of another device goes on with what it has learned (R218). -/
def State.gotSeal (s : State) (r : FlightRef) (kn : List ((Nat × Nat) × List Byte)) : State :=
  s.modFlight r (fun f => if f.wait ≠ .far then f else
    { f with known := f.known ++ kn, wait := if s.det r || f.stopped then .op else .ready })

/-- A reply for a spool operation, or a SEAL, that holds its flight (R207, R218, R267, R271, R272): its answer; a fault, which it takes; or a home that is
down, for which in deterministic mode T stops, while it is asked again (R381). -/
def State.answerSpool (s : State) (r : FlightRef) (dev key : Nat) (op : RemOp) (ans : RemoteAns) : State :=
  match s.flight? r with
  | none => s
  | some f =>
    if f.wait ≠ .far then s
    else
      let again := s.modFlight r (fun f => { f with wait := .ready, opBuf := none })
      match ans with
      | .data bytes wts _ =>
        let s1 := s.modCore (s.coreOf r) (fun c => { c with pts := max c.pts wts })
        if op.kind = RemKind.probe then s1.gotSeal r (probeParts op bytes) else s1.gotSpool r bytes
      | .fault cause sub va => if f.stopped then again else again.fault r cause sub va
      | x =>
        let name := match x with
          | .homeDown d => farHome dev d
          | _ => farPark dev
        if s.det r then s.askAgain key (.spoolOp r) op
        else if f.stopped then again else s.parkHome r name op.va

/-- A reply that brings a spool's record for a copy that is held for it (R274). -/
def State.answerFetch (s : State) (r : FlightRef) (key : Nat) (op : RemOp) (ans : RemoteAns) : State :=
  match ans with
  | .data bytes wts _ => (s.modCore (s.coreOf r) (fun c => { c with pts := max c.pts wts })).events [.shadowFetch r (some bytes)]
  | .fault _ _ _ => s.events [.shadowFetch r none]
  | _ => s.askAgain key (.fetch r) op

/-- REMOTE_REPLY (R392): a reply to an unacknowledged operation of the context's epoch delivers its result. -/
def execRemoteReply (part dev : Nat) (epoch seq : Word) (reply : RemoteAns) (s : State) : Out :=
  .next (
    let key := part * 256 + dev
    match look s.srcCtx key with
    | none => s
    | some c =>
      match if c.epoch = epoch then c.waiting.find? (fun p => p.seq == seq) else none with
      | none => s
      | some p =>
        let s1 := State.pumpCtx key 1 { s with
          srcCtx := put s.srcCtx key { c with waiting := c.waiting.filter (fun q => q.seq != seq), lastUse := s.clk.toNat } }
        match p.who with
        | .access r id i => s1.answerAccess r id i dev reply
        | .copy r core k va => s1.answerCopy r core k va p.op key reply
        | .tile r q k va => s1.answerTile r q k va p.op key reply
        | .spool r => s1.modFlight r Flight.poke
        | .spoolOp r => s1.answerSpool r dev key p.op reply
        | .fetch r => s1.answerFetch r key p.op reply)

/-- An operation reported without acknowledgement (R393): a load or atomic writes 0, a copy fails, a tile operation loses its side, a spool
operation is given nothing, and the peer bit is set. -/
def State.report (s : State) (dev : Nat) (who : Waiter) : State :=
  match who with
  | .access r id i => match s.acc? r id with
    | none => s.modFlight r (fun f => f.setPeer dev)
    | some (_, a) => (s.failed r id (a.farGroup i) dev).sendAfter r
  | .copy r core k _ => (((s.modFlight r (fun f => f.setPeer dev)).modSaved r (fun a =>
      { a with copies := alter a.copies k (fun x => { x with lost := some dev }) })).modCopy core k (fun x => { x with lost := some dev })).events
      [.copyFail core k (Config.freeNat s.free)]
  | .tile r q k _ => ((s.modFlight r (fun f => f.setPeer dev)).modSaved r (fun a =>
      { a with tileOps := alter a.tileOps k (fun x => { x with lost := some dev }) })).loseTile q k dev
  | .spool r => s.modFlight r (fun f => (f.setPeer dev).poke)
  | .spoolOp r => (s.modFlight r (fun f => f.setPeer dev)).gotSpool r []
  | .fetch r => s.events [.shadowFetch r none]

/-- DELIVERY_FAIL (R392, R393): the oldest operation has reached 10 µs, or no plane is live: the context is ABSENT, and every
operation without acknowledgement is reported. -/
def execDeliveryFail (part dev : Nat) (s : State) : Out :=
  .next (
    let key := part * 256 + dev
    match look s.srcCtx key with
    | none => s
    | some c =>
      let old := c.waiting.any (fun p => decide (p.firstSent + 10000 ≤ s.clk.toNat))
      if !(old || s.planes == 0) then s
      else
        let s1 : State := { s with srcCtx := del s.srcCtx key, free := s.free + 1 }
        (c.waiting.map (·.who) ++ c.queued.map (·.2.1)).foldl (fun s w => s.report dev w) s1)

/-- A packet can go out again on a plane: a live one whose lane is open, another than its last where there is another (R392, R394). -/
def State.resendable (s : State) (p : Packet) (plane : Nat) : Bool :=
  let ps := s.openPlanes (remLane p.op)
  ps.contains plane && (plane != p.plane || decide (ps = [plane]))

/-- The plane on which a packet goes out again: some one on which it can (R392; a free choice, log 4). -/
def State.resendPlane (s : State) (p : Packet) : Nat :=
  let ps := (List.range 64).filter (s.resendable p)
  ps.getD (Config.freeNat s.free % max ps.length 1) 0

/-- RESEND (R392): a packet without reply for 2 µs, or whose plane has left PLANES, goes out again on another live plane. -/
def execResend (part dev : Nat) (seq : Word) (plane : Nat) (s : State) : Out :=
  .next ({ s with srcCtx := alter s.srcCtx (part * 256 + dev) (fun c => { c with waiting := c.waiting.map (fun p =>
    if p.seq = seq ∧ s.resendable p plane = true ∧ (p.sentAt + 2000 ≤ s.clk.toNat ∨ s.planes.getLsbD p.plane = false) then
      { p with plane, sentAt := s.clk.toNat }
    else p) }) })

/-- QUIET of a partition's domain context, ns (R386). -/
def State.quietNs (s : State) (part : Nat) : Nat :=
  1000 * (((s.cmdCtx part).map (fun c => ((s.part part).ctx c).dom.quiet.toNat)).getD 20)

/-- QUIET of the contexts of another device here, ns: the longest of the partitions that admit it (R386; log 27). -/
def State.targetQuiet (s : State) (dev : Nat) : Nat :=
  1000 * ((List.range 16).filterMap (fun k => (s.cmdCtx k).bind (fun c =>
    let d := ((s.part k).ctx c).dom
    if d.domen && d.peers.getLsbD dev then some d.quiet.toNat else none))).foldl max 12

/-- QUIET_EXPIRY (R392): an idle context is ABSENT: at the source with nothing unacknowledged, at the target without a packet. -/
def execQuietExpiry (source : Bool) (part dev : Nat) (s : State) : Out :=
  .next (
    let now := s.clk.toNat
    if source then
      let key := part * 256 + dev
      match look s.srcCtx key with
      | some c => if c.waiting.isEmpty && c.queued.isEmpty && decide (c.lastUse + s.quietNs part ≤ now) then
          { s with srcCtx := del s.srcCtx key } else s
      | none => s
    else
      let key := dstKey dev part
      match look s.dstCtx key with
      | some c => if c.lastUse + s.targetQuiet dev ≤ now then { s with dstCtx := del s.dstCtx key } else s
      | none => s)

/-- PACKET_EXPIRY (R391, R392): a packet buffered behind its predecessors is dropped at 10 µs. -/
def execPacketExpiry (part dev : Nat) (seq : Word) (s : State) : Out :=
  .next { s with dstCtx := alter s.dstCtx (dstKey dev part) (fun c =>
    { c with buffered := c.buffered.filter (fun r => r.seq != seq || r.seq == c.expect || !s.stale r) }) }

/-- LINK_STOP (R394): no further flit starts on the lane. -/
def execLinkStop (port lane : Nat) (s : State) : Out :=
  .next (if s.stopped.contains (port, lane) then s else { s with stopped := s.stopped ++ [(port, lane)] })

/-- LINK_GO (R394): the lane is open again, and operations that waited for it are sent. -/
def execLinkGo (port lane : Nat) (s : State) : Out := .next (State.pumpCtxs { s with stopped := s.stopped.filter (· != (port, lane)) })

/-- The flight is parked at an LDA with a granule of another device among those refused. -/
def Flight.parkedFar (f : Flight) : Bool :=
  match f.wait with
  | .twin gs => gs.any (fun g => decide (2 ^ 60 ≤ g))
  | _ => false

/-- TWIN_WAKEUP (R395). -/
def execTwinWakeup (r : FlightRef) (s : State) : Out :=
  .next (match s.flight? r with
  | some f => if f.parkedFar then s.wake r else s
  | none => s)

/-- REMOTE_LDA_POLL (R395): after 10 µs without a wake-up. -/
def execRemoteLdaPoll (r : FlightRef) (s : State) : Out :=
  .next (match s.flight? r with
  | some f => if f.parkedFar && decide (f.parkAt + 10000 ≤ s.clk.toNat) then s.wake r else s
  | none => s)

end Sys2Proof.Machine
end

