-- ==== Sys2Proof/Machine/LaneOps.lean ====
section
/-! DEFINITION. Cross-lane instructions and the SORTK rendezvous (R135–R144). -/

namespace Sys2Proof.Machine

/-- SHFLI (R136). On the uniform path it returns its source (R50). -/
def execShfli (o : VFmt) (s : State) : Out :=
  lanewise o.g (fun f l =>
    let n := f.opB o l
    let src := match bits o.f.toNat 1 0 with
      | 0 => n % 32
      | 1 => if n ≤ l then l - n else l
      | 2 => if l + n ≤ 31 then l + n else l
      | _ => Nat.xor l (n % 32)
    let x := if f.uniPath then f.s o.a.toNat
      else if f.exited.getLsbD src then 0 else f.src o.ka src o.a.toNat
    { regs := [(o.d.toNat, x)] }) s

/-- VOTE (R137). -/
def execVote (o : VFmt) (s : State) : Out :=
  lanewise o.g (fun f _ =>
    let ls := f.acting o.g
    let raw := fun k => f.pq k o.a.toNat
    let p := fun k => raw k != o.f.getLsbD 2
    let yes := ls.filter p
    match bits o.f.toNat 1 0 with
    | 0 => .pred o.d.toNat (ls.all p)
    | 1 => .pred o.d.toNat (ls.any p)
    | 2 => .word o.d.toNat (if o.f.getLsbD 3 then yes.length else (laneMask yes).toNat)
    | _ => .pred o.d.toNat (ls.all raw || ls.all (fun k => !raw k))) s

/-- One step of a reduction: add, min, max, and, or, xor under n32, i32 or f32 (R138). -/
def redOp (red ty x y : Nat) : Nat × Byte :=
  if ty = 2 then
    match red with
    | 0 => fused .fp32 0 0 [] [v32 x, v32 y]
    | 1 => minMaxNum .fp32 false x y
    | _ => minMaxNum .fp32 true x y
  else
    let sg := ty == 1
    match red with
    | 0 => ((x + y) % 2 ^ 32, 0)
    | 1 => (if valOf sg 32 x ≤ valOf sg 32 y then x else y, 0)
    | 2 => (if valOf sg 32 x ≤ valOf sg 32 y then y else x, 0)
    | 3 => (Nat.land x y, 0)
    | 4 => (Nat.lor x y, 0)
    | _ => (Nat.xor x y, 0)

/-- An operand of a reduction, a NaN made canonical (R138). -/
def redIn (ty x : Nat) : Nat × Byte :=
  if ty = 2 ∧ (v32 x).isNan then (Fmt.fp32.nanCode, flagIf (v32 x).isSig fIV) else (x, 0)

/-- Combines two places of the tree, either of which may be empty (R138). -/
def redPair (red ty : Nat) (x y : Option Nat × Byte) : Option Nat × Byte :=
  match x.1, y.1 with
  | some a, some b =>
    let z := redOp red ty a b
    (some z.1, x.2 ||| y.2 ||| z.2)
  | some a, none => (some a, x.2 ||| y.2)
  | none, b => (b, x.2 ||| y.2)

/-- One level of the tree: adjacent places combined (R138). -/
def redLevel (red ty : Nat) : List (Option Nat × Byte) → List (Option Nat × Byte)
  | x :: y :: rest => redPair red ty x y :: redLevel red ty rest
  | xs => xs

/-- The fixed tree over 32 places, five levels (R138). -/
def redTree (red ty : Nat) : Nat → List (Option Nat × Byte) → List (Option Nat × Byte)
  | 0, xs => xs
  | n + 1, xs => redTree red ty n (redLevel red ty xs)

/-- The reduction of the participating lanes' values, given by lane. -/
def reduce (red ty : Nat) (val : Nat → Option Nat) : Nat × Byte :=
  let leaves := lanes.map (fun l => match val l with
    | some x => let y := redIn ty x; (some y.1, y.2)
    | none => (none, (0 : Byte)))
  match redTree red ty 5 leaves with
  | (some x, g) :: _ => (x, g)
  | _ => (0, 0)

/-- REDUX (R138); on the uniform path it is the reduction of lane 0 alone (R50). -/
def execRedux (o : VFmt) (s : State) : Out :=
  lanewise o.g (fun f _ =>
    let ls := f.acting o.g
    let y := reduce (bits o.f.toNat 2 0) (bits o.f.toNat 4 3) (fun l => if ls.contains l then some (f.opA o l) else none)
    .word o.d.toNat y.1 y.2) s

/-- The identity of an exclusive scan (R50, R139). -/
def scanIdentity (red ty : Nat) : Nat :=
  match red with
  | 1 => if ty = 2 then 0x7F800000 else if ty = 1 then 0x7FFFFFFF else 0xFFFFFFFF
  | 2 => if ty = 2 then 0xFF800000 else if ty = 1 then 0x80000000 else 0
  | 3 => 0xFFFFFFFF
  | _ => 0

/-- The scan over participating lanes in order: each lane's result, and the flags of all additions (R139). -/
def scanGo (red ty : Nat) (excl : Bool) (val : Nat → Nat) : List Nat → Option Nat → List (Nat × Nat) × Byte
  | [], _ => ([], 0)
  | l :: ls, acc =>
    let x := redIn ty (val l)
    let y := match acc with
      | none => (x.1, (0 : Byte))
      | some a => redOp red ty a x.1
    let rest := scanGo red ty excl val ls (some y.1)
    ((l, if excl then acc.getD (scanIdentity red ty) else y.1) :: rest.1, x.2 ||| y.2 ||| rest.2)

/-- SCANX (R139). -/
def execScanx (o : VFmt) (s : State) : Out :=
  lanewise o.g (fun f l =>
    let y := scanGo (bits o.f.toNat 2 0) (bits o.f.toNat 4 3) (o.c.getLsbD 0) (f.opA o) (f.acting o.g) none
    .word o.d.toNat ((look y.1 l).getD 0) y.2) s

/-- MATCH (R140). -/
def execMatchLanes (o : VFmt) (s : State) : Out :=
  lanewise o.g (fun f l =>
    let ls := f.acting o.g
    let key := fun k => if o.f.getLsbD 1 then f.opA64 o k else f.opA o k
    let same := ls.filter (fun k => key k == key l)
    let m := if o.f.getLsbD 0 then (if same.length = ls.length then laneMask ls else 0) else laneMask same
    { regs := [(o.d.toNat, m)] }) s

/-- ELECT (R141). -/
def execElect (o : VFmt) (s : State) : Out :=
  lanewise o.g (fun f l => .pred o.d.toNat ((f.acting o.g).head? == some l)) s

/-! ### SORTK (R142–R144) -/

/-- A thread at a SORTK: its slot and its key. -/
def sortThreads (w : Wg) : List (Nat × Nat) :=
  (List.range w.flights.length).flatMap (fun fl =>
    match look w.sortIn fl with
    | some (keys, _) => lanes.map (fun l => (32 * fl + l, (keys.getD l 0).toNat))
    | none => [])

/-- Inserts a thread in the order of R144: by key, then by slot. -/
def sortInsert (t : Nat × Nat) : List (Nat × Nat) → List (Nat × Nat)
  | [] => [t]
  | u :: us => if t.2 < u.2 ∨ (t.2 = u.2 ∧ t.1 < u.1) then t :: u :: us else u :: sortInsert t us

/-- The threads in order. -/
def sortOrder (ts : List (Nat × Nat)) : List (Nat × Nat) := ts.foldl (fun acc t => sortInsert t acc) []

/-- The flight of a destination after the move: rows of the live-row mask, predicates and TIDs come from the threads that
land in it (R144). -/
def sortFlight (old : List Flight) (src : Nat → Nat) (mask : Word) (fl : Nat) (f : Flight) : Flight :=
  let from_ := fun l => (old.getD (src (32 * fl + l) / 32) f, src (32 * fl + l) % 32)
  let rows := (List.range f.vrows).filter (fun i => mask.getLsbD i)
  let regs := rows.flatMap (fun i => (List.range 8).map (fun j => 8 * i + j))
  let f1 := lanes.foldl (fun g l => regs.foldl (fun g r => g.setV l r ((from_ l).1.v (from_ l).2 r)) g) f
  { f1 with
    preds := (List.range 7).foldl (fun m i => sput 0 m i (maskOf (fun l => (from_ l).1.p (from_ l).2 i))) []
    tids := lanes.map (fun l => (from_ l).1.tids.getD (from_ l).2 0) }

/-- The move of R144, with every flight ready at its next instruction. -/
def Wg.sortMove (det : Bool) (w : Wg) : Wg :=
  let order := sortOrder (sortThreads w)
  let src := fun k => (order.getD k (k, 0)).1
  let lastE := w.flights.foldl (fun m f => max m f.lastE) 0
  { w with
    flights := (List.range w.flights.length).map (fun fl =>
      let f := w.flights.getD fl default
      let mask := ((look w.sortIn fl).map (·.2)).getD 0
      { (sortFlight w.flights src mask fl f).released det with lastE := lastE })
    sortK := w.sortK + 1
    sortArr := 0
    sortIn := [] }

/-- SORTK (R142–R144). -/
def execSortk (o : VFmt) (s : State) : Out :=
  withIssuer s (fun r f =>
    match r, s.wgOf r with
    | .wg w fl, some g =>
      if f.wait = .sort then s.stall r .sort
      else if f.sg ≠ BitVec.allOnes 32 ∨ g.flights.any (fun x => x.exited != 0) then s.fault r cSortk 0 0
      else if f.nLoads ≠ 0 ∨ f.nTiles ≠ 0 then s.stall r .drain
      else
        let keys := lanes.map (fun l => (f.src o.ka l o.a.toNat).extractLsb' 0 16)
        let arr := setBit g.sortArr fl true
        let g1 := { g with sortArr := arr, sortIn := put g.sortIn fl (keys, f.s o.b.toNat) }
        let s1 := (s.modWg w (fun _ => g1)).stall r .sort
        if (List.range g.flights.length).all (fun k => arr.getLsbD k) then s1.modWg w (Wg.sortMove (s.det r)) else s1
    | _, _ => s.fault r cSortk 0 0)

end Sys2Proof.Machine
end

