-- ==== Sys2Proof/Machine/Tick.lean ====
section
/-! DEFINITION. Deterministic mode: one tick of a partition, with the operations that are due at it, the turns of its slots, and its
end (R171–R174, R235, R403). -/

namespace Sys2Proof.Machine

/-! ### Orders -/

/-- The place of a flight by its name; a flight that is gone comes last. -/
def State.placeOfRef (s : State) (r : FlightRef) : Nat := ((s.flight? r).map (s.placeOf r)).getD (2 ^ 32)

/-! ### What a partition's ticks concern (R171, R172) -/

/-- The workgroups of a partition's running context that run in deterministic mode. -/
def State.tickWgs (s : State) (part : Nat) : List (Nat × Wg) :=
  match (s.part part).cur with
  | some c => (s.residents part c).filter (fun p => s.det (.wg p.1 0))
  | none => []

/-- Their flights, in the order of R173. -/
def State.tickFlights (s : State) (part : Nat) : List (FlightRef × Flight) :=
  orderBy (fun p => s.placeOf p.1 p.2) ((s.tickWgs part).flatMap (fun p =>
    (List.range p.2.flights.length).map (fun i => (.wg p.1 i, p.2.flights.getD i default))))

/-- The owner of an engine operation is one of them. -/
def State.ticksFor (s : State) (part : Nat) (r : FlightRef) : Bool := (s.tickWgs part).any (fun p => ofWg r p.1)

/-- T advances: a context runs or drains, or the accesses of what mode F has killed take their places, and no debugger holds a workgroup in
deterministic mode (R171, R342, R363, R368). -/
def State.ticking (s : State) (part : Nat) : Bool :=
  match (s.part part).cur with
  | some c => (((s.part part).ctx c).st == .running || ((s.part part).ctx c).st == .draining || ((s.part part).ctx c).st == .forcing) &&
      (s.tickWgs part).all (fun p => !p.2.dbg || p.2.st == .killed)
  | none => false

/-! ### Operations that are due (R173, R174, R244, R279, R301, R324) -/

/-- The pieces of an access whose tick has come. -/
def duePieces (a : Acc) (t : Nat) : List Piece := a.pieces.filter (fun p => !p.done && decide (p.due ≤ t))

/-- Accesses of the tick's flights with pieces due. -/
def State.dueAccs (s : State) (part : Nat) : List (FlightRef × Acc) :=
  ((s.tickFlights part).filter (fun p => s.accessible p.1)).flatMap (fun p =>
    (p.2.accs.filter (fun a => !(duePieces a (s.part part).tick).isEmpty)).map (fun a => (p.1, a)))

/-- An operation that holds the flight has its effect tick by now (R173). -/
def State.opIsDue (s : State) (part : Nat) (f : Flight) : Bool := (f.opDue.map (fun e => decide (e ≤ (s.part part).tick))).getD false

/-- Such an operation has no answer yet from another device, or waits for a home there. -/
def State.opLate (s : State) (part : Nat) (f : Flight) : Bool :=
  s.opIsDue part f && (match f.wait with
    | .far | .homeDown _ => true
    | _ => false)

/-- Copies of the tick's flights whose snapshot or effect is due: core, name, copy. -/
def State.dueCopies (s : State) (part : Nat) : List (Nat × (Nat × Copy)) :=
  let t := (s.part part).tick
  orderBy (fun x => s.placeOfRef x.2.2.owner) (s.cores.flatMap (fun c =>
    (c.2.copies.filter (fun p => s.ticksFor part p.2.owner &&
      ((p.2.snap.isNone && decide (p.2.snapAt ≤ t)) || decide (p.2.due ≤ t)))).map (fun p => (c.1, (p.1, p.2)))))

/-- A due copy cannot go on. -/
def State.copyLate (s : State) (part : Nat) (c : Copy) : Bool :=
  let (sd, dd, sa, t, _) := s.copyPlan c
  c.paused.isSome || c.lost.isSome || (c.snap.isNone && !s.sourceReady c) ||
    (decide (c.due ≤ (s.part part).tick) && ((s.copyBad c sd dd sa t).isSome || c.left != 0))

/-- Tile operations of the tick's flights that are due: quad, name, entry. A grant is looked at for the head of a table. -/
def State.dueTileOps (s : State) (part : Nat) : List (Nat × (Nat × MxeEntry)) :=
  let t := (s.part part).tick
  orderBy (fun x => s.placeOfRef x.2.2.owner) (s.mxes.flatMap (fun m =>
    (m.2.entries.filter (fun p => s.ticksFor part p.2.owner && (if p.2.granted then decide (p.2.due ≤ t) else
      (m.2.waiting.head?.map (·.1)) == some p.1 &&
        decide (max p.2.due (max m.2.freeTick (m.2.tile p.2.tile).eff) ≤ t)))).map (fun p => (m.1, (p.1, p.2)))))

/-- A due tile operation cannot go on: its memory is not at hand, or another device has not answered; one whose engine has no free tile
only waits (R301). -/
def State.tileOpLate (s : State) (e : MxeEntry) : Bool :=
  e.paused.isSome || (((e.op == 0xA3 && e.granted) || (e.op == 0xA4 && !e.granted)) && !(s.matBad e).isEmpty) ||
    (e.op == 0xA4 && !e.granted && !s.tileBrought e) || (e.op == 0xA3 && e.sent && e.left != 0 && e.lost.isNone)

/-- Estimator operations of the partition's running context, in deterministic mode, that are due; their flights may have ended (R324). -/
def State.dueEsts (s : State) (part : Nat) : List (Nat × EstOp) :=
  orderBy (fun x => x.2.place) (s.estQ.filter (fun p => p.2.det && p.2.part == part && (s.part part).cur == some p.2.ctx && !p.2.held &&
    decide (p.2.due ≤ (s.part part).tick)))

/-- Ended tethers of launches of the running context in deterministic mode, in the order of the core of their first rank (R244). -/
def State.overTethers (s : State) (part : Nat) : List (Nat × (Nat × Tether)) :=
  orderBy (fun x => x.2.2.cores.headD 0) ((s.launches.filter (fun l => l.2.part == part && (s.part part).cur == some l.2.ctx &&
      s.isDet l.2)).flatMap (fun l =>
    (l.2.tethers.filter (fun t => t.2.ended.isSome)).map (fun t => (l.1, (t.1, t.2)))))

/-- Positions of a tether's entries whose commit is due, in ascending twin address. -/
def State.dueEntries (s : State) (part : Nat) (y : Tether) : List Nat :=
  let own := dieOfCore (y.cores.headD 0)
  (List.range y.stage.length).filter (fun i => match y.stage[i]?, y.ended with
    | some (k, _), some t => decide (t + homeLat own (paDie k) ≤ (s.part part).tick)
    | _, _ => false)

/-- A slot return counts from this tick on, so that copies held for it test again (R279). -/
def State.returnsNow (s : State) (part : Nat) : Bool :=
  s.cores.any (fun c => c.2.shadows.any (fun h => h.part == part && h.later.any (fun p => p.1 == (s.part part).tick)))

/-- Some operation that is due has not been obtained, so that T stands still (R174). -/
def State.stuck (s : State) (part : Nat) : Bool :=
  (s.dueAccs part).any (fun p => (duePieces p.2 (s.part part).tick).any (s.pieceHeld p.2)) ||
  (s.tickFlights part).any (fun p => s.opLate part p.2) ||
  (s.dueCopies part).any (fun x => s.copyLate part x.2.2) ||
  (s.dueTileOps part).any (fun x => s.tileOpLate x.2.2) ||
  (s.overTethers part).any (fun x => (s.dueEntries part x.2.2).any (fun i =>
    ((x.2.2.stage[i]?).map (fun e => !s.dieUp (paDie e.1))).getD false))

/-- The thread-path events of a flight that are due: its accesses, then the operation that holds it. -/
def State.threadMoves (s : State) (part : Nat) (r : FlightRef) (f : Flight) : List Move :=
  (f.accs.filter (fun a => s.accessible r && !(duePieces a (s.part part).tick).isEmpty)).map (fun a =>
    if a.kind.isLoad then Move.event (.loadDataArrival r a.id 0xFFFFFFFFFFFFFFFF) else Move.event (.storeEffect r a.id 0xFFFFFFFFFFFFFFFF)) ++
    (if s.opIsDue part f && f.wait == .op then (if f.clause.isNone then [.event (.clauseFetch r)] else []) ++ [.issue r] else [])

/-- The events of the operations that are due, in the order of R403. Entries leave a tether's staging as they commit, so that a later
one moves up; once all tethers' commits of the tick stand, those with none left end and signal. -/
def State.dueMoves (s : State) (part : Nat) : List Move :=
  let accs := (s.tickFlights part).flatMap (fun p => s.threadMoves part p.1 p.2)
  let copies := (s.dueCopies part).map (fun x => Move.event (.copyComplete x.1 x.2.1))
  let tiles := (s.dueTileOps part).map (fun x => Move.event (if x.2.2.granted then .tileOpComplete x.1 x.2.1 else .mxeGrant x.1 x.2.1))
  let ests := (s.dueEsts part).map (fun x => Move.event (.estimatorApply x.1))
  let commits := (s.overTethers part).flatMap (fun x =>
    let is := s.dueEntries part x.2.2
    (List.range is.length).map (fun n => Move.event (.twinCommit x.1 x.2.1 (is.getD n 0 - n))))
  let ends := (s.overTethers part).map (fun x => Move.event (.twinCommit x.1 x.2.1 0))
  let wakes := (s.tickFlights part).flatMap (fun p => match p.2.wait with
    | .copySlot _ => [Move.event (.spoolTimeout p.1)]
    | .twin _ => [Move.event (.ldaWake p.1), Move.event (.twinWaitTimeout p.1)]
    | _ => if p.2.accs.any (fun a => a.kind == .lda) then [Move.event (.ldaWake p.1)] else [])
  accs ++ copies ++ tiles ++ ests ++ commits ++ ends ++ wakes

/-- Accesses whose tick has come and whose home is down meet HOME_DOWN: their flights park, and T stands still (R174, R381). -/
def State.homeMoves (s : State) (part : Nat) : List Instr :=
  (s.dueAccs part).filterMap (fun x =>
    let held := (duePieces x.2 (s.part part).tick).filter (fun p =>
      !x.2.kind.isSta && p.dev.isNone && p.refused == 0 && (s.stopName p).isSome && s.inOrder x.1 x.2 p)
    let lines := doneBits x.2.pieces held
    if held.isEmpty then none else some (if x.2.kind.isLoad then .loadDataArrival x.1 x.2.id lines else .storeEffect x.1 x.2.id lines))

/-- TICK (R171, R173, R174): the operations due at T take their places, the slots have their turns, and T advances. With an operation
that has not been obtained T stands still; a copy or an ACCST first sends what another device must acknowledge. -/
def execTick (part : Nat) (s : State) : Out :=
  .next (
    if !s.ticking part || s.inTick part then s
    else if s.stuck part then (let is := s.homeMoves part
      if is.isEmpty then s else s.events is)
    else
      let copies := (s.dueCopies part).filter (fun x => decide (x.2.2.due ≤ (s.part part).tick) && s.copySends x.2.2)
      let tiles := (s.dueTileOps part).filter (fun x => s.tileSends x.2.2)
      if copies.isEmpty && tiles.isEmpty then s.soon (s.dueMoves part ++ [.turns part, .tickEnd part])
      else s.events (copies.map (fun x => .copyComplete x.1 x.2.1) ++ tiles.map (fun x => .tileOpComplete x.1 x.2.1)))

/-! ### Turns and the end of a tick -/

/-- The dispatchers of the tick's flights. -/
def State.tickDispatchers (s : State) (part : Nat) : List (Nat × Nat) :=
  (s.tickFlights part).foldl (fun ds p =>
    let d := (s.coreOf p.1, p.2.disp)
    if ds.contains d then ds else ds ++ [d]) []

/-- The turns of slot T mod 8 of every dispatcher (R171): stalled flights leave their slots, then each flight in turn may issue. -/
def State.turns (s : State) (part : Nat) : State :=
  let s0 := if s.returnsNow part then s.wakeSpools else s
  let s1 := (s0.tickDispatchers part).foldl (fun s d => State.swapStalled d.1 d.2 s) s0.stampReady
  let k := (s1.part part).tick % 8
  s1.soon (((s1.tickFlights part).filter (fun p => p.2.slot == some k && s1.mayIssue p.1 p.2)).flatMap (fun p =>
    [.event (.clauseComplete p.1), .event (.clauseFetch p.1), .issue p.1]))

/-- Placements of launches in deterministic mode that may come about: each tether on its fixed cores, in order (R156). -/
def State.tickPlaces (s : State) (part : Nat) : List Instr :=
  (orderBy (fun l => 3 - l.2.prio) (s.launches.filter (fun l => l.2.part == part && s.isDet l.2 && s.placing l.2))).flatMap (fun l =>
    let room := 64 * ((List.range 8).flatMap (s.ownedCores part)).length
    let ts := l.2.again ++ (List.range (min (l.2.tetherCount - l.2.next) room)).map (fun i => l.2.next + i)
    ts.map (fun t => .tetherPlace l.1 (s.fixedCores part t l.2.width)))

/-- Grants that the tick's own events have made possible: of operations without a latency that were issued at it, and of an ACCZ whose
tile has become free at it (R301). -/
def State.tickGrants (s : State) (part : Nat) : List Instr :=
  s.mxes.filterMap (fun m => if m.2.fenced then none else (s.arbiter m.1).bind (fun k =>
    if ((look m.2.entries k).map (fun e => s.ticksFor part e.owner)).getD false then some (.mxeGrant m.1 k) else none))

/-- The end of a tick: what its events have made possible, and the ends of flights that are done, still belong to it (R244, R301); then T and
the budget clocks advance, the watchdog acts, and tethers are placed (R146, R156, R171, R345). -/
def State.tickEnd (s : State) (part : Nat) : State :=
  let last := s.tickGrants part ++ ((s.tickFlights part).filter (fun p => p.2.done)).map (fun p => .flightEnd p.1)
  if !last.isEmpty then s.soon (last.map Move.event ++ [.tickEnd part])
  else
  let ws := (s.tickWgs part).map (·.1)
  let s1 := ws.foldl (fun s w => s.modWg w (fun g => { g with
    flights := g.flights.map (fun f => if f.npOpen then { f with npClk := f.npClk + 1 } else f) })) s
  let s2 := s1.modPart part (fun p => { p with tick := p.tick + 1 })
  let fs := s2.tickFlights part
  s2.events ((fs.filter (fun p => p.2.npOpen && decide (4 * s2.npBudget p.1 ≤ p.2.npClk.toNat))).map (fun p => .npWatchdog p.1) ++
    s2.tickPlaces part)

end Sys2Proof.Machine
end

