-- ==== Sys2Proof/Machine/Dispatch.lean ====
section
/-! DEFINITION. One arm per row of the table of operations and events. -/

namespace Sys2Proof.Machine

/-- The meaning of every row. -/
def exec (i : Instr) (s : State) : Host.Outcome State Fault Refusal :=
  match i with
  | .nop o => Sys2Proof.Machine.execNop o s
  | .mov o => Sys2Proof.Machine.execMov o s
  | .movLift o => Sys2Proof.Machine.execMovLift o s
  | .movi o => Sys2Proof.Machine.execMovi o s
  | .iadd o => Sys2Proof.Machine.execIadd o s
  | .isub o => Sys2Proof.Machine.execIsub o s
  | .iaddi o => Sys2Proof.Machine.execIaddi o s
  | .iadd64 o => Sys2Proof.Machine.execIadd64 o s
  | .isub64 o => Sys2Proof.Machine.execIsub64 o s
  | .iaddc o => Sys2Proof.Machine.execIaddc o s
  | .imul o => Sys2Proof.Machine.execImul o s
  | .imulh o => Sys2Proof.Machine.execImulh o s
  | .imad o => Sys2Proof.Machine.execImad o s
  | .imadw o => Sys2Proof.Machine.execImadw o s
  | .idot4 o => Sys2Proof.Machine.execIdot4 o s
  | .iminmax o => Sys2Proof.Machine.execIminmax o s
  | .iabsneg o => Sys2Proof.Machine.execIabsneg o s
  | .lea64 o => Sys2Proof.Machine.execLea64 o s
  | .and o => Sys2Proof.Machine.execAnd o s
  | .or o => Sys2Proof.Machine.execOr o s
  | .xor o => Sys2Proof.Machine.execXor o s
  | .andn o => Sys2Proof.Machine.execAndn o s
  | .not o => Sys2Proof.Machine.execNot o s
  | .trio o => Sys2Proof.Machine.execTrio o s
  | .logi o => Sys2Proof.Machine.execLogi o s
  | .shl o => Sys2Proof.Machine.execShl o s
  | .shr o => Sys2Proof.Machine.execShr o s
  | .shra o => Sys2Proof.Machine.execShra o s
  | .rotl o => Sys2Proof.Machine.execRotl o s
  | .shi o => Sys2Proof.Machine.execShi o s
  | .shf o => Sys2Proof.Machine.execShf o s
  | .bfx o => Sys2Proof.Machine.execBfx o s
  | .bfi o => Sys2Proof.Machine.execBfi o s
  | .popc o => Sys2Proof.Machine.execPopc o s
  | .clz o => Sys2Proof.Machine.execClz o s
  | .brev o => Sys2Proof.Machine.execBrev o s
  | .ffs o => Sys2Proof.Machine.execFfs o s
  | .icmp o => Sys2Proof.Machine.execIcmp o s
  | .icmp64 o => Sys2Proof.Machine.execIcmp64 o s
  | .icmpi o => Sys2Proof.Machine.execIcmpi o s
  | .sel o => Sys2Proof.Machine.execSel o s
  | .plop o => Sys2Proof.Machine.execPlop o s
  | .pmov o => Sys2Proof.Machine.execPmov o s
  | .rng o => Sys2Proof.Machine.execRng o s
  | .bra o => Sys2Proof.Machine.execBra o s
  | .brax o => Sys2Proof.Machine.execBrax o s
  | .call o => Sys2Proof.Machine.execCall o s
  | .callx o => Sys2Proof.Machine.execCallx o s
  | .ret o => Sys2Proof.Machine.execRet o s
  | .loop o => Sys2Proof.Machine.execLoop o s
  | .exit o => Sys2Proof.Machine.execExit o s
  | .fadd o => Sys2Proof.Machine.execFadd o s
  | .fsub o => Sys2Proof.Machine.execFsub o s
  | .fmul o => Sys2Proof.Machine.execFmul o s
  | .ffma o => Sys2Proof.Machine.execFfma o s
  | .fmin o => Sys2Proof.Machine.execFmin o s
  | .fmax o => Sys2Proof.Machine.execFmax o s
  | .fabs o => Sys2Proof.Machine.execFabs o s
  | .fneg o => Sys2Proof.Machine.execFneg o s
  | .fopi o => Sys2Proof.Machine.execFopi o s
  | .fcmp o => Sys2Proof.Machine.execFcmp o s
  | .dcmp o => Sys2Proof.Machine.execDcmp o s
  | .fclass o => Sys2Proof.Machine.execFclass o s
  | .frnd o => Sys2Proof.Machine.execFrnd o s
  | .hadd2 o => Sys2Proof.Machine.execHadd2 o s
  | .hsub2 o => Sys2Proof.Machine.execHsub2 o s
  | .hmul2 o => Sys2Proof.Machine.execHmul2 o s
  | .hfma2 o => Sys2Proof.Machine.execHfma2 o s
  | .hmin2 o => Sys2Proof.Machine.execHmin2 o s
  | .hmax2 o => Sys2Proof.Machine.execHmax2 o s
  | .hcmp2 o => Sys2Proof.Machine.execHcmp2 o s
  | .fdot2 o => Sys2Proof.Machine.execFdot2 o s
  | .dadd o => Sys2Proof.Machine.execDadd o s
  | .dmul o => Sys2Proof.Machine.execDmul o s
  | .dfma o => Sys2Proof.Machine.execDfma o s
  | .rcp o => Sys2Proof.Machine.execRcp o s
  | .rsq o => Sys2Proof.Machine.execRsq o s
  | .sqrt o => Sys2Proof.Machine.execSqrt o s
  | .exp2 o => Sys2Proof.Machine.execExp2 o s
  | .log2 o => Sys2Proof.Machine.execLog2 o s
  | .sinpi o => Sys2Proof.Machine.execSinpi o s
  | .cospi o => Sys2Proof.Machine.execCospi o s
  | .tanh o => Sys2Proof.Machine.execTanh o s
  | .cvtfi o => Sys2Proof.Machine.execCvtfi o s
  | .cvtif o => Sys2Proof.Machine.execCvtif o s
  | .cvtff o => Sys2Proof.Machine.execCvtff o s
  | .sclq o => Sys2Proof.Machine.execSclq o s
  | .packn o => Sys2Proof.Machine.execPackn o s
  | .unpkn o => Sys2Proof.Machine.execUnpkn o s
  | .cbld o => Sys2Proof.Machine.execCbld o s
  | .cblk o => Sys2Proof.Machine.execCblk o s
  | .cbnr o => Sys2Proof.Machine.execCbnr o s
  | .shfli o => Sys2Proof.Machine.execShfli o s
  | .vote o => Sys2Proof.Machine.execVote o s
  | .redux o => Sys2Proof.Machine.execRedux o s
  | .scanx o => Sys2Proof.Machine.execScanx o s
  | .matchLanes o => Sys2Proof.Machine.execMatchLanes o s
  | .elect o => Sys2Proof.Machine.execElect o s
  | .sortk o => Sys2Proof.Machine.execSortk o s
  | .meet o => Sys2Proof.Machine.execMeet o s
  | .setmr o => Sys2Proof.Machine.execSetmr o s
  | .ld o => Sys2Proof.Machine.execLd o s
  | .st o => Sys2Proof.Machine.execSt o s
  | .atom o => Sys2Proof.Machine.execAtom o s
  | .acas o => Sys2Proof.Machine.execAcas o s
  | .pstp o => Sys2Proof.Machine.execPstp o s
  | .pref o => Sys2Proof.Machine.execPref o s
  | .resid o => Sys2Proof.Machine.execResid o s
  | .seal o => Sys2Proof.Machine.execSeal o s
  | .unseal o => Sys2Proof.Machine.execUnseal o s
  | .wait o => Sys2Proof.Machine.execWait o s
  | .fencex o => Sys2Proof.Machine.execFencex o s
  | .fencep o => Sys2Proof.Machine.execFencep o s
  | .npbegin o => Sys2Proof.Machine.execNpbegin o s
  | .npend o => Sys2Proof.Machine.execNpend o s
  | .bar o => Sys2Proof.Machine.execBar o s
  | .bart o => Sys2Proof.Machine.execBart o s
  | .yield o => Sys2Proof.Machine.execYield o s
  | .launch o => Sys2Proof.Machine.execLaunch o s
  | .cancel o => Sys2Proof.Machine.execCancel o s
  | .cancelIdx o => Sys2Proof.Machine.execCancelIdx o s
  | .csig o => Sys2Proof.Machine.execCsig o s
  | .csigIdx o => Sys2Proof.Machine.execCsigIdx o s
  | .csigArm o => Sys2Proof.Machine.execCsigArm o s
  | .gets o => Sys2Proof.Machine.execGets o s
  | .getsClr o => Sys2Proof.Machine.execGetsClr o s
  | .ldf o => Sys2Proof.Machine.execLdf o s
  | .sta o => Sys2Proof.Machine.execSta o s
  | .lda o => Sys2Proof.Machine.execLda o s
  | .twctlReset o => Sys2Proof.Machine.execTwctlReset o s
  | .twctlQuery o => Sys2Proof.Machine.execTwctlQuery o s
  | .cpy o => Sys2Proof.Machine.execCpy o s
  | .cpyg o => Sys2Proof.Machine.execCpyg o s
  | .cpys o => Sys2Proof.Machine.execCpys o s
  | .spinit o => Sys2Proof.Machine.execSpinit o s
  | .spwait o => Sys2Proof.Machine.execSpwait o s
  | .sprel o => Sys2Proof.Machine.execSprel o s
  | .sppos o => Sys2Proof.Machine.execSppos o s
  | .mma o => Sys2Proof.Machine.execMma o s
  | .mmas o => Sys2Proof.Machine.execMmas o s
  | .accz o => Sys2Proof.Machine.execAccz o s
  | .accst o => Sys2Proof.Machine.execAccst o s
  | .accld o => Sys2Proof.Machine.execAccld o s
  | .accrel o => Sys2Proof.Machine.execAccrel o s
  | .mxchk o => Sys2Proof.Machine.execMxchk o s
  | .draw o => Sys2Proof.Machine.execDraw o s
  | .esmp o => Sys2Proof.Machine.execEsmp o s
  | .esmpPost o => Sys2Proof.Machine.execEsmpPost o s
  | .estat o => Sys2Proof.Machine.execEstat o s
  | .estop o => Sys2Proof.Machine.execEstop o s
  | .trap o => Sys2Proof.Machine.execTrap o s
  | .bkpt o => Sys2Proof.Machine.execBkpt o s
  | .timerArm o => Sys2Proof.Machine.execTimerArm o s
  | .timerRead o => Sys2Proof.Machine.execTimerRead o s
  | .timerCancel o => Sys2Proof.Machine.execTimerCancel o s
  | .tokchk o => Sys2Proof.Machine.execTokchk o s
  | .tokchkN o => Sys2Proof.Machine.execTokchkN o s
  | .clauseFetch r => Sys2Proof.Machine.execClauseFetch r s
  | .clauseComplete r => Sys2Proof.Machine.execClauseComplete r s
  | .loadDataArrival r acc lines => Sys2Proof.Machine.execLoadDataArrival r acc lines s
  | .storeEffect r acc lines => Sys2Proof.Machine.execStoreEffect r acc lines s
  | .tick part => Sys2Proof.Machine.execTick part s
  | .forcedExchange core disp slot => Sys2Proof.Machine.execForcedExchange core disp slot s
  | .flightEnd r => Sys2Proof.Machine.execFlightEnd r s
  | .tetherPlace launch cores => Sys2Proof.Machine.execTetherPlace launch cores s
  | .migrate wg core => Sys2Proof.Machine.execMigrate wg core s
  | .twinCommit launch tether idx => Sys2Proof.Machine.execTwinCommit launch tether idx s
  | .counterSignal part slot idx state child cores => Sys2Proof.Machine.execCounterSignal part slot idx state child cores s
  | .mxeGrant quad entry => Sys2Proof.Machine.execMxeGrant quad entry s
  | .mxePrioRaise quad entry => Sys2Proof.Machine.execMxePrioRaise quad entry s
  | .tileOpComplete quad entry => Sys2Proof.Machine.execTileOpComplete quad entry s
  | .matrixFault quad entry va => Sys2Proof.Machine.execMatrixFault quad entry va s
  | .copyComplete core copy => Sys2Proof.Machine.execCopyComplete core copy s
  | .copyFail core copy words => Sys2Proof.Machine.execCopyFail core copy words s
  | .streamerFault core copy words => Sys2Proof.Machine.execStreamerFault core copy words s
  | .shadowFetch r record => Sys2Proof.Machine.execShadowFetch r record s
  | .slotReturn part name rd => Sys2Proof.Machine.execSlotReturn part name rd s
  | .spoolTimeout r => Sys2Proof.Machine.execSpoolTimeout r s
  | .estimatorApply op => Sys2Proof.Machine.execEstimatorApply op s
  | .ldaWake r => Sys2Proof.Machine.execLdaWake r s
  | .remoteLdaPoll r => Sys2Proof.Machine.execRemoteLdaPoll r s
  | .twinWaitTimeout r => Sys2Proof.Machine.execTwinWaitTimeout r s
  | .dirlockRetry r => Sys2Proof.Machine.execDirlockRetry r s
  | .workgroupHalt wg => Sys2Proof.Machine.execWorkgroupHalt wg s
  | .haltDrainComplete wg => Sys2Proof.Machine.execHaltDrainComplete wg s
  | .timerExpiry r => Sys2Proof.Machine.execTimerExpiry r s
  | .sliceExpiry part => Sys2Proof.Machine.execSliceExpiry part s
  | .debugHalt wg => Sys2Proof.Machine.execDebugHalt wg s
  | .ddeadExpiry part => Sys2Proof.Machine.execDdeadExpiry part s
  | .npWatchdog r => Sys2Proof.Machine.execNpWatchdog r s
  | .lazyClaimSpill part slot res => Sys2Proof.Machine.execLazyClaimSpill part slot res s
  | .contextRestore part slot => Sys2Proof.Machine.execContextRestore part slot s
  | .scrub part => Sys2Proof.Machine.execScrub part s
  | .tokenRecord part => Sys2Proof.Machine.execTokenRecord part s
  | .tetherKill launch tether reason => Sys2Proof.Machine.execTetherKill launch tether reason s
  | .uncorrConsumed error => Sys2Proof.Machine.execUncorrConsumed error s
  | .correctedError error => Sys2Proof.Machine.execCorrectedError error s
  | .fatalError what => Sys2Proof.Machine.execFatalError what s
  | .pageRetire frame spare lost => Sys2Proof.Machine.execPageRetire frame spare lost s
  | .scanTurnStart core => Sys2Proof.Machine.execScanTurnStart core s
  | .scanTurnEnd core => Sys2Proof.Machine.execScanTurnEnd core s
  | .scanTurnFail core => Sys2Proof.Machine.execScanTurnFail core s
  | .vfDisable part => Sys2Proof.Machine.execVfDisable part s
  | .launchDoorbell src prod => Sys2Proof.Machine.execLaunchDoorbell src prod s
  | .ringConsWrite table ring cons => Sys2Proof.Machine.execRingConsWrite table ring cons s
  | .registerWrite target value => Sys2Proof.Machine.execRegisterWrite target value s
  | .launchCommand src => Sys2Proof.Machine.execLaunchCommand src s
  | .inval src => Sys2Proof.Machine.execInval src s
  | .fresume src => Sys2Proof.Machine.execFresume src s
  | .trapres src => Sys2Proof.Machine.execTrapres src s
  | .arm src => Sys2Proof.Machine.execArm src s
  | .tokreq src => Sys2Proof.Machine.execTokreq src s
  | .tokread src => Sys2Proof.Machine.execTokread src s
  | .clearlost src => Sys2Proof.Machine.execClearlost src s
  | .logput src => Sys2Proof.Machine.execLogput src s
  | .capture src => Sys2Proof.Machine.execCapture src s
  | .preempt src => Sys2Proof.Machine.execPreempt src s
  | .diereset src => Sys2Proof.Machine.execDiereset src s
  | .partset src => Sys2Proof.Machine.execPartset src s
  | .ctxset src => Sys2Proof.Machine.execCtxset src s
  | .regset src => Sys2Proof.Machine.execRegset src s
  | .ctxrun src => Sys2Proof.Machine.execCtxrun src s
  | .ringset src => Sys2Proof.Machine.execRingset src s
  | .ctlrun src => Sys2Proof.Machine.execCtlrun src s
  | .boot report => Sys2Proof.Machine.execBoot report s
  | .dieFault die => Sys2Proof.Machine.execDieFault die s
  | .dieFencingDone die => Sys2Proof.Machine.execDieFencingDone die s
  | .dieFlushDone die => Sys2Proof.Machine.execDieFlushDone die s
  | .dieResetDone die => Sys2Proof.Machine.execDieResetDone die s
  | .dieTrainingDone die trained => Sys2Proof.Machine.execDieTrainingDone die trained s
  | .dieRejoinDone report => Sys2Proof.Machine.execDieRejoinDone report s
  | .readmissionMessage dev => Sys2Proof.Machine.execReadmissionMessage dev s
  | .homeDownRetry r => Sys2Proof.Machine.execHomeDownRetry r s
  | .clockThrottle hot => Sys2Proof.Machine.execClockThrottle hot s
  | .planeDown plane => Sys2Proof.Machine.execPlaneDown plane s
  | .planeUp plane => Sys2Proof.Machine.execPlaneUp plane s
  | .spanWriteRelease plane => Sys2Proof.Machine.execSpanWriteRelease plane s
  | .remoteRequest req => Sys2Proof.Machine.execRemoteRequest req s
  | .remoteReply part dev epoch seq reply => Sys2Proof.Machine.execRemoteReply part dev epoch seq reply s
  | .createPacket dev part epoch => Sys2Proof.Machine.execCreatePacket dev part epoch s
  | .resend part dev seq plane => Sys2Proof.Machine.execResend part dev seq plane s
  | .deliveryFail part dev => Sys2Proof.Machine.execDeliveryFail part dev s
  | .quietExpiry source part dev => Sys2Proof.Machine.execQuietExpiry source part dev s
  | .packetExpiry part dev seq => Sys2Proof.Machine.execPacketExpiry part dev seq s
  | .linkStop port lane => Sys2Proof.Machine.execLinkStop port lane s
  | .linkGo port lane => Sys2Proof.Machine.execLinkGo port lane s
  | .twinWakeup r => Sys2Proof.Machine.execTwinWakeup r s
  | .debuggerRelease wg => Sys2Proof.Machine.execDebuggerRelease wg s
  | .eventQueueConsume die count => Sys2Proof.Machine.execEventQueueConsume die count s

end Sys2Proof.Machine
end

