-- ==== Sys2Proof/Machine/Sched.lean ====
section
/-! DEFINITION. Which move comes next, issues, and the passing of time: the agenda first, then a default schedule that is one of those
the spec allows (R7, R32, R158–R161; log 1, log 13, log 14). -/

namespace Sys2Proof.Machine

/-! ### Issue (R42, R158) -/

/-- The meaning of an instruction word of the issuing flight: an illegal word traps ILLEGAL_OP (R42). -/
def State.issueWord (s : State) (r : FlightRef) (f : Flight) (w : Dword) : Out :=
  match decode f.dctx w with
  | .error sub => .next (s.fault r cIllegalOp sub 0)
  | .ok i => exec i s

/-- The flight goes on with its instruction: it is ready, or the effect tick of the operation that holds it has come (R173). -/
def State.opReady (s : State) (r : FlightRef) (f : Flight) : Bool :=
  f.wait == .ready || (f.wait == .op && (f.opDue.map (fun e => decide (e ≤ s.now r))).getD false)

/-- The instruction word at which a flight stands, if it may issue it now. -/
def State.nextWord (s : State) (r : FlightRef) (f : Flight) : Option Dword :=
  if s.mayIssue r f && s.opReady r f && !s.outOfTurn r f then f.clause.bind (fun c => c.words[f.ix]?) else none

/-- A flight issues the next instruction of its clause, once it holds an active slot and is its dispatcher's choice (R158); where that makes
it stall, it is exchanged at once (R160). An operation that takes its place at its effect tick has issued already. -/
def State.issue (s : State) (r : FlightRef) : Out :=
  match (s.flight? r).bind (fun f => (s.nextWord r f).map (fun w => (f, w))) with
  | none => .next s
  | some (f, w) =>
    let s1 := if s.seated r || f.wait == .op then s else s.dispatch r
    if f.wait == .op || s1.seated r && s1.chooses r then
      (match State.issueWord { s1.noteIssue r with cur := some r } r f w with
        | .next t => .next (t.swapOut r)
        | o => o)
    else .next s1

/-! ### Events that can happen now -/

/-- An event would change the state. -/
def State.acts (s : State) (i : Instr) : Bool :=
  match exec i s with
  | .next t => decide (t ≠ s)
  | _ => false

/-- Every flight and control program. -/
def State.allRefs (s : State) : List (FlightRef × Flight) :=
  s.wgs.flatMap (fun g => (List.range g.2.flights.length).map (fun i => (.wg g.1 i, g.2.flights.getD i default))) ++
    (List.range s.parts.length).flatMap (fun k => (s.part k).ctls.map (fun c => (.ctl c.1 k, c.2.flight)))

/-- A flight's clause has been issued to its end. -/
def Flight.finished (f : Flight) : Bool := ((f.clause.map (fun c => decide (c.words.length ≤ f.ix))).getD false) && !f.stopped

/-- What a flight's own state lets happen: its clause or the flight ends, its accesses take their places, it wakes. In deterministic
mode the ticks do all but the first. -/
def State.flightEvents (s : State) (r : FlightRef) (f : Flight) : List Instr :=
  if f.finished then [.clauseComplete r]
  else if s.det r then []
  else
    f.accs.map (fun a => if a.kind.isLoad then .loadDataArrival r a.id 0xFFFFFFFFFFFFFFFF else .storeEffect r a.id 0xFFFFFFFFFFFFFFFF) ++
      (match f.wait with
      | .twin _ => [.ldaWake r]
      | _ => []) ++ (if f.done then [.flightEnd r] else [])

/-- Copies: they complete, fail, or meet a fault. -/
def State.copyEvents (s : State) : List Instr :=
  s.cores.flatMap (fun c => c.2.copies.flatMap (fun p =>
    (if s.det p.2.owner then [] else [.copyComplete c.1 p.1]) ++
      [.streamerFault c.1 p.1 (Config.freeNat s.free), .copyFail c.1 p.1 (Config.freeNat s.free)]))

/-- Tile operations: they are granted, complete, or meet a fault. -/
def State.tileEvents (s : State) : List Instr :=
  s.mxes.flatMap (fun m => m.2.entries.flatMap (fun p =>
    (if s.det p.2.owner then [] else if p.2.granted then [.tileOpComplete m.1 p.1] else [.mxeGrant m.1 p.1]) ++
      (if p.2.op == 0xA3 || p.2.op == 0xA4 then ((s.matBad p.2).take 1).map (fun b => .matrixFault m.1 p.1 (BitVec.ofInt 64 b.1)) else [])))

/-- Workgroups and tethers: halts, kills, commits. -/
def State.groupEvents (s : State) : List Instr :=
  s.wgs.flatMap (fun g => [.workgroupHalt g.1, .haltDrainComplete g.1]) ++
    s.launches.flatMap (fun l => l.2.tethers.flatMap (fun t =>
      (if t.2.dying.isSome then [.tetherKill l.1 t.1 0] else if s.onFenced t.2 && s.isDet l.2 then [.tetherKill l.1 t.1 4] else []) ++
        (if t.2.ended.isSome && !s.isDet l.2 then [.twinCommit l.1 t.1 0] else [])))

/-- Cores for a launch's next tether: of the lowest board with room (R156). -/
def State.somePlace (s : State) (l : Launch) : List Nat :=
  let rooms := (List.range 8).map (fun b => (s.boardCores l.part b).filter (s.takes l))
  ((rooms.find? (fun cs => decide (l.width ≤ cs.length))).getD []).take l.width

/-- Placements, and the halted workgroups of fenced engines that move (R156, R303). -/
def State.placeEvents (s : State) : List Instr :=
  (s.launches.filter (fun l => (s.placing l.2 && !s.isDet l.2) || s.dep l.2 == .never)).map (fun l => .tetherPlace l.1 (s.somePlace l.2)) ++
    (s.wgs.filter (fun g => (s.mxe (quadOfCore g.2.core)).fenced && g.2.st == .halted)).flatMap (fun g =>
      (List.range 512).filterMap (fun c => if boardOfCore c = boardOfCore g.2.core then some (.migrate g.1 c) else none))

/-- Partitions: restores, scrubs, tokens, VFs being disabled (R342, R350, R352, R355). -/
def State.partEvents (s : State) : List Instr :=
  (List.range s.parts.length).flatMap (fun k =>
    let p := s.part k
    (if p.scrubDue.isSome then [.scrub k] else []) ++ (if !p.tokenDue.isEmpty then [.tokenRecord k] else []) ++
      (if p.vfOff == 1 && p.cur.isNone then [.vfDisable k] else []) ++
      (if p.cur.isNone then ((p.switch.bind (·.target)).or (p.nextOn 15)).toList.map (fun c => .contextRestore k c) else []))

/-- The events that need no time to pass. -/
def State.eager (s : State) : List Instr :=
  s.allRefs.flatMap (fun p => s.flightEvents p.1 p.2) ++ s.copyEvents ++ s.tileEvents ++
    (s.estQ.filter (fun p => !p.2.held && !p.2.det)).map (fun p => .estimatorApply p.1) ++
    s.groupEvents ++ s.placeEvents ++ s.partEvents

/-! ### The passing of time (log 13) -/

/-- What time brings to a flight. -/
def State.flightTimes (s : State) (r : FlightRef) (f : Flight) : List Instr :=
  (if f.timerOn && f.timerRem == 0 then [.timerExpiry r] else []) ++
    (if f.npOpen && !s.det r then [.npWatchdog r] else []) ++
    (match f.wait with
    | .twin _ => (if s.det r then [] else [.twinWaitTimeout r]) ++ [.remoteLdaPoll r]
    | .copySlot _ => if s.det r then [] else [.spoolTimeout r]
    | .dirLock => [.dirlockRetry r]
    | .homeDown _ | .remote _ => [.homeDownRetry r]
    | _ => [])

/-- What time brings to delivery contexts (R392, R393). -/
def State.fabricTimes (s : State) : List Instr :=
  (s.spanHold.map (fun p => .spanWriteRelease p.1)) ++
    s.srcCtx.flatMap (fun c => [.deliveryFail (c.1 / 256) (c.1 % 256), .quietExpiry true (c.1 / 256) (c.1 % 256)] ++
      c.2.waiting.map (fun p => .resend (c.1 / 256) (c.1 % 256) p.seq (s.resendPlane p))) ++
    s.dstCtx.map (fun c => .quietExpiry false (c.1 % 256) (c.1 / 256))

/-- Slots of dispatchers where a pending flight has been ready for 2,048 cycles (R161); the flights in them may stand at a boundary. -/
def State.exchanges (s : State) : List Instr :=
  (s.allRefs.filter (fun p => p.2.readySince.isSome && !s.det p.1 && s.overdue (s.coreOf p.1) p.2.disp)).flatMap (fun p =>
    (List.range 8).map (fun k => .forcedExchange (s.coreOf p.1) p.2.disp k))

/-- A partition's slice is over, or a flight has parked, or a switch that a section had put off may begin (R341–R343). -/
def State.sliceActs (s : State) (k : Nat) : Bool :=
  let p := s.part k
  (p.slice != 0 && decide (p.sliceEnd ≤ s.clk.toNat)) || p.parkDue || p.spendDue || (p.switch.map (·.deferred)).getD false

/-- Everything that the clock can bring about. -/
def State.timed (s : State) : List Instr :=
  s.allRefs.flatMap (fun p => s.flightTimes p.1 p.2) ++ s.fabricTimes ++ s.exchanges ++
    s.mxes.flatMap (fun m => m.2.waiting.map (fun p => .mxePrioRaise m.1 p.1)) ++
    (List.range s.parts.length).flatMap (fun k => if (s.part k).cur.isSome then (if s.sliceActs k then [.sliceExpiry k] else []) ++ [.ddeadExpiry k] else [])

/-- The partition has work in deterministic mode. -/
def State.hasTicks (s : State) (part : Nat) : Bool :=
  s.launches.any (fun l => l.2.part == part && some l.2.ctx == (s.part part).cur && s.isDet l.2 && !l.2.ended)

/-- Time passes: clocks advance, what falls due comes next, then the commands at the heads of the queues, and the ticks of the
partitions, one for each cycle (R171). -/
def State.timePasses (s : State) (ns : Nat) : State :=
  let cycles := (s.mcyc + ns * s.mhz) / 1000 - s.cyc
  let ks := (List.range s.parts.length).filter s.ticking
  let s1 := ((ks.filter (fun k => !s.hasTicks k)).foldl (fun s k => s.modPart k (fun p => { p with tick := p.tick + cycles }))
    (s.stampReady.pass ns))
  let s2 := s1.events ((ks.filter s.hasTicks).flatMap (fun k => List.replicate cycles (.tick k)))
  s2.pumpAll.events (s1.timed.filter s1.acts)

/-! ### The next move -/

/-- The time that passes when nothing else can happen, in ns: no more than a few cycles, so that each dispatcher issues in each cycle in
which it can, and no flight that is ready waits beyond the bound of R159. -/
def quantum : Nat := 1

/-- A flight's move when it is chosen: it goes on in its clause, or starts one. -/
def flightMove (r : FlightRef) (f : Flight) : Move := if f.clause.isSome then .issue r else .event (.clauseFetch r)

/-- The flights that can go on, the one that has waited longest first. -/
def State.candidates (s : State) : List (FlightRef × Flight) :=
  orderBy (fun p => p.2.lastIssue) (s.allRefs.filter (fun p => !s.det p.1 && (s.ready p.1 p.2 || (p.2.owes && p.2.clause.isNone))))

/-- A flight's move would change the state. -/
def State.flightActs (s : State) (p : FlightRef × Flight) : Bool :=
  match flightMove p.1 p.2 with
  | .issue r => (match s.issue r with
    | .next t => decide (t ≠ s)
    | _ => false)
  | .event i => s.acts i
  | _ => false

/-- The default schedule: an event that can happen, else the flight that has waited longest, else time. Time passes once no dispatcher has
a cycle left before it; a control program has no cycles to spend, and time passes after each of its clauses has started. -/
def State.defaultMove (s : State) : Move × State :=
  match s.eager.find? s.acts with
  | some i => (.event i, s)
  | none =>
    match s.candidates.find? s.flightActs with
    | some p => (flightMove p.1 p.2, match p.1 with
      | .ctl _ _ => { s with agenda := [.time quantum] }
      | .wg _ _ => s)
    | none => (.time quantum, s)

/-- The flight in progress has issued its clause to the end. -/
def State.clauseOver (s : State) : Option FlightRef :=
  s.issuer.bind (fun p => if p.2.finished then some p.1 else none)

/-- The flight in progress can issue its next instruction, outside deterministic mode, where ticks give the turns. -/
def State.goesOn (s : State) : Option FlightRef :=
  s.issuer.bind (fun p => if !s.det p.1 && (s.nextWord p.1 p.2).isSome && s.chooses p.1 then some p.1 else none)

/-- The next move, and the state without it: a clause that is over completes, then the agenda, then the flight in progress, then the
default schedule. -/
def State.nextMove (s : State) : Move × State :=
  match s.clauseOver with
  | some r => (.event (.clauseComplete r), s)
  | none =>
    match s.agenda with
    | m :: ms => (m, { s with agenda := ms })
    | [] =>
      match s.goesOn with
      | some r => (.issue r, s)
      | none => s.defaultMove

/-- Makes a move. An instruction row is no event: instructions are read from clauses only. -/
def State.make (s : State) (m : Move) : Out :=
  match m with
  | .issue r => s.issue r
  | .event i => if hasEncoding i then .next s else exec i s
  | .time ns => .next (s.timePasses ns)
  | .turns part => .next (s.turns part)
  | .tickEnd part => .next (s.tickEnd part)

/-! ### A word placed for the next step (log 7) -/

/-- A mix clause of one word. -/
def oneWord (addr w : Dword) : Clause := { addr, cls := .mix, yieldHint := false, words := [w] }

/-- A flight in progress stands at the one word of a clause, with nothing it waits for. -/
def Flight.at (f : Flight) (w : Dword) : Flight :=
  { f with
    clause := some (oneWord f.header w)
    ix := 0
    sg := if f.sg = 0 then f.running else f.sg
    wait := .ready
    stopped := false
    ended := false
    opDue := none
    opBuf := none
    slot := some (f.slot.getD 0) }

/-- Another flight of core 0 holds no slot. -/
def Wg.unseated (g : Wg) : Wg := if g.core = 0 then { g with flights := g.flights.map (fun f => { f with slot := none }) } else g

/-- A launch of one flight of 256 v registers in context 0 of partition 0, on core 0, whose other flights have no slots. -/
def State.install (s : State) : State :=
  let l : Launch := {
    id := 1, part := 0, ctx := 0, queue := 0, seq := 0, origin := 0, record := (List.replicate 256 0).set 0x50 1, args := List.replicate 64 0
    next := 1, again := [], tethers := [(0, { wgs := [s.uid], pads := [(0, (0, 0))], stage := [], cores := [0], norelaunch := false, dying := none, ended := none })]
    kills := [], cancelled := false, killed := none, ended := false, code := [], ran := [] }
  let g : Wg := {
    launch := s.uid, part := 0, ctx := 0, wgid := 0, tether := 0, rank := 0, core := 0
    flights := [Flight.fresh 32 0 (List.replicate 16 0) ((List.range 32).map (BitVec.ofNat 32))]
    acc := List.replicate 8 none
    barK := 0, bartK := 0, sortK := 0, barArr := 0, bartArr := 0, sortArr := 0, sortIn := []
    st := .running, dbg := false, trapped := false, firstFlt := 0xFF, firstAt := 0
    entryOwed := false, entryAt := none, resolve := none, cancelled := false, replay := []
    scratchBase := 0, scratchBytes := 0, rows := 32, rowAt := s.freeRows 0 32, age := s.uid, away := Away.none }
  { s with
    uid := s.uid + 1
    cur := some (.wg s.uid 0)
    launches := put s.launches s.uid l
    wgs := put (mapVals s.wgs (fun _ g => g.unseated)) s.uid g
    cores := sput Core.reset s.cores 0 { s.core 0 with issued := [0, 0, 0, 0] }
    parts := modAt s.parts 0 (fun p => { p with cur := some 0, last := some 0, ctxs := modAt p.ctxs 0 (fun c => { c with st := .running }) }) }

/-- The flight that can take a word now: the one in progress, outside deterministic mode, of a running workgroup. -/
def State.host? (s : State) : Option (FlightRef × Flight) :=
  s.issuer.bind (fun p => if !s.det p.1 && s.mayIssue p.1 { p.2 with stopped := false, ended := false } then some p else none)

/-- The flight in progress stands at a word, and nothing comes before it. -/
def State.standing (s : State) (w : Dword) : State :=
  match s.issuer with
  | some (r, f) => { s.setFlight r (f.at w) with agenda := [] }
  | none => s

/-- The flight in progress can take a word, and issues next. -/
def State.hosts (s : State) (w : Dword) : Bool := (s.host?.map (fun p => (s.standing w).chooses p.1)).getD false

/-- The state with a word where the next step takes its instruction from. -/
def State.withWord (s : State) (w : Dword) : State := (if s.hosts w then s else s.install).standing w

end Sys2Proof.Machine
end

