-- ==== Sys2Proof/Machine/Step.lean ====
section
/-! DEFINITION. One step of the device, and a state whose next step runs a given instruction word. -/

namespace Sys2Proof.Machine

/-- One step: the next move of the agenda or of the default schedule. -/
def step (s : State) : Host.Outcome State Fault Refusal :=
  let (m, t) := s.nextMove
  t.make m

/-- The state with an instruction word, numbered as the table numbers its bits, as the next instruction of the flight in progress, or
of a flight installed for it (log 7). -/
def State.withFetchWord (s : State) (nbits w : Nat) : State := s.withWord (BitVec.ofNat 64 (w % 2 ^ nbits))

end Sys2Proof.Machine
end

