-- ==== Sys2Proof/Safety.lean ====
section
/-! DEFINITION. What a safe run of the machine is: it neither faults nor is refused. -/

namespace Sys2Proof

/-- The machine goes on after a step. -/
def GoesOn (s : Machine.State) : Prop := ∃ t, Machine.step s = .next t

/-- A run of some steps neither faults nor is refused. -/
def SafeFor (n : Nat) (s : Machine.State) : Prop := ∃ t, core.run n s = .next t

/-- No run from the state, however long, faults or is refused. -/
def Safe (s : Machine.State) : Prop := ∀ n, SafeFor n s

end Sys2Proof
end

