-- ==== Sys2Proof/Certificates/Slice0/Obligations.lean ====
section
/-! DEFINITION. The statements about the model, each a proposition, and the vocabulary they share: what completing means, and what a
flight keeps. -/

namespace Sys2Proof.Claim

open Sys2Proof.Machine

/-! ### The shared vocabulary -/

/-- A register of a lane: of the uniform file on the uniform path, else of the lane (R35). -/
def reg (f : Flight) (uni : Bool) (l r : Nat) : Word := if uni then f.s r else f.v l r

/-- A predicate of a lane: of the uniform file on the uniform path, else of the lane (R52). -/
def prd (f : Flight) (uni : Bool) (l i : Nat) : Bool := if uni then f.q i else f.p l i

/-- What every instruction that only computes leaves alone in its flight: meeting points, finished threads, thread identifiers, the
operations in progress and their counts, its rendezvous peers, the timer's remaining time outside deterministic mode. One more
instruction has retired (R170). -/
def Kept (f f' : Flight) : Prop :=
  f'.mr = f.mr ∧ f'.exited = f.exited ∧ f'.tids = f.tids ∧ f'.accs = f.accs ∧ f'.peer = f.peer ∧ f'.nLoads = f.nLoads ∧
    f'.nStores = f.nStores ∧ f'.nCopies = f.nCopies ∧ f'.nTiles = f.nTiles ∧ f'.nEst = f.nEst ∧ f'.retired = f.retired + 1

/-- The registers of a flight are as before. -/
def RegsKept (f f' : Flight) : Prop := (∀ r, f'.s r = f.s r) ∧ ∀ l r, r < 256 → f'.v l r = f.v l r

/-- The predicates of a flight are as before. -/
def PredsKept (f f' : Flight) : Prop := (∀ i, f'.q i = f.q i) ∧ ∀ l i, f'.p l i = f.p l i

/-- The effect of a lane-by-lane instruction with guard g whose results are `out`: every acting lane holds its results; every other
register and predicate is as before; the flags raised stay raised (R23, R34, R128); RNGCTR advances by k (R96). -/
def Lanes (f f' : Flight) (g : BitVec 4) (k : Dword) (out : Nat → LaneOut) : Prop :=
  (∀ l ∈ f.acting g, ∀ p ∈ (out l).regs, reg f' f.uniPath l p.1 = p.2) ∧
    (∀ l r, r < 256 → (f.uniPath = true ∨ l ∉ f.acting g ∨ ∀ p ∈ (out l).regs, p.1 ≠ r) → f'.v l r = f.v l r) ∧
    (∀ r, (f.uniPath = false ∨ f.acting g = [] ∨ ∀ p ∈ (out 0).regs, p.1 ≠ r) → f'.s r = f.s r) ∧
    (∀ l ∈ f.acting g, ∀ p ∈ (out l).preds, p.1 < 7 → prd f' f.uniPath l p.1 = p.2) ∧
    (∀ l i, l < 32 → (f.uniPath = true ∨ l ∉ f.acting g ∨ ∀ p ∈ (out l).preds, p.1 ≠ i) → f'.p l i = f.p l i) ∧
    (∀ i, (f.uniPath = false ∨ f.acting g = [] ∨ ∀ p ∈ (out 0).preds, p.1 ≠ i) → f'.q i = f.q i) ∧
    f'.fsr = (f.acting g).foldl (fun x l => x ||| (out l).flags.setWidth 32) f.fsr ∧
    f'.cb = f.cb ∧ f'.rngctr = f.rngctr + k ∧ Kept f f'

/-- The instruction completes for every state in which some flight has the issue: the next state is the state with that flight alone
changed, as `P` says. -/
def Completes (i : Instr) (P : State → FlightRef → Flight → Flight → Prop) : Prop :=
  ∀ s r f, s.issuer = some (r, f) → ∃ f', exec i s = .next (s.setFlight r f') ∧ P s r f f'

/-- A lane-by-lane instruction completes with the results given. -/
def LaneWise (i : Instr) (g : BitVec 4) (out : Flight → Nat → LaneOut) : Prop :=
  Completes i (fun _ _ f f' => Lanes f f' g 0 (out f))

/-- A lane-by-lane instruction with rounding mode rm completes: under rs (4) each lane has its draws, and RNGCTR advances once when it
acts (R96). -/
def LaneRound (i : Instr) (g : BitVec 4) (rm : Nat) (out : Flight → (Nat → Nat) → Nat → LaneOut) : Prop :=
  Completes i (fun s r f f' => Lanes f f' g (if rm = 4 ∧ f.acting g ≠ [] then 1 else 0)
    (fun l => out f (fun i => if rm = 4 then s.draw r f l i else 0) l))

/-- One 32-bit result. -/
def w32 (d : Byte) (x : Word) (flags : Byte := 0) : LaneOut := { regs := [(d.toNat, x)], flags }

/-- One 64-bit result in a pair: the low half at the even register (R24). -/
def w64 (d : Byte) (x : Dword) (flags : Byte := 0) : LaneOut :=
  { regs := [(d.toNat, x.extractLsb' 0 32), (d.toNat + 1, x.extractLsb' 32 32)], flags }

/-- One predicate result. -/
def w1 (d : Nat) (b : Bool) (flags : Byte := 0) : LaneOut := { preds := [(d, b)], flags }

/-- The least and the greatest value of an n-bit type (R52). -/
def least (sg : Bool) (n : Nat) : Int := if sg then -2 ^ (n - 1) else 0
def greatest (sg : Bool) (n : Nat) : Int := if sg then 2 ^ (n - 1) - 1 else 2 ^ n - 1

/-- An exact integer as an n-bit result: clipped to its type under sat, else its low n bits (R52, R56). -/
def fit (sg sat : Bool) (n : Nat) (x : Int) : BitVec n :=
  BitVec.ofInt n (if sat then max (least sg n) (min (greatest sg n) x) else x)

/-- SAT is raised when the clip changes the value (R52, R56). -/
def fitFlags (sg sat : Bool) (n : Nat) (x : Int) : Byte := if sat && (decide (x < least sg n) || decide (greatest sg n < x)) then 0x20 else 0

/-- A register read as a signed or unsigned integer. -/
def val {n : Nat} (sg : Bool) (x : BitVec n) : Int := if sg then x.toInt else x.toNat

/-- Operands A, B and C of a lane. -/
def opA (f : Flight) (o : VFmt) (l : Nat) : Word := f.src o.ka l o.a.toNat
def opB (f : Flight) (o : VFmt) (l : Nat) : Word := f.srcB o l
def opC (f : Flight) (o : VFmt) (l : Nat) : Word := f.src o.kc l o.c.toNat
def opA64 (f : Flight) (o : VFmt) (l : Nat) : Dword := f.src64 o.ka l o.a.toNat
def opB64 (f : Flight) (o : VFmt) (l : Nat) : Dword := f.srcB64 o l
def opC64 (f : Flight) (o : VFmt) (l : Nat) : Dword := f.src64 o.kc l o.c.toNat
def opI (f : Flight) (o : IFmt) (l : Nat) : Word := f.src o.ka l o.a.toNat

/-- A 32-bit and a 64-bit result of the mould of R56. -/
def fit32 (d : Byte) (sg sat : Bool) (x : Int) : LaneOut := w32 d (fit sg sat 32 x) (fitFlags sg sat 32 x)
def fit64 (d : Byte) (sg sat : Bool) (x : Int) : LaneOut := w64 d (fit sg sat 64 x) (fitFlags sg sat 64 x)

/-- A number's low 32 and 64 bits, as results with flags. -/
def n32 (d : Byte) (y : Nat × Byte) : LaneOut := w32 d (BitVec.ofNat 32 y.1) y.2
def n64 (d : Byte) (y : Nat × Byte) : LaneOut := w64 d (BitVec.ofNat 64 y.1) y.2

/-- A field that names a pair is even (R24); the decoder lets no other pass. -/
def EvenReg (d : Byte) : Prop := d.toNat % 2 = 0

end Sys2Proof.Claim

open Sys2Proof Sys2Proof.Machine Sys2Proof.Claim

/-! ### Integer, logic and compare instructions -/

/-- R55, over the moves: NOP changes no register; MOV copies a register or pair; MOVI gives its immediate, zero- or sign-extended in a
pair; MOV with lift writes the lowest acting lane's value to the uniform register or pair, and nothing where no lane acts. -/
def Sys2Proof.Claim.Moves : Prop :=
  (∀ o, LaneWise (.nop o) o.g (fun _ _ => {})) ∧
  (∀ o : VFmt, (o.f.getLsbD 0 = true → EvenReg o.d) → LaneWise (.mov o) o.g (fun f l =>
    if o.f.getLsbD 0 then w64 o.d (opA64 f o l) else w32 o.d (opA f o l))) ∧
  (∀ o : IFmt, (o.f3 ≠ 0 → EvenReg o.d) → LaneWise (.movi o) o.g (fun _ _ =>
    if o.f3 = 0 then w32 o.d o.imm else if o.f3 = 1 then w64 o.d (o.imm.signExtend 64) else w64 o.d (o.imm.setWidth 64))) ∧
  (∀ o : VFmt, Completes (.movLift o) (fun _ _ f f' =>
    (∀ l ls, f.acting o.g = l :: ls →
      (o.f.getLsbD 0 = false → f'.s o.d.toNat = f.v l o.a.toNat ∧ ∀ r, r ≠ o.d.toNat → f'.s r = f.s r) ∧
      (o.f.getLsbD 0 = true → f'.s64 o.d.toNat = f.v64 l o.a.toNat ∧ ∀ r, r ≠ o.d.toNat → r ≠ o.d.toNat + 1 → f'.s r = f.s r)) ∧
    (f.acting o.g = [] → ∀ r, f'.s r = f.s r) ∧
    (∀ l r, f'.v l r = f.v l r) ∧ PredsKept f f' ∧ f'.fsr = f.fsr ∧ f'.cb = f.cb ∧ f'.rngctr = f.rngctr ∧ Kept f f'))

/-- R56 and R57: sums and differences of 32 and 64 bits wrap, or clip and raise SAT; IADDC adds or subtracts with a carry and gives
the carry or borrow in the second register. -/
def Sys2Proof.Claim.IntegerSums : Prop :=
  (∀ o : VFmt, LaneWise (.iadd o) o.g (fun f l => fit32 o.d (o.f.getLsbD 0) (o.f.getLsbD 1)
    (val (o.f.getLsbD 0) (opA f o l) + val (o.f.getLsbD 0) (opB f o l)))) ∧
  (∀ o : VFmt, LaneWise (.isub o) o.g (fun f l => fit32 o.d (o.f.getLsbD 0) (o.f.getLsbD 1)
    (val (o.f.getLsbD 0) (opA f o l) - val (o.f.getLsbD 0) (opB f o l)))) ∧
  (∀ o : IFmt, LaneWise (.iaddi o) o.g (fun f l => fit32 o.d (o.f3.getLsbD 0) (o.f3.getLsbD 1)
    (val (o.f3.getLsbD 0) (opI f o l) + val (o.f3.getLsbD 0) o.imm))) ∧
  (∀ o : VFmt, EvenReg o.d → LaneWise (.iadd64 o) o.g (fun f l => fit64 o.d (o.f.getLsbD 0) (o.f.getLsbD 1)
    (val (o.f.getLsbD 0) (opA64 f o l) + val (o.f.getLsbD 0) (opB64 f o l)))) ∧
  (∀ o : VFmt, EvenReg o.d → LaneWise (.isub64 o) o.g (fun f l => fit64 o.d (o.f.getLsbD 0) (o.f.getLsbD 1)
    (val (o.f.getLsbD 0) (opA64 f o l) - val (o.f.getLsbD 0) (opB64 f o l)))) ∧
  (∀ o : VFmt, EvenReg o.d → LaneWise (.iaddc o) o.g (fun f l =>
    let c := (opC f o l).toNat % 2
    let x : Int := if o.f.getLsbD 0 then (opA f o l).toNat - (opB f o l).toNat - c else (opA f o l).toNat + (opB f o l).toNat + c
    { regs := [(o.d.toNat, BitVec.ofInt 32 x), (o.d.toNat + 1, if x < 0 ∨ 2 ^ 32 ≤ x then 1 else 0)] }))

/-- R58, R59, R60 and R61: products, multiply-adds and the four-byte dot product; minimum and maximum, magnitude and negation, and the
scaled 64-bit address sum. -/
def Sys2Proof.Claim.IntegerProducts : Prop :=
  (∀ o : VFmt, LaneWise (.imul o) o.g (fun f l => fit32 o.d (o.f.getLsbD 0) (o.f.getLsbD 1)
    (val (o.f.getLsbD 0) (opA f o l) * val (o.f.getLsbD 0) (opB f o l)))) ∧
  (∀ o : VFmt, LaneWise (.imulh o) o.g (fun f l => w32 o.d
    ((BitVec.ofInt 64 (val (o.f.getLsbD 0) (opA f o l) * val (o.f.getLsbD 0) (opB f o l))).extractLsb' 32 32))) ∧
  (∀ o : VFmt, LaneWise (.imad o) o.g (fun f l => fit32 o.d (o.f.getLsbD 0) (o.f.getLsbD 1)
    (val (o.f.getLsbD 0) (opA f o l) * val (o.f.getLsbD 0) (opB f o l) + val (o.f.getLsbD 0) (opC f o l)))) ∧
  (∀ o : VFmt, EvenReg o.d → LaneWise (.imadw o) o.g (fun f l => w64 o.d (BitVec.ofInt 64
    (val (o.f.getLsbD 0) (opA f o l) * val (o.f.getLsbD 0) (opB f o l) + val (o.f.getLsbD 0) (opC64 f o l))))) ∧
  (∀ o : VFmt, LaneWise (.idot4 o) o.g (fun f l =>
    let sa := o.f.getLsbD 0
    let sb := o.f.getLsbD 1
    let term := fun i => val sa ((opA f o l).extractLsb' (8 * i) 8) * val sb ((opB f o l).extractLsb' (8 * i) 8)
    fit32 o.d (sa || sb) (o.f.getLsbD 2) (val (sa || sb) (opC f o l) + term 0 + term 1 + term 2 + term 3))) ∧
  (∀ o : VFmt, LaneWise (.iminmax o) o.g (fun f l =>
    let a := opA f o l
    let b := opB f o l
    let below := decide (val (o.f.getLsbD 0) a ≤ val (o.f.getLsbD 0) b)
    w32 o.d (if below != o.f.getLsbD 1 then a else b))) ∧
  (∀ o : VFmt, LaneWise (.iabsneg o) o.g (fun f l =>
    let a := (opA f o l).toInt
    fit32 o.d true (o.f.getLsbD 1) (if o.f.getLsbD 0 ∨ a < 0 then -a else a))) ∧
  (∀ o : VFmt, EvenReg o.d → LaneWise (.lea64 o) o.g (fun f l =>
    let e : Dword := if o.f.getLsbD 3 then (opB f o l).signExtend 64 else (opB f o l).setWidth 64
    w64 o.d (opA64 f o l + e <<< (bits o.f.toNat 2 0))))

/-- R56–R61: sums, differences, products, multiply-adds, dot products, minimum, maximum, magnitude, negation and address sums, for every
operand form and lane set, with their flags and their frame. -/
def Obligations.IntegerArithmetic : Prop := Sys2Proof.Claim.IntegerSums ∧ Sys2Proof.Claim.IntegerProducts

/-- R62 and R63: the bitwise instructions, TRIO by its table of eight entries, LOGI. -/
def Sys2Proof.Claim.Logic : Prop :=
  (∀ o : VFmt, LaneWise (.and o) o.g (fun f l => w32 o.d (opA f o l &&& opB f o l))) ∧
  (∀ o : VFmt, LaneWise (.or o) o.g (fun f l => w32 o.d (opA f o l ||| opB f o l))) ∧
  (∀ o : VFmt, LaneWise (.xor o) o.g (fun f l => w32 o.d (opA f o l ^^^ opB f o l))) ∧
  (∀ o : VFmt, LaneWise (.andn o) o.g (fun f l => w32 o.d (opA f o l &&& ~~~opB f o l))) ∧
  (∀ o : VFmt, LaneWise (.not o) o.g (fun f l => w32 o.d (~~~opA f o l))) ∧
  (∀ o : VFmt, Completes (.trio o) (fun _ _ f f' => ∃ x : Nat → Word, Lanes f f' o.g 0 (fun l => w32 o.d (x l)) ∧
    ∀ l i, i < 32 → (x l).getLsbD i = o.m.getLsbD (4 + ((if (opC f o l).getLsbD i then 4 else 0) +
      (if (f.src o.kb l o.b.toNat).getLsbD i then 2 else 0) + (if (opA f o l).getLsbD i then 1 else 0))))) ∧
  (∀ o : IFmt, LaneWise (.logi o) o.g (fun f l => w32 o.d
    (if o.f3 = 0 then opI f o l &&& o.imm else if o.f3 = 1 then opI f o l ||| o.imm
      else if o.f3 = 2 then opI f o l ^^^ o.imm else opI f o l &&& ~~~o.imm)))

/-- R64 and R65: shifts take the count modulo 32, or whole under clamp, where 32 and more shift everything out; rotations; SHI; the
funnel shift of the pair b:a. -/
def Sys2Proof.Claim.Shifts : Prop :=
  (∀ o : VFmt, LaneWise (.shl o) o.g (fun f l => w32 o.d
    (opA f o l <<< (if o.f.getLsbD 0 then (opB f o l).toNat else (opB f o l).toNat % 32)))) ∧
  (∀ o : VFmt, LaneWise (.shr o) o.g (fun f l => w32 o.d
    (opA f o l >>> (if o.f.getLsbD 0 then (opB f o l).toNat else (opB f o l).toNat % 32)))) ∧
  (∀ o : VFmt, LaneWise (.shra o) o.g (fun f l => w32 o.d
    ((opA f o l).sshiftRight (if o.f.getLsbD 0 then (opB f o l).toNat else (opB f o l).toNat % 32)))) ∧
  (∀ o : VFmt, LaneWise (.rotl o) o.g (fun f l => w32 o.d ((opA f o l).rotateLeft ((opB f o l).toNat % 32)))) ∧
  (∀ o : IFmt, LaneWise (.shi o) o.g (fun f l =>
    let n := o.imm.toNat % 32
    w32 o.d (if o.f3 = 0 then opI f o l <<< n else if o.f3 = 1 then opI f o l >>> n
      else if o.f3 = 2 then (opI f o l).sshiftRight n else (opI f o l).rotateLeft n))) ∧
  (∀ o : VFmt, LaneWise (.shf o) o.g (fun f l =>
    let n := if o.f.getLsbD 1 then min (opC f o l).toNat 32 else (opC f o l).toNat % 32
    let w : Dword := opB f o l ++ opA f o l
    w32 o.d (if o.f.getLsbD 0 then (w >>> n).extractLsb' 0 32 else (w <<< n).extractLsb' 32 32)))

/-- R66 and R67: bit fields are extracted, with or without sign, and inserted; bits are counted, reversed and found. -/
def Sys2Proof.Claim.BitFields : Prop :=
  (∀ o : VFmt, LaneWise (.bfx o) o.g (fun f l =>
    let pos := bits (opB f o l).toNat 4 0
    let w := min (bits (opB f o l).toNat 13 8) (32 - pos)
    w32 o.d (if w = 0 then 0 else if o.f.getLsbD 0 then ((opA f o l).extractLsb' pos w).signExtend 32
      else ((opA f o l).extractLsb' pos w).setWidth 32))) ∧
  (∀ o : VFmt, Completes (.bfi o) (fun _ _ f f' => ∃ x : Nat → Word, Lanes f f' o.g 0 (fun l => w32 o.d (x l)) ∧
    ∀ l i, i < 32 → (x l).getLsbD i =
      (let pos := bits (opC f o l).toNat 4 0
       let w := min (bits (opC f o l).toNat 13 8) (32 - pos)
       if pos ≤ i ∧ i < pos + w then (opB f o l).getLsbD (i - pos) else (opA f o l).getLsbD i))) ∧
  (∀ o : VFmt, LaneWise (.popc o) o.g (fun f l => w32 o.d
    (BitVec.ofNat 32 ((List.range 32).filter (fun i => (opA f o l).getLsbD i)).length))) ∧
  (∀ o : VFmt, LaneWise (.clz o) o.g (fun f l => w32 o.d (BitVec.ofNat 32
    (((List.range 32).find? (fun n => (opA f o l).getLsbD (31 - n))).getD 32)))) ∧
  (∀ o : VFmt, Completes (.brev o) (fun _ _ f f' => ∃ x : Nat → Word, Lanes f f' o.g 0 (fun l => w32 o.d (x l)) ∧
    ∀ l i, i < 32 → (x l).getLsbD i = (opA f o l).getLsbD (31 - i))) ∧
  (∀ o : VFmt, LaneWise (.ffs o) o.g (fun f l => w32 o.d
    (match (List.range 32).find? (fun n => (opA f o l).getLsbD n) with
      | some n => BitVec.ofNat 32 n
      | none => 0xFFFFFFFF)))

/-- R62–R67: the bitwise instructions, shifts, rotations, funnel shifts, bit fields and counts, with their frame. -/
def Obligations.BitInstructions : Prop := Sys2Proof.Claim.Logic ∧ Sys2Proof.Claim.Shifts ∧ Sys2Proof.Claim.BitFields

/-- R44, R68, R69 and R70: compares write their predicate, SEL picks by a predicate, PLOP combines predicates by a table, PMOV moves the
predicates to and from a register. -/
def Sys2Proof.Claim.Compares : Prop :=
  let cond := fun (c : Nat) (x y : Int) =>
    if c = 0 then decide (x = y) else if c = 1 then decide (x ≠ y) else if c = 2 then decide (x < y)
      else if c = 3 then decide (x ≤ y) else if c = 4 then decide (y < x) else decide (y ≤ x)
  (∀ o : VFmt, LaneWise (.icmp o) o.g (fun f l => w1 o.d.toNat (cond (bits o.f.toNat 2 0)
    (val (o.f.getLsbD 3) (opA f o l)) (val (o.f.getLsbD 3) (opB f o l))))) ∧
  (∀ o : VFmt, LaneWise (.icmp64 o) o.g (fun f l => w1 o.d.toNat (cond (bits o.f.toNat 2 0)
    (val (o.f.getLsbD 3) (opA64 f o l)) (val (o.f.getLsbD 3) (opB64 f o l))))) ∧
  (∀ o : IFmt, LaneWise (.icmpi o) o.g (fun f l => w1 (bits o.d.toNat 2 0) (cond o.f3.toNat
    (val (o.d.getLsbD 3) (opI f o l)) (val (o.d.getLsbD 3) o.imm)))) ∧
  (∀ o : VFmt, LaneWise (.sel o) o.g (fun f l => w32 o.d (if prd f f.uniPath l o.c.toNat then opA f o l else opB f o l))) ∧
  (∀ o : VFmt, LaneWise (.plop o) o.g (fun f l => w1 o.d.toNat (o.m.getLsbD (4 + ((if prd f f.uniPath l o.c.toNat then 4 else 0) +
    (if prd f f.uniPath l o.b.toNat then 2 else 0) + (if prd f f.uniPath l o.a.toNat then 1 else 0)))))) ∧
  (∀ o : VFmt, o.f.getLsbD 0 = true → LaneWise (.pmov o) o.g (fun f l =>
    { preds := (List.range 7).map (fun i => (i, (opA f o l).getLsbD i)) })) ∧
  (∀ o : VFmt, o.f.getLsbD 0 = false → Completes (.pmov o) (fun _ _ f f' => ∃ x : Nat → Word,
    Lanes f f' o.g 0 (fun l => w32 o.d (x l)) ∧
    ∀ l i, i < 32 → (x l).getLsbD i = (decide (i < 7) && prd f f.uniPath l i)))

/-- R71: RNG gives each acting lane the four Philox words of its TID, the counter, the launch and the seed, and the counter advances
once when it acts. -/
def Sys2Proof.Claim.RandomNumbers : Prop :=
  ∀ o : VFmt, o.d.toNat + 4 ≤ 256 → Completes (.rng o) (fun s r f f' =>
    Lanes f f' o.g (if f.acting o.g = [] then 0 else 1) (fun l =>
      let xs := philox (f.tids.getD l 0).toNat (f.rngctr.toNat % 2 ^ 32) (f.rngctr.toNat / 2 ^ 32) (s.seedOf r).2
        ((s.seedOf r).1 % 2 ^ 32) ((s.seedOf r).1 / 2 ^ 32)
      { regs := [(o.d.toNat, xs.getD 0 0), (o.d.toNat + 1, xs.getD 1 0), (o.d.toNat + 2, xs.getD 2 0), (o.d.toNat + 3, xs.getD 3 0)] }))

/-- R44, R55 and R68–R71: moves, compares, selections, predicate operations and RNG, with their frame. -/
def Obligations.MovesAndCompares : Prop := Sys2Proof.Claim.Moves ∧ Sys2Proof.Claim.Compares ∧ Sys2Proof.Claim.RandomNumbers

/-! ### Floating-point instructions -/

/-- R101–R106, R109: FADD, FSUB, FMUL and FFMA round the exact sum of their products and addends once; FOPI does so under rn, or takes
the minimum or maximum, with its immediate as B. -/
def Sys2Proof.Claim.FloatArithmetic : Prop :=
  let v := fun (x : Word) => Fmt.fp32.decode x.toNat
  (∀ o : VFmt, LaneRound (.fadd o) o.g (bits o.f.toNat 2 0) (fun f draw l =>
    n32 o.d (fused .fp32 (bits o.f.toNat 2 0) (draw 0) [] [v (opA f o l), v (opB f o l)]))) ∧
  (∀ o : VFmt, LaneRound (.fsub o) o.g (bits o.f.toNat 2 0) (fun f draw l =>
    n32 o.d (fused .fp32 (bits o.f.toNat 2 0) (draw 0) [] [v (opA f o l), (v (opB f o l)).negate]))) ∧
  (∀ o : VFmt, LaneRound (.fmul o) o.g (bits o.f.toNat 2 0) (fun f draw l =>
    n32 o.d (fused .fp32 (bits o.f.toNat 2 0) (draw 0) [(v (opA f o l), v (opB f o l))] []))) ∧
  (∀ o : VFmt, LaneRound (.ffma o) o.g (bits o.f.toNat 2 0) (fun f draw l =>
    n32 o.d (fused .fp32 (bits o.f.toNat 2 0) (draw 0) [(v (opA f o l), v (opB f o l))] [v (opC f o l)]))) ∧
  (∀ o : IFmt, LaneWise (.fopi o) o.g (fun f l => n32 o.d
    (if o.f3 = 0 then fused .fp32 0 0 [] [v (opI f o l), v o.imm] else if o.f3 = 1 then fused .fp32 0 0 [(v (opI f o l), v o.imm)] []
      else if o.f3 = 2 then minMaxNum .fp32 false (opI f o l).toNat o.imm.toNat
      else minMaxNum .fp32 true (opI f o l).toNat o.imm.toNat)))

/-- R107, R108 and R111: minimum and maximum; FABS and FNEG change the sign bit alone, except that a NaN becomes the canonical NaN, and a
signalling one raises IV; FCLASS gives one bit of ten. -/
def Sys2Proof.Claim.FloatSelections : Prop :=
  let nan := fun (x : Word) => (x.extractLsb' 23 8 == 0xFF) && (x.extractLsb' 0 23 != 0)
  let quiet := fun (x : Word) => x.getLsbD 22
  let sign := fun (y x : Word) => if nan x then n32 0 (0x7FC00000, if quiet x then 0 else 1) else n32 0 (y.toNat, 0)
  (∀ o : VFmt, LaneWise (.fmin o) o.g (fun f l => n32 o.d (minMaxNum .fp32 false (opA f o l).toNat (opB f o l).toNat))) ∧
  (∀ o : VFmt, LaneWise (.fmax o) o.g (fun f l => n32 o.d (minMaxNum .fp32 true (opA f o l).toNat (opB f o l).toNat))) ∧
  (∀ o : VFmt, LaneWise (.fabs o) o.g (fun f l =>
    let x := sign (opA f o l &&& 0x7FFFFFFF) (opA f o l)
    { x with regs := x.regs.map (fun p => (o.d.toNat, p.2)) })) ∧
  (∀ o : VFmt, LaneWise (.fneg o) o.g (fun f l =>
    let x := sign (opA f o l ^^^ 0x80000000) (opA f o l)
    { x with regs := x.regs.map (fun p => (o.d.toNat, p.2)) })) ∧
  (∀ o : VFmt, LaneWise (.fclass o) o.g (fun f l =>
    let x := opA f o l
    let n := x.getLsbD 31
    let e := x.extractLsb' 23 8
    let m := x.extractLsb' 0 23
    let k := if nan x then (if quiet x then 9 else 8) else if e = 0xFF then (if n then 0 else 7)
      else if e = 0 then (if m = 0 then (if n then 3 else 4) else if n then 2 else 5) else if n then 1 else 6
    w32 o.d (1 <<< k)))

/-- R110: FCMP, DCMP and HCMP2 compare values, the packed one per half into two predicates; a NaN decides by the condition, a signalling
one raises IV. -/
def Sys2Proof.Claim.FloatCompares : Prop :=
  let half := fun (o : VFmt) => if o.f.getLsbD 3 then Fmt.bf16 else Fmt.fp16
  (∀ o : VFmt, LaneWise (.fcmp o) o.g (fun f l =>
    let y := floatCond (bits o.f.toNat 2 0) (Fmt.fp32.decode (opA f o l).toNat) (Fmt.fp32.decode (opB f o l).toNat)
    w1 o.d.toNat y.1 y.2)) ∧
  (∀ o : VFmt, LaneWise (.dcmp o) o.g (fun f l =>
    let y := floatCond (bits o.f.toNat 2 0) (Fmt.fp64.decode (opA64 f o l).toNat) (Fmt.fp64.decode (opB64 f o l).toNat)
    w1 o.d.toNat y.1 y.2)) ∧
  (∀ o : VFmt, LaneWise (.hcmp2 o) o.g (fun f l =>
    let y := fun h => floatCond (bits o.f.toNat 2 0) ((half o).decode ((opA f o l).extractLsb' (16 * h) 16).toNat)
      ((half o).decode ((opB f o l).extractLsb' (16 * h) 16).toNat)
    { preds := [(o.d.toNat, (y 0).1), (o.d.toNat + 1, (y 1).1)], flags := (y 0).2 ||| (y 1).2 }))

namespace Sys2Proof.Claim

/-- One value lies below another; zeros are equal, NaNs in no order. -/
def below (x y : FVal) : Prop :=
  match x, y with
  | .inf n, .inf k => n = true ∧ k = false
  | .inf n, .fin _ => n = true
  | .fin _, .inf k => k = false
  | .fin x, .fin y => x.scaled (min x.e y.e) < y.scaled (min x.e y.e)
  | _, _ => False

end Sys2Proof.Claim

/-- R107 and R110: what a minimum, a maximum and a compare are, in FP32, FP16, BF16 and FP64. A minimum or maximum gives one of its operands bit for
bit: the number where the other is a NaN, the lesser or greater of two numbers, of two zeros the negative or the positive one; of two NaNs it
gives the canonical one. A condition holds by the order of the values, that with a NaN among them by its own name alone. IV is raised by a
signalling NaN, and by any NaN under lt, le, gt and ge. -/
def Sys2Proof.Claim.FloatOrder : Prop :=
  (∀ (f : Fmt) (mx : Bool) (a b : Nat), f.ieee = true →
    let x := f.decode a
    let y := f.decode b
    let r := minMaxNum f mx a b
    let nan := fun (v : FVal) => ∃ n s, v = .nan n s
    let neg := fun (v : FVal) => ∃ z : Xr, v = .fin z ∧ z.neg = true
    (r.2 = if (∃ n, x = .nan n true) ∨ (∃ n, y = .nan n true) then 1 else 0) ∧
    (nan x → nan y → r.1 = if f = .fp64 then 0x7FF8000000000000 else if f = .fp32 then 0x7FC00000 else if f = .fp16 then 0x7E00 else 0x7FC0) ∧
    (nan x → ¬ nan y → r.1 = b) ∧ (¬ nan x → nan y → r.1 = a) ∧
    (below x y → r.1 = if mx then b else a) ∧ (below y x → r.1 = if mx then a else b) ∧
    (¬ nan x → ¬ nan y → ¬ below x y → ¬ below y x → r.1 = a ∨ r.1 = b) ∧
    (∀ z w : Xr, x = .fin z → y = .fin w → z.m = 0 → w.m = 0 → z.neg ≠ w.neg → (r.1 = a ↔ (neg x ↔ mx = false)) ∨ a = b)) ∧
  (∀ (c : Nat) (x y : FVal), c < 8 →
    let r := floatCond c x y
    let nan := (∃ n s, x = .nan n s) ∨ ∃ n s, y = .nan n s
    let sig := (∃ n, x = .nan n true) ∨ ∃ n, y = .nan n true
    (r.2 = if sig ∨ (nan ∧ (c = 2 ∨ c = 3 ∨ c = 4 ∨ c = 5)) then 1 else 0) ∧
    (nan → (r.1 = true ↔ c = 1 ∨ c = 6)) ∧
    (below x y → (r.1 = true ↔ c = 1 ∨ c = 2 ∨ c = 3 ∨ c = 7)) ∧
    (below y x → (r.1 = true ↔ c = 1 ∨ c = 4 ∨ c = 5 ∨ c = 7)) ∧
    (¬ nan → ¬ below x y → ¬ below y x → (r.1 = true ↔ c = 0 ∨ c = 3 ∨ c = 5 ∨ c = 7)))

/-- R101–R111: FP32 arithmetic, selections, classes and compares, with their flags and their frame. -/
def Obligations.Float32 : Prop := Sys2Proof.Claim.FloatArithmetic ∧ Sys2Proof.Claim.FloatSelections ∧ Sys2Proof.Claim.FloatCompares ∧ Sys2Proof.Claim.FloatOrder

/-- R113, R114 and R115: the packed instructions work on each half as the FP32 ones on a register; FDOT2 rounds the exact sum of two
products and its FP32 addend once. -/
def Sys2Proof.Claim.PackedArithmetic : Prop :=
  let fm := fun (o : VFmt) => if o.f.getLsbD 3 then Fmt.bf16 else Fmt.fp16
  let rm := fun (o : VFmt) => bits o.f.toNat 2 0
  let h := fun (x : Word) (k : Nat) => (x.extractLsb' (16 * k) 16).toNat
  let v := fun (o : VFmt) (x : Word) (k : Nat) => (fm o).decode (h x k)
  let both := fun (o : VFmt) (y : Nat → Nat × Byte) => w32 o.d (BitVec.ofNat 32 ((y 0).1 + (y 1).1 * 2 ^ 16)) ((y 0).2 ||| (y 1).2)
  (∀ o, LaneRound (.hadd2 o) o.g (rm o) (fun f draw l => both o (fun k =>
    fused (fm o) (rm o) (draw k) [] [v o (opA f o l) k, v o (opB f o l) k]))) ∧
  (∀ o, LaneRound (.hsub2 o) o.g (rm o) (fun f draw l => both o (fun k =>
    fused (fm o) (rm o) (draw k) [] [v o (opA f o l) k, (v o (opB f o l) k).negate]))) ∧
  (∀ o, LaneRound (.hmul2 o) o.g (rm o) (fun f draw l => both o (fun k =>
    fused (fm o) (rm o) (draw k) [(v o (opA f o l) k, v o (opB f o l) k)] []))) ∧
  (∀ o, LaneRound (.hfma2 o) o.g (rm o) (fun f draw l => both o (fun k =>
    fused (fm o) (rm o) (draw k) [(v o (opA f o l) k, v o (opB f o l) k)] [v o (opC f o l) k]))) ∧
  (∀ o, LaneWise (.hmin2 o) o.g (fun f l => both o (fun k => minMaxNum (fm o) false (h (opA f o l) k) (h (opB f o l) k)))) ∧
  (∀ o, LaneWise (.hmax2 o) o.g (fun f l => both o (fun k => minMaxNum (fm o) true (h (opA f o l) k) (h (opB f o l) k)))) ∧
  (∀ o, LaneRound (.fdot2 o) o.g (rm o) (fun f draw l => n32 o.d (fused .fp32 (rm o) (draw 0)
    [(v o (opA f o l) 0, v o (opB f o l) 0), (v o (opA f o l) 1, v o (opB f o l) 1)] [Fmt.fp32.decode (opC f o l).toNat])))

/-- R116: the FP64 instructions round the exact result once, into a pair. -/
def Sys2Proof.Claim.DoubleArithmetic : Prop :=
  let v := fun (x : Dword) => Fmt.fp64.decode x.toNat
  let rm := fun (o : VFmt) => bits o.f.toNat 2 0
  (∀ o : VFmt, EvenReg o.d → LaneRound (.dadd o) o.g (rm o) (fun f draw l =>
    n64 o.d (fused .fp64 (rm o) (draw 0) [] [v (opA64 f o l), v (opB64 f o l)]))) ∧
  (∀ o : VFmt, EvenReg o.d → LaneRound (.dmul o) o.g (rm o) (fun f draw l =>
    n64 o.d (fused .fp64 (rm o) (draw 0) [(v (opA64 f o l), v (opB64 f o l))] []))) ∧
  (∀ o : VFmt, EvenReg o.d → LaneRound (.dfma o) o.g (rm o) (fun f draw l =>
    n64 o.d (fused .fp64 (rm o) (draw 0) [(v (opA64 f o l), v (opB64 f o l))] [v (opC64 f o l)])))

/-- R117: the special functions. SQRT of a positive number is its exact root rounded by the mode; the others, and SQRT of anything else,
give one result for each operand, the same in every lane and at every time. -/
def Sys2Proof.Claim.SpecialFunctions : Prop :=
  (∀ o : VFmt, LaneRound (.sqrt o) o.g (bits o.f.toNat 2 0) (fun f draw l => n32 o.d
    (match Fmt.fp32.decode (opA f o l).toNat with
    | .fin x => if x.m = 0 ∨ x.neg then specialFn 2 0 (opA f o l).toNat else Fmt.fp32.round (bits o.f.toNat 2 0) false (draw 0) (xSqrt x)
    | _ => specialFn 2 0 (opA f o l).toNat))) ∧
  (∀ o : VFmt, LaneWise (.rcp o) o.g (fun f l => n32 o.d (specialFn 0 0 (opA f o l).toNat))) ∧
  (∀ o : VFmt, LaneWise (.rsq o) o.g (fun f l => n32 o.d (specialFn 1 0 (opA f o l).toNat))) ∧
  (∀ o : VFmt, LaneWise (.exp2 o) o.g (fun f l => n32 o.d (specialFn 3 0 (opA f o l).toNat))) ∧
  (∀ o : VFmt, LaneWise (.log2 o) o.g (fun f l => n32 o.d (specialFn 4 0 (opA f o l).toNat))) ∧
  (∀ o : VFmt, LaneWise (.sinpi o) o.g (fun f l => n32 o.d (specialFn 5 0 (opA f o l).toNat))) ∧
  (∀ o : VFmt, LaneWise (.cospi o) o.g (fun f l => n32 o.d (specialFn 6 0 (opA f o l).toNat))) ∧
  (∀ o : VFmt, LaneWise (.tanh o) o.g (fun f l => n32 o.d (specialFn 7 0 (opA f o l).toNat)))

/-- R113–R117: the packed and FP64 instructions and the special functions, with their flags and their frame. The special functions are those
of log 10. -/
def Obligations.WideAndPackedFloat : Prop := Sys2Proof.Claim.PackedArithmetic ∧ Sys2Proof.Claim.DoubleArithmetic ∧ Sys2Proof.Claim.SpecialFunctions

/-- R112 and R118–R120: FRND rounds to an integral value; conversions read their source format, a pair for FP64, and round once to their
destination format. -/
def Sys2Proof.Claim.Conversions : Prop :=
  let rm := fun (o : VFmt) => bits o.f.toNat 2 0
  let src := fun (o : VFmt) (f : Flight) (l : Nat) =>
    let fm := fmtOfCode (bits o.c.toNat 3 0)
    if bits o.c.toNat 3 0 = 9 then fm.decode (opA64 f o l).toNat else fm.decode ((opA f o l).toNat % 2 ^ fm.width)
  let dst := fun (o : VFmt) (y : Nat × Byte) => if bits o.c.toNat 7 4 = 9 then n64 o.d y else n32 o.d y
  (∀ o : VFmt, LaneRound (.frnd o) o.g (rm o) (fun f draw l => n32 o.d (roundIntegral (rm o) (draw 0) (opA f o l).toNat))) ∧
  (∀ o : VFmt, LaneRound (.cvtfi o) o.g (rm o) (fun f draw l =>
    n32 o.d (toInt (fmtOfCode (bits o.c.toNat 7 4)) (rm o) (o.f.getLsbD 3) (draw 0) (src o f l)))) ∧
  (∀ o : VFmt, (bits o.c.toNat 7 4 = 9 → EvenReg o.d) → LaneRound (.cvtif o) o.g (rm o) (fun f draw l =>
    dst o ((fmtOfCode (bits o.c.toNat 7 4)).convert (rm o) false (draw 0) (src o f l)))) ∧
  (∀ o : VFmt, (bits o.c.toNat 7 4 = 9 → EvenReg o.d) → LaneRound (.cvtff o) o.g (rm o) (fun f draw l =>
    dst o ((fmtOfCode (bits o.c.toNat 7 4)).convert (rm o) (o.f.getLsbD 3) (draw 0) (src o f l))))

/-- R121–R125: SCLQ gives each segment's scale byte; PACKN encodes a lane's eight registers under it, UNPKN decodes them; CBLD replaces
the codebook once when it acts, CBLK reads an entry and CBNR finds the nearest one. -/
def Sys2Proof.Claim.NarrowFormats : Prop :=
  let dst := fun (o : VFmt) => bits o.c.toNat 7 4
  let src := fun (o : VFmt) => bits o.c.toNat 3 0
  let rm := fun (o : VFmt) => bits o.f.toNat 2 0
  (∀ o : VFmt, LaneWise (.sclq o) o.g (fun f l =>
    let seg := (f.acting o.g).filter (fun k => k / 16 == l / 16)
    let y := sclOf (dst o) (bits o.c.toNat 1 0) f.cb (seg.flatMap (fun k =>
      (List.range 8).map (fun i => Fmt.fp32.decode (f.src o.ka k (o.a.toNat + i)).toNat)))
    n32 o.d (bits o.c.toNat 1 0 * 64 + y.1, y.2))) ∧
  (∀ o : VFmt, (dst o ≠ 7 → o.d.toNat + 1 < 256) → LaneRound (.packn o) o.g (rm o) (fun f draw l =>
    let y := fun i => narrowEncode (dst o) ((opB f o l).extractLsb' 0 8) f.cb (rm o) (o.f.getLsbD 3) (draw i)
      (Fmt.fp32.decode (f.src o.ka l (o.a.toNat + i)).toNat)
    let w := elemBits (dst o)
    let x := (List.range 8).foldl (fun x i => x + (y i).1 * 2 ^ (w * i)) 0
    let flags := (List.range 8).foldl (fun g i => g ||| (y i).2) 0
    if dst o = 7 then n32 o.d (x, flags) else n64 o.d (x, flags))) ∧
  (∀ o : VFmt, o.d.toNat + 8 ≤ 256 → LaneWise (.unpkn o) o.g (fun f l =>
    let x := if src o = 7 then (opA f o l).toNat else (opA f o l).toNat + (f.src o.ka l (o.a.toNat + 1)).toNat * 2 ^ 32
    let w := elemBits (src o)
    let y := fun i => match scaledVal (src o) ((opB f o l).extractLsb' 0 8) f.cb (x / 2 ^ (w * i) % 2 ^ w) with
      | .nan _ _ => (Fmt.fp32.nanCode, (0 : Byte))
      | v => Fmt.fp32.convert 0 false 0 v
    { regs := (List.range 8).map (fun i => (o.d.toNat + i, BitVec.ofNat 32 (y i).1))
      flags := (List.range 8).foldl (fun g i => g ||| (y i).2) 0 })) ∧
  (∀ o : VFmt, LaneWise (.cblk o) o.g (fun f l => w32 o.d ((f.cb.getD (bits (opA f o l).toNat 3 0) 0).setWidth 32))) ∧
  (∀ o : VFmt, LaneWise (.cbnr o) o.g (fun f l => n32 o.d (cbEncode f.cb 0 (Fmt.bf16.decode ((opA f o l).extractLsb' 0 16).toNat)))) ∧
  (∀ o : VFmt, Completes (.cbld o) (fun _ _ f f' =>
    (f.acting o.g = [] → f'.cb = f.cb) ∧
    (f.acting o.g ≠ [] → f'.cb.length = 16 ∧ ∀ i, i < 8 →
      f'.cb[2 * i]? = some ((f.s (o.a.toNat + i)).extractLsb' 0 16) ∧ f'.cb[2 * i + 1]? = some ((f.s (o.a.toNat + i)).extractLsb' 16 16)) ∧
    RegsKept f f' ∧ PredsKept f f' ∧ f'.fsr = f.fsr ∧ f'.rngctr = f.rngctr ∧ Kept f f'))

namespace Sys2Proof.Claim

/-- The integer n that a finite x rounds to under a mode (R93–R95, R112, R118), and whether it is x itself. -/
def IntegralOf (rm : Nat) (x : Xr) (n : Int) (exact : Bool) : Prop :=
  ∀ e : Int, e ≤ x.e → e ≤ 0 →
    let u : Int := (2 ^ (-e).toNat : Nat)
    let a := x.scaled e
    (exact = true ↔ n * u = a) ∧
    (rm = 0 → ∀ m : Int, (n * u - a).natAbs ≤ (m * u - a).natAbs ∧ ((n * u - a).natAbs = (m * u - a).natAbs → m = n ∨ n % 2 = 0)) ∧
    (rm = 1 → (n * u).natAbs ≤ a.natAbs ∧ (n ≠ 0 → (n < 0 ↔ a < 0)) ∧ ∀ m : Int, (m * u).natAbs ≤ a.natAbs → (m * u).natAbs ≤ (n * u).natAbs) ∧
    (rm = 2 → a ≤ n * u ∧ ∀ m : Int, a ≤ m * u → n ≤ m) ∧
    (rm = 3 → n * u ≤ a ∧ ∀ m : Int, m * u ≤ a → m ≤ n)

/-- The least and the greatest value of an integer format (R95). -/
def intRange : Fmt → Int × Int
  | .int8 => (-128, 127)
  | .int32 => (-(2 ^ 31), 2 ^ 31 - 1)
  | .nat32 => (0, 2 ^ 32 - 1)
  | _ => (-8, 7)

/-- a × 2^i is at most b × 2^j. -/
def AtMost (a : Nat) (i : Int) (b : Nat) (j : Int) : Prop := ∀ k : Int, k ≤ i → k ≤ j → a * 2 ^ (i - k).toNat ≤ b * 2 ^ (j - k).toNat

/-- The finite entry c of a codebook under the scale 2^k. -/
def entry (cb : List Half) (k : Int) (c : Nat) (w : Xr) : Prop :=
  ∃ v : Xr, Fmt.bf16.decode (cb.getD c 0).toNat = .fin v ∧ w = { v with e := v.e + k }

/-- The distance of two values as an integer in units of the lesser of their last places. -/
def gap (e : Int) (x w : Xr) : Nat := (x.scaled e - w.scaled e).natAbs

/-- Entry c is the lowest of those a condition names. -/
def Lowest (P : Nat → Prop) (c : Nat) : Prop := c < 16 ∧ P c ∧ ∀ d, d < c → ¬ P d

/-- One thing where a condition holds, another where it does not. -/
def Either (P A B : Prop) : Prop := (P → A) ∧ (¬ P → B)

/-- The index R99 takes for a NaN of a sign: the first finite entry of the greatest magnitude of that sign, then of either sign, the first
infinite entry of that sign, then of either sign, else 0. -/
def nanEntry (cb : List Half) (neg : Bool) (c : Nat) : Prop :=
  let big := fun (P : Xr → Prop) (c : Nat) => ∃ w, entry cb 0 c w ∧ P w ∧ ∀ d v, d < 16 → entry cb 0 d v → P v →
    AtMost v.m v.e w.m w.e ∧ (d < c → ¬ AtMost w.m w.e v.m v.e)
  let inf := fun (P : Bool → Prop) (c : Nat) => ∃ n, Fmt.bf16.decode (cb.getD c 0).toNat = .inf n ∧ P n
  Either (∃ d w, d < 16 ∧ entry cb 0 d w ∧ w.neg = neg) (c < 16 ∧ big (fun w => w.neg = neg) c)
    (Either (∃ d w, d < 16 ∧ entry cb 0 d w) (c < 16 ∧ big (fun _ => True) c)
      (Either (∃ d, d < 16 ∧ inf (fun n => n = neg) d) (Lowest (inf (fun n => n = neg)) c)
        (Either (∃ d, d < 16 ∧ inf (fun _ => True) d) (Lowest (inf (fun _ => True)) c) (c = 0))))

end Sys2Proof.Claim

/-- R112 and R118: FRND gives the integer its operand rounds to, with the operand's sign, an infinity itself and of a NaN the canonical one;
a conversion to an integer gives that integer where the format holds it, else the bound of its sign with IV, or SAT under `.sat`. NX tells an
inexact result. Of a NaN it gives 0 with IV. -/
def Sys2Proof.Claim.IntegralRounding : Prop :=
  (∀ rm draw a : Nat, rm < 4 → a < 2 ^ 32 →
    let y := roundIntegral rm draw a
    (∀ n s, Fmt.fp32.decode a = .nan n s → y = (0x7FC00000, if s then 1 else 0)) ∧
    (∀ n, Fmt.fp32.decode a = .inf n → y = (a, 0)) ∧
    (∀ x, Fmt.fp32.decode a = .fin x → ∃ (z : Xr) (n : Int) (exact : Bool), IntegralOf rm x n exact ∧ Fmt.fp32.decode y.1 = .fin z ∧
      z.neg = x.neg ∧ y.2 = (if exact then 0 else 0x10) ∧
      ∀ e : Int, e ≤ z.e → e ≤ 0 → z.scaled e = n * (2 ^ (-e).toNat : Nat))) ∧
  (∀ (f : Fmt) (rm draw : Nat) (sat : Bool), f = .int8 ∨ f = .int32 ∨ f = .nat32 → rm < 4 →
    let code := fun n : Int => (n % 2 ^ 32).toNat
    let bad : Byte := if sat then 0x20 else 1
    let lo := (intRange f).1
    let hi := (intRange f).2
    (∀ n s, toInt f rm sat draw (.nan n s) = (0, 1)) ∧
    (∀ n, toInt f rm sat draw (.inf n) = (code (if n then lo else hi), bad)) ∧
    (∀ x : Xr, x.st = false → ∃ (n : Int) (exact : Bool), IntegralOf rm x n exact ∧
      toInt f rm sat draw (.fin x) = if n < lo then (code lo, bad) else if hi < n then (code hi, bad) else (code n, if exact then 0 else 0x10)))

/-- R87–R90, R98, R99, R121, R122 and R125: SCLQ's exponent is the least under which the block's largest magnitude fits the format's, held
within 0 and 62 with SAT. An element is encoded as its quotient by the scale, a NaN of its sign where the scale is none. A codebook gives a
finite value its nearest finite entry, the lowest index of several, of zeros that of the value's sign; its infinite entries, and what stands
for a NaN, follow R98 and R99, as do NaNs and infinities in the other formats. -/
def Sys2Proof.Claim.NarrowEncoding : Prop :=
  (∀ (fmt ty : Nat) (cb : List Half) (vs : List FVal) (M m : Nat × Int), 3 ≤ fmt → fmt ≤ 7 → ty < 4 →
    (fmt = 3 → M = (448, 0)) → (fmt = 4 → M = (57344, 0)) → (fmt = 5 → M = (15, -1)) → (fmt = 6 → M = (28, 0)) →
    (fmt = 7 → ty = 0 → M = (7, 0)) → (fmt = 7 → ty = 1 → M = (6, 0)) → (fmt = 7 → ty = 2 → M = (1, 0)) →
    (fmt = 7 → ty = 3 → (∀ c w, c < 16 → entry cb 0 c w → AtMost w.m w.e M.1 M.2) ∧
      (M = (0, 0) ∨ ∃ c w, c < 16 ∧ entry cb 0 c w ∧ M = (w.m, w.e))) →
    (∀ x : Xr, .fin x ∈ vs → AtMost x.m x.e m.1 m.2) → (m = (0, 0) ∨ ∃ x : Xr, .fin x ∈ vs ∧ m = (x.m, x.e)) →
    let y := sclOf fmt ty cb vs
    let iv : Byte := if ∃ n, FVal.nan n true ∈ vs then 1 else 0
    if M.1 = 0 then y = (31, iv)
    else if ∃ n, FVal.inf n ∈ vs then y = (62, iv)
    else if m.1 = 0 then y = (31, iv)
    else ∃ k : Int, AtMost m.1 m.2 M.1 (M.2 + k) ∧ (∀ j : Int, AtMost m.1 m.2 M.1 (M.2 + j) → k ≤ j) ∧
      y = if 31 < k then (62, iv ||| 0x20) else if k < -31 then (0, iv ||| 0x20) else ((31 + k).toNat, iv)) ∧
  (∀ (fmt : Nat) (sb : Byte) (cb : List Half) (rm : Nat) (sat : Bool) (draw : Nat) (v : FVal), 3 ≤ fmt → fmt ≤ 7 →
    let ty := (sb.extractLsb' 6 2).toNat
    let k : Int := ((sb.extractLsb' 0 6).toNat : Int) - 31
    let none_ := k = 32 ∨ (fmt ≠ 7 ∧ ty ≠ 1)
    let fm : Fmt := if fmt = 3 then .e4m3 else if fmt = 4 then .e5m2 else if fmt = 5 then .e2m3 else if fmt = 6 then .e3m2
      else if ty = 0 then .q4int else if ty = 1 then .q4e2m1 else .q4pow
    let q : FVal := match v with
      | .nan n g => .nan n g
      | .inf n => if none_ then .nan n false else .inf n
      | .fin x => if none_ then .nan x.neg false else .fin { x with e := x.e - k }
    (fmt ≠ 7 ∨ ty ≠ 3 → narrowEncode fmt sb cb rm sat draw v = fm.convert rm sat draw q) ∧
    (fmt = 7 → ty = 3 → narrowEncode fmt sb cb rm sat draw v = if none_ then cbEncode cb 0 q else cbEncode cb k v)) ∧
  (∀ (cb : List Half) (k : Int) (x : Xr), x.st = false →
    let y := cbEncode cb k (.fin x)
    let inf := fun (P : Bool → Prop) (c : Nat) => ∃ n, Fmt.bf16.decode (cb.getD c 0).toNat = .inf n ∧ P n
    Either (∃ d w, d < 16 ∧ entry cb k d w)
      (∃ p w, p < 16 ∧ entry cb k p w ∧
        (∀ d v e, d < 16 → entry cb k d v → e ≤ x.e → e ≤ w.e → e ≤ v.e → gap e x w ≤ gap e x v ∧ (d < p → gap e x w < gap e x v)) ∧
        (w.m ≠ 0 ∨ (∀ d v, d < 16 → entry cb k d v → v.m = 0 → v.neg ≠ x.neg) → y.1 = p) ∧
        (w.m = 0 → (∃ d v, d < 16 ∧ entry cb k d v ∧ v.m = 0 ∧ v.neg = x.neg) →
          Lowest (fun d => ∃ v, entry cb k d v ∧ v.m = 0 ∧ v.neg = x.neg) y.1) ∧
        (∀ e, e ≤ x.e → e ≤ w.e → y.2 = if gap e x w = 0 then 0 else 0x10))
      (y.2 = 0x10 ∧ Either (∃ d, d < 16 ∧ inf (fun n => n = x.neg) d) (Lowest (inf (fun n => n = x.neg)) y.1)
        (Either (∃ d, d < 16 ∧ inf (fun _ => True) d) (Lowest (inf (fun _ => True)) y.1) (y.1 = 0)))) ∧
  (∀ (cb : List Half) (k : Int) (neg sig : Bool),
    let inf := fun (c : Nat) => Fmt.bf16.decode (cb.getD c 0).toNat = .inf neg
    (nanEntry cb neg (cbEncode cb k (.nan neg sig)).1 ∧ (cbEncode cb k (.nan neg sig)).2 = if sig then 0x41 else 0x40) ∧
    Either (∃ d, d < 16 ∧ inf d) (Lowest inf (cbEncode cb k (.inf neg)).1 ∧ (cbEncode cb k (.inf neg)).2 = 0)
      (nanEntry cb neg (cbEncode cb k (.inf neg)).1 ∧ (cbEncode cb k (.inf neg)).2 = 0x20)) ∧
  (∀ (rm draw : Nat) (sat neg sig : Bool) (x : Xr),
    let iv : Byte := if sig then 1 else 0
    let sg := fun (c n : Nat) => if neg then n else c
    (∀ f : Fmt, f.convert rm sat draw (.fin x) = f.round rm sat draw x) ∧
    (∀ p ∈ [(Fmt.fp64, 0x7FF8000000000000, 0x7FF0000000000000, 0xFFF0000000000000), (.fp32, 0x7FC00000, 0x7F800000, 0xFF800000),
        (.fp16, 0x7E00, 0x7C00, 0xFC00), (.bf16, 0x7FC0, 0x7F80, 0xFF80)],
      p.1.convert rm sat draw (.nan neg sig) = (p.2.1, iv) ∧ p.1.convert rm sat draw (.inf neg) = (sg p.2.2.1 p.2.2.2, 0)) ∧
    Fmt.e5m2.convert rm sat draw (.nan neg sig) = (0x7E, iv) ∧
    Fmt.e5m2.convert rm sat draw (.inf neg) = (if sat then (sg 0x7B 0xFB, 0x20) else (sg 0x7C 0xFC, 0)) ∧
    Fmt.e4m3.convert rm sat draw (.nan neg sig) = (0x7F, iv) ∧ Fmt.e4m3.convert rm sat draw (.inf neg) = (sg 0x7E 0xFE, 0x20) ∧
    (∀ p ∈ [(Fmt.e2m3, 0x1F, 0x3F), (.e3m2, 0x1F, 0x3F), (.q4e2m1, 7, 0xF), (.q4pow, 7, 0xF), (.q4int, 7, 8)],
      p.1.convert rm sat draw (.nan neg sig) = (sg p.2.1 p.2.2, 0x40 ||| iv) ∧ p.1.convert rm sat draw (.inf neg) = (sg p.2.1 p.2.2, 0x20)))

/-- R93–R95, R101 and R103: what rounding is. A finite nonzero x whose magnitude the floating or power-of-two format holds rounds to a code of it that is
finite: under rn the nearest, and of two equally near the even code; under rz the nearest that is no larger in magnitude, under ru the least
that is not below x, under rd the greatest that is not above it; NX tells whether it is another value. Into an integer format x rounds as R118 says. A sum of products and addends of
finite values, none of them invalid, rounds their exact sum. -/
def Sys2Proof.Claim.Rounding : Prop :=
  (∀ (f : Fmt) (rm draw : Nat) (sat : Bool) (x : Xr), f.isInt = false → x.st = false → x.m ≠ 0 →
    magLe x.m x.e (f.maxMag x.neg).1 (f.maxMag x.neg).2 = true → rm < 4 →
    let y := f.round rm sat draw x
    ∃ z : Xr, f.decode y.1 = .fin z ∧ (z.neg = x.neg) ∧ ∀ e : Int, e ≤ x.e → e ≤ z.e →
      let a := x.scaled e
      let b := z.scaled e
      ((y.2 &&& 0x10 ≠ 0) ↔ b ≠ a) ∧
      (rm = 1 → b.natAbs ≤ a.natAbs) ∧ (rm = 2 → a ≤ b) ∧ (rm = 3 → b ≤ a) ∧
      ∀ (code : Nat) (w : Xr), f.decode code = .fin w → e ≤ w.e →
        let c := w.scaled e
        (rm = 0 → (b - a).natAbs ≤ (c - a).natAbs ∧ ((b - a).natAbs = (c - a).natAbs → c = b ∨ y.1 % 2 = 0)) ∧
        (rm = 1 → c.natAbs ≤ a.natAbs → c.natAbs ≤ b.natAbs) ∧ (rm = 2 → a ≤ c → b ≤ c) ∧ (rm = 3 → c ≤ a → c ≤ b)) ∧
  (∀ (f : Fmt) (rm draw : Nat) (sat : Bool) (x : Xr), f.isInt = true → x.st = false → x.m ≠ 0 → rm < 4 →
    ∃ (n : Int) (exact : Bool), IntegralOf rm x n exact ∧
      ((intRange f).1 ≤ n → n ≤ (intRange f).2 → f.round rm sat draw x = ((n % (2 ^ f.width : Nat)).toNat, if exact then 0 else 0x10))) ∧
  (∀ (f : Fmt) (rm draw : Nat) (ps : List (Xr × Xr)) (xs : List Xr), (∀ p ∈ ps, p.1.st = false ∧ p.2.st = false) → (∀ x ∈ xs, x.st = false) →
    ∃ z : Xr, z.st = false ∧ fused f rm draw (ps.map (fun p => (.fin p.1, .fin p.2))) (xs.map .fin) = f.round rm false draw z ∧
      ∀ e : Int, e ≤ z.e → (∀ p ∈ ps, e ≤ p.1.e + p.2.e) → (∀ x ∈ xs, e ≤ x.e) →
        z.scaled e = (ps.map (fun p => (Xr.scaled ⟨p.1.neg != p.2.neg, p.1.m * p.2.m, p.1.e + p.2.e, false⟩ e))).sum + (xs.map (fun x => x.scaled e)).sum)

/-- R112 and R118–R125: rounding to integers, conversions between formats, shared-scale packing and codebooks. Overflow of an integer format
is as in log 11. -/
def Obligations.FormatConversions : Prop := Sys2Proof.Claim.Conversions ∧ Sys2Proof.Claim.NarrowFormats ∧ Sys2Proof.Claim.IntegralRounding ∧ Sys2Proof.Claim.NarrowEncoding ∧ Sys2Proof.Claim.Rounding

/-! ### Cross-lane instructions -/

/-- R136 and R140: a shuffle gives each participating lane the register of its source lane, zero where that lane has exited; MATCH compares
keys as bit patterns and gives the mask of the lanes of equal value, or of all where all are equal. -/
def Obligations.ShufflesAndMatches : Prop :=
  (∀ o : VFmt, LaneWise (.shfli o) o.g (fun f l =>
    let n := (opB f o l).toNat
    let k := bits o.f.toNat 1 0
    let src := if k = 0 then n % 32 else if k = 1 then (if n ≤ l then l - n else l) else if k = 2 then (if l + n ≤ 31 then l + n else l)
      else Nat.xor l (n % 32)
    w32 o.d (if f.uniPath then f.s o.a.toNat else if f.exited.getLsbD src then 0 else f.src o.ka src o.a.toNat))) ∧
  (∀ o : VFmt, LaneWise (.matchLanes o) o.g (fun f l =>
    let ls := f.acting o.g
    let eq := fun k => if o.f.getLsbD 1 then decide (opA64 f o k = opA64 f o l) else decide (opA f o k = opA f o l)
    w32 o.d (if o.f.getLsbD 0 then (if ∀ k ∈ ls, eq k = true then laneMask ls else 0) else laneMask (ls.filter eq))))

/-- R137 and R141: votes over the participating lanes; ELECT names the lowest of them. -/
def Obligations.VotesAndElections : Prop :=
  (∀ o : VFmt, LaneWise (.vote o) o.g (fun f _ =>
    let ls := f.acting o.g
    let k := bits o.f.toNat 1 0
    let p := fun l => prd f f.uniPath l o.a.toNat != o.f.getLsbD 2
    if k = 0 then w1 o.d.toNat (decide (∀ l ∈ ls, p l = true))
    else if k = 1 then w1 o.d.toNat (decide (∃ l ∈ ls, p l = true))
    else if k = 2 then w32 o.d (if o.f.getLsbD 3 then BitVec.ofNat 32 (ls.filter p).length else laneMask (ls.filter p))
    else w1 o.d.toNat (decide (∀ l ∈ ls, ∀ m ∈ ls, prd f f.uniPath l o.a.toNat = prd f f.uniPath m o.a.toNat)))) ∧
  (∀ o : VFmt, LaneWise (.elect o) o.g (fun f l => w1 o.d.toNat (decide ((f.acting o.g).head? = some l))))

namespace Sys2Proof.Claim

/-- The integer combinations of R138: sums modulo 2^32, the least and greatest value of the type, and the bitwise ones; of no value, the
identity of R139. -/
def foldRed (red : Nat) (sg : Bool) (xs : List Word) : Word :=
  match red with
  | 0 => xs.foldl (· + ·) 0
  | 1 => BitVec.ofInt 32 (xs.foldl (fun m x => min m (val sg x)) (greatest sg 32))
  | 2 => BitVec.ofInt 32 (xs.foldl (fun m x => max m (val sg x)) (least sg 32))
  | 3 => xs.foldl (· &&& ·) 0xFFFFFFFF
  | 4 => xs.foldl (· ||| ·) 0
  | _ => xs.foldl (· ^^^ ·) 0

/-- FADD under rn, FMIN or FMAX of two FP32 codes (R106, R107). -/
def floatRed (red a b : Nat) : Nat × Byte :=
  if red = 0 then fused .fp32 0 0 [] [Fmt.fp32.decode a, Fmt.fp32.decode b] else minMaxNum .fp32 (decide (red = 2)) a b

/-- A lane's value, a NaN made canonical; a signalling one raises IV (R138). -/
def floatIn (x : Word) : Nat × Byte :=
  if x.extractLsb' 23 8 = 0xFF ∧ x.extractLsb' 0 23 ≠ 0 then (0x7FC00000, if x.getLsbD 22 then 0 else 1) else (x.toNat, 0)

/-- Two places of a reduction, either of which may be empty. -/
def joinRed (red : Nat) (x y : Option (Nat × Byte)) : Option (Nat × Byte) :=
  match x, y with
  | some a, some b => some ((floatRed red a.1 b.1).1, a.2 ||| b.2 ||| (floatRed red a.1 b.1).2)
  | some a, none => some a
  | none, b => b

/-- The fixed tree of R138: after n distances, place i holds the combination of the lanes i to i + 2^n − 1 that have a value. -/
def treeAt (red : Nat) (x : Nat → Option (Nat × Byte)) : Nat → Nat → Option (Nat × Byte)
  | 0, i => x i
  | n + 1, i => joinRed red (treeAt red x n i) (treeAt red x n (i + 2 ^ n))

/-- The accumulator of R139 before lane n, left to right. -/
def accAt (red : Nat) (x : Nat → Option (Nat × Byte)) : Nat → Option (Nat × Byte)
  | 0 => none
  | n + 1 => joinRed red (accAt red x n) (x n)

end Sys2Proof.Claim

/-- R138 and R139: REDUX gives every participating lane the combination of the participating lanes' values: of integers the wrapped sum, the
least or greatest value, or the bitwise combination; of FP32 values what the fixed tree gives. SCANX gives each participating lane the
combination of the lanes up to it, or, exclusive, of those before it, the identity where there is none; FP32 values combine left to right.
-/
def Obligations.ReductionsAndScans : Prop :=
  let red := fun (o : VFmt) => bits o.f.toNat 2 0
  let ty := fun (o : VFmt) => bits o.f.toNat 4 3
  let vals := fun (o : VFmt) (f : Flight) (P : Nat → Bool) => ((f.acting o.g).filter P).map (fun l => opA f o l)
  let xs := fun (o : VFmt) (f : Flight) (l : Nat) => if l ∈ f.acting o.g then some (floatIn (opA f o l)) else none
  let ident := fun (o : VFmt) => if red o = 0 then 0 else if red o = 1 then 0x7F800000 else 0xFF800000
  (∀ o : VFmt, ty o < 2 → red o < 6 → LaneWise (.redux o) o.g (fun f _ => w32 o.d (foldRed (red o) (ty o == 1) (vals o f (fun _ => true))))) ∧
  (∀ o : VFmt, ty o = 2 → red o < 3 → LaneWise (.redux o) o.g (fun f _ => n32 o.d ((treeAt (red o) (xs o f) 5 0).getD (0, 0)))) ∧
  (∀ o : VFmt, ty o < 2 → red o < 6 → LaneWise (.scanx o) o.g (fun f l =>
    w32 o.d (foldRed (red o) (ty o == 1) (vals o f (fun k => decide (k < l) || (decide (k = l) && !o.c.getLsbD 0)))))) ∧
  (∀ o : VFmt, ty o = 2 → red o < 3 → LaneWise (.scanx o) o.g (fun f l =>
    let y := ((accAt (red o) (xs o f) (if o.c.getLsbD 0 then l else l + 1)).map (·.1)).getD (ident o)
    n32 o.d (y, ((accAt (red o) (xs o f) 32).map (·.2)).getD 0)))

/-! ### The step, decoding and the machine's invariants -/

/-- Every step of the device answers a next state: whatever the state, no step faults and none is refused. That an event without its
condition changes nothing is the choice of log 12. -/
def Obligations.StepAnswersNext : Prop := ∀ s : State, ∃ t, step s = .next t

/-- The flight that has the issue stands at a word of its clause that decodes to an instruction, and is its dispatcher's choice: the step is
that instruction's `exec` once the dispatcher has noted the issue; the operations of the clause, and where the flight goes next, are its own
(R31, R158). In deterministic mode the issue is the flight's turn in its slot's tick (R171), and nothing is noted. What the dispatcher notes:
since when the flight has waited, that its cycle is spent, and that no flight is passed over any longer for having yielded. A flight that the
instruction leaves stalled on a long-latency dependence gives its slot up at once to a pending one (R160); one that goes on does not, nor does
any in deterministic mode, where the ticks exchange slots. -/
def Sys2Proof.Claim.StepRunsDecoded : Prop :=
  (∀ (s : State) (r : FlightRef) (f : Flight) (c : Clause) (w : Dword) (i : Instr),
    s.agenda = [] → s.issuer = some (r, f) → s.det r = false → s.mayIssue r f = true → s.seated r = true → s.chooses r = true →
    f.wait = .ready → f.clause = some c → c.words[f.ix]? = some w → decode f.dctx w = .ok i →
    ∃ t, exec i (s.noteIssue r) = .next t ∧ step s = .next (t.swapOut r)) ∧
  (∀ (s : State) (r : FlightRef) (f : Flight) (c : Clause) (w : Dword) (i : Instr) (ms : List Move),
    s.cur = none → s.agenda = .issue r :: ms → s.flight? r = some f → s.det r = true → s.mayIssue r f = true →
    Move.tickEnd (s.partOf r) ∈ ms → f.slot = some ((s.part (s.partOf r)).tick % 8) → f.busy ≤ (s.part (s.partOf r)).tick → f.opDue = none →
    f.wait = .ready → f.clause = some c → c.words[f.ix]? = some w → decode f.dctx w = .ok i →
    ∃ t, exec i { s with agenda := ms, cur := some r } = .next t ∧ step s = .next (t.swapOut r)) ∧
  (∀ (s : State) (r : FlightRef), (s.flight? r = none ∨ s.det r = true → s.swapOut r = s) ∧ ∀ f, s.flight? r = some f →
    (f.wait = .ready → f.homeParked = false → s.swapOut r = s) ∧
    (s.swapOut r).mem = s.mem ∧ (s.swapOut r).cur = s.cur ∧ (s.swapOut r).agenda = s.agenda ∧
    ∀ q h, s.flight? q = some h → ∃ k n, (s.swapOut r).flight? q = some { h with slot := k, readySince := n }) ∧
  (∀ (s : State) (r : FlightRef) (f : Flight) (c : Clause), s.flight? r = some f → f.clause = some c →
    let t := s.noteIssue r
    t.mem = s.mem ∧ t.cur = s.cur ∧ t.agenda = s.agenda ∧ t.launches = s.launches ∧ t.parts = s.parts ∧
    (∃ n, t.flight? r = some { f with lastIssue := n }) ∧
    ∀ q h, q ≠ r → s.flight? q = some h → ∃ b, t.flight? q = some { h with yielded := b })

/-- R42: a word that does not decode traps ILLEGAL_OP with the sub-code of the first row of its table that matches, and does nothing
else. -/
def Sys2Proof.Claim.StepTrapsIllegal : Prop :=
  ∀ (s : State) (r : FlightRef) (f : Flight) (c : Clause) (w : Dword) (sub : Byte),
    s.agenda = [] → s.issuer = some (r, f) → s.det r = false → s.mayIssue r f = true → s.seated r = true → s.chooses r = true →
    f.wait = .ready → f.clause = some c → c.words[f.ix]? = some w → decode f.dctx w = .error sub →
    step s = .next ((s.noteIssue r).trap r { cause := 0x01, sub, kind := 0, info := 0, org := none })

/-- R31, R42 and R158: a step runs the instruction that the word at the flight's place decodes to, and traps ILLEGAL_OP where it decodes to
none. The agenda of the model is empty (log 1). -/
def Obligations.StepRunsDecodedInstruction : Prop := Sys2Proof.Claim.StepRunsDecoded ∧ Sys2Proof.Claim.StepTrapsIllegal

/-- Encoding and decoding agree: every instruction that is well formed in a context, with every field at every value it may have there,
decodes from its word in that context to itself. -/
def Obligations.DecodeEncode : Prop :=
  ∀ (cx : DecodeCtx) (i : Instr), hasEncoding i = true → WellFormed cx i = true → decode cx (encode i) = .ok i

/-- The other direction: a word that decodes is the word of the instruction it decodes to, and that instruction is well formed; no bit of
the word is dropped and no two words mean the same. -/
def Obligations.EncodeDecode : Prop :=
  ∀ (cx : DecodeCtx) (w : Dword) (i : Instr), decode cx w = .ok i → encode i = w ∧ WellFormed cx i = true ∧ hasEncoding i = true

/-- A clause that passes its fetch (R30): its pc is aligned and canonical; its header's class is not reserved and its reserved bits are
zero; its words are the N + 1 words that follow, whose CRC the header carries; the class admits each of them, and no branch stands before
the last. Each word is the one memory holds, or one that has stood there since its launch started (R33). Which of two words a changed code
word gives is free (log 31). -/
def Obligations.FetchChecks : Prop :=
  (∀ (s : State) (r : FlightRef) (k : Nat), s.codeAt r k = BitVec.ofNat 64 (s.getNat k 8) ∨
    ∃ l ws, s.launchOf r = some l ∧ look l.code k = some ws ∧ s.codeAt r k ∈ ws) ∧
  ∀ (s : State) (r : FlightRef) (pc : Dword) (c : Fetched), s.fetchClause r pc = .ok c →
    pc.toNat % 8 = 0 ∧ pc.toNat < 2 ^ 56 ∧
    s.codeWord r pc pc = .ok c.header ∧ classOf (c.header.extractLsb' 60 4).toNat = some c.clause.cls ∧
    c.header.extractLsb' 32 4 = 0 ∧ c.header.extractLsb' 16 15 = 0 ∧ c.clause.yieldHint = c.header.getLsbD 31 ∧
    c.clause.addr = pc ∧ c.clause.words.length = (c.header.extractLsb' 56 4).toNat + 1 ∧
    (∀ i w, c.clause.words[i]? = some w → s.codeWord r pc (pc + 8 * BitVec.ofNat 64 (i + 1)) = .ok w) ∧
    clauseCrc c.clause.words = c.header.extractLsb' 0 16 ∧
    (∀ w ∈ c.clause.words, admits c.clause.cls w = true) ∧ (∀ w ∈ c.clause.words.dropLast, isBranch w = false)

/-- Words written out from the encodings of the spec's tables decode to the instructions they stand for. -/
def Obligations.DecodeWords : Prop :=
  let mix : DecodeCtx := { cls := .mix, alloc := 256 }
  decode mix 0x0270902000000000 = .ok (.mov ⟨7, 9, 2, 0, 0, 0, false, false, false, 0⟩) ∧
  decode mix 0x2B70204100000000 = .ok (.icmpi ⟨7, 2, 4, false, 1, 0⟩) ∧
  decode mix 0x7070301000200800 = .ok (.ld ⟨7, 3, 1, 0, 32, 0, 2, 0, 0, 0⟩) ∧
  decode mix 0x7770401080010800 = .ok (.acas ⟨7, 4, 1, 8, 1, 0, 2, 0, 0, 0⟩) ∧
  decode mix 0xC47140FFFFFFFFF2 = .ok (.loop ⟨7, 20, 0, 0xFFFFFFFFF2⟩) ∧
  decode mix 0xE270100000000000 = .ok (.gets ⟨7, 1, 0, false, 0, 0⟩) ∧
  decode mix 0xE371E000000186A0 = .ok (.timerArm ⟨7, 30, 0, false, 0, 100000⟩) ∧
  decode mix 0x6270403000000000 = .ok (.redux ⟨7, 4, 3, 0, 0, 0, false, false, false, 0⟩) ∧
  decode mix 0x0070000000000000 = .error 1 ∧ decode mix 0xFF70000000000000 = .error 1

/-- Memory stays in its canonical form, addresses strictly rising and no entry at what an unlisted address reads as: every step from every
state keeps it. The form, and what an unlisted byte reads as, are the model's (log 2, log 3). -/
def Obligations.StepKeepsMemoryForm : Prop :=
  ∀ s t : State, Memory.wf s.mem = true → step s = .next t → Memory.wf t.mem = true

/-- The device after reset, as far as the spec states it: PCAP is 3,000 W (R382), a die's self-check interval is 64 (R304),
every die's status register and the live planes are 0 (R372, R385), every ring's base, size, producer and consumer index are 0 and so are the slice, the debt and the descriptors of partitions and contexts
(R341, R347, R351, R376), the drain deadline is 1,000 µs, SMODE is 1, and no workgroup is resident. Memory is in its canonical form. -/
def Sys2Proof.Claim.ResetValues : Prop :=
  State.reset.pcap = 3000 ∧ State.reset.wgs = [] ∧ State.reset.launches = [] ∧ State.reset.cur = none ∧
  Memory.wf State.reset.mem = true ∧ State.reset.planes = 0 ∧
  (∀ d, (State.reset.die d).mxchk = 64 ∧ (State.reset.die d).resets = 0 ∧ (State.reset.die d).tries = 0 ∧ (State.reset.die d).tchg = 0 ∧
    (State.reset.die d).st = 0) ∧
  (∀ k, (State.reset.part k).slice = 0 ∧ (State.reset.part k).debt = 0 ∧ (State.reset.part k).ddead = 1000 ∧
    (State.reset.part k).smode = 1 ∧ (State.reset.part k).parkth = 50 ∧ (State.reset.part k).desc.ctl = 0 ∧
    (State.reset.part k).cur = none ∧
    (∀ i, (State.reset.part k).rings.getD i Ring.off = { base := 0, size := 0, prod := 0, cons := 0 }) ∧
    (∀ c, ((State.reset.part k).ctx c).trans.fqsize = 0 ∧ ((State.reset.part k).ctx c).desc.tokbuf = 0 ∧
      ((State.reset.part k).ctx c).dom.domen = false ∧ ((State.reset.part k).ctx c).dom.quiet = 20))

/-- R22: a flight starts with every vector register and predicate 0, its first sixteen uniform registers from the argument block and the
others 0, codebook and fsr 0, pc at the entry, mr all ones, RNG counter 0; p7 and q7 read true whatever is written to them. -/
def Sys2Proof.Claim.FlightStart : Prop :=
  (∀ (rows : Nat) (entry : Dword) (args tids : List Word),
    (∀ l r, (Flight.fresh rows entry args tids).v l r = 0) ∧
    (∀ r, (Flight.fresh rows entry args tids).s r = if r < 16 then args.getD r 0 else 0) ∧
    (∀ l i, (Flight.fresh rows entry args tids).p l i = decide (i = 7)) ∧
    (∀ i, (Flight.fresh rows entry args tids).q i = decide (i = 7)) ∧
    (Flight.fresh rows entry args tids).cb = List.replicate 16 0 ∧ (Flight.fresh rows entry args tids).fsr = 0 ∧
    (∀ l, l < 32 → (Flight.fresh rows entry args tids).pc.getD l 0 = entry ∧
      (Flight.fresh rows entry args tids).mr.getD l 0 = 0xFFFFFFFFFFFFFFFF) ∧
    (Flight.fresh rows entry args tids).rngctr = 0 ∧ (Flight.fresh rows entry args tids).running = 0xFFFFFFFF) ∧
  (∀ (f : Flight) (l : Nat) (b : Bool), (f.setP l 7 b).p l 7 = true ∧ (f.setQ 7 b).q 7 = true)

/-- The device after reset, and a flight as it starts (R22). That nothing is resident and that memory lists nothing are the model's reading
of a device that has not booted (log 2, log 17). -/
def Obligations.ResetAndFlightStart : Prop := Sys2Proof.Claim.ResetValues ∧ Sys2Proof.Claim.FlightStart

/-- R170, R171: what retiring an instruction does. The flight stands at the next instruction of its clause and has retired one more; its
registers, predicates, fsr, codebook and meeting points are those the instruction left; in deterministic mode an armed timer counts it, and
at its last count disarms itself and is pending; every other flight, and memory, are as they were. -/
def Obligations.Retiring : Prop :=
  ∀ (s : State) (r : FlightRef) (f0 f : Flight), s.flight? r = some f0 → f.stopped = false →
    (s.retire r f).mem = s.mem ∧ (s.retire r f).cur = s.cur ∧ (∀ q, q ≠ r → (s.retire r f).flight? q = s.flight? q) ∧
    ∃ f', (s.retire r f).flight? r = some f' ∧ f'.ix = f.ix + 1 ∧ f'.retired = f.retired + 1 ∧ f'.wait = .ready ∧
      f'.clause = f.clause ∧ f'.sg = f.sg ∧ f'.pc = f.pc ∧ f'.mr = f.mr ∧ f'.exited = f.exited ∧ f'.held = f.held ∧
      f'.brMask = f.brMask ∧ f'.brTarget = f.brTarget ∧ f'.callTo = f.callTo ∧ RegsKept f f' ∧ PredsKept f f' ∧
      f'.fsr = f.fsr ∧ f'.cb = f.cb ∧ f'.rngctr = f.rngctr ∧ f'.accs = f.accs ∧ f'.peer = f.peer ∧ f'.stopped = false ∧
      f'.nLoads = f.nLoads ∧ f'.nStores = f.nStores ∧ f'.nCopies = f.nCopies ∧ f'.nTiles = f.nTiles ∧
      (f'.timerOn, f'.timerRem, f'.tpend) =
        (if s.det r = true ∧ f.timerOn = true then
          (if f.timerRem = 1 then (false, 0, true) else (true, f.timerRem - 1, f.tpend)) else (f.timerOn, f.timerRem, f.tpend))

/-- R332, R333, R334: a trap in the middle of a clause of a running workgroup. The flight stops at the instruction, with the cause,
sub-code, kind and INFO of the trap and SKID 0; the workgroup is halting, and FIRSTFLT keeps the flight that trapped first, of two that trap
in one cycle the lower (R335). No register, predicate or flag of it or of a sibling changes, nor does memory; a sibling inside a clause that
can go on still runs, and one at a clause start stops, unless a debugger holds the workgroup already. The issue passes on. -/
def Obligations.TrapEntry : Prop :=
  ∀ (s : State) (w fl : Nat) (g : Wg) (f : Flight) (c : Clause) (t : TrapInfo),
    look s.wgs w = some g → g.flights[fl]? = some f → g.st = .running → f.ended = false → f.stopped = false → f.wait = .ready →
    f.clause = some c → f.ix < c.words.length → f.npOpen = false →
    (s.trap (.wg w fl) t).mem = s.mem ∧ (s.trap (.wg w fl) t).cur ≠ some (.wg w fl) ∧
    ∃ g', look (s.trap (.wg w fl) t).wgs w = some g' ∧ g'.st = .halting ∧ g'.trapped = true ∧ g'.entryOwed = true ∧
      (let now := max (s.beat (.wg w fl)) f.lastIssue
       (g.firstFlt = 0xFF → g'.firstFlt = BitVec.ofNat 8 fl ∧ g'.firstAt = now) ∧
       (g.firstFlt ≠ 0xFF → g'.firstAt = g.firstAt ∧
         g'.firstFlt = if g.firstAt = now then BitVec.ofNat 8 (min fl g.firstFlt.toNat) else g.firstFlt)) ∧
      g'.flights.length = g.flights.length ∧
      (∃ f', g'.flights[fl]? = some f' ∧ f'.stopped = true ∧ f'.stopPc = c.addr ∧ f'.stopIx = f.ix ∧ f'.sg = f.sg ∧
        f'.skid = (if g.dbg then f.skid else 0) ∧
        f'.cause = t.cause ∧ f'.sub = t.sub ∧ f'.kind = t.kind ∧ f'.info = t.info ∧ f'.org = t.org ∧
        RegsKept f f' ∧ PredsKept f f' ∧ f'.fsr = f.fsr ∧ f'.cb = f.cb ∧ f'.mr = f.mr ∧ f'.pc = f.pc ∧ f'.retired = f.retired) ∧
      (∀ k h, k ≠ fl → g.flights[k]? = some h → ∃ h', g'.flights[k]? = some h' ∧ RegsKept h h' ∧ PredsKept h h' ∧ h'.fsr = h.fsr ∧
        h'.cause = h.cause ∧ h'.retired = h.retired ∧
        (h.clause.isSome = true → h.ended = false → h.wait = .ready → h'.stopped = h.stopped ∧ h'.clause = h.clause ∧ h'.ix = h.ix) ∧
        (h.clause = none → g.dbg = false → h'.stopped = true))

/-! ### Branches, sub-groups and meeting points -/

namespace Sys2Proof.Claim

/-- The instruction completes in the clause it stands in: the next state is the state in which the flight, changed to g, retires it. -/
def Retires (i : Instr) (P : State → FlightRef → Clause → Flight → Flight → Prop) : Prop :=
  ∀ s r f c, s.issuer = some (r, f) → f.clause = some c → ∃ g, exec i s = .next (s.retire r g) ∧ P s r c f g

/-- A thread's guard (R34): a p predicate of its own in classes vec and mix, else the q predicate; G[3] negates. -/
def holds (f : Flight) (g : BitVec 4) (l : Nat) : Bool :=
  (if f.cls = ClauseClass.vec ∨ f.cls = ClauseClass.mix then f.p l (g.extractLsb' 0 3).toNat else f.q (g.extractLsb' 0 3).toNat) !=
    g.getLsbD 3

/-- The threads of the sub-group that take a branch, as a mask. -/
def Takes (f : Flight) (g : BitVec 4) (m : Word) : Prop := ∀ l, l < 32 → m.getLsbD l = (f.sg.getLsbD l && holds f g l)

/-- The header after a clause, and a target relative to its header (R32, R40). -/
def nextOf (c : Clause) : Dword := c.addr + 8 * BitVec.ofNat 64 (c.words.length + 1)
def relOf (c : Clause) (off : BitVec 40) : Dword := c.addr + 8 * off.signExtend 64

/-- A branch: the threads that take it, its target, and what it does once when some thread takes it. -/
def Branch (i : Instr) (gd : BitVec 4) (target : Clause → Flight → Dword) (once : Clause → Flight → Flight) : Prop :=
  Retires i (fun _ _ c f g => ∃ m, Takes f gd m ∧
    g = { (if m = 0 then f else once c f) with brMask := m, brTarget := target c f })

/-- A branch to a register target: it completes where the target is aligned or no thread takes it; else it traps MISALIGNED_BRANCH, does
not branch and writes no link (R75). -/
def BranchReg (i : Instr) (gd : BitVec 4) (sreg : Nat) (once : Clause → Flight → Flight) : Prop :=
  ∀ s r f c, s.issuer = some (r, f) → f.clause = some c → ∃ m, Takes f gd m ∧
    ((m = 0 ∨ (f.s64 sreg).toNat % 8 = 0) →
      exec i s = .next (s.retire r { (if m = 0 then f else once c f) with brMask := m, brTarget := f.s64 sreg })) ∧
    (m ≠ 0 → (f.s64 sreg).toNat % 8 ≠ 0 →
      exec i s = .next (s.trap r { cause := 0x03, sub := 0, kind := 0, info := 0, org := none }))

end Sys2Proof.Claim

/-- R73, R74, R75 and R77: the branches mark the threads that take them and their target; a call writes the address after its clause to
its link and its target issues next; LOOP decrements its counter and no thread takes it when the result is 0; a misaligned register target
traps. The threads move when the clause completes. -/
def Sys2Proof.Claim.Branches : Prop :=
  (∀ o : BFmt, Branch (.bra o) o.g (fun c _ => relOf c o.off) (fun _ f => f)) ∧
  (∀ o : BFmt, Branch (.call o) o.g (fun c _ => relOf c o.off)
    (fun c f => { f.setS64 o.s.toNat (nextOf c) with callTo := some (relOf c o.off) })) ∧
  (∀ o : BFmt, BranchReg (.brax o) o.g o.s.toNat (fun _ f => f)) ∧
  (∀ o : BFmt, BranchReg (.ret o) o.g o.s.toNat (fun _ f => f)) ∧
  (∀ o : BFmt, BranchReg (.callx o) o.g o.s.toNat
    (fun c f => { f.setS64 (o.s.toNat + 2) (nextOf c) with callTo := some (f.s64 o.s.toNat) })) ∧
  (∀ o : BFmt, Retires (.loop o) (fun _ _ c f g => ∃ m, Takes f o.g m ∧
    (m = 0 → g = { f with brMask := 0, brTarget := relOf c o.off }) ∧
    (m ≠ 0 → g = { f.setS o.s.toNat (f.s o.s.toNat - 1) with
      brMask := if f.s o.s.toNat = 1 then 0 else m, brTarget := relOf c o.off })))

/-- R78, R130: the threads of the sub-group whose guard holds finish; each held thread is released whose mr no thread carries that is
neither held nor finished. Where that was the flight's last thread, each flight of its workgroup that waits at a SORTK traps (R143). -/
def Sys2Proof.Claim.Exits : Prop :=
  ∀ (o : BFmt) (s : State) (r : FlightRef) (f : Flight), s.issuer = some (r, f) →
    ∃ g m, Takes f o.g m ∧ g = { f with exited := f.exited ||| m, held := g.held } ∧
      (∀ l, l < 32 → g.held.getLsbD l = (f.held.getLsbD l && !(List.range 32).all (fun k =>
        decide (f.mr.getD k 0 ≠ f.mr.getD l 0) || f.held.getLsbD k || g.exited.getLsbD k))) ∧
      (g.exited ≠ 0xFFFFFFFF → exec (.exit o) s = .next (s.retire r g)) ∧
      (∀ die part, r = .ctl die part → exec (.exit o) s = .next (s.retire r g)) ∧
      (∀ w fl, r = .wg w fl → (∀ k h, s.flight? (.wg w k) = some h → h.wait ≠ .sort) → exec (.exit o) s = .next (s.retire r g)) ∧
      (∀ w fl k h, r = .wg w fl → g.exited = 0xFFFFFFFF → k < 32 → k ≠ fl → s.flight? (.wg w k) = some h → h.wait = .sort →
        ∃ t h', exec (.exit o) s = .next t ∧ t.flight? (.wg w k) = some h' ∧ h'.cause = 0x14)

/-- R73–R78, R130 and R143: branches, calls, loops and exits. INFO 0 of a misaligned register branch is the choice of log 33. -/
def Obligations.BranchesAndExits : Prop := Sys2Proof.Claim.Branches ∧ Sys2Proof.Claim.Exits

/-- R132 and R133: MEET gives each participating lane its old mr in a pair of vector registers and makes its mr the target; SETMR sets it
from a pair. Neither moves, holds or releases a thread. -/
def Obligations.MeetingPoints : Prop :=
  (∀ o : BFmt, EvenReg o.s → Retires (.meet o) (fun _ _ c f g =>
    (∀ l ∈ f.acting o.g, g.v64 l o.s.toNat = f.mr.getD l 0 ∧ g.mr.getD l 0 = relOf c o.off) ∧
    (∀ l, l < 32 → l ∉ f.acting o.g → g.mr.getD l 0 = f.mr.getD l 0) ∧
    (∀ l r, r < 256 → l ∉ f.acting o.g ∨ (r ≠ o.s.toNat ∧ r ≠ o.s.toNat + 1) → g.v l r = f.v l r) ∧
    g = { f with mr := g.mr, vregs := g.vregs })) ∧
  (∀ o : VFmt, Retires (.setmr o) (fun _ _ _ f g =>
    (∀ l, l < 32 → g.mr.getD l 0 = if l ∈ f.acting o.g then f.src64 o.ka l o.a.toNat else f.mr.getD l 0) ∧
    g = { f with mr := g.mr }))

/-- R32, R74, R129 and R130: the end of a clause. Each thread of the sub-group that still runs takes its new pc, the branch's target or
the next header; one whose new pc equals its mr is held; held threads whose meeting point is complete are released. Nothing else of the
flight changes, nor any other flight, nor memory. Where a pending flight of its dispatcher has been ready for 2,048 cycles, the forced exchange of
its slot comes next (R161). -/
def Sys2Proof.Claim.ClauseEnds : Prop :=
  ∀ (s : State) (r : FlightRef) (f : Flight) (c : Clause), s.flight? r = some f → f.clause = some c → c.words.length ≤ f.ix →
    f.stopped = false → f.owes = false → f.yielded = false → c.yieldHint = false → s.live r f = true →
    ∃ g,
      (let t := { s.setFlight r g with cur := if s.cur = some r then none else s.cur }
       ((f.slot = none ∨ (∃ d k, r = .ctl d k) ∨ t.overdue (s.coreOf r) f.disp = false) → exec (.clauseComplete r) s = .next t) ∧
       (∀ w fl k, r = .wg w fl → f.slot = some k → t.overdue (s.coreOf r) f.disp = true →
         exec (.clauseComplete r) s = .next { t with agenda := .event (.forcedExchange (s.coreOf r) f.disp k) :: t.agenda })) ∧
      g = { f with pc := g.pc, held := g.held, clause := none, ix := 0, sg := 0, brMask := 0, brTarget := 0 } ∧
      (let ran := fun l => f.sg.getLsbD l && !f.exited.getLsbD l
       let new := fun l => if f.brMask.getLsbD l then f.brTarget else nextOf c
       let waits := fun l => f.held.getLsbD l || (ran l && decide (new l = f.mr.getD l 0) && decide ((new l).toNat % 8 = 0) &&
         decide ((new l).toNat < 2 ^ 56))
       ∀ l, l < 32 → g.pc.getD l 0 = (if ran l then new l else f.pc.getD l 0) ∧
        g.held.getLsbD l = (waits l && !(List.range 32).all (fun k =>
          decide (f.mr.getD k 0 ≠ f.mr.getD l 0) || waits k || f.exited.getLsbD k)))

/-- R127: the sub-group that issues next is that of a call's target while it has threads; else that of the lowest pc among the running
threads, with every running thread at that pc; a flight without a running thread has none. -/
def Sys2Proof.Claim.SubgroupSelection : Prop :=
  (∀ f : Flight, f.pick = none ↔ f.running = 0) ∧
  ∀ (f : Flight) (p : Dword) (m : Word), f.pick = some (p, m) →
    m ≠ 0 ∧ (∀ l, l < 32 → m.getLsbD l = (f.running.getLsbD l && decide (f.pc.getD l 0 = p))) ∧
    ((∃ t, f.callTo = some t ∧ p = t) ∨
      ((∀ l, l < 32 → f.running.getLsbD l = true → p.toNat ≤ (f.pc.getD l 0).toNat) ∧
        ∀ t, f.callTo = some t → ∀ l, l < 32 → f.running.getLsbD l = true → f.pc.getD l 0 ≠ t))

/-- R30, R127, R134 and R158: a flight of a running workgroup, with an active slot, its dispatcher's choice and with nothing it owes, starts the
clause of its next sub-group once that is fetched: the lanes that pass its wait test issue, at instruction 0, and the others become late. With no lane that passes, the
flight waits for its counts. A clause that fails a check traps with that check's cause at its pc. -/
def Sys2Proof.Claim.ClauseStarts : Prop :=
  ∀ (s : State) (r : FlightRef) (f : Flight) (pc : Dword) (sg : Word),
    s.flight? r = some f → f.clause = none → f.sg = 0 → s.live r f = true → f.wait = .ready → s.det r = false → f.owes = false →
    f.late = 0 → (f.retired ≠ 0 ∨ (s.dispatch r).tokenHold r = false) → f.pick = some (pc, sg) → (s.dispatch r).seated r = true →
    (∀ c, (s.dispatch r).fetchClause r pc = .ok c →
      let keeps := fun (t : State) (g : Flight) => t.flight? r = some g ∧ t.mem = s.mem ∧ RegsKept f g ∧ PredsKept f g ∧ g.pc = f.pc
      ((∃ l, l < 32 ∧ sg.getLsbD l = true ∧ f.headerOk c.header l = true) →
        ((s.dispatch r).chooses r = false → exec (.clauseFetch r) s = .next (s.dispatch r)) ∧
        ((s.dispatch r).chooses r = true → ∃ t g, exec (.clauseFetch r) s = .next t ∧ keeps t g ∧
          t.cur = some r ∧ g.clause = some c.clause ∧ g.ix = 0 ∧ g.callTo = none ∧
            ∀ l, l < 32 → g.sg.getLsbD l = (sg.getLsbD l && f.headerOk c.header l) ∧
              g.late.getLsbD l = (sg.getLsbD l && !f.headerOk c.header l))) ∧
      ((∀ l, l < 32 → sg.getLsbD l = true → f.headerOk c.header l = false) → ∃ t g, exec (.clauseFetch r) s = .next t ∧ keeps t g ∧
        g.clause = none ∧ g.wait = .counts)) ∧
    (∀ cause sub info, (s.dispatch r).fetchClause r pc = .error (.trap cause sub info) → (s.dispatch r).chooses r = true → ∀ w fl, r = .wg w fl →
      ∃ t g, exec (.clauseFetch r) s = .next t ∧ t.flight? r = some g ∧ g.stopped = true ∧ g.stopPc = pc ∧ g.stopIx = 0 ∧
        g.cause = cause ∧ g.sub = sub ∧ g.kind = 0 ∧ g.info = info)

/-- R30, R32, R74, R127, R129, R130 and R134: how a clause starts and how it ends. -/
def Obligations.Clauses : Prop := Sys2Proof.Claim.ClauseEnds ∧ Sys2Proof.Claim.SubgroupSelection ∧ Sys2Proof.Claim.ClauseStarts

/-- R142, R143 and R144: the last flight of a workgroup to arrive at a SORTK completes it for all. The threads stand in the order of key
and, among equal keys, of old slot; each slot takes the predicates, the TID and, in the rows its own flight's mask names, the registers of
the thread that comes to it; the other rows, the uniform registers and predicates, codebooks, flags and meeting points stay. A flight that
issues it with fewer than 32 threads, or where a thread of the workgroup has finished, traps SORTK_DIVERGENT. -/
def Obligations.Sorting : Prop :=
  (∀ (o : VFmt) (s : State) (w fl : Nat) (g : Wg) (f : Flight) (keys : Nat → Nat) (mask : Nat → Word),
    s.cur = some (.wg w fl) → look s.wgs w = some g → g.flights[fl]? = some f → g.st = .running → g.flights.length ≤ 32 →
    f.wait = .ready → f.sg = 0xFFFFFFFF → (∀ h ∈ g.flights, h.exited = 0 ∧ h.stopped = false) → f.nLoads = 0 → f.nTiles = 0 →
    (∀ l, l < 32 → keys (32 * fl + l) = (f.src o.ka l o.a.toNat).toNat % 2 ^ 16) → mask fl = f.s o.b.toNat →
    (∀ k, k < g.flights.length → k ≠ fl → g.sortArr.getLsbD k = true ∧
      ∃ ks : List Half, look g.sortIn k = some (ks, mask k) ∧ ∀ l, l < 32 → keys (32 * k + l) = (ks.getD l 0).toNat) →
    ∃ (t : State) (g' : Wg) (order : List Nat), exec (.sortk o) s = .next t ∧ t.mem = s.mem ∧ look t.wgs w = some g' ∧ g'.flights.length = g.flights.length ∧
      order.Perm (List.range (32 * g.flights.length)) ∧ order.Pairwise (fun a b => keys a < keys b ∨ (keys a = keys b ∧ a < b)) ∧
      ∀ k h, g.flights[k]? = some h → ∃ h', g'.flights[k]? = some h' ∧ h'.retired = h.retired + 1 ∧ h'.wait = .ready ∧
        (∀ r, h'.s r = h.s r) ∧ (∀ i, h'.q i = h.q i) ∧ h'.fsr = h.fsr ∧ h'.cb = h.cb ∧ h'.rngctr = h.rngctr ∧ h'.pc = h.pc ∧ h'.mr = h.mr ∧
        ∀ l n x, l < 32 → order[32 * k + l]? = some n → g.flights[n / 32]? = some x →
          (∀ r, r < 256 → h'.v l r = if (mask k).getLsbD (r / 8) = true ∧ r / 8 < h.vrows then x.v (n % 32) r else h.v l r) ∧
          (∀ i, i < 8 → h'.p l i = x.p (n % 32) i) ∧ h'.tids.getD l 0 = x.tids.getD (n % 32) 0) ∧
  (∀ (o : VFmt) (s : State) (w fl : Nat) (g : Wg) (f : Flight), s.issuer = some (.wg w fl, f) → look s.wgs w = some g → f.wait = .ready →
    (f.sg ≠ 0xFFFFFFFF ∨ ∃ h ∈ g.flights, h.exited ≠ 0) →
    exec (.sortk o) s = .next (s.trap (.wg w fl) { cause := 0x14, sub := 0, kind := 0, info := 0, org := none }))

/-! ### Memory instructions and their events -/

namespace Sys2Proof.Claim

/-- The address of a lane in space 0 (R198): exact, from the record in s[S..S+7]. -/
def globalEa (f : Flight) (o : MFmt) (l : Nat) : Int :=
  let sb := o.s.toNat
  let base : Int := ((f.s64 sb).toNat % 2 ^ 56 : Nat)
  let index : Int := (if o.a = 0 then 0 else f.v l o.a.toNat).toNat
  base + index * (f.s (sb + 4)).toInt + o.imm.toInt * (f.s (sb + 5)).toInt

/-- The address of a lane in spaces 1–4 (R176). -/
def spaceEa (f : Flight) (o : MFmt) (l : Nat) : Int := ((if o.a = 0 then 0 else f.v l o.a.toNat).toNat : Int) + o.imm.toInt

/-- The low n bytes of a lane's T span (R205). -/
def spanOf (f : Flight) (l t n : Nat) : List Byte :=
  (List.range n).map (fun j => (f.v l (t + j / 4)).extractLsb' (8 * (j % 4)) 8)

/-- Bytes as a little-endian number. -/
def number (bs : List Byte) : Nat := bs.foldr (fun b x => b.toNat + 256 * x) 0

/-- A piece without its tick and its thread. -/
def bare (p : Piece) : Piece := { p with due := 0, tid := 0 }

/-- No access of the flight's partition has a piece of another device that is still to be sent. -/
def AllSent (s : State) (r : FlightRef) : Prop :=
  ∀ q ∈ s.flightsOf (s.partOf r), ∀ h b p, s.flight? q.1 = some h → b ∈ h.accs → p ∈ b.pieces →
    p.dev = none ∨ p.sent = true ∨ p.done = true

/-- A piece of this device that was not issued under a directory lock, and whose line, if a SPAN line, some plane reaches. -/
def Near (s : State) (p : Piece) : Prop := p.locked = false ∧ (p.span = false ∨ s.planes ≠ 0)

/-- An access goes out (R27, R206): with its count below the limit and every check passed for its lanes, all of them on this device, the
flight has one more access outstanding, of the kind, width, T and data given, with the pieces that the checks found; its count rises by
one. A held access leaves the flight waiting for its outcome; any other retires. Memory does not change; nor do registers, but for those of
a load's clamped lanes (R199). -/
def GoesOut (i : Instr) (o : MFmt) (m : Flight → MemSpec) (load held : Bool) (data : Flight → Nat → List Byte) : Prop :=
  ∀ (s : State) (r : FlightRef) (f : Flight) (g : Wg) (ps : List Piece) (outs : List Nat),
    s.issuer = some (r, f) → s.wgOf r = some g → g.st = .running → f.doneMask = 0 → f.ldaData = [] → f.opFlags = 0 →
    f.stopped = false → (if load then f.nLoads < 62 else f.nStores < 62) →
    s.memCheck r g f o (m f) (f.acting o.g) = .ok (ps, outs) → ps ≠ [] → (∀ p ∈ ps, p.dev = none) →
    ∃ t f' a, exec i s = .next t ∧ t.mem = s.mem ∧ t.flight? r = some f' ∧
      f'.accs = f.accs ++ [a] ∧ (∀ b ∈ f.accs, b.id < s.uid → b.id ≠ a.id) ∧ a.kind = (m f).kind ∧ a.bytes = 2 ^ o.w.toNat ∧ a.t = o.t.toNat ∧
      a.pieces.map bare = ps.map bare ∧ (∀ p ∈ a.pieces, p.tid = f.tids.getD p.lane 0) ∧ (∀ l ∈ f.acting o.g, look a.out l = some (data f l)) ∧ a.arrived = 0 ∧ a.got = [] ∧ a.landed = [] ∧
      f'.nLoads = (if load then f.nLoads + 1 else f.nLoads) ∧ f'.nStores = (if load then f.nStores else f.nStores + 1) ∧
      (held = true → f'.wait = .remote a.id ∧ f'.retired = f.retired ∧ f'.ix = f.ix) ∧
      (held = false → f'.wait = .ready ∧ f'.retired = f.retired + 1 ∧ f'.ix = f.ix + 1) ∧
      (∀ q, f'.s q = f.s q) ∧ PredsKept f f' ∧ f'.fsr = f.fsr ∧ f'.mr = f.mr ∧ f'.exited = f.exited ∧
      (o.t.toNat + (2 ^ o.w.toNat + 3) / 4 ≤ 256 → ∀ l q, l ∉ outs → q < 256 → f'.v l q = f.v l q) ∧ ((load = false ∨ o.sp ≠ 0 ∨ (f.s64 o.s.toNat).extractLsb' 58 2 ≠ 1) → RegsKept f f')

end Sys2Proof.Claim

/-- R176–R179, R198, R199, R213, R238: where a lane's access goes. A twin instruction's address gets bit 55. In space 0 the exact sum of
base, index and displacement is checked against the extent: out of bounds it traps BOUNDS with sub-code 1 under BMODE 0 and accesses nothing
under the others; in bounds but not a multiple of the alignment its instruction demands, it traps with sub-code 3. A PSTP has two positions,
the plain one and the transposed one, and both are checked so. In spaces 1–4 the address is index plus displacement, a multiple of 4 or of the
width, within the space: the workgroup's scratchpad, that of the rank an address of the board names, the partition's window on the die an
address of the chip scratchpads names, the lane's private memory. -/
def Sys2Proof.Claim.LaneAddresses : Prop :=
  ∀ (s : State) (r : FlightRef) (g : Wg) (f : Flight) (o : MFmt) (m : MemSpec) (l : Nat), 0 < m.natural →
    (o.sp = 0 → m.kind ≠ .pstp →
      let ea := globalEa f o l
      let base : Int := ((f.s64 o.s.toNat).toNat % 2 ^ 56 : Nat)
      let extent : Int := ((f.s64 (o.s.toNat + 2)).toNat % 2 ^ 48 : Nat)
      let inb := base ≤ ea ∧ ea - base + (2 ^ o.w.toNat : Nat) ≤ extent
      let res := s.laneTo r g f o m (f.bufRec o.s.toNat) l
      (inb → ea % (m.natural : Int) = 0 → res = .ok (.glob [if m.twin then ea.toNat ||| 2 ^ 55 else ea.toNat])) ∧
      (inb → ea % (m.natural : Int) ≠ 0 → res = .error (.trap 0x05 3 (BitVec.ofInt 64 ea))) ∧
      (¬ inb → (f.s64 o.s.toNat).extractLsb' 58 2 = 0 → res = .error (.trap 0x05 1 (BitVec.ofInt 64 ea))) ∧
      (¬ inb → (f.s64 o.s.toNat).extractLsb' 58 2 ≠ 0 → res = .ok .out)) ∧
    (o.sp = 1 ∨ o.sp = 4 →
      let ea := spaceEa f o l
      let w := 2 ^ o.w.toNat
      let room := if o.sp = 1 then g.scratchBytes else 65536
      let res := s.laneTo r g f o m (f.bufRec o.s.toNat) l
      (ea % (max (min w 4) m.natural : Nat) ≠ 0 → res = .error (.trap 0x05 3 (BitVec.ofInt 64 ea))) ∧
      (ea % (max (min w 4) m.natural : Nat) = 0 → (ea < 0 ∨ (room : Int) < ea + (w : Nat)) → res = .error (.trap 0x05 1 (BitVec.ofInt 64 ea))) ∧
      (ea % (max (min w 4) m.natural : Nat) = 0 → 0 ≤ ea → ea + (w : Nat) ≤ (room : Int) → ∀ u fl, r = .wg u fl → ∃ keys lat,
        res = .ok (.flat keys lat none) ∧ keys = (List.range w).map (fun j =>
          if o.sp = 1 then spKey g.core (g.scratchBase + ea.toNat + j) else pvKey u fl l (ea.toNat + j)))) ∧
    (o.sp = 0 → m.kind = .pstp →
      let base : Int := ((f.s64 o.s.toNat).toNat % 2 ^ 56 : Nat)
      let extent : Int := ((f.s64 (o.s.toNat + 2)).toNat % 2 ^ 48 : Nat)
      let x : Int := ((f.v l o.a.toNat).toNat : Nat)
      let y : Int := ((f.v l (o.a.toNat + 1)).toNat : Nat)
      let w : Int := (2 ^ o.w.toNat : Nat)
      let p := base + x * (f.s (o.s.toNat + 4)).toInt + y * w
      let q := base + (f.s (o.s.toNat + 5)).toInt + y * (f.s (o.s.toNat + 4)).toInt + x * w
      let inb := fun ea : Int => base ≤ ea ∧ ea - base + w ≤ extent
      let far := fun ea : Int => if m.twin then ea.toNat ||| 2 ^ 55 else ea.toNat
      let res := s.laneTo r g f o m (f.bufRec o.s.toNat) l
      (inb p → inb q → p % (m.natural : Int) = 0 → q % (m.natural : Int) = 0 → res = .ok (.glob [far p, far q])) ∧
      (inb p → inb q → p % (m.natural : Int) ≠ 0 → res = .error (.trap 0x05 3 (BitVec.ofInt 64 p))) ∧
      (inb p → inb q → p % (m.natural : Int) = 0 → q % (m.natural : Int) ≠ 0 → res = .error (.trap 0x05 3 (BitVec.ofInt 64 q))) ∧
      (¬ (inb p ∧ inb q) → (f.s64 o.s.toNat).extractLsb' 58 2 ≠ 0 → res = .ok .out) ∧
      (¬ inb p → (f.s64 o.s.toNat).extractLsb' 58 2 = 0 → res = .error (.trap 0x05 1 (BitVec.ofInt 64 p))) ∧
      (inb p → ¬ inb q → (f.s64 o.s.toNat).extractLsb' 58 2 = 0 → res = .error (.trap 0x05 1 (BitVec.ofInt 64 q)))) ∧
    (o.sp = 2 ∨ o.sp = 3 →
      let ea := spaceEa f o l
      let w := 2 ^ o.w.toNat
      let res := s.laneTo r g f o m (f.bufRec o.s.toNat) l
      (ea % (max (min w 4) m.natural : Nat) ≠ 0 → res = .error (.trap 0x05 3 (BitVec.ofInt 64 ea))) ∧
      (ea % (max (min w 4) m.natural : Nat) = 0 → ea < 0 ∨ ((if o.sp = 2 then 2 ^ 25 else 2 ^ 28 : Nat) : Int) ≤ ea →
        res = .error (.trap 0x05 1 (BitVec.ofInt 64 ea))) ∧
      (ea % (max (min w 4) m.natural : Nat) = 0 → 0 ≤ ea → o.sp = 2 → ea < 2 ^ 25 →
        ∀ x y, look s.launches g.launch = some x → look x.tethers g.tether = some y →
        let rank := ea.toNat / 2 ^ 19
        let off := ea.toNat % 2 ^ 19
        let fits := fun core base room : Nat =>
          (room < off + w → res = .error (.trap 0x05 1 (BitVec.ofInt 64 ea))) ∧
          (off + w ≤ room → ∃ keys lat, res = .ok (.flat keys lat none) ∧ keys = (List.range w).map (fun j => spKey core (base + off + j)))
        (∀ u h, y.wgs[rank]? = some u → look s.wgs u = some h → fits h.core h.scratchBase h.scratchBytes) ∧
        ((∀ u, y.wgs[rank]? = some u → look s.wgs u = none) →
          (∀ core base room, y.pads[rank]? = some (core, (base, room)) → fits core base room) ∧
          (y.pads[rank]? = none → res = .error (.trap 0x05 1 (BitVec.ofInt 64 ea))))) ∧
      (ea % (max (min w 4) m.natural : Nat) = 0 → 0 ≤ ea → o.sp = 3 → ea < 2 ^ 28 →
        let die := ea.toNat / 2 ^ 26
        let off := ea.toNat % 2 ^ 26
        let mib := fun x : Nat => x / 2 ^ (8 * die) % 256 * 2 ^ 20
        let d := (s.part g.part).desc
        (mib d.cswin.toNat < off + w → res = .error (.trap 0x05 1 (BitVec.ofInt 64 ea))) ∧
        (off + w ≤ mib d.cswin.toNat → ∃ keys lat, res = .ok (.flat keys lat (some die)) ∧
          keys = (List.range w).map (fun j => csKey die (mib d.csoff.toNat + off + j)))))

/-- R206: the first check that fails stops the instruction: it traps with the cause and sub-code of that check and has no effect. A count
at its limit of 62 holds the instruction instead (R27). -/
def Sys2Proof.Claim.AccessChecks : Prop :=
  ∀ (o : MFmt) (s : State) (r : FlightRef) (f : Flight) (g : Wg), s.issuer = some (r, f) → s.wgOf r = some g → f.doneMask = 0 →
    (f.nLoads < 62 → ∀ c sub info, s.memCheck r g f o ⟨.load (o.f.getLsbD 1) (o.f.getLsbD 0), { r := true }, 1, false, false, false, true⟩
        (f.acting o.g) = .error (.trap c sub info) →
      exec (.ld o) s = .next (s.trap r { cause := c, sub, kind := 0, info, org := none })) ∧
    (f.nStores < 62 → ∀ c sub info, s.memCheck r g f o ⟨.store, { w := true }, 1, false, true, true, false⟩ (f.acting o.g) =
        .error (.trap c sub info) → exec (.st o) s = .next (s.trap r { cause := c, sub, kind := 0, info, org := none })) ∧
    (62 ≤ f.nLoads → exec (.ld o) s = .next (s.stall r .drain) ∧ exec (.atom o) s = .next (s.stall r .drain) ∧
      exec (.acas o) s = .next (s.stall r .drain) ∧ exec (.lda o) s = .next (s.stall r .drain)) ∧
    (62 ≤ f.nStores → exec (.st o) s = .next (s.stall r .drain) ∧ exec (.pstp o) s = .next (s.stall r .drain) ∧
      exec (.sta o) s = .next (s.stall r .drain))

/-- R27, R176, R198, R199 and R206: where a lane's access goes, and the checks that stop it. -/
def Obligations.LanePlaces : Prop := Sys2Proof.Claim.LaneAddresses ∧ Sys2Proof.Claim.AccessChecks

/-- R209–R213, R251, R253 and R254: the thread-path accesses go out. Loads and stores need R or W permission, atomics both; an atomic,
ACAS and PSTP need natural alignment and a TWCTL a multiple of 4; store data and operands are read from T at issue; a plain LDF, a TWCTL
query and the atomics count as loads; LDA holds its flight until it is answered. -/
def Sys2Proof.Claim.AccessesGoOut : Prop :=
  (∀ o : MFmt, GoesOut (.ld o) o (fun _ => ⟨.load (o.f.getLsbD 1) (o.f.getLsbD 0), { r := true }, 1, false, false, false, true⟩) true false
    (fun _ _ => [])) ∧
  (∀ o : MFmt, GoesOut (.st o) o (fun _ => ⟨.store, { w := true }, 1, false, true, true, false⟩) false false
    (fun f l => spanOf f l o.t.toNat (2 ^ o.w.toNat))) ∧
  (∀ o : MFmt, GoesOut (.atom o) o (fun _ => ⟨.atom (o.f.extractLsb' 0 3) (o.f.extractLsb' 3 2), { r := true, w := true },
    2 ^ o.w.toNat, false, true, true, true⟩) true false (fun f l => spanOf f l o.t.toNat (2 ^ o.w.toNat))) ∧
  (∀ o : MFmt, GoesOut (.acas o) o (fun _ => ⟨.acas, { r := true, w := true }, 2 ^ o.w.toNat, false, true, true, true⟩) true false
    (fun f l => spanOf f l o.t.toNat (2 * 2 ^ o.w.toNat))) ∧
  (∀ o : MFmt, GoesOut (.pstp o) o (fun _ => ⟨.pstp, { w := true }, 2 ^ o.w.toNat, false, true, true, false⟩) false false
    (fun f l => spanOf f l o.t.toNat (2 ^ o.w.toNat))) ∧
  (∀ o : MFmt, GoesOut (.twctlReset o) o (fun _ => ⟨.twReset, { r := true }, 4, true, true, false, false⟩) false false (fun _ _ => [])) ∧
  (∀ o : MFmt, GoesOut (.twctlQuery o) o (fun _ => ⟨.twQuery, { r := true }, 4, true, true, false, true⟩) true false (fun _ _ => [])) ∧
  (∀ (o : MFmt) (s : State) (r : FlightRef) (f : Flight) (g : Wg) (ps : List Piece) (outs : List Nat),
    s.issuer = some (r, f) → s.wgOf r = some g → f.doneMask = 0 → f.nLoads < 62 → (f.s64 o.s.toNat).getLsbD 56 = false →
    s.memCheck r g f o ⟨.ldf false (o.f.getLsbD 0), { r := true }, 1, false, false, false, true⟩ (f.acting o.g) = .ok (ps, outs) →
    ps ≠ [] → (∀ p ∈ ps, p.dev = none) →
    ∃ t f' a, exec (.ldf o) s = .next t ∧ t.mem = s.mem ∧ t.flight? r = some f' ∧ f'.accs = f.accs ++ [a] ∧
      a.kind = .ldf false (o.f.getLsbD 0) ∧ a.t = o.t.toNat ∧ a.pieces.map bare = ps.map bare ∧ a.granules = [] ∧
      f'.nLoads = f.nLoads + 1 ∧ f'.retired = f.retired + 1) ∧
  (∀ (o : MFmt) (s : State) (r : FlightRef) (f : Flight) (g : Wg) (ps : List Piece) (outs : List Nat),
    s.issuer = some (r, f) → s.wgOf r = some g → g.st = .running → f.doneMask = 0 → f.nLoads < 62 →
    s.memCheck r g f o ⟨.lda, { r := true }, 1, true, true, false, true⟩ (f.acting o.g) = .ok (ps, outs) → ps ≠ [] →
    (∀ p ∈ ps, p.dev = none ∧ ∀ k ∈ p.keys, s.staged r (k / 64 * 64) = none) → AllSent s r →
    ∃ t f' a, exec (.lda o) s = .next t ∧ t.mem = s.mem ∧ t.flight? r = some f' ∧ f'.accs = f.accs ++ [a] ∧ a.kind = .lda ∧
      a.t = o.t.toNat ∧ a.pieces.map bare = ps.map bare ∧ f'.nLoads = f.nLoads + 1 ∧ f'.retired = f.retired ∧ f'.wait = .remote a.id ∧
      a.early = (f.s64 o.s.toNat).getLsbD 57)

/-- R208–R213: one event of a thread-path access on the bytes of this device it names, when its turn has come. A load reads and changes no
byte; a store, that of an UNSEAL among them, writes its data; a PSTP writes its data at both positions; an ATOM reads the old value and
writes the operation's result, for each integer operation; an ACAS writes its new value when the old one equals its compare value, else
nothing; no other byte changes. A read issued under a directory lock that has been lifted since is served from the page's new frame (R237).
An access of a SPAN line while no plane is live fails: it changes no byte, and sets this device's own peer bit (R389). -/
def Obligations.AccessEffects : Prop :=
  ∀ (s : State) (r : FlightRef) (f : Flight) (a : Acc) (i : Nat) (p0 p : Piece),
    s.flight? r = some f → f.acc? a.id = some a → a.pieces[i]? = some p0 → p0.dev = none → p = s.movedKeys r p0 →
    s.canPlace r (a.mark [i] (fun _ => none) (s.movedKeys r)) p = true →
    let t := s.placePiece r a.id i
    (p0.locked = false → p = p0) ∧
    (∀ l, p0.locked = true → s.walk (s.partOf r) (s.transOf (s.partOf r) (s.ctxOf r)) (vaLocal p0.va) = .ok l →
      (l.lock = true → p = p0) ∧
      (l.lock = false → p.keys = (List.range p0.len).map (fun j => l.base + vaLocal p0.va % 4096 + j))) ∧
    (p.span = true → s.planes = 0 → t.mem = s.mem ∧ ∃ g, t.flight? r = some g ∧ g.peer.getLsbD s.image.devIdx.toNat = true ∧
      RegsKept f g ∧ PredsKept f g ∧ g.fsr = f.fsr) ∧
    (p.span = false ∨ s.planes ≠ 0 →
      let data := (look a.out p.lane).getD []
      let old := number (p.keys.map (readByte s.mem))
      let new := number (p.keys.map (readByte t.mem))
      let x := number (data.take p.len)
      (∀ sx sp, a.kind = .load sx sp → t.mem = s.mem) ∧
      (∀ cnt sp, a.kind = .ldf cnt sp → t.mem = s.mem) ∧
      (∀ ty cnt, a.kind = .sta ty cnt → t.mem = s.mem) ∧
      (a.kind = .store ∨ (∃ h, a.kind = .unseal h) ∨ a.kind = .pstp ∨ a.kind = .acas ∨ (∃ op ty, a.kind = .atom op ty) →
        ∀ k, k ∉ p.keys → readByte t.mem k = readByte s.mem k) ∧
      (a.kind = .store ∨ (∃ h, a.kind = .unseal h) → p.keys.Nodup → p.keys.length = p.len → p.first + p.len ≤ data.length →
        p.keys.map (readByte t.mem) = (data.drop p.first).take p.len) ∧
      (∀ ks ls, a.kind = .pstp → p.keys = ks ++ ls → ks.length = data.length → ls.length = data.length → ks.Nodup → ls.Nodup →
        (ks = ls ∨ ∀ k ∈ ks, k ∉ ls) → ks.map (readByte t.mem) = data ∧ ls.map (readByte t.mem) = data) ∧
      (∀ op ty, a.kind = .atom op ty → ty ≠ 2 → p.keys.Nodup → p.keys.length = p.len → p.len ≤ data.length → p.len = 4 ∨ p.len = 8 →
        new = (if op = 0 then (old + x) % 2 ^ (8 * p.len)
          else if op = 1 ∨ op = 2 then
            (let lt : Bool := if ty = 1 then decide ((BitVec.ofNat (8 * p.len) old).toInt < (BitVec.ofNat (8 * p.len) x).toInt) else decide (old < x)
             let eq := decide (old = x)
             if op = 1 then (if lt || eq then old else x) else (if lt || eq then x else old))
          else if op = 3 then old &&& x else if op = 4 then old ||| x else if op = 5 then old ^^^ x else x)) ∧
      (a.kind = .acas → p.keys.Nodup → p.keys.length = p.len → 2 * p.len ≤ data.length →
        new = if old = x then number ((data.drop p.len).take p.len) else old))

/-- R27, R208, R209, R211, R212: an access of one lane in one line. When it takes its place a load or atomic delivers what it read to the
lane's T, extended under LD's width below four bytes, and its count falls by one; a store's count falls by one. Outside deterministic mode
it may do so at any time once its turn has come; the flight's other registers stay. -/
def Sys2Proof.Claim.OneLineAccess : Prop :=
  ∀ (s : State) (r : FlightRef) (f : Flight) (a : Acc) (p : Piece) (lines : Dword),
    s.flight? r = some f → f.accs = [a] → a.pieces = [p] → p.dev = none → Near s p → s.canPlace r a p = true → AllSent s r → p.first = 0 → p.lane < 32 →
    p.keys.length = p.len → p.len = a.bytes → s.det r = false → s.accessible r = true → f.wait = .ready →
    lines.getLsbD (2 * p.lane) = true → a.got = [] → a.arrived = 0 → a.landed = [] → a.t + 4 ≤ 256 →
    (∀ sx sp, a.kind = .load sx sp → (a.bytes = 1 ∨ a.bytes = 2 ∨ a.bytes = 4 ∨ a.bytes = 8 ∨ a.bytes = 16) →
      ∃ t g, exec (.loadDataArrival r a.id lines) s = .next t ∧ t.flight? r = some g ∧ t.mem = s.mem ∧
        g.accs = [] ∧ g.nLoads = f.nLoads - 1 ∧ g.nStores = f.nStores ∧ g.fsr = f.fsr ∧ PredsKept f g ∧ (∀ q, g.s q = f.s q) ∧
        (∀ l q, q < 256 → l ≠ p.lane ∨ q < a.t ∨ a.t + (p.len + 3) / 4 ≤ q → g.v l q = f.v l q) ∧
        (a.bytes < 4 → g.v p.lane a.t = (let x := BitVec.ofNat (8 * p.len) (number (p.keys.map (readByte s.mem)))
          if sx then x.signExtend 32 else x.setWidth 32)) ∧
        (4 ≤ a.bytes → ∀ j, j < p.len / 4 → g.v p.lane (a.t + j) =
          BitVec.ofNat 32 (number (((p.keys.map (readByte s.mem)).drop (4 * j)).take 4)))) ∧
    (∀ op ty, (a.kind = .atom op ty ∨ a.kind = .acas) → (a.bytes = 4 ∨ a.bytes = 8) →
      ∃ t g, exec (.loadDataArrival r a.id lines) s = .next t ∧ t.flight? r = some g ∧ t.mem = (s.placePiece r a.id 0).mem ∧
        g.accs = [] ∧ g.nLoads = f.nLoads - 1 ∧ (ty ≠ 2 → a.kind = .atom op ty → g.fsr = f.fsr) ∧
        (∀ j, j < p.len / 4 → g.v p.lane (a.t + j) = BitVec.ofNat 32 (number (((p.keys.map (readByte s.mem)).drop (4 * j)).take 4))) ∧
        (∀ l q, q < 256 → l ≠ p.lane ∨ q < a.t ∨ a.t + p.len / 4 ≤ q → g.v l q = f.v l q)) ∧
    ((a.kind = .store ∨ a.kind = .pstp) →
      ∃ t g, exec (.storeEffect r a.id lines) s = .next t ∧ t.flight? r = some g ∧ t.mem = (s.placePiece r a.id 0).mem ∧
        g.accs = [] ∧ g.nStores = f.nStores - 1 ∧ g.nLoads = f.nLoads ∧ RegsKept f g ∧ PredsKept f g ∧ g.fsr = f.fsr)

/-- R29: before its data arrives, a load of one lane in one line may take its place while it stays outstanding; each register of its T then
holds what it held or the loaded value, register by register as a free value of the model says (log 5), and the count stays. -/
def Sys2Proof.Claim.EarlyLanding : Prop :=
  ∀ (s : State) (r : FlightRef) (f : Flight) (a : Acc) (p : Piece) (lines : Dword) (sx sp : Bool),
    s.flight? r = some f → f.accs = [a] → a.pieces = [p] → p.dev = none → Near s p → s.canPlace r a p = true → AllSent s r → p.first = 0 → p.lane < 32 →
    p.keys.length = p.len → p.len = a.bytes → (a.bytes = 4 ∨ a.bytes = 8 ∨ a.bytes = 16) →
    s.det r = false → s.accessible r = true → lines.getLsbD (2 * p.lane + 1) = true → lines.getLsbD (2 * p.lane) = false →
    a.got = [] → a.arrived = 0 → a.landed = [] → a.t + 4 ≤ 256 → a.kind = .load sx sp →
    ∃ t g b, exec (.loadDataArrival r a.id lines) s = .next t ∧ t.flight? r = some g ∧ t.mem = s.mem ∧ g.accs = [b] ∧ b.id = a.id ∧
      b.arrived = 0 ∧ g.nLoads = f.nLoads ∧ g.nStores = f.nStores ∧ g.fsr = f.fsr ∧ g.wait = f.wait ∧ PredsKept f g ∧ (∀ q, g.s q = f.s q) ∧
      (∀ l q, q < 256 → l ≠ p.lane ∨ q < a.t ∨ a.t + p.len / 4 ≤ q → g.v l q = f.v l q) ∧
      ∀ j, j < p.len / 4 → g.v p.lane (a.t + j) = f.v p.lane (a.t + j) ∨
        (g.v p.lane (a.t + j) = BitVec.ofNat 32 (number (((p.keys.map (readByte s.mem)).drop (4 * j)).take 4)) ∧
          p.lane * 256 + (a.t + j) ∈ b.landed)

/-- R208, R226 and R227: when a line of an access takes its place. It does not while an older access of its thread, in any flight of the
workgroup, is outstanding (A1), while a lower line of its lane is, or while a lower lane's store or atomic that shares a byte with it is. What an
access that is told to take its places does to memory, where no home is down and no sector lost, is what its lines do one after another, in
ascending order of lanes. -/
def Sys2Proof.Claim.LaneOrder : Prop :=
  (∀ (s : State) (r : FlightRef) (f : Flight) (a : Acc) (i : Nat) (p : Piece),
    s.flight? r = some f → f.acc? a.id = some a → a.pieces[i]? = some p → p.dev = none → p.locked = false →
    (∀ q h b x, (q = r ∨ ∃ w k j, r = .wg w k ∧ q = .wg w j) → s.flight? q = some h → b ∈ h.accs → b.id < a.id → x ∈ b.pieces → x.done = false →
      x.tid = p.tid → s.placePiece r a.id i = s) ∧
    (∀ q ∈ a.pieces, q.done = false → q.lane = p.lane → q.first < p.first → s.placePiece r a.id i = s) ∧
    ((a.kind = .store ∨ a.kind = .pstp ∨ a.kind = .acas ∨ ∃ op ty, a.kind = .atom op ty) →
      ∀ q ∈ a.pieces, q.done = false → q.lane < p.lane → (∃ k ∈ p.keys, k ∈ q.keys) → s.placePiece r a.id i = s)) ∧
  ∀ (s : State) (r : FlightRef) (f : Flight) (a : Acc),
    s.flight? r = some f → f.acc? a.id = some a → f.wait = .ready → a.kind ≠ .lda → s.det r = false → s.accessible r = true → AllSent s r →
    (∀ p ∈ a.pieces, p.lane < 32 ∧ p.first < 256) →
    (∀ p ∈ a.pieces, p.dev = none → p.locked = false ∧ s.hasLost p.keys = false ∧ s.poisoned p.keys = false ∧ ∀ k ∈ p.keys, s.keyUp k = true) → a.pieces.Pairwise (fun p q => p.lane < q.lane ∨ p.lane = q.lane ∧ p.first < q.first) →
    ∀ i, (i = if a.kind.isLoad then Instr.loadDataArrival r a.id 0xFFFFFFFFFFFFFFFF else Instr.storeEffect r a.id 0xFFFFFFFFFFFFFFFF) →
      ∃ t, exec i s = .next t ∧ t.mem = ((List.range a.pieces.length).foldl (fun s k => s.placePiece r a.id k) s).mem

/-- R27, R29, R208, R209, R211 and R212: accesses as they take their places. That an access is performed by one of two events is the model's
(log 5). -/
def Obligations.AccessesComplete : Prop := Sys2Proof.Claim.OneLineAccess ∧ Sys2Proof.Claim.EarlyLanding ∧ Sys2Proof.Claim.LaneOrder

/-- R214 and R215: a hint completes without an effect on any register, count, or byte of memory; each lane whose access would trap, leave
its bounds or leave the device counts in HINTDROP, and so does one to a locked page, which R215 drops and R196 would serve (log 33). -/
def Sys2Proof.Claim.Hints : Prop :=
  ∀ (o : MFmt) (i : Instr), i = .pref o ∨ i = .resid o → ∀ s r f g, s.issuer = some (r, f) → s.wgOf r = some g →
    ∃ n, exec i s = .next ((s.modPart (s.partOf r) (fun p => { p with hintDrop := p.hintDrop + n })).retire r f) ∧
      n = ((f.acting o.g).filter (fun l => match s.memCheck r g f o ⟨.load false false, { r := true }, 1, false, true, false, true⟩ [l] with
        | .ok (ps, outs) => !outs.isEmpty || ps.any (fun p => p.dev.isSome)
        | .error _ => true)).length

/-- R209–R215, R251, R253 and R254: accesses and hints as they issue. -/
def Obligations.AccessesIssue : Prop := Sys2Proof.Claim.AccessesGoOut ∧ Sys2Proof.Claim.Hints

/-! ### Twins -/

/-- R241 and R243: the commit of one staging entry. A poisoned granule stays as it is; an entry marked poison, a count on a complete
adjoint, and a count that falls below 0 or above 65,535 poison it and leave its bytes; otherwise COUNT + I − D is the new count, the granule
is OPEN while that is positive and FULL at 0, and each staged element is added to the twin element at its place, rounded to nearest even in
the entry's format; no other byte but the count record's changes. -/
def Sys2Proof.Claim.TwinCommits : Prop :=
  ∀ (s : State) (k : Nat) (e : StageEntry),
    let st := (s.granule k).1
    let c : Int := ((s.granule k).2 : Int) + e.i - e.d
    let t := s.commit k e
    let bad := e.poison = true ∨ (st = 2 ∧ (e.i ≠ 0 ∨ e.d ≠ 0)) ∨ c < 0 ∨ 65535 < c
    (st = 3 → t = s) ∧
    (st ≠ 3 → bad → t.granule k = (3, (s.granule k).2) ∧ ∀ j, j < s.countAt k ∨ s.countAt k + 4 ≤ j → readByte t.mem j = readByte s.mem j) ∧
    (st ≠ 3 → ¬ bad → t.granule k = ((if 0 < c then 1 else 2), c.toNat)) ∧
    (st ≠ 3 → ¬ bad → (s.countAt k + 4 ≤ k ∨ k + 64 ≤ s.countAt k) → (e.sum.map (·.1)).Nodup →
      let n := e.fmt.getD 0
      let sz := if n = 0 then 4 else 2
      let fm : Fmt := if n = 0 then .fp32 else if n = 1 then .bf16 else .fp16
      (∀ p ∈ e.sum, (p.1 + 1) * sz ≤ 64) →
      (∀ p ∈ e.sum, t.getNat (k + p.1 * sz) sz =
        (fused fm 0 0 [] [fm.decode (s.getNat (k + p.1 * sz) sz), fm.decode p.2]).1 % 2 ^ (8 * sz)) ∧
      (∀ j, (j < s.countAt k ∨ s.countAt k + 4 ≤ j) → (∀ p ∈ e.sum, j < k + p.1 * sz ∨ k + (p.1 + 1) * sz ≤ j) →
        readByte t.mem j = readByte s.mem j))

/-- R244, R245 and R403: the entries of a tether of the running context whose workgroups have ended commit one by one; the entry leaves the
staging with its commit, the tether can no longer run anew (log 33), and it ends with its last entry, in deterministic mode once the commits of the
tick are done. There an entry commits no earlier than its home's latency class after the tether's last flight ended; while the home's die is down,
the tether is being killed or its context does not run, it waits. -/
def Sys2Proof.Claim.TwinCommitEvents : Prop :=
  ∀ (s : State) (l t idx τ : Nat) (x : Launch) (y : Tether),
    look s.launches l = some x → look x.tethers t = some y → y.ended = some τ →
    (y.dying.isSome = true ∨ (s.part x.part).cur ≠ some x.ctx → exec (.twinCommit l t idx) s = .next s) ∧
    (y.dying = none → (s.part x.part).cur = some x.ctx →
      (y.stage = [] → exec (.twinCommit l t idx) s = .next (s.endTether l t)) ∧
      (∀ k e, y.stage[idx]? = some (k, e) →
        let own := dieOfCore (y.cores.headD 0)
        let due := τ + (if own = paDie k then 128 else 256)
        let gone := (s.commit k e).modTether l t (fun y => { y with stage := del y.stage k, norelaunch := true })
        (s.dieUp (paDie k) = true → (s.isDet x = true → due ≤ (s.part x.part).tick) →
          (s.isDet x = true ∨ del y.stage k ≠ [] → exec (.twinCommit l t idx) s = .next gone) ∧
          (s.isDet x = false → del y.stage k = [] → exec (.twinCommit l t idx) s = .next (gone.endTether l t))) ∧
        (s.dieUp (paDie k) = false → exec (.twinCommit l t idx) s = .next s) ∧
        (s.isDet x = true → (s.part x.part).tick < due → exec (.twinCommit l t idx) s = .next s)))

/-- R241, R243 and R244: staging entries commit. An event whose condition does not hold leaves the state as it is (log 12). -/
def Obligations.TwinStagingCommits : Prop := Sys2Proof.Claim.TwinCommits ∧ Sys2Proof.Claim.TwinCommitEvents

/-- R242, R252 and R255: an STA of this device goes out as a store of its kind, with the bytes of its lanes, and stages nothing yet. When a lane's
element of one granule takes its place, with no event, the tether's entry for the granule has one decrement more where the record counts,
poisoned past 65,535, and the element, absent before, is the value written; a second format poisons. Memory and registers stay. -/
def Sys2Proof.Claim.TwinStores : Prop :=
  (∀ (o : MFmt) (s : State) (r : FlightRef) (f : Flight) (g : Wg) (ps : List Piece) (outs : List Nat),
    s.issuer = some (r, f) → s.wgOf r = some g → f.stopped = false → f.doneMask = 0 → f.nStores < 62 →
    let ty := o.f.toNat % 4
    let cnt := (f.s64 o.s.toNat).getLsbD 56
    s.memCheck r g f o ⟨.sta ty cnt, { r := true, w := true }, if ty = 0 then 4 else 2, true, true, true, false⟩ (f.acting o.g) = .ok (ps, outs) →
    ps ≠ [] → (∀ p ∈ ps, p.dev = none) → s.stageRoom r (ps.flatMap (fun p => granulesOf p.keys)) = true →
    ∃ t f' a, exec (.sta o) s = .next t ∧ t.mem = s.mem ∧ t.flight? r = some f' ∧ f'.retired = f.retired + 1 ∧ f'.nStores = f.nStores + 1 ∧
      f'.accs = f.accs ++ [a] ∧ a.kind = .sta ty cnt ∧ a.pieces.map bare = ps.map bare ∧
      (∀ l ∈ f.acting o.g, look a.out l = some (spanOf f l o.t.toNat (2 ^ o.w.toNat))) ∧
      RegsKept f f' ∧ PredsKept f f' ∧ f'.fsr = f.fsr ∧ ∀ j, t.staged r j = s.staged r j) ∧
  (∀ (s : State) (r : FlightRef) (f : Flight) (a : Acc) (p : Piece) (lines : Dword) (ty L T k : Nat) (cnt : Bool) (y : Tether),
    s.flight? r = some f → f.accs = [a] → a.pieces = [p] → p.dev = none → Near s p → s.canPlace r a p = true → AllSent s r → p.first = 0 → p.lane < 32 →
    s.det r = false → s.accessible r = true → f.wait = .ready → lines.getLsbD (2 * p.lane) = true → a.arrived = 0 →
    a.kind = .sta ty cnt → s.tetherOf r = some (L, T, y) → y.dying = none →
    let sz := if ty = 0 then 4 else 2
    p.len = sz → p.keys.length = sz → p.keys.headD 0 = k → (∀ j ∈ p.keys, j / 64 = k / 64) →
    ∃ t f', exec (.storeEffect r a.id lines) s = .next t ∧ t.mem = s.mem ∧ t.flight? r = some f' ∧ f'.nStores = f.nStores - 1 ∧
      f'.accs = [] ∧ RegsKept f f' ∧ PredsKept f f' ∧ f'.fsr = f.fsr ∧
      (∀ j, j ≠ k / 64 * 64 → t.staged r j = s.staged r j) ∧
      ∃ e', t.staged r (k / 64 * 64) = some e' ∧
        (let e := (s.staged r (k / 64 * 64)).getD { i := 0, d := 0, fmt := none, sum := [], poison := false }
         let excess := cnt = true ∧ e.d = 65535
         e'.i = e.i ∧ e'.d = (if cnt = true ∧ e.d ≠ 65535 then e.d + 1 else e.d) ∧
         (e.fmt = none ∨ e.fmt = some ty → e'.fmt = some ty ∧ (e'.poison = true ↔ e.poison = true ∨ excess) ∧
           (look e.sum (k % 64 / sz) = none →
             look e'.sum (k % 64 / sz) = some (number (((look a.out p.lane).getD []).take sz))) ∧
           ∀ j, j ≠ k % 64 / sz → look e'.sum j = look e.sum j) ∧
         (e.fmt ≠ none → e.fmt ≠ some ty → e'.poison = true ∧ e'.sum = e.sum)))

/-- R242 and R251: a counting LDF of one lane goes out with the twin granules its bytes touch, and when its data arrives it adds one
increment to its tether's entry for each; it changes no byte of memory. -/
def Sys2Proof.Claim.TwinLoads : Prop :=
  (∀ (o : MFmt) (s : State) (r : FlightRef) (f : Flight) (g : Wg) (l L T : Nat) (y : Tether) (ps : List Piece) (outs gs : List Nat),
    s.issuer = some (r, f) → s.wgOf r = some g → f.doneMask = 0 → f.nLoads < 62 → f.acting o.g = [l] → l < 32 →
    (f.s64 o.s.toNat).getLsbD 56 = true → f.accs = [] →
    s.memCheck r g f o ⟨.ldf true (o.f.getLsbD 0), { r := true }, 1, false, true, false, true⟩ [l] = .ok (ps, outs) →
    ps ≠ [] → (∀ p ∈ ps, p.dev = none ∧ p.lane = l) → s.twinGranules r ps l = gs → gs ≠ [] → s.stageRoom r (granulesOf gs) = true →
    s.tetherOf r = some (L, T, y) → (∀ u ∈ y.wgs, ∀ h, look s.wgs u = some h → ∀ x ∈ h.flights, ∀ b ∈ x.accs, ∀ sp, b.kind ≠ .ldf true sp) →
    (∀ q ∈ gs, ∀ e, s.staged r q = some e → e.i < 65535) →
    ∃ t f' a, exec (.ldf o) s = .next t ∧ t.mem = s.mem ∧ t.flight? r = some f' ∧ f'.accs = [a] ∧
      a.kind = .ldf true (o.f.getLsbD 0) ∧ a.t = o.t.toNat ∧ a.pieces.map bare = ps.map bare ∧ a.granules = [(l, gs)] ∧
      f'.nLoads = f.nLoads + 1 ∧ f'.retired = f.retired + 1) ∧
  (∀ (s : State) (r : FlightRef) (f : Flight) (a : Acc) (p : Piece) (lines : Dword) (q L T : Nat) (y : Tether) (sp : Bool),
    s.flight? r = some f → f.accs = [a] → a.pieces = [p] → p.dev = none → Near s p → s.canPlace r a p = true → AllSent s r → p.first = 0 → p.lane < 32 →
    s.det r = false → s.accessible r = true → f.wait = .ready → lines.getLsbD (2 * p.lane) = true →
    a.arrived = 0 → a.kind = .ldf true sp → a.granules = [(p.lane, [q])] → s.tetherOf r = some (L, T, y) → y.dying = none →
    ∃ t g, exec (.loadDataArrival r a.id lines) s = .next t ∧ t.mem = s.mem ∧ t.flight? r = some g ∧ g.accs = [] ∧ g.nLoads = f.nLoads - 1 ∧
      (∀ j, j ≠ q → t.staged r j = s.staged r j) ∧
      ∃ e', t.staged r q = some e' ∧
        (let e := (s.staged r q).getD { i := 0, d := 0, fmt := none, sum := [], poison := false }
         e' = { e with i := e.i + 1 }))

/-- R242, R251 and R252: stores and counting loads stage. -/
def Obligations.TwinStaging : Prop := Sys2Proof.Claim.TwinStores ∧ Sys2Proof.Claim.TwinLoads

/-- R241, R253 and R254, for an access of one lane in one twin line and one granule of this device: LDA of a FULL granule returns its bytes
and leaves it EMPTY with its 64 bytes zero; of an EMPTY one zeros; of an OPEN one it parks until the granule has left OPEN, or traps
TWIN_EARLY where the record says so; of a POISONED one it traps, and it traps TWIN_SELF where its tether holds a contribution to the granule
(R232, R250). A query returns state and count, bit 18 for a staged entry, and changes nothing; a reset leaves any granule EMPTY with count 0
and its bytes zero. The event that performs the access is the model's (log 5). -/
def Obligations.TwinReads : Prop :=
  ∀ (s : State) (r : FlightRef) (f : Flight) (a : Acc) (p : Piece) (k : Nat) (lines : Dword),
    s.flight? r = some f → f.accs = [a] → a.pieces = [p] → p.dev = none → Near s p → s.canPlace r a p = true → AllSent s r → p.first = 0 → p.lane < 32 →
    (∀ j ∈ p.keys, j / 64 * 64 = k) → p.keys ≠ [] → p.keys.length = p.len → p.len = a.bytes → s.det r = false →
    s.accessible r = true → s.halting r = false → f.stopped = false → f.doneMask = 0 → f.ldaData = [] →
    lines.getLsbD (2 * p.lane) = true → a.got = [] → a.arrived = 0 → a.landed = [] → a.lanes.getLsbD p.lane = true → a.t + 4 ≤ 256 →
    (s.countAt k + 4 ≤ k ∨ k + 64 ≤ s.countAt k) →
    (a.kind = .lda → f.wait = .remote a.id → a.bytes = 4 → (∃ e, s.staged r k = some e ∧ (e.d ≠ 0 ∨ e.sum ≠ [])) → ∀ w fl, r = .wg w fl →
      ∃ t g, exec (.loadDataArrival r a.id lines) s = .next t ∧ t.flight? r = some g ∧ t.mem = s.mem ∧ g.stopped = true ∧
        g.cause = 0x10 ∧ g.kind = 0 ∧ g.info = p.va ∧ RegsKept f g) ∧
    (a.kind = .lda → f.wait = .remote a.id → a.bytes = 4 → (∀ e, s.staged r k = some e → e.d = 0 ∧ e.sum = []) →
      ((s.granule k).1 = 2 → ∃ t g, exec (.loadDataArrival r a.id lines) s = .next t ∧ t.flight? r = some g ∧ t.granule k = (0, 0) ∧
        (∀ j, j < 64 → readByte t.mem (k + j) = 0) ∧
        (∀ j, (j < k ∨ k + 64 ≤ j) → (j < s.countAt k ∨ s.countAt k + 4 ≤ j) → readByte t.mem j = readByte s.mem j) ∧
        g.v p.lane a.t = BitVec.ofNat 32 (number (p.keys.map (readByte s.mem))) ∧ g.accs = [] ∧ g.wait = .ready ∧
        g.retired = f.retired + 1 ∧ g.nLoads = f.nLoads - 1) ∧
      ((s.granule k).1 = 0 → ∃ t g, exec (.loadDataArrival r a.id lines) s = .next t ∧ t.flight? r = some g ∧ t.mem = s.mem ∧
        g.v p.lane a.t = 0 ∧ g.accs = [] ∧ g.wait = .ready ∧ g.retired = f.retired + 1) ∧
      ((s.granule k).1 = 1 → a.early = false → ∃ t g, exec (.loadDataArrival r a.id lines) s = .next t ∧ t.flight? r = some g ∧
        t.mem = s.mem ∧ g.wait = .twin [k] ∧ g.retired = f.retired ∧ RegsKept f g ∧ g.accs = []) ∧
      ((s.granule k).1 = 1 ∨ (s.granule k).1 = 3 → (s.granule k).1 = 3 ∨ a.early = true → ∀ w fl, r = .wg w fl →
        ∃ t g, exec (.loadDataArrival r a.id lines) s = .next t ∧ t.flight? r = some g ∧ t.mem = s.mem ∧ g.stopped = true ∧
          g.cause = (if (s.granule k).1 = 3 then 0x0F else 0x0D) ∧ g.kind = 0 ∧ g.info = p.va ∧ RegsKept f g)) ∧
    (a.kind = .twQuery → f.wait = .ready → a.bytes = 4 →
      ∃ t g, exec (.loadDataArrival r a.id lines) s = .next t ∧ t.flight? r = some g ∧ t.mem = s.mem ∧ g.accs = [] ∧
        g.v p.lane a.t = BitVec.ofNat 32 ((if (s.staged r k).isSome then 2 ^ 18 else 0) + (s.granule k).1 * 2 ^ 16 + (s.granule k).2)) ∧
    (a.kind = .twReset → f.wait = .ready →
      ∃ t g, exec (.storeEffect r a.id lines) s = .next t ∧ t.flight? r = some g ∧ t.granule k = (0, 0) ∧ g.accs = [] ∧ RegsKept f g ∧
        (∀ j, j < 64 → readByte t.mem (k + j) = 0) ∧
        (∀ j, (j < k ∨ k + 64 ≤ j) → (j < s.countAt k ∨ s.countAt k + 4 ≤ j) → readByte t.mem j = readByte s.mem j))

/-- R196, R253, R381 and R395: a parked flight is ready to issue its instruction again when what it waits for has come about: a granule of
an LDA's refused lines on this device has left OPEN; a wake-up message, or 10 µs without one, for a granule of another device; a locked
page's next look; 100 µs for a die of another device. An LDA that has waited TWINLIMIT µs over all its parks, in a workgroup that neither
stands halted nor is switched out, traps TWIN_WAIT_TIMEOUT. An event whose condition does not hold leaves the state as it is (log 12). -/
def Obligations.WakeUps : Prop :=
  ∀ (s : State) (r : FlightRef) (f : Flight), s.flight? r = some f →
    let awake := s.setFlight r { f with wait := .ready }
    (∀ ks k, f.wait = .twin ks → k ∈ ks → k < 2 ^ 60 → (s.granule k).1 ≠ 1 → exec (.ldaWake r) s = .next awake) ∧
    (∀ ks, f.wait = .twin ks → (∀ k ∈ ks, 2 ^ 60 ≤ k ∨ (s.granule k).1 = 1) → exec (.ldaWake r) s = .next s) ∧
    (∀ ks k, f.wait = .twin ks → k ∈ ks → 2 ^ 60 ≤ k → exec (.twinWakeup r) s = .next awake ∧
      (f.parkAt + 10000 ≤ s.clk.toNat → exec (.remoteLdaPoll r) s = .next awake)) ∧
    (f.wait = .dirLock → exec (.dirlockRetry r) s = .next awake) ∧
    (∀ d, f.wait = .homeDown d → 4 ≤ d → f.parkAt + 100000 ≤ s.clk.toNat → exec (.homeDownRetry r) s = .next awake) ∧
    (∀ ks t x, f.wait = .twin ks → f.twinPark = some t → s.launchOf r = some x → f.stopped = false → s.accessible r = true →
      let limit := fieldAt x.record 0x8C 4
      let unit := if s.det r then 3600 else 1000
      (limit ≠ 0 → t + limit * unit ≤ s.now r →
        exec (.twinWaitTimeout r) s = .next (s.trap r { cause := 0x0E, sub := 0, kind := 0, info := 0, org := none })) ∧
      (limit = 0 ∨ s.now r < t + limit * unit → exec (.twinWaitTimeout r) s = .next s))

/-! ### Waits, fences, barriers, sections, GETS, traps, timers, tokens -/

namespace Sys2Proof.Claim

/-- An instruction with a flight-wide effect (R34): where no active thread's guard holds, it only retires; else `P` says what it does. -/
def Once (i : Instr) (gd : BitVec 4) (P : State → FlightRef → Flight → Prop) : Prop :=
  ∀ s r f, s.issuer = some (r, f) →
    (f.acting gd = [] → exec i s = .next (s.retire r f)) ∧ (f.acting gd ≠ [] → P s r f)

/-- An instruction's event takes its place: outside deterministic mode once every earlier access of its lowest acting thread has (R225, R227); in
it at its effect tick, for which it has been held (R173). -/
def Placed (s : State) (r : FlightRef) (f : Flight) (gd : BitVec 4) : Prop :=
  (s.det r = false → s.threadClear r (f.lowTid gd) s.uid = true) ∧ (s.det r = true → f.opDue ≠ none)

/-- An instruction that takes its place as an event of its lowest acting thread, where `H` holds: it waits for the thread's earlier accesses; in
deterministic mode it is held until its effect tick, by a latency class above 0, or, where it `asks` other devices, for their answer; `P` says
what it does in its place. -/
def PathOp (i : Instr) (gd : BitVec 4) (asks : Bool) (H : State → FlightRef → Prop) (cls : State → FlightRef → Flight → Nat)
    (P : State → FlightRef → Flight → Prop) : Prop :=
  ∀ s r f, s.issuer = some (r, f) → H s r →
    (f.acting gd = [] → exec i s = .next (s.retire r f)) ∧
    (f.acting gd ≠ [] → s.det r = false → s.threadClear r (f.lowTid gd) s.uid = false → exec i s = .next (s.stall r .drain)) ∧
    (f.acting gd ≠ [] → s.det r = true → f.opDue = none → 0 < cls s r f → ∃ t f', exec i s = .next t ∧ t.mem = s.mem ∧
      t.flight? r = some f' ∧ (f'.wait = .op ∨ (asks = true ∧ f'.wait = .far)) ∧ f'.opDue = some (max ((s.part (s.partOf r)).tick + cls s r f) f.lastE) ∧
      f'.retired = f.retired ∧ RegsKept f f' ∧ PredsKept f f' ∧ f'.fsr = f.fsr) ∧
    (f.acting gd ≠ [] → Placed s r f gd → P s r f)

end Sys2Proof.Claim

/-- R221, R222 and R223: WAIT holds its flight until its counts pass the test in every lane of the sub-group, then completes; FENCEX holds
it until the operations of every early class have taken effect, the store of an UNSEAL among them, which no count holds (R229; log 33), unless
the early or the late set is empty; copies and tile operations of its late set that follow have their snapshots after the writes before it
(R228). FENCEP holds it until no
operation on another device is outstanding, then gives the peer mask in eight uniform registers and clears it. -/
def Sys2Proof.Claim.Waits : Prop :=
  (∀ o : IFmt, Once (.wait o) o.g (fun s r f =>
    let ld := (o.imm.extractLsb' 14 6).toNat
    let st := (o.imm.extractLsb' 8 6).toNat
    let cp := (o.imm.extractLsb' 4 4).toNat
    let tl := (o.imm.extractLsb' 0 4).toNat
    let pass := (st = 63 ∨ f.nStores ≤ st) ∧ (cp = 15 ∨ f.nCopies ≤ cp) ∧ (tl = 15 ∨ f.nTiles ≤ tl) ∧
      ∀ l, l < 32 → f.sg.getLsbD l = true → ld = 63 ∨ f.loadsL l ≤ ld
    (f.sg ≠ 0 → pass → exec (.wait o) s = .next (s.retire r f)) ∧
    (f.sg ≠ 0 → ¬ pass → exec (.wait o) s = .next (s.stall r .counts)))) ∧
  (∀ o : IFmt, Once (.fencex o) o.g (fun s r f =>
    let held := o.imm.extractLsb' 0 4 ≠ 0 ∧ o.imm.extractLsb' 4 4 ≠ 0 ∧
      ((o.imm.getLsbD 0 = true ∧ (f.nLoads ≠ 0 ∨ f.nStores ≠ 0 ∨ ∃ a ∈ f.accs, ∃ n, a.kind = .unseal n)) ∨ (o.imm.getLsbD 1 = true ∧ f.nCopies ≠ 0) ∨
        (o.imm.getLsbD 2 = true ∧ f.nTiles ≠ 0) ∨ (o.imm.getLsbD 3 = true ∧ f.nEst ≠ 0))
    let order := fun (b : Nat) (m : List (List Host.Cell)) => if o.imm.extractLsb' 0 4 ≠ 0 ∧ o.imm.getLsbD b = true then [] else m
    (¬ held → exec (.fencex o) s = .next (s.retire r { f with pastC := order 5 f.pastC, pastM := order 6 f.pastM })) ∧ (held → exec (.fencex o) s = .next (s.stall r .drain)))) ∧
  (∀ o : IFmt, Once (.fencep o) o.g (fun s r f =>
    (s.remoteOut r f = true → exec (.fencep o) s = .next (s.stall r .drain)) ∧
    (s.remoteOut r f = false → ∃ g, exec (.fencep o) s = .next (s.retire r g) ∧ g = { f with sregs := g.sregs, peer := 0 } ∧
      (∀ k, k < 8 → g.s (o.d.toNat + k) = f.peer.extractLsb' (32 * k) 32) ∧
      ∀ q, q < o.d.toNat ∨ o.d.toNat + 8 ≤ q → g.s q = f.s q)))

/-- R164 and R224: NPBEGIN opens a section where its launch has a budget and none is open, with the budget clock at 0; NPEND closes it and
charges the time beyond the budget to the partition's DEBT; a switch that the section had put off is looked at next (R342); both change nothing
else. YIELD marks its flight, which gives its slot to the
longest-ready pending flight, in deterministic mode to the oldest one that is ready, when its clause completes: which pending flight R164 leaves
open (log 33). -/
def Sys2Proof.Claim.Sections : Prop :=
  (∀ o : VFmt, Once (.npbegin o) o.g (fun s r f =>
    (f.npOpen = true ∨ s.npBudget r = 0 → exec (.npbegin o) s = .next (s.retire r f)) ∧
    (f.npOpen = false → s.npBudget r ≠ 0 → exec (.npbegin o) s = .next (s.retire r { f with npOpen := true, npClk := 0 })))) ∧
  (∀ o : VFmt, Once (.npend o) o.g (fun s r f =>
    (f.npOpen = false → exec (.npend o) s = .next (s.retire r f)) ∧
    (f.npOpen = true → ((s.part (s.partOf r)).switch.map (·.deferred)).getD false = false →
      exec (.npend o) s = .next ((s.modPart (s.partOf r) (fun p =>
        { p with debt := p.debt + BitVec.ofNat 32 (f.npClk.toNat - s.npBudget r) })).retire r { f with npOpen := false })) ∧
    (f.npOpen = true → ((s.part (s.partOf r)).switch.map (·.deferred)).getD false = true →
      let t := s.modPart (s.partOf r) (fun p => { p with debt := p.debt + BitVec.ofNat 32 (f.npClk.toNat - s.npBudget r) })
      exec (.npend o) s = .next ({ t with agenda := .event (.sliceExpiry (s.partOf r)) :: t.agenda }.retire r { f with npOpen := false })))) ∧
  (∀ o : VFmt, Once (.yield o) o.g (fun s r f => exec (.yield o) s = .next (s.retire r { f with yielded := true }))) ∧
  (∀ (s : State) (w fl k : Nat) (f : Flight) (c : Clause) (q : FlightRef), s.flight? (.wg w fl) = some f → f.clause = some c →
    c.words.length ≤ f.ix → f.stopped = false → f.owes = false → f.yielded = true → s.live (.wg w fl) f = true → f.slot = some k →
    let s1 := { s.setFlight (.wg w fl) f.completeClause with cur := if s.cur = some (FlightRef.wg w fl) then none else s.cur }
    s1.relief (s1.coreOf (.wg w fl)) f.disp = some q → q ≠ .wg w fl → (s.flight? q).isSome = true →
    ∃ t g h, exec (.clauseComplete (.wg w fl)) s = .next t ∧ t.flight? (.wg w fl) = some g ∧ t.flight? q = some h ∧
      g.slot = none ∧ h.slot = some k ∧ t.mem = s.mem)

/-- R164 and R221–R224: waits, fences and non-pre-emptible sections. That FENCEX waits for the store of an UNSEAL follows from R229, and
that no count of R222 holds that store is log 33. -/
def Obligations.WaitsAndSections : Prop := Sys2Proof.Claim.Waits ∧ Sys2Proof.Claim.Sections

/-- R163: the last flight of a workgroup to arrive at a BAR, or of a tether at a BART, releases every arrived flight, which is ready at its
next instruction; a flight that has ended counts as arrived. Before, an arriving flight waits at the barrier. A flight with accesses
outstanding does not arrive until they have taken their places, the store of an UNSEAL among them (R225, R230). That they wait for the store
of an UNSEAL follows from R225 and R230, and that no count of R27 holds it is log 33. -/
def Obligations.Barriers : Prop :=
  (∀ (o : VFmt) (s : State) (w fl : Nat) (g : Wg) (f : Flight), s.cur = some (.wg w fl) → look s.wgs w = some g → g.flights[fl]? = some f →
    f.acting o.g ≠ [] → f.wait = .ready →
    (f.nLoads ≠ 0 ∨ f.nStores ≠ 0 ∨ (∃ a ∈ f.accs, ∃ n, a.kind = .unseal n) → exec (.bar o) s = .next (s.stall (.wg w fl) .drain) ∧
      exec (.bart o) s = .next (s.stall (.wg w fl) .drain))) ∧
  (∀ (o : VFmt) (s : State) (w fl : Nat) (g : Wg) (f : Flight), s.cur = some (.wg w fl) → look s.wgs w = some g → g.flights[fl]? = some f →
    f.acting o.g ≠ [] → f.wait = .ready → f.accessesDone = true → g.st = .running → fl < 32 → f.ended = false →
    (∀ h ∈ g.flights, h.stopped = false) →
    (∀ L T y, s.tetherOf (.wg w fl) = some (L, T, y) → ∀ u ∈ y.wgs, ∀ h, look s.wgs u = some h → h.bartArr = 0) →
    ∃ t g', exec (.bar o) s = .next t ∧ t.mem = s.mem ∧ look t.wgs w = some g' ∧ g'.flights.length = g.flights.length ∧
      ((∀ k h, g.flights[k]? = some h → k ≠ fl → g.barArr.getLsbD k = true ∨ h.ended = true) →
        g'.barArr = 0 ∧ g'.barK = g.barK + 1 ∧
        ∀ k h, g.flights[k]? = some h → ∃ h', g'.flights[k]? = some h' ∧ RegsKept h h' ∧ PredsKept h h' ∧ h'.fsr = h.fsr ∧
          (k = fl ∨ g.barArr.getLsbD k = true → h'.wait = .ready ∧ h'.ix = h.ix + 1 ∧ h'.retired = h.retired + 1)) ∧
      (∀ k h, g.flights[k]? = some h → k ≠ fl → g.barArr.getLsbD k = false → h.ended = false →
        g'.barArr.getLsbD fl = true ∧ g'.barK = g.barK ∧
        ∃ f', g'.flights[fl]? = some f' ∧ f'.wait = .bar ∧ f'.ix = f.ix ∧ f'.retired = f.retired ∧ RegsKept f f')) ∧
  (∀ (o : VFmt) (s : State) (w fl L T : Nat) (g : Wg) (f : Flight) (y : Tether), s.cur = some (.wg w fl) → look s.wgs w = some g →
    g.flights[fl]? = some f → f.acting o.g ≠ [] → f.wait = .ready → f.accessesDone = true → g.st = .running → fl < 32 →
    (∀ h ∈ g.flights, h.stopped = false) → g.barArr = 0 → s.tetherOf (.wg w 0) = some (L, T, y) → w ∈ y.wgs → y.wgs.Nodup →
    (∀ u ∈ y.wgs, ∀ gu, look s.wgs u = some gu → ∀ k h, gu.flights[k]? = some h → (u ≠ w ∨ k ≠ fl) →
      gu.bartArr.getLsbD k = true ∨ h.ended = true) →
    ∃ t, exec (.bart o) s = .next t ∧ t.mem = s.mem ∧ ∀ u ∈ y.wgs, ∀ gu, look s.wgs u = some gu → ∃ gu', look t.wgs u = some gu' ∧
      gu'.bartArr = 0 ∧ gu'.bartK = gu.bartK + 1 ∧
      ∀ k h, gu.flights[k]? = some h → gu.bartArr.getLsbD k = true ∨ (u = w ∧ k = fl) → h.stopped = false →
        ∃ h', gu'.flights[k]? = some h' ∧ h'.wait = .ready ∧ h'.ix = h.ix + 1 ∧ h'.retired = h.retired + 1 ∧ RegsKept h h') ∧
  (∀ (o : VFmt) (s : State) (w fl L T u k : Nat) (g gu : Wg) (f h : Flight) (y : Tether), s.cur = some (.wg w fl) → look s.wgs w = some g →
    g.flights[fl]? = some f → f.acting o.g ≠ [] → f.wait = .ready → f.accessesDone = true → g.st = .running → fl < 32 → f.stopped = false →
    g.barArr = 0 → s.tetherOf (.wg w 0) = some (L, T, y) → w ∈ y.wgs → u ∈ y.wgs → look s.wgs u = some gu → gu.flights[k]? = some h →
    (u ≠ w ∨ k ≠ fl) → gu.bartArr.getLsbD k = false → h.ended = false →
    ∃ t g' f', exec (.bart o) s = .next t ∧ t.mem = s.mem ∧ look t.wgs w = some g' ∧ g'.bartArr.getLsbD fl = true ∧ g'.bartK = g.bartK ∧
      g'.flights[fl]? = some f' ∧ f'.wait = .bart ∧ f'.ix = f.ix ∧ f'.retired = f.retired ∧ RegsKept f f' ∧
      ∀ v x, v ≠ w → look s.wgs v = some x → look t.wgs v = some x)

/-- R169 and R170: GETS gives each participating lane the selected value, read at issue, in a register or, for the clocks and counters, a
pair; the clearing form gives fsr and then zeroes it once. -/
def Obligations.GetsValues : Prop :=
  (∀ (o : IFmt) (s : State) (r : FlightRef) (f : Flight), o.imm.toNat ≤ 16 →
    let pair := o.imm = 8 ∨ o.imm = 9 ∨ o.imm = 10 ∨ o.imm = 16
    s.issuer = some (r, f) → (pair → EvenReg o.d) →
    ∃ (f' : Flight) (x : Nat → Nat), exec (.gets o) s = .next { s.setFlight r f' with free := s.free + 1 } ∧
      Lanes f f' o.g 0 (fun l => if pair then w64 o.d (BitVec.ofNat 64 (x l)) else w32 o.d (BitVec.ofNat 32 (x l))) ∧
      ∀ l, (o.imm = 0 → x l = l) ∧ (o.imm = 7 → x l = s.image.devIdx.toNat) ∧ (o.imm = 10 → x l = f.retired.toNat) ∧
        (o.imm = 8 → x l = if s.det r then f.retired.toNat else s.clk.toNat) ∧
        (o.imm = 9 → x l = if s.det r then f.retired.toNat else f.wtime.toNat) ∧
        (o.imm = 12 → x l = (f.tids.getD l 0).toNat) ∧ (o.imm = 13 → x l = f.fsr.toNat) ∧ (o.imm = 14 → x l = f.sg.toNat) ∧
        (o.imm = 16 → x l = f.rngctr.toNat) ∧
        (∀ w fl g, r = .wg w fl → look s.wgs w = some g →
          (o.imm = 1 → x l = fl) ∧ (o.imm = 2 → x l = g.wgid) ∧ (o.imm = 3 → x l = g.rank) ∧ (o.imm = 4 → x l = g.core) ∧
          (o.imm = 5 → x l = g.core / 64) ∧ (o.imm = 6 → x l = g.core / 128) ∧ (o.imm = 11 → x l = g.part) ∧
          (∀ y, o.imm = 15 → look s.launches g.launch = some y → x l = y.id.toNat)) ∧
        (∀ die part, r = .ctl die part →
          (o.imm = 1 ∨ o.imm = 2 ∨ o.imm = 3 ∨ o.imm = 15 → x l = 0) ∧ (o.imm = 4 → x l = 512 + die) ∧ (o.imm = 6 → x l = die) ∧
          (o.imm = 11 → x l = part))) ∧
  (∀ (o : IFmt), Completes (.getsClr o) (fun _ _ f f' => ∃ f1, Lanes f f1 o.g 0 (fun _ => w32 o.d f.fsr) ∧
    f' = if f.acting o.g = [] then f1 else { f1 with fsr := 0 }))

/-- R346 and R332: TRAP and BKPT complete, then their workgroup halts with SW_TRAP or BKPT, kind 1, and the code as INFO. -/
def Sys2Proof.Claim.SoftwareTraps : Prop :=
  (∀ o : IFmt, Once (.trap o) o.g (fun s r f => exec (.trap o) s =
    .next ((s.retire r f).trap r { cause := 0x16, sub := 0, kind := 1, info := o.imm.setWidth 64, org := none }))) ∧
  (∀ o : IFmt, Once (.bkpt o) o.g (fun s r f => exec (.bkpt o) s =
    .next ((s.retire r f).trap r { cause := 0x17, sub := 0, kind := 1, info := o.imm.setWidth 64, org := none }))) ∧
  (∀ (o : IFmt) (s : State) (w fl : Nat) (g : Wg) (f : Flight) (c : Clause), s.cur = some (.wg w fl) → look s.wgs w = some g →
    g.flights[fl]? = some f → g.st = .running → f.ended = false → f.stopped = false → f.clause = some c → f.ix + 1 < c.words.length →
    f.npOpen = false → f.acting o.g ≠ [] →
    ∃ t g' f', exec (.trap o) s = .next t ∧ look t.wgs w = some g' ∧ g'.st = .halting ∧ g'.flights[fl]? = some f' ∧ f'.stopped = true ∧
      f'.stopPc = c.addr ∧ f'.stopIx = f.ix + 1 ∧ f'.retired = f.retired + 1 ∧ f'.cause = 0x16 ∧ f'.kind = 1 ∧
      f'.info = o.imm.setWidth 64 ∧ RegsKept f f')

/-- R346: TIMER gives the remaining count of the timer, 0 where none is armed, in a uniform register; arming replaces it, and with a count
of 0 its trap is pending at once; cancelling disarms it and drops a pending trap. A timer that has counted down disarms itself and is
pending. The flight takes it at its next clause start: its workgroup halts with TIMER, kind 2. -/
def Sys2Proof.Claim.Timers : Prop :=
  (∀ o : IFmt, Once (.timerArm o) o.g (fun s r f => exec (.timerArm o) s = .next (s.retire r
    (if o.imm = 0 then { f.setS o.d.toNat (if f.timerOn then f.timerRem else 0) with timerOn := false, timerRem := 0, tpend := true }
      else { f.setS o.d.toNat (if f.timerOn then f.timerRem else 0) with timerOn := true, timerRem := o.imm })))) ∧
  (∀ o : IFmt, Once (.timerRead o) o.g (fun s r f => exec (.timerRead o) s = .next (s.retire r
    (f.setS o.d.toNat (if f.timerOn then f.timerRem else 0))))) ∧
  (∀ o : IFmt, Once (.timerCancel o) o.g (fun s r f => exec (.timerCancel o) s = .next (s.retire r
    { f.setS o.d.toNat (if f.timerOn then f.timerRem else 0) with timerOn := false, timerRem := 0, tpend := false }))) ∧
  (∀ (s : State) (r : FlightRef) (f : Flight), s.flight? r = some f →
    (f.timerOn = true → f.timerRem = 0 → ∃ t, exec (.timerExpiry r) s = .next t ∧ t.mem = s.mem ∧
      t.flight? r = some { f with timerOn := false, tpend := true }) ∧
    (f.timerOn = false ∨ f.timerRem ≠ 0 → exec (.timerExpiry r) s = .next s)) ∧
  (∀ (s : State) (w fl : Nat) (f : Flight), s.flight? (.wg w fl) = some f → f.tpend = true → f.deferred = none → f.clause = none →
    f.sg = 0 → s.live (.wg w fl) f = true → f.wait = .ready → s.det (.wg w fl) = false →
    ∃ t g, exec (.clauseFetch (.wg w fl)) s = .next t ∧ t.flight? (.wg w fl) = some g ∧ g.stopped = true ∧ g.cause = 0x15 ∧
      g.kind = 2 ∧ g.sub = 0 ∧ g.info = 0 ∧ g.tpend = false ∧ RegsKept f g)

/-- R346: TOKCHK gives 1 in a uniform register where a token bound to the nonce exists for the partition, else 0: the launch's nonce, or that
in eight uniform registers; in deterministic mode it is held until 256 ticks after its issue, and tests and writes then. In a partition
without a token buffer it traps TOKEN with sub-code 1. -/
def Sys2Proof.Claim.TokenChecks : Prop :=
  let gives := fun (i : Instr) (o : EFmt) (nonce : State → FlightRef → Flight → BitVec 256) => Once i o.g (fun s r f =>
    let buf := ((s.part (s.partOf r)).ctx (s.ctxOf r)).desc.tokbuf
    (buf = 0 → exec i s = .next (s.trap r { cause := 0x1C, sub := 1, kind := 0, info := 0, org := none })) ∧
    (buf ≠ 0 → s.det r = false ∨ f.opDue ≠ none → ∃ t g, exec i s = .next t ∧ t.mem = s.mem ∧ t.flight? r = some g ∧
      (f.stopped = false → g.ix = f.ix + 1) ∧ g.retired = f.retired + 1 ∧ g.wait = .ready ∧
      g.s o.d.toNat = (if nonce s r f ∈ (s.part (s.partOf r)).nonces then 1 else 0) ∧ (∀ q, q ≠ o.d.toNat → g.s q = f.s q) ∧
      (∀ l q, q < 256 → g.v l q = f.v l q) ∧ PredsKept f g ∧ g.fsr = f.fsr) ∧
    (buf ≠ 0 → s.det r = true → f.opDue = none → ∃ t g, exec i s = .next t ∧ t.mem = s.mem ∧ t.flight? r = some g ∧ g.wait = .op ∧
      g.opDue = some ((s.part (s.partOf r)).tick + 256) ∧ g.retired = f.retired ∧ RegsKept f g ∧ PredsKept f g ∧ g.fsr = f.fsr))
  (∀ o : EFmt, gives (.tokchk o) o (fun s r _ => ((s.launchOf r).map (fun x => BitVec.ofNat 256 (fieldAt x.record 0x90 32))).getD 0)) ∧
  (∀ o : EFmt, gives (.tokchkN o) o (fun _ _ f =>
    f.s (o.p.toNat + 7) ++ f.s (o.p.toNat + 6) ++ f.s (o.p.toNat + 5) ++ f.s (o.p.toNat + 4) ++
      f.s (o.p.toNat + 3) ++ f.s (o.p.toNat + 2) ++ f.s (o.p.toNat + 1) ++ f.s o.p.toNat))

/-- R49, R165 and R304: MXCHK in a control program sets the self-check interval of its die, for every engine of it; outside one it traps
PRIV whatever its guard. -/
def Sys2Proof.Claim.CheckInterval : Prop :=
  ∀ (o : IFmt) (s : State) (f : Flight),
    (∀ die part, s.issuer = some (.ctl die part, f) → f.acting o.g ≠ [] → die < s.dies.length →
      ∃ t : State, exec (.mxchk o) s = .next (t.retire (.ctl die part) f) ∧ (t.die die).mxchk = o.imm.toNat ∧
        (∀ d, d ≠ die → t.die d = s.die d) ∧ t = { s with dies := t.dies }) ∧
    (∀ die part, s.issuer = some (.ctl die part, f) → f.acting o.g = [] → exec (.mxchk o) s = .next (s.retire (.ctl die part) f)) ∧
    (∀ w fl, s.issuer = some (.wg w fl, f) →
      exec (.mxchk o) s = .next (s.trap (.wg w fl) { cause := 0x04, sub := 0, kind := 0, info := 0, org := none }))

/-- R49, R165, R304, R332 and R346: software traps, the timer, TOKCHK and MXCHK. An event whose condition does not hold leaves the state as
it is (log 12). -/
def Obligations.TrapsTimersAndChecks : Prop := Sys2Proof.Claim.SoftwareTraps ∧ Sys2Proof.Claim.Timers ∧ Sys2Proof.Claim.TokenChecks ∧ Sys2Proof.Claim.CheckInterval

/-! ### Sealing, counters, launches -/

/-- R216–R220 and R225: SEAL reads its tensor's bytes and validates the record, once the devices that hold pages of it have answered (log
21); a code of 1 to 6 is its answer and ends it. Otherwise, in a second move, it takes the lowest free entry of its launch's handle table:
it writes the record, codebook, block table, names, generation and CRC there and gives the handle; the next generation is one more than the
entry's last of this launch, 255 followed by 1, and 1 for another launch's. It gives 7 where the table is not mapped, 8 where no entry is
free, 5 where another device cannot be reached. UNSEAL of a live entry sends a store of four zero bytes over its handle, which no count
holds; in deterministic mode the store takes its place with it. A handle that the entry does not hold, or that the flight is unsealing,
traps HANDLE with sub-code 1, a wrong CRC with sub-code 2. The class of the entry record's home decides a SEAL's ticks (log 33). -/
def Obligations.Sealing : Prop :=
  (∀ o : EFmt,
    let rec_ := fun (f : Flight) => (List.range 64).map (fun j => (f.s (o.p.toNat + j / 4)).extractLsb' (8 * (j % 4)) 8)
    let t := fun (f : Flight) => TRec.ofNat (number (rec_ f))
    PathOp (.seal o) o.g true (fun s r => (s.launchOf r).isSome)
      (fun s r f => ((s.launchOf r).map (fun x => (s.sealClass r x f.known (t f)).1)).getD 0)
      (fun s r f => ∀ x g, s.launchOf r = some x → s.wgOf r = some g →
        let outcome := fun (d : Word) (m : List Host.Cell) => ∃ t h, exec (.seal o) s = .next t ∧ t.mem = m ∧ t.flight? r = some h ∧
          h.s o.d.toNat = d ∧ (∀ q, q ≠ o.d.toNat → h.s q = f.s q) ∧ (∀ l q, q < 256 → h.v l q = f.v l q) ∧ PredsKept f h ∧ h.fsr = f.fsr ∧
          h.retired = f.retired + 1
        let holds := fun (P : Flight → Prop) => ∃ t' h, exec (.seal o) s = .next t' ∧ t'.mem = s.mem ∧ t'.flight? r = some h ∧
          h.retired = f.retired ∧ RegsKept f h ∧ PredsKept f h ∧ h.fsr = f.fsr ∧ P h
        let code := s.validate x.part x.ctx f.known (t f)
        let aux := s.auxOf x.part x.ctx f.known (t f)
        (f.opBuf = none → s.sealUnknown x.part x.ctx f.known (t f) ≠ [] →
          holds (fun h => if s.reaches x.part x.ctx = true then h.wait = .far else h.wait = (if s.det r then .op else .ready) ∧ h.opBuf = some [])) ∧
        (f.opBuf = none → s.sealUnknown x.part x.ctx f.known (t f) = [] →
          (s.sealReads x f.known (t f)).findSome? (fun p => s.pathStop x.part x.ctx p.1 p.2 false) = none →
          (code ≠ 0 → outcome (BitVec.ofNat 32 code) s.mem) ∧
          (code = 0 → holds (fun h => h.wait = (if s.det r then .op else .ready) ∧ h.opBuf = some (sealBuf 0 aux.1 aux.2)))) ∧
        (f.opBuf = some [] → outcome 5 s.mem) ∧
        ∀ cb table, f.opBuf = some (sealBuf 0 cb table) → cb.length = 32 → table.length ≤ 112 →
          (s.searchedAt x).findSome? (fun a => s.pathStop x.part x.ctx a 1024 false) = none →
          (x.htable = 0 → outcome 7 s.mem) ∧
          (∀ n, x.htable ≠ 0 → n < 256 → (∀ j, j < n → ∃ e, s.hEntry x j = some e ∧ x.freeEntry e = false) → s.hEntry x n = none →
            outcome 7 s.mem) ∧
          (x.htable ≠ 0 → (∀ j, j < 256 → ∃ e, s.hEntry x j = some e ∧ x.freeEntry e = false) → outcome 8 s.mem) ∧
          (∀ n e, x.htable ≠ 0 → n < 256 → (∀ j, j < n → ∃ e, s.hEntry x j = some e ∧ x.freeEntry e = false) →
            s.hEntry x n = some e → x.freeEntry e = true → s.pathStop x.part x.ctx (x.htable + 1024 * n) 1024 true = none →
            let gen := if fieldAt e 996 4 = x.id.toNat then fieldAt e 1012 1 % 255 + 1 else 1
            let handle := x.id.toNat % 2 ^ 16 * 2 ^ 16 + gen * 2 ^ 8 + n
            ∃ e' : List Byte, e'.length = 1024 ∧ e'.take 64 = rec_ f ∧ (e'.drop 64).take 32 = cb ∧
              (∀ i, i < table.length → fieldAt e' (96 + 8 * i) 8 = table.getD i 0 % 2 ^ 64) ∧ fieldAt e' 992 4 = handle ∧
              fieldAt e' 996 4 = x.id.toNat ∧ fieldAt e' 1000 4 = g.tether % 2 ^ 32 ∧ fieldAt e' 1012 1 = gen ∧
              fieldAt e' 1013 1 = x.killsOf g.tether % 256 ∧ fieldAt e' 1016 2 = (crc16 (e'.take 1016)).toNat ∧
              (∀ s1, s.writeVa x.part x.ctx (x.htable + 1024 * n) e' = some s1 → outcome (BitVec.ofNat 32 handle) s1.mem) ∧
              (s.writeVa x.part x.ctx (x.htable + 1024 * n) e' = none → outcome 7 s.mem)))) ∧
  (∀ o : EFmt, PathOp (.unseal o) o.g false (fun s r => (s.launchOf r).isSome)
    (fun s r f => ((s.launchOf r).map (fun x => s.vaClass r (x.htable + 1024 * ((f.s o.h.toNat).toNat % 256) + 992))).getD 0)
    (fun s r f => ∀ x, s.launchOf r = some x →
      let h := f.s o.h.toNat
      let n := h.toNat % 256
      let fails := fun sub => exec (.unseal o) s = .next (s.trap r { cause := 0x13, sub, kind := 0, info := 0, org := none })
      let live := fun (e : List Byte) => h ≠ 0 ∧ fieldAt e 992 4 = h.toNat ∧ fieldAt e 996 4 = x.id.toNat ∧
        ¬ fieldAt e 1013 1 < x.killsOf (fieldAt e 1000 4) ∧ ∀ a ∈ f.accs, a.kind ≠ .unseal h
      (s.hEntry x n = none → fails 1) ∧
      (∀ e, s.hEntry x n = some e →
        (¬ live e → fails 1) ∧ (live e → fieldAt e 1016 2 ≠ (crc16 (e.take 1016)).toNat → fails 2) ∧
        (live e → fieldAt e 1016 2 = (crc16 (e.take 1016)).toNat → f.stopped = false →
          ∀ ps, (lineParts (x.htable + 1024 * n + 992) 4).mapM
              (s.globPiece r ⟨.unseal h, { w := true }, 1, false, true, true, false⟩ false ((f.acting o.g).headD 0)) = .ok ps →
            (∀ p ∈ ps, p.dev = none) →
            (s.det r = false → ∃ t f' a, exec (.unseal o) s = .next t ∧ t.mem = s.mem ∧ t.flight? r = some f' ∧ f'.accs = f.accs ++ [a] ∧
              a.kind = .unseal h ∧ a.pieces.map bare = ps.map bare ∧ look a.out ((f.acting o.g).headD 0) = some [0, 0, 0, 0] ∧
              f'.nStores = f.nStores ∧ f'.nLoads = f.nLoads ∧ f'.retired = f.retired + 1 ∧ RegsKept f f' ∧ PredsKept f f' ∧
              f'.fsr = f.fsr) ∧
            (∀ p, s.det r = true → f.accs = [] → ps = [p] → p.locked = false → p.span = false → (∀ k ∈ p.keys, s.keyUp k = true) →
              s.hasLost p.keys = false → s.threadClear r (f.lowTid o.g) s.uid = true → f.lastE ≤ (s.part (s.partOf r)).tick → AllSent s r →
              ∃ t f', exec (.unseal o) s = .next t ∧ t.mem = writeKeys s.mem (p.keys.zip [0, 0, 0, 0]) ∧ t.flight? r = some f' ∧
                f'.accs = [] ∧ f'.nStores = f.nStores ∧ f'.nLoads = f.nLoads ∧ f'.retired = f.retired + 1 ∧ RegsKept f f' ∧
                PredsKept f f' ∧ f'.fsr = f.fsr)))))

namespace Sys2Proof.Claim

/-- R149 and R150: what a signal does to a counter. Only a PENDING one takes it: DONECNT rises, clipped at TARGET; a bad signal's state is
kept; the signal waits for its confirmation or, with nothing to test or from a child that is CONFIRMED by now, is confirmed at once. At TARGET the counter becomes DONE or CONFIRMED,
or takes the state of the first bad signal, notes the time, and signals its parent. -/
def SignalRule : Prop :=
  ∀ (s : State) (part ctx i n st : Nat) (child : Option Nat) (cores : List Nat),
    let c := s.ctr part ctx i
    let t := s.signal part ctx i n st child cores
    let d := min (c.done + n) c.target
    let bad := if st ≠ 1 ∧ c.firstBad = 0 then st else c.firstBad
    let sure : Bool := match child with
      | some j => (s.ctr part ctx j).state == 2
      | none => cores.isEmpty
    let conf := if st = 1 ∧ sure = true then c.conf + (d - c.done) else c.conf
    (c.state ≠ 0 ∨ 0xFFF ≤ i → t = s) ∧
    (c.state = 0 → i < 0xFFF → st < 16 → c.firstBad ≠ 1 → c.conf ≤ c.done → c.done ≤ c.target →
      (d ≠ c.target → t.ctr part ctx i = { c with done := d, conf, firstBad := bad } ∧ t.agenda = s.agenda ∧
        ∀ k, k < s.ctrKey part ctx i ∨ s.ctrKey part ctx i + 32 ≤ k → readByte t.mem k = readByte s.mem k) ∧
      (d = c.target → s.launchAt part ctx i = none →
        (t.ctr part ctx i).state = (if bad ≠ 0 then bad else if conf = c.target then 2 else 1) ∧ (t.ctr part ctx i).done = d ∧
        (t.ctr part ctx i).tdone = s.clk.toNat ∧ (t.ctr part ctx i).firstBad = bad ∧
        (c.parent ≠ 0xFFF → Move.event (.counterSignal part ctx c.parent (if bad ≠ 0 then bad else 1) (some i) []) ∈ t.agenda)))

/-- R149: arming. -/
def ArmRule : Prop :=
  ∀ (s : State) (part ctx i target parent level : Nat), parent < 4096 → level < 16 →
    (s.arm part ctx i target parent level).ctr part ctx i =
      { target := target % 2 ^ 32, done := 0, conf := 0, state := 0, level, reason := 0, parent, firstBad := 0, tdone := 0, tconf := 0 }

/-- R167: cancelling a PENDING counter below which nothing else is PENDING and which counts no launch makes it CANCELLED; one in a final
state does not change. -/
def CancelRule : Prop :=
  ∀ (s : State) (part ctx i : Nat),
    ((s.ctr part ctx i).state ≠ 0 ∨ 0xFFF ≤ i → s.cancelCounter part ctx i = s) ∧
    ((s.ctr part ctx i).state = 0 → i < 0xFFF → s.cancels = [] → s.launches = [] →
      (∀ j, j < 0xFFF → j ≠ i → (s.ctr part ctx j).state ≠ 0 ∨ s.chains part ctx j i = false) →
      ((s.cancelCounter part ctx i).ctr part ctx i).state = 3)

/-- R152: a record that is accepted. It gets the partition's next LAUNCHID, with its record and argument block as read, nothing placed yet;
its counter is armed with one signal for each tether and XSIG more, and its parent. -/
def AcceptRule : Prop :=
  ∀ (s : State) (part ctx q origin va : Nat) (seq : Word) (r a : List Byte), part < s.parts.length → va % 256 = 0 →
    s.readVa part ctx va 256 = some r → s.readVa part ctx (fieldAt r 0x80 8) 64 = some a →
    s.launchReason part ctx (some r) (some a) = none → ((s.part part).ctx ctx).desc.logbase = 0 → look s.launches s.uid = none →
    ∃ t l y, s.acceptLaunch part ctx q seq origin va = (t, l) ∧ l = (s.part part).nextLaunch ∧ look t.launches s.uid = some y ∧ y.id = l ∧
      y.part = part ∧ y.ctx = ctx ∧ y.queue = q ∧ y.seq = seq ∧ y.origin = origin ∧ y.record = r ∧ y.args = a ∧ y.next = 0 ∧ y.tethers = [] ∧
      (t.part part).nextLaunch = (if l + 1 = 0 then 1 else l + 1) ∧
      (let c := t.ctr part ctx (fieldAt r 0x50 2 % 4096)
       c.state = 0 ∧ c.done = 0 ∧ c.level = 0 ∧ c.parent = fieldAt r 0x52 2 % 4096 ∧
         c.target = (fieldAt r 0x08 4 / max (fieldAt r 0x0D 1) 1 + fieldAt r 0x60 4) % 2 ^ 32)

end Sys2Proof.Claim

/-- R149, R150, R165, R167, R168 and R357: COUNTER_SIGNAL and CSIG signal a counter as the rule says, CSIG's for the cores of its tether,
and CSIG gives DONECNT after it; its arm form arms one that is not PENDING, else gives 0xFFFF_FFFF; CANCEL gives the state before and
cancels. The level forms follow PARENT from the flight's launch counter and give 0xFFFF_FFFF where the chain ends first; the other forms
trap PRIV outside a control program. A TARGET of 0, one of more than 32 bits, the index 0xFFF and the signals of a control program are as in
log 33. -/
def Obligations.Counters : Prop :=
  SignalRule ∧ ArmRule ∧ CancelRule ∧
  (∀ s part slot i st child cores,
    (st ≠ 1 ∨ (∀ j, child = some j → (s.ctr part slot j).state ≠ 7) →
      exec (.counterSignal part slot i st child cores) s = .next (s.signal part slot i 1 st child cores)) ∧
    (∀ j, st = 1 → child = some j → (s.ctr part slot j).state = 7 →
      exec (.counterSignal part slot i st child cores) s = .next (s.signal part slot i 1 7 child cores))) ∧
  (∀ o : EFmt, PathOp (.csig o) o.g false (fun _ _ => True) (fun s r _ => s.ctrClass r (s.levelCounter r (o.imm.toNat % 4))) (fun s r f =>
    (s.levelCounter r (o.imm.toNat % 4) = none → exec (.csig o) s = .next (s.retire r (f.setS o.d.toNat 0xFFFFFFFF))) ∧
    ∀ i, s.levelCounter r (o.imm.toNat % 4) = some i →
      let n := (f.s o.x.toNat).toNat
      (∀ L T x y, s.tetherOf r = some (L, T, y) → look s.launches L = some x →
        let ran := (look x.ran T).getD []
        let t := if n = 0 then s else s.signal (s.partOf r) (s.ctxOf r) i n 1 none (if s.coreOf r ∈ ran then ran else ran ++ [s.coreOf r])
        exec (.csig o) s = .next (t.retire r (f.setS o.d.toNat (BitVec.ofNat 32 (t.ctr (s.partOf r) (s.ctxOf r) i).done)))))) ∧
  (∀ o : EFmt, Once (.cancel o) o.g (fun s r f =>
    (s.levelCounter r (o.imm.toNat % 4) = none → exec (.cancel o) s = .next (s.retire r (f.setS o.d.toNat 0xFFFFFFFF))) ∧
    ∀ i, s.levelCounter r (o.imm.toNat % 4) = some i → exec (.cancel o) s = .next
      ((s.retire r (f.setS o.d.toNat (BitVec.ofNat 32 (s.ctr (s.partOf r) (s.ctxOf r) i).state))).cancelCounter (s.partOf r) (s.ctxOf r) i))) ∧
  (∀ (o : EFmt) (i : Instr), i = .csigIdx o ∨ i = .csigArm o ∨ i = .cancelIdx o → ∀ s w fl f, s.issuer = some (.wg w fl, f) →
    exec i s = .next (s.trap (.wg w fl) { cause := 0x04, sub := 0, kind := 0, info := 0, org := none })) ∧
  (∀ (o : EFmt) (s : State) (die part : Nat) (f : Flight), s.issuer = some (.ctl die part, f) → f.acting o.g ≠ [] →
    s.threadClear (.ctl die part) (f.lowTid o.g) s.uid = false →
    exec (.csigIdx o) s = .next (s.stall (.ctl die part) .drain) ∧ exec (.csigArm o) s = .next (s.stall (.ctl die part) .drain)) ∧
  (∀ (o : EFmt) (s : State) (die part : Nat) (f : Flight), s.issuer = some (.ctl die part, f) → f.acting o.g ≠ [] →
    s.threadClear (.ctl die part) (f.lowTid o.g) s.uid = true →
    let r := FlightRef.ctl die part
    let i := (f.s o.h.toNat).toNat % 4096
    let x := s.ctxOf r
    let y := (f.s (o.x.toNat + 1)).toNat
    let gives := fun (t : State) (d : Word) => Host.Outcome.next (t.retire r (f.setS o.d.toNat d))
    (i = 0xFFF → exec (.csigIdx o) s = gives s 0xFFFFFFFF ∧ exec (.csigArm o) s = gives s 0xFFFFFFFF ∧
      exec (.cancelIdx o) s = gives s 0xFFFFFFFF) ∧
    (i ≠ 0xFFF → (f.s o.x.toNat).toNat ≠ 0 →
      let t := s.signal part x i (f.s o.x.toNat).toNat 1 none []
      exec (.csigIdx o) s = gives t (BitVec.ofNat 32 (t.ctr part x i).done)) ∧
    (i ≠ 0xFFF → f.s o.x.toNat = 0 → exec (.csigIdx o) s = gives s (BitVec.ofNat 32 (s.ctr part x i).done)) ∧
    (i ≠ 0xFFF → (s.ctr part x i).state = 0 → exec (.csigArm o) s = gives s 0xFFFFFFFF) ∧
    (i ≠ 0xFFF → (s.ctr part x i).state ≠ 0 →
      exec (.csigArm o) s = gives (s.arm part x i (f.s o.x.toNat).toNat (y % 4096) (y / 2 ^ 16 % 4)) 0) ∧
    (i ≠ 0xFFF → exec (.cancelIdx o) s = .next
      ((s.retire r (f.setS o.d.toNat (BitVec.ofNat 32 (s.ctr part x i).state))).cancelCounter part x i)))

/-- R152, R153, R166: LAUNCH hands a record to a queue and gives its LAUNCHID; 0 for a misaligned record, a queue above 15 or a full one,
without an entry, and 0 for a rejected record, whose entry the queue gets; a nonzero fourth register traps, and a record or argument block
whose home is down or whose sector is lost stops it as it stops a load. A queue is full too where the run log has no room (log 33), a TARGET
keeps its low 32 bits (log 33), and it takes its place as an event of its lowest thread (log 33). LAUNCH_COMMAND does the same for the
command at the head of a queue, which holds its record's address at byte 8 (log 9). The order of the reasons for which a record is rejected
is that of log 30. A TARGET that keeps its low 32 bits, LAUNCH as an event of its lowest thread and a full run log are as in log 33. The
place of a command's record address is that of log 9. -/
def Obligations.Launching : Prop :=
  AcceptRule ∧
  (∀ (s : State) (part ctx q origin va : Nat) (seq : Word) (reason : Nat),
    let record := if va % 256 = 0 then s.readVa part ctx va 256 else none
    s.launchReason part ctx record (record.bind (fun r => s.readVa part ctx (fieldAt r 0x80 8) 64)) = some reason →
    s.acceptLaunch part ctx q seq origin va = (s.owe part { queue := q, seq, lid := 0, kind := 1, code := 0, reason, origin, part := 0, state := 5, ctr := none }, 0)) ∧
  (∀ o : EFmt, PathOp (.launch o) o.g false (fun _ _ => True) (fun s r f => s.vaClass r (f.s64 o.p.toNat).toNat) (fun s r f =>
    let va := (f.s64 o.p.toNat).toNat
    let q := (f.s (o.p.toNat + 2)).toNat
    let part := s.partOf r
    let zero := f.s (o.p.toNat + 3) = 0
    (¬ zero → exec (.launch o) s = .next (s.trap r { cause := 0x01, sub := 2, kind := 0, info := 0, org := none })) ∧
    (zero → va % 256 ≠ 0 ∨ 16 ≤ q ∨ s.queueFull part (s.ctxOf r) q = true →
      exec (.launch o) s = .next (s.retire r (f.setS o.d.toNat 0))) ∧
    (∀ e, zero → va % 256 = 0 → q < 16 → s.queueFull part (s.ctxOf r) q = false → s.recordStop part (s.ctxOf r) va = some e →
      exec (.launch o) s = .next (s.memStop r 1 e)) ∧
    (zero → va % 256 = 0 → q < 16 → s.queueFull part (s.ctxOf r) q = false → s.recordStop part (s.ctxOf r) va = none →
      let s1 := s.modPart part (fun p => { p with seqs := modAt p.seqs q (· + 1) })
      let y := s1.acceptLaunch part (s.ctxOf r) q ((s.part part).seqs.getD q 0) 1 va
      exec (.launch o) s = .next (y.1.retire r (f.setS o.d.toNat y.2))))) ∧
  (∀ (s : State) (k q x : Nat) (c : List Byte), s.headCmd (.vf k q) = some c → fieldAt c 0 1 = 0x01 →
    let s0 := s.popCmd (.vf k q)
    s0.cmdCtx k = some x → s0.logFull k x 11 = false →
    exec (.launchCommand (.vf k q)) s = .next (State.pump (.vf k q) 65536
      (s0.acceptLaunch k x q (s.cmdSeq (.vf k q)) 0 (fieldAt c 8 8)).1))

/-- R22, R146, R149, R154, R155, R156, R163 and R244: TETHER_PLACE puts the next tether of a ready launch on the cores given, one for each
rank, where they are legal for it; a workgroup's flights start at the entry with the argument block in s0–s15, zeros elsewhere and each
thread's TID. A launch whose dependence failed is cancelled. FLIGHT_END ends a flight whose threads have all exited and whose counts are
zero; with the workgroup's last flight the workgroup leaves; with the tether's last workgroup its staging begins to commit, or, with nothing
staged, the tether ends and signals the launch's counter. A control program leaves its controller, and one that waits for the place takes
it. An event whose condition does not hold leaves the state as it is (log 12). What a workgroup finds in its scratchpad is free (log 16). -/
def Obligations.Placement : Prop :=
  (∀ (s : State) (k t : Nat) (cores : List Nat) (x : Launch), look s.launches k = some x → s.placing x = true → x.nextTether = some t →
    0 < x.width → cores.length = x.width → cores.Nodup → (∀ c ∈ cores, c / 64 = cores.headD 0 / 64) → s.slotFor k x = true →
    (∀ c ∈ cores, s.takes x c = true) → (s.isDet x = true → cores = s.fixedCores x.part t x.width) → s.servedFirst k x = false →
    ¬ (x.next = 0 ∧ x.tethers = [] ∧ s.dep x = .never) →
    ∃ u ws y z, exec (.tetherPlace k cores) s = .next u ∧ look u.launches k = some y ∧ look y.tethers t = some z ∧ z.wgs = ws ∧
      z.cores = cores ∧ z.stage = [] ∧ ws.length = cores.length ∧ ws.Nodup ∧
      ∀ i w c, ws[i]? = some w → cores[i]? = some c → ∃ g, look u.wgs w = some g ∧ g.launch = k ∧ g.part = x.part ∧ g.ctx = x.ctx ∧
        g.core = c ∧ g.wgid = t * x.width + i ∧ g.tether = t ∧ g.rank = i ∧ g.st = .running ∧ g.flights.length = x.flights ∧
        ∀ j f, g.flights[j]? = some f → f.pc = List.replicate 32 (BitVec.ofNat 64 (fieldAt x.record 0 8)) ∧
          (∀ r, f.s r = if r < 16 then BitVec.ofNat 32 (fieldAt x.args (4 * r) 4) else 0) ∧ (∀ l r, f.v l r = 0) ∧ f.exited = 0 ∧
          f.fsr = 0 ∧ f.rngctr = 0 ∧ f.slot = none ∧ f.clause = none ∧
          ∀ l, l < 32 → f.tids.getD l 0 = BitVec.ofNat 32 (((t * x.width + i) * x.flights + j) * 32 + l)) ∧
  (∀ (s : State) (k : Nat) (x : Launch) (cores : List Nat), look s.launches k = some x → x.next = 0 → x.tethers = [] → x.cancelled = false →
    x.ended = false → s.dep x = .never →
    exec (.tetherPlace k cores) s = .next ((s.modLaunch k (fun x => { x with cancelled := true })).finish x.part x.ctx x.ctrl 3)) ∧
  (∀ (s : State) (w fl : Nat) (g : Wg) (f : Flight), look s.wgs w = some g → g.flights[fl]? = some f →
    f.exited = 0xFFFFFFFF → f.clause = none → f.accessesDone = true → f.nCopies = 0 → f.nTiles = 0 → f.deferred = none → f.ended = false →
    (g.st = .killed ∨ (∃ k h, k ≠ fl ∧ g.flights[k]? = some h ∧ h.ended = false) →
      ∃ t f', exec (.flightEnd (.wg w fl)) s = .next t ∧ t.flight? (.wg w fl) = some f' ∧ f'.ended = true ∧ f'.slot = none ∧ f'.npOpen = false ∧
        RegsKept f f' ∧ t.mem = s.mem ∧ t.cur ≠ some (.wg w fl)) ∧
    (∀ x y, g.st ≠ .killed → (∀ k h, k ≠ fl → g.flights[k]? = some h → h.ended = true) → look s.launches g.launch = some x →
      look x.tethers g.tether = some y → w ∈ y.wgs → y.dying = none → y.ended = none → x.cancelled = false → x.ended = false →
      x.part = g.part → (∀ c, (s.part g.part).cur = some c → ((s.part g.part).ctx c).st = .running) →
      ∃ u x', exec (.flightEnd (.wg w fl)) s = .next u ∧ look u.wgs w = none ∧ u.cur ≠ some (.wg w fl) ∧ look u.launches g.launch = some x' ∧
        let kept := fun (e : Option Nat) => u.mem = s.mem ∧ ∃ y', look x'.tethers g.tether = some y' ∧ y'.wgs = y.wgs ∧ y'.stage = y.stage ∧
          y'.ended = e ∧ y'.pads = modAt y.pads g.rank (fun _ => (g.core, (g.scratchBase, g.scratchBytes)))
        let c := s.ctr x.part x.ctx x.ctrl
        ((∃ v ∈ y.wgs, v ≠ w ∧ (look s.wgs v).isSome = true) → kept none) ∧
        ((∀ v ∈ y.wgs, v ≠ w → look s.wgs v = none) → y.stage ≠ [] →
          kept (some (if s.isDet x = true then (s.part x.part).tick else s.clk.toNat))) ∧
        ((∀ v ∈ y.wgs, v ≠ w → look s.wgs v = none) → y.stage = [] → s.runs = [] → s.cancels = [] → c.state = 0 → x.ctrl < 0xFFF →
          c.conf ≤ c.done → c.done + 1 < c.target → look x'.tethers g.tether = none ∧ (u.ctr x.part x.ctx x.ctrl).done = c.done + 1 ∧
            (u.ctr x.part x.ctx x.ctrl).state = 0))) ∧
  (∀ (s : State) (r : FlightRef) (f : Flight), s.flight? r = some f → (f.exited ≠ 0xFFFFFFFF ∨ f.nLoads ≠ 0 ∨ f.nStores ≠ 0 ∨
    f.nCopies ≠ 0 ∨ f.nTiles ≠ 0) → exec (.flightEnd r) s = .next s) ∧
  (∀ (s : State) (die part : Nat) (c : Ctl), look (s.part part).ctls die = some c → part < s.parts.length → c.halted = false →
    c.flight.exited = 0xFFFFFFFF → c.flight.clause = none → c.flight.accessesDone = true → c.flight.nCopies = 0 →
    c.flight.nTiles = 0 → c.flight.deferred = none → c.flight.ended = false →
    ∃ t, exec (.flightEnd (.ctl die part)) s = .next t ∧
      ((∀ d, d ≠ die → (look (s.part part).ctls d).isSome = true → s.dieUp d = true) → look (t.part part).ctls die = none) ∧
      (∀ d x, d ≠ die → look (s.part part).ctls d = some x → s.dieUp d = false → (∀ e, e ≠ d → e ≠ die → look (s.part part).ctls e = none) →
        die < 4 → s.dieUp die = true → (∀ e, e < die → s.dieUp e = false) → look (t.part part).ctls die = some x ∧ look (t.part part).ctls d = none))

/-! ### Streamers -/

namespace Sys2Proof.Claim

/-- An instruction traps with a cause and a sub-code, kind 0, INFO 0. -/
def TrapsWith (i : Instr) (s : State) (r : FlightRef) (cause sub : Byte) : Prop :=
  exec i s = .next (s.trap r { cause, sub, kind := 0, info := 0, org := none })

/-- A copy enters its core's streamer (R259, R269): what was read at issue stands in it, D holds the count, the copy count rises; memory
changes only as taking the claim changes it; `at_` is the displacement of its slot and the address of its slot word. -/
def CopyEnters (i : Instr) (o : EFmt) (s : State) (r : FlightRef) (f : Flight) (op : Nat) (b : List Word) (e d : List Byte) (rows : List Nat)
    (name : Dword) (count : Word) (at_ : Nat × Nat) : Prop :=
  ∃ (t : State) (g : Flight) (c : Copy), exec i s = .next t ∧ t.flight? r = some g ∧ look (t.core (s.coreOf r)).copies s.uid = some c ∧
    c.owner = r ∧ c.op = op ∧ c.block = b ∧ c.rows = rows ∧ c.src = e ∧ c.dst = d ∧ c.count = count ∧
    c.spool = (if name = 0 then none else some name) ∧ c.disp = at_.1 ∧ c.wordAt = at_.2 ∧ c.stage = 0 ∧ c.paused = none ∧ c.snap = none ∧ c.given = [] ∧ c.lost = none ∧ c.pc = f.header ∧ c.ix = f.ix ∧
    t.mem = (if name = 0 then s else s.takeSlot r name count).mem ∧
    g.s o.d.toNat = count ∧ (∀ q, q ≠ o.d.toNat → g.s q = f.s q) ∧ (∀ l q, q < 256 → g.v l q = f.v l q) ∧ PredsKept f g ∧
    g.fsr = f.fsr ∧ g.nCopies = f.nCopies + 1 ∧ g.nLoads = f.nLoads ∧ g.nStores = f.nStores ∧ g.retired = f.retired + 1

/-- R258, R260, R262 and R269: a copy instruction. -/
def CopyIssue (i : Instr) (o : EFmt) (op : Nat) : Prop :=
  Once i o.g (fun s r f =>
    let b := (List.range 24).map (fun j => f.s (o.p.toNat + j))
    let ctl := b.getD 15 0
    let name : Dword := b.getD 21 0 ++ b.getD 20 0
    let zeros := ctl.extractLsb' 8 24 = 0 ∧ b.getD 22 0 = 0 ∧ b.getD 23 0 = 0
    let owned := (s.part (s.partOf r)).desc.strms.getLsbD (s.coreOf r) = true
    (¬ zeros → TrapsWith i s r 0x01 2) ∧
    (zeros → 4 ≤ (ctl.extractLsb' 4 3).toNat → TrapsWith i s r 0x01 4) ∧
    (zeros → (ctl.extractLsb' 4 3).toNat < 4 → ¬ owned → TrapsWith i s r 0x12 2) ∧
    (zeros → (ctl.extractLsb' 4 3).toNat < 4 → owned → ∀ w fl l, r = .wg w fl → s.launchOf r = some l →
      let producer := fl = fieldAt l.record 0x10 8 / 2 ^ 32 % 32
      (¬ producer → TrapsWith i s r 0x12 1) ∧
      (producer → (∀ c sub, s.copyCheck r f o op b = .error (c, sub) → TrapsWith i s r c sub) ∧
        (∀ e d rows, s.copyCheck r f o op b = .ok (e, d, rows) →
          (14 ≤ f.nCopies → exec i s = .next (s.stall r .drain)) ∧
          (f.nCopies < 14 →
            (name = 0 → CopyEnters i o s r f op b e d rows name 0xFFFFFFFF (0, 0)) ∧
            (s.slotView r name = .full → exec i s = .next
              ((s.modFlight r (fun f => { f with copyHeld := some (f.copyHeld.getD (s.now r)) })).stall r (.copySlot name))) ∧
            (s.slotView r name = .fetch → exec i s = .next ((s.stall r (.shadow name)).askShadow r name)) ∧
            (∀ x, s.slotView r name = .stop x → exec i s = .next (s.memStop r 0x23 x)) ∧
            (∀ c sp, s.slotView r name = .claim c sp →
              let k := c.toNat % spSlots sp
              let dd := dstSide b d (k * spSlotBytes sp)
              let inside := dd.space = spSpace name ∧
                ∀ a ∈ dd.touched (rawPair (entryRec e) (entryRec d)) ((copyPairs op b (List.range (b.getD 11 0).toNat)).map (·.2)),
                  (spBuf sp : Int) ≤ a ∧ a < ((spBuf sp + spSlots sp * spSlotBytes sp : Nat) : Int)
              (inside → CopyEnters i o s r f op b e d rows name c (k * spSlotBytes sp, spAddr name + (64 + 8 * k))) ∧ (¬ inside → TrapsWith i s r 0x13 5)))))))

/-- R217: the check of a handle: its entry stands in the launch's table under it, was sealed by the launch in a tether that has not been killed
since, is not being unsealed by the flight, and its CRC is right. -/
def HandleRule : Prop :=
  ∀ (s : State) (f : Flight) (l : Launch) (h : Word),
    (s.hEntry l (h.toNat % 256) = none → s.handleCheck f l h = .error 1) ∧
    (∀ e, s.hEntry l (h.toNat % 256) = some e →
      let live := h ≠ 0 ∧ fieldAt e 992 4 = h.toNat ∧ fieldAt e 996 4 = l.id.toNat ∧ ¬ fieldAt e 1013 1 < l.killsOf (fieldAt e 1000 4) ∧
        ∀ a ∈ f.accs, a.kind ≠ .unseal h
      (¬ live → s.handleCheck f l h = .error 1) ∧
      (live → fieldAt e 1016 2 ≠ (crc16 (e.take 1016)).toNat → s.handleCheck f l h = .error 2) ∧
      (live → fieldAt e 1016 2 = (crc16 (e.take 1016)).toNat → s.handleCheck f l h = .ok e))

/-- R262 steps 3, 5, 8 and 9 as far as one cause decides: the source handle first, then the destination handle. -/
def CopyChecks : Prop :=
  ∀ (s : State) (r : FlightRef) (f : Flight) (o : EFmt) (op : Nat) (b : List Word) (l : Launch), s.launchOf r = some l →
    (∀ sub, s.handleCheck f l (f.s o.h.toNat) = .error sub → s.copyCheck r f o op b = .error (0x13, sub)) ∧
    (∀ e sub, s.handleCheck f l (f.s o.h.toNat) = .ok e → s.handleCheck f l (f.s o.x.toNat) = .error sub →
      s.copyCheck r f o op b = .error (0x13, sub)) ∧
    (∀ e d rows, s.copyCheck r f o op b = .ok (e, d, rows) →
      s.handleCheck f l (f.s o.h.toNat) = .ok e ∧ s.handleCheck f l (f.s o.x.toNat) = .ok d ∧ pairOk b (entryRec e) (entryRec d) = true ∧
      (∀ i, i < 5 → b.getD (10 + i) 0 ≠ 0 ∧
        (i < (entryRec e).ndim → (b.getD i 0).toNat + (b.getD (10 + i) 0).toNat ≤ (entryRec e).sizes.getD i 0) ∧
        (i < (entryRec d).ndim → (b.getD (5 + i) 0).toNat + (b.getD (10 + i) 0).toNat ≤ (entryRec d).sizes.getD i 0) ∧
        ((entryRec e).ndim ≤ i → b.getD i 0 = 0 ∧ b.getD (10 + i) 0 = 1) ∧
        ((entryRec d).ndim ≤ i → b.getD (5 + i) 0 = 0 ∧ b.getD (10 + i) 0 = 1)) ∧
      (let view := s.slotView r (b.getD 21 0 ++ b.getD 20 0)
       view ≠ .bad ∧ (op ≠ 0x90 → view ≠ .fetch → (∀ x, view ≠ .stop x) →
         b.getD 12 0 = 1 ∧ b.getD 13 0 = 1 ∧ b.getD 14 0 = 1 ∧ (b.getD 11 0).toNat ≤ 1024)) ∧
      (op = 0x90 → rows = []) ∧
      (op ≠ 0x90 → ∀ j, j ∈ rows ↔ j < (b.getD 11 0).toNat ∧ j < 1024 ∧ (f.vx (j / 32) o.v.toNat).getLsbD (j % 32) = true))

/-- R263 and R265: which element goes where. -/
def CopyMaps : Prop :=
  ∀ (b : List Word) (rows : List Nat),
    (∀ p q, (p, q) ∈ copyPairs 0x90 b rows ↔ ∃ c : List Nat, c.length = 5 ∧ (∀ i, i < 5 → c.getD i 0 < (b.getD (10 + i) 0).toNat) ∧
      p = (List.range 5).map (fun i => (b.getD i 0).toNat + c.getD i 0) ∧
      q = (List.range 5).map (fun i => (b.getD (5 + i) 0).toNat + c.getD i 0)) ∧
    (∀ p q, (p, q) ∈ copyPairs 0x91 b rows ↔ ∃ k x, k < rows.length ∧ x < (b.getD 10 0).toNat ∧
      p = [(b.getD 0 0).toNat + x, (b.getD 1 0).toNat + rows.getD k 0, (b.getD 2 0).toNat, (b.getD 3 0).toNat, (b.getD 4 0).toNat] ∧
      q = [(b.getD 5 0).toNat + x, (b.getD 6 0).toNat + k, (b.getD 7 0).toNat, (b.getD 8 0).toNat, (b.getD 9 0).toNat]) ∧
    (∀ p q, (p, q) ∈ copyPairs 0x92 b rows ↔ ∃ k x, k < rows.length ∧ x < (b.getD 10 0).toNat ∧
      p = [(b.getD 0 0).toNat + x, (b.getD 1 0).toNat + k, (b.getD 2 0).toNat, (b.getD 3 0).toNat, (b.getD 4 0).toNat] ∧
      q = [(b.getD 5 0).toNat + x, (b.getD 6 0).toNat + rows.getD k 0, (b.getD 7 0).toNat, (b.getD 8 0).toNat, (b.getD 9 0).toNat])

/-- R269: taking a claim on a spool of this device advances RSV by one, or takes a FAILED count back. -/
def ClaimRule : Prop :=
  ∀ (s : State) (r : FlightRef) (n : Dword) (c : Word) (ks : List Nat) (b : List Byte), s.spoolFar n = false → s.spool r n = some (ks, b) →
    let at_ := n ≠ 0 ∧ s.spoolAway r n = false ∧ s.spaceStop r (spSpace n) (spAddr n) 64 true = none
    ((s.spoolSt ks).failed = [] →
      (s.takeSlot r n c).mem = writeKeys s.mem (((ks.drop 28).take 4).zip (toBytes 4 (spRsv b + 1).toNat)) ∧
      (at_ → (spRsv b - spRd b).toNat < spSlots b → s.slotView r n = .claim (spRsv b) b) ∧
      (at_ → spSlots b ≤ (spRsv b - spRd b).toNat → s.slotView r n = .full)) ∧
    (∀ x xs, (s.spoolSt ks).failed = x :: xs → (at_ → s.slotView r n = .claim x b) ∧ (s.takeSlot r n c).mem = s.mem ∧
      ((s.takeSlot r n c).spoolSt ks).failed = (x :: xs).filter (· != c))

end Sys2Proof.Claim

/-- R217, R258–R262, R265 and R269: CPY, CPYG and CPYS are checked at issue in the order of R262, enter the streamer and give their slot
count, or wait for room, for the spool's record or for its page; which elements a copy moves where; what a claim takes. -/
def Obligations.CopiesEnter : Prop :=
  (∀ o : EFmt, CopyIssue (.cpy o) o 0x90 ∧ CopyIssue (.cpyg o) o 0x91 ∧ CopyIssue (.cpys o) o 0x92) ∧ HandleRule ∧ CopyChecks ∧ CopyMaps ∧ ClaimRule

namespace Sys2Proof.Claim

/-- A spool pointer instruction (R267, R271–R273): it takes its place as an event of its lowest acting thread, a release (`rel`) also after every
access of its flight; a bad name traps; a record that is not at hand stops it as an access to it would; a record that is out of reach here, on
another device or on a SPAN page with no live plane (R389), is asked for with a message of kind `kind`. `near` says what it does with the record, `far` with the answer, which a failed operation has not. -/
def SpoolOp (i : Instr) (o : EFmt) (rel : Bool) (kind : RemKind) (near : State → FlightRef → Flight → List Nat → List Byte → Prop)
    (far : State → FlightRef → Flight → Option (List Byte) → Prop) : Prop :=
  Once i o.g (fun s r f =>
    let n := f.s64 o.x.toNat
    let away := nameOk n = true ∧ s.spoolAway r n = true
    let early := f.opDue = none ∧ f.opBuf = none ∧ f.accessesDone = false
    (rel = true → early → exec i s = .next (s.stall r .drain)) ∧
    ((rel = true → ¬ early) →
      (s.det r = false → s.threadClear r (f.lowTid o.g) s.uid = false → exec i s = .next (s.stall r .drain)) ∧
      (s.det r = true → f.opDue = none → 0 < s.spoolClass r n → ¬ away → ∃ t f', exec i s = .next t ∧ t.mem = s.mem ∧
        t.flight? r = some f' ∧ f'.wait = .op ∧ f'.opDue = some (max ((s.part (s.partOf r)).tick + s.spoolClass r n) f.lastE) ∧
        f'.retired = f.retired ∧ RegsKept f f' ∧ PredsKept f f' ∧ f'.fsr = f.fsr) ∧
      (Placed s r f o.g →
        (nameOk n = false → TrapsWith i s r 0x01 4) ∧
        (nameOk n = true → s.spoolAway r n = false →
          (∀ x, s.spaceStop r (spSpace n) (spAddr n) 64 rel = some x → exec i s = .next (s.memStop r (if rel then 3 else 1) x)) ∧
          (s.spaceStop r (spSpace n) (spAddr n) 64 rel = none →
            (s.spool r n = none → TrapsWith i s r 0x01 4) ∧ (∀ ks b, s.spool r n = some (ks, b) → near s r f ks b))) ∧
        (away → ∀ b, f.opBuf = some b → far s r f (if b = [] then none else some b))) ∧
      (away → f.opBuf = none → Placed s r f o.g ∨ (s.det r = true ∧ f.opDue = none ∧ 0 < s.spoolClass r n) →
        ∃ t f', exec i s = .next t ∧ t.mem = s.mem ∧ t.flight? r = some f' ∧ f'.retired = f.retired ∧ RegsKept f f' ∧ PredsKept f f' ∧
          f'.fsr = f.fsr ∧
          (s.reaches (s.partOf r) (s.ctxOf r) = true → f'.wait = .far ∧ ∃ c, look t.srcCtx (s.partOf r * 256 + vaDev n) = some c ∧
            ((∃ p ∈ c.waiting, p.who = .spoolOp r ∧ p.op.kind = kind ∧ p.op.va = BitVec.ofNat 64 (spAddr n)) ∨
              ∃ p ∈ c.queued, p.2.1 = .spoolOp r ∧ p.2.2.kind = kind ∧ p.2.2.va = BitVec.ofNat 64 (spAddr n))) ∧
          (s.reaches (s.partOf r) (s.ctxOf r) = false → f'.opBuf = some [] ∧ (vaDev n < 256 → f'.peer.getLsbD (vaDev n) = true)))))

/-- A spool operation completes: its D register holds `x`; its other registers, predicates and flags are as before. -/
def SpoolGives (i : Instr) (o : EFmt) (s : State) (r : FlightRef) (f : Flight) (m : List Host.Cell) (x : Word) : Prop :=
  ∃ t g, exec i s = .next t ∧ t.mem = m ∧ t.flight? r = some g ∧ g.s o.d.toNat = x ∧ (∀ q, q ≠ o.d.toNat → g.s q = f.s q) ∧
    (∀ l q, q < 256 → g.v l q = f.v l q) ∧ PredsKept f g ∧ g.fsr = f.fsr ∧ g.retired = f.retired + 1 ∧ g.wait = .ready

end Sys2Proof.Claim

/-- R266–R268 and R271–R273: SPINIT writes the whole record and every slot word and gives 0, or gives the code of what hinders it and writes
nothing; SPWAIT waits for a filled slot and gives RD; SPREL, its flight's loads and stores done, advances RD over a filled slot and gives
it, or gives 0xFFFF_FFFF; SPPOS gives RD and WR. A bad name traps ILLEGAL_OP with sub-code 4. On a spool of another device the operation is
sent there and ends with its answer; that an operation without a path gives 0, and that SPWAIT asks again, is the model's choice (log 22).
The polling of a spool of another device is as in log 33. A record that a program has changed reads as a free value (log 31). -/
def Obligations.Spools : Prop :=
  (∀ o : EFmt, PathOp (.spinit o) o.g false (fun _ _ => True) (fun s r f => s.spoolClass r (f.s64 o.p.toNat)) (fun s r f =>
    let n := f.s64 o.p.toNat
    let buf := f.s64 (o.p.toNat + 2)
    let sb := (f.s (o.p.toNat + 4)).toNat
    let p5 := f.s (o.p.toNat + 5)
    let slots := (p5.extractLsb' 0 8).toNat + 1
    let gives := fun (m : List Host.Cell) (x : Word) => ∃ t : State, exec (.spinit o) s = .next (t.retire r (f.setS o.d.toNat x)) ∧
      t.mem = m ∧ t = { s with mem := t.mem, spools := t.spools }
    let badName := nameOk n = false ∨ buf.extractLsb' 56 8 ≠ 0 ∨ buf.toNat % 64 ≠ 0 ∨ p5.extractLsb' 16 16 ≠ 0 ∨ f.s (o.p.toNat + 7) ≠ 0 ∨
      (spSpace n = 0 ∧ (s.isFar (spAddr n) = true ∨ s.isFar buf.toNat = true))
    let badSlots := ¬ (64 ≤ sb ∧ sb ≤ 2 ^ 24 ∧ sb % 64 = 0 ∧ ∃ k, slots = 2 ^ k)
    let mapped := s.spaceMapped r (spSpace n) (spAddr n) (64 + 8 * slots) = true ∧ s.spaceMapped r (spSpace n) buf.toNat (slots * sb) = true
    let active := ∃ ks b, s.spoolRec r n = some (ks, b) ∧ spState b = 1 ∧ (spRsv b ≠ spRd b ∨ spWr b ≠ spRd b)
    (badName → gives s.mem 1) ∧ (¬ badName → badSlots → gives s.mem 2) ∧ (¬ badName → ¬ badSlots → ¬ mapped → gives s.mem 3) ∧
    (¬ badName → ¬ badSlots → mapped →
      (∀ x, s.spaceStop r (spSpace n) (spAddr n) (64 + 8 * slots) true = some x → exec (.spinit o) s = .next (s.memStop r 2 x)) ∧
      (s.spaceStop r (spSpace n) (spAddr n) (64 + 8 * slots) true = none →
        (active → gives s.mem 4) ∧
        (¬ active → (s.planes ≠ 0 → s.spaceKeys r (spSpace n) (spAddr n) (64 + 8 * slots) true ≠ none) ∧
          (∀ ks, s.spaceKeys r (spSpace n) (spAddr n) (64 + 8 * slots) true = some ks →
            gives (writeKeys s.mem (ks.zip (toBytes 8 buf.toNat ++ toBytes 4 sb ++ [p5.extractLsb' 0 8, 0, p5.extractLsb' 8 8, 1] ++
              toBytes 4 (f.s (o.p.toNat + 6)).toNat ++ List.replicate (44 + 8 * slots) 0))) 0) ∧
          (s.spaceKeys r (spSpace n) (spAddr n) (64 + 8 * slots) true = none →
            exec (.spinit o) s = .next (s.retire r ((f.setPeer s.image.devIdx.toNat).setS o.d.toNat 0)))))))) ∧
  (∀ o : EFmt, SpoolOp (.spwait o) o false .load
    (fun s r f _ b =>
      (spWr b = spRd b → exec (.spwait o) s = .next ((s.modFlight r (fun f => { f with opDue := none, opBuf := none })).stall r
        (.spool (f.s64 o.x.toNat)))) ∧
      (spWr b ≠ spRd b → SpoolGives (.spwait o) o s r f s.mem (spRd b)))
    (fun s r f a =>
      (a = none → SpoolGives (.spwait o) o s r f s.mem 0) ∧
      (∀ b, a = some b → (spState b ≠ 1 → TrapsWith (.spwait o) s r 0x01 4) ∧
        (spState b = 1 → spWr b ≠ spRd b → SpoolGives (.spwait o) o s r f s.mem (spRd b)) ∧
        (spState b = 1 → spWr b = spRd b → ∃ t g, exec (.spwait o) s = .next t ∧ t.mem = s.mem ∧ t.flight? r = some g ∧
          g.retired = f.retired ∧ RegsKept f g ∧ PredsKept f g ∧ g.fsr = f.fsr)))) ∧
  (∀ o : EFmt,
    let gives := fun (s : State) (r : FlightRef) (f : Flight) (x y : Word) =>
      exec (.sppos o) s = .next (s.retire r ((f.setS o.d.toNat x).setS (o.d.toNat + 1) y))
    SpoolOp (.sppos o) o false .load (fun s r f _ b => gives s r f (spRd b) (spWr b))
      (fun s r f a => (a = none → gives s r f 0 0) ∧
        (∀ b, a = some b → (spState b ≠ 1 → TrapsWith (.sppos o) s r 0x01 4) ∧ (spState b = 1 → gives s r f (spRd b) (spWr b))))) ∧
  (∀ o : EFmt, SpoolOp (.sprel o) o true .spoolRelease
    (fun s r f ks b =>
      (spWr b = spRd b → exec (.sprel o) s = .next (s.retire r (f.setS o.d.toNat 0xFFFFFFFF))) ∧
      (spWr b ≠ spRd b → SpoolGives (.sprel o) o s r f (writeKeys s.mem (((ks.drop 20).take 4).zip (toBytes 4 (spRd b + 1).toNat)))
        (spRd b + 1)))
    (fun s r f a => (a = none → SpoolGives (.sprel o) o s r f s.mem 0) ∧
      (∀ b, a = some b → SpoolGives (.sprel o) o s r f s.mem (BitVec.ofNat 32 (fieldAt b 0 4)))))

namespace Sys2Proof.Claim

/-- R275: how a copy ends. The record goes to the die's event queue and the flight's copy count falls; while the queue is full, or others wait,
the record waits and the copy stays counted. -/
def RecordRule : Prop :=
  ∀ (s : State) (core k : Nat) (c : Copy) (status nbytes flags count : Nat) (w fl : Nat) (f : Flight), c.owner = .wg w fl →
    s.flight? c.owner = some f → core < 512 →
    let t := s.endCopy core k c status nbytes flags count
    let ring := s.pfRing (48 + core / 128)
    look (t.core core).copies k = none ∧
    (ring.full = false → (s.die (core / 128)).evWait = [] → ∃ g, t.flight? c.owner = some g ∧ g.nCopies = f.nCopies - 1 ∧ RegsKept f g ∧ PredsKept f g ∧
      t.pfRing (48 + core / 128) = { ring with prod := ring.prod + 1 } ∧
      t.mem = writeBytes s.mem (ring.base.toNat + ring.prod.toNat % max ring.size.toNat 1 * 32) (s.copyRecord core c status nbytes flags count)) ∧
    (ring.full = true ∨ (s.die (core / 128)).evWait ≠ [] → t.mem = s.mem ∧ t.flight? c.owner = some f ∧
      (core / 128 < s.dies.length → (t.die (core / 128)).evWait = (s.die (core / 128)).evWait ++
        [(some c.owner, s.copyRecord core c status nbytes flags count)])) ∧
    (let n := number (s.copyRecord core c status nbytes flags count)
     let low := fun (x : Nat) (e : Nat) => x % 2 ^ e
     low status 8 = status → low nbytes 32 = nbytes → low flags 8 = flags → low count 32 = count → low c.op 8 = c.op → fl < 32 →
     s.copyPeer c < 256 →
     n / 2 ^ 192 = s.clk.toNat ∧ n / 2 ^ 160 % 2 ^ 32 = c.lid.toNat ∧ n / 2 ^ 128 % 2 ^ 32 = nbytes ∧ n / 2 ^ 96 % 2 ^ 32 = count ∧
       n / 2 ^ 64 % 2 ^ 32 = c.count.toNat ∧ n / 2 ^ 56 % 2 ^ 8 = s.copyPeer c ∧ n / 2 ^ 48 % 2 ^ 8 = flags ∧ n / 2 ^ 40 % 2 ^ 8 = status ∧
       n / 2 ^ 32 % 2 ^ 8 = c.op ∧ n / 2 ^ 22 % 2 ^ 10 = core ∧ n / 2 ^ 17 % 2 ^ 5 = fl)

end Sys2Proof.Claim

namespace Sys2Proof.Claim

/-- R228, R263, R269, R279: the moves of a copy, one with each COPY_COMPLETE outside deterministic mode: the snapshot of the source once all of
it is at hand; the words for another device, sent; some of the aligned words of this device; the slot word; each advance of WR over a count that
is done; the record. In deterministic mode nothing moves before its tick. -/
def CopyMoves : Prop :=
  ∀ (s : State) (core k : Nat) (c : Copy), look (s.core core).copies k = some c → c.paused = none → c.lost = none →
    let p := s.copyPlan c
    let table := p.2.2.2.1
    let left := (c.rest table).filter (fun q => p.2.1.space != 0 || !s.isFar q.1)
    let moves := fun (m : List Host.Cell) (g : Copy → Prop) => ∃ t c', exec (.copyComplete core k) s = .next t ∧ t.mem = m ∧
      look (t.core core).copies k = some c' ∧ g c'
    (s.det c.owner = true → (c.snap = none → s.now c.owner < c.snapAt) → (c.snap ≠ none → s.now c.owner < c.due) →
      exec (.copyComplete core k) s = .next s) ∧
    (s.det c.owner = false →
      (c.snap = none → c.brought s p.1 p.2.2.1 = true → s.firstBad c.owner c.part c.ctx p.1.space false p.2.2.1 = none →
        let poisoned := s.poisonedSide c.owner c.part c.ctx p.1.space p.2.2.1
        (poisoned = true → exec (.copyComplete core k) s = .next (s.events [.uncorrConsumed ⟨.flight c.owner, none⟩])) ∧
        (poisoned = false → moves s.mem (fun c' => ∃ m, c' = { c with snap := some m } ∧
          ∀ a ∈ p.2.2.1, look m a.toNat = some (s.sideByte (c.past.getD s.mem) c.owner c.part c.ctx p.1.space c.got a)))) ∧
      (c.snap ≠ none → s.copyBad c p.1 p.2.1 p.2.2.1 table = none →
        (c.stage = 0 → moves s.mem (fun c' => c'.stage = 1 ∧ c' = { c with stage := 1, left := c'.left } ∧
          (p.2.1.space ≠ 0 → c'.left = 0) ∧ ((∀ q ∈ table, s.isFar q.1 = false) → c'.left = 0))) ∧
        (c.stage ≠ 0 → left ≠ [] → ∃ ws, ws ≠ [] ∧ (∀ w ∈ ws, ∃ q ∈ left, q.1 / 4 = w) ∧
          moves (s.applyWrites c.owner c.part c.ctx p.2.1.space (left.filter (fun q => ws.contains (q.1 / 4)))).mem
            (fun c' => c' = { c with given := c.given ++ ws })) ∧
        (c.stage ≠ 0 → left = [] → c.left ≠ 0 → exec (.copyComplete core k) s = .next s) ∧
        (c.stage ≠ 0 → left = [] → c.left = 0 →
          let ends := exec (.copyComplete core k) s = .next (s.endCopy core k c 0 table.length (recordFlags p.2.2.2.2) c.elems)
          (c.spool = none → ends) ∧
          (∀ n ks b, c.spool = some n → s.spoolFar n = false → s.spoolRec c.owner n = some (ks, b) →
            (c.stage = 1 → ∀ ws, s.spaceKeys c.owner (spSpace n) c.wordAt 8 true = some ws →
              let count := if c.op = 0x90 then table.length else c.rows.length
              moves (writeKeys s.mem (ws.zip (toBytes 8 count))) (fun c' => c' = { c with stage := 2 })) ∧
            (c.stage ≠ 1 → (s.spoolSt ks).dones.contains (spWr b) = true →
              moves (writeKeys s.mem (((ks.drop 24).take 4).zip (toBytes 4 (spWr b + 1).toNat))) (fun c' => c' = c)) ∧
            (c.stage ≠ 1 → (s.spoolSt ks).dones.contains (spWr b) = false → ends)) ∧
          (∀ n h, c.spool = some n → s.spoolFar n = true → (s.core core).shadow c.part n = some h →
            let shadowed := fun (t : State) (h' : Shadow) => (t.core core).shadow c.part n = some h'
            let goes := fun (h' : Shadow) (c1 : Copy) => ∃ t c', exec (.copyComplete core k) s = .next t ∧ t.mem = s.mem ∧
              look (t.core core).copies k = some c' ∧ c' = { c1 with left := c'.left } ∧ shadowed t h'
            (c.stage = 1 → goes h { c with stage := 2 }) ∧
            (c.stage = 2 → goes { h with st := { h.st with dones := h.st.dones ++ [c.count] } } { c with stage := 3 }) ∧
            (c.stage = 4 → goes { h with wr := h.wr + 1, st := { h.st with dones := h.st.dones.filter (· != h.wr) } } { c with stage := 3 }) ∧
            (c.stage = 3 → h.st.dones.contains h.wr = true →
              (∀ p ∈ (s.core core).copies, p.2.stage ≠ 4 ∨ p.2.spool ≠ some n ∨ p.2.part ≠ c.part) → goes h { c with stage := 4 }) ∧
            (c.stage = 3 → h.st.dones.contains h.wr = false → ends)))))

/-- A copy stops with a status: it delivers some more words of its destination at most; its claimed count becomes FAILED, unless the slot
word already stands; its record says the bytes and the elements it has delivered and the flags of their conversions, and `after` follows
(R270, R275, R276, R278). -/
def CopyStops (i : Instr) (s : State) (core k : Nat) (c : Copy) (status : Nat) (after : State → State) : Prop :=
  ∃ (u : State) (ws : List Nat),
    let c1 := { c with given := c.given ++ ws }
    let n := u.copyTally c1
    exec i s = .next (after ((if u.slotStands c1 then u else u.failSlot core c1).endCopy core k c1 status
      (c1.delivered (u.copyPlan c1).2.2.2.1) n.2 n.1)) ∧
    (c.op = 0x90 → n.1 = ((copyPairs c.op c.block c.rows).filter (fun p =>
      ((u.copyPlan c1).2.1.elemBytes p.2).all (fun a => c1.given.contains (a.toNat / 4)))).length) ∧
    (c.op ≠ 0x90 → n.1 = c.rows.length) ∧
    ∀ key, readByte u.mem key ≠ readByte s.mem key → ∃ q ∈ (s.copyPlan c).2.2.2.1,
      s.byteAt c.owner c.part c.ctx (s.copyPlan c).2.1.space q.1 true = .here key

/-- A copy whose slot word stands has completed: it ends with STATUS OK, after WR of a spool of this device has passed what it can, and
`after` follows (R270; log 33). -/
def CopyCloses (i : Instr) (s : State) (core k : Nat) (c : Copy) (after : State → State) : Prop :=
  ∃ u : State,
    let p := u.copyPlan c
    exec i s = .next (after (u.endCopy core k c 0 p.2.2.2.1.length (recordFlags p.2.2.2.2) c.elems)) ∧
    ∀ n, c.spool = some n → (s.spoolFar n = true → u = s) ∧
      ∀ ks b, s.spoolRec c.owner n = some (ks, b) → ∀ key, readByte u.mem key ≠ readByte s.mem key → key ∈ (ks.drop 24).take 4

/-- R276, R278, R381 and R389: how a copy fails. -/
def CopyFails : Prop :=
  (∀ (s : State) (core k words : Nat) (c : Copy) (a : Int) (b : ByteAt) (wr : Bool), look (s.core core).copies k = some c →
    c.paused = none →
    let p := s.copyPlan c
    s.copyBad c p.1 p.2.1 p.2.2.1 p.2.2.2.1 = some (a, b, wr) →
    (∀ cause, s.engineCause c.part c.ctx b = some cause → CopyStops (.streamerFault core k words) s core k c 3 (fun t => t.deferTrap
      c.owner { cause, sub := 0, kind := 2, info := BitVec.ofInt 64 a, org := some (c.pc, c.ix) })) ∧
    (∀ e, b = .page e → (s.transOf c.part c.ctx).fqsize ≠ 0 →
      (s.faultRoom c.part c.ctx (a.toNat / 4096) = true → ∃ (t : State) (c' : Copy), exec (.streamerFault core k words) s = .next t ∧
        look (t.core core).copies k = some c' ∧ c' = { c with paused := some (a.toNat / 4096) } ∧
        t = (s.faultEntry c.owner c.part c.ctx (BitVec.ofInt 64 a) e (32 + if wr then 2 else 1)).modCopy core k (fun _ => c')) ∧
      (s.faultRoom c.part c.ctx (a.toNat / 4096) = false → exec (.streamerFault core k words) s = .next s))) ∧
  (∀ (s : State) (core k words : Nat) (c : Copy), look (s.core core).copies k = some c →
    let own := s.image.devIdx.toNat
    let cut := ∃ a wr, s.copyBad c (s.copyPlan c).1 (s.copyPlan c).2.1 (s.copyPlan c).2.2.1 (s.copyPlan c).2.2.2.1 = some (a, .cut, wr)
    let gone := s.copyPeer c ≠ own ∧ (c.lost ≠ none ∨ s.reaches c.part c.ctx = false)
    let ends := fun (c0 : Copy) (dev : Nat) =>
      let after := fun (t : State) => t.modFlight c.owner (fun f => f.setPeer dev)
      (s.slotStands c = false → CopyStops (.copyFail core k words) s core k c0 1 after) ∧
      (s.slotStands c = true → CopyCloses (.copyFail core k words) s core k c0 after)
    (cut → ends { c with lost := some own } own) ∧ (¬ cut → gone → ends c (s.copyPeer c)) ∧
    (¬ cut → ¬ gone → exec (.copyFail core k words) s = .next s)) ∧
  (∀ (s : State) (core : Nat) (c : Copy) (n : Dword) (ks : List Nat) (b : List Byte), c.spool = some n → s.spoolFar n = false →
    s.spoolRec c.owner n = some (ks, b) → ((s.failSlot core c).spoolSt ks).failed = (s.spoolSt ks).failed ++ [c.count] ∧
      (s.failSlot core c).mem = s.mem)

end Sys2Proof.Claim

/-- R263, R269, R274–R278 and R376: COPY_COMPLETE moves a copy on, from its snapshot to its record with STATUS OK; a faulting copy stops
with FAULT and leaves a deferred trap, or pauses at a page that can be replayed; a lost path stops it with FAILED, unless its slot is DONE.
Uncorrectable data in its source is consumed (R361). A spool's held copies time out; slot returns reach the shadows, in deterministic mode
to count 2,048 ticks on (R279; log 22), and fetched records enter them, and a failed fetch completes the copy; the die's controller frees
room in its event queue, into which records that wait then go. An event whose condition does not hold leaves the state as it is (log 12). -/
def Obligations.CopiesEnd : Prop :=
  RecordRule ∧ CopyMoves ∧ CopyFails ∧
  (∀ (s : State) (r : FlightRef) (f : Flight) (n : Dword) (t0 : Nat), s.flight? r = some f → f.wait = .copySlot n → f.copyHeld = some t0 →
    let limit := s.spoolLimit r n
    let late := f.stopped = false ∧ s.accessible r = true ∧ limit ≠ 0 ∧ t0 + limit * (if s.det r then 3600 else 1000) < s.now r
    (¬ late → exec (.spoolTimeout r) s = .next s) ∧ (late → TrapsWith (.spoolTimeout r) s r 0x19 0)) ∧
  (∀ (s : State) (part : Nat) (name : Dword) (rd : Word), ∃ t, exec (.slotReturn part name rd) s = .next t ∧ t.mem = s.mem ∧
    (∀ core h, (s.core core).shadow part name = some h → (t.core core).shadow part name =
      let tick := (s.part part).tick
      some (if (rd - h.newest).toNat ≤ spSlots h.spoolRec then
        { h with rd := h.rdAt true tick, later := h.later.filter (fun p => decide (tick < p.1)) ++ [(tick + 2048, rd)] } else h)) ∧
    (∀ w fl f, s.flight? (.wg w fl) = some f → f.wait = .copySlot name → ∃ g, t.flight? (.wg w fl) = some g ∧ g.wait = .ready ∧
      g.retired = f.retired ∧ RegsKept f g)) ∧
  (∀ (s : State) (r : FlightRef) (f : Flight) (n : Dword) (b : List Byte), s.flight? r = some f → f.wait = .shadow n →
    (s.core (s.coreOf r)).shadow (s.partOf r) n = none → s.reaches (s.partOf r) (s.ctxOf r) = true →
    ((s.core (s.coreOf r)).dropShadow.length < 64 → ∃ t g h, exec (.shadowFetch r (some b)) s = .next t ∧ t.mem = s.mem ∧
      t.flight? r = some g ∧ g = { f with wait := .ready } ∧ (t.core (s.coreOf r)).shadow (s.partOf r) n = some h ∧ h.spoolRec = b ∧
      h.rd = spRd b ∧ h.later = [] ∧ h.rsv = spWr b ∧ h.wr = spWr b) ∧
    (64 ≤ (s.core (s.coreOf r)).dropShadow.length → exec (.shadowFetch r (some b)) s = .next s)) ∧
  (∀ (s : State) (r : FlightRef) (f : Flight) (n : Dword) (c : Clause) (w : Dword) (o : EFmt), s.flight? r = some f → f.wait = .shadow n →
    f.clause = some c → c.words[f.ix]? = some w →
    decode f.dctx w = .ok (.cpy o) ∨ decode f.dctx w = .ok (.cpyg o) ∨ decode f.dctx w = .ok (.cpys o) →
    ∃ t g, exec (.shadowFetch r none) s = .next t ∧ t.flight? r = some g ∧ g.s o.d.toNat = 0xFFFFFFFF ∧
      (∀ q, q ≠ o.d.toNat → g.s q = f.s q) ∧ (∀ l q, q < 256 → g.v l q = f.v l q) ∧ PredsKept f g ∧ g.retired = f.retired + 1 ∧
      (vaDev n < 256 → g.peer.getLsbD (vaDev n) = true)) ∧
  (∀ (s : State) (die count : Nat),
    let ring := s.pfRing (48 + die)
    let freed := { ring with cons := ring.cons + BitVec.ofNat 32 (min count (ring.prod - ring.cons).toNat) }
    ((s.die die).evWait = [] → exec (.eventQueueConsume die count) s = .next (s.modPf (48 + die) (fun _ => freed))) ∧
    (∀ owner bs, die < s.dies.length → (s.die die).evWait = [(owner, bs)] → freed.full = false → ∃ t, exec (.eventQueueConsume die count) s = .next t ∧
      (t.die die).evWait = [] ∧ t.pfRing (48 + die) = { freed with prod := ring.prod + 1 } ∧
      t.mem = writeBytes s.mem (ring.base.toNat + ring.prod.toNat % max ring.size.toNat 1 * 32) bs))

/-! ### The matrix engine -/

namespace Sys2Proof.Claim

/-- A tile operation enters its engine's table (R27, R282): it counts in its tile and in its flight; registers, predicates and flags stay;
memory is `m`. -/
def TileEnters (i : Instr) (s : State) (r : FlightRef) (f : Flight) (m : List Host.Cell) (P : State → MxeEntry → Prop) : Prop :=
  ∃ (t : State) (g : Flight) (k : Nat) (en : MxeEntry), exec i s = .next t ∧ t.mem = m ∧ t.flight? r = some g ∧
    look (t.mxe (quadOfCore (s.coreOf r))).entries k = some en ∧ en.owner = r ∧ en.granted = false ∧ en.paused = none ∧
    en.pc = f.header ∧ en.ix = f.ix ∧ P t en ∧
    g.nTiles = f.nTiles + 1 ∧ RegsKept f g ∧ PredsKept f g ∧ g.fsr = f.fsr ∧ g.cb = f.cb ∧ g.accs = f.accs ∧ g.retired = f.retired + 1

/-- The waits of R27 and R282 before an entry is taken. -/
def TileWaits (i : Instr) (s : State) (r : FlightRef) (f : Flight) : Prop :=
  let full := 32 ≤ (s.mxe (quadOfCore (s.coreOf r))).waiting.length
  (14 ≤ f.nTiles → exec i s = .next (s.stall r .drain)) ∧ (f.nTiles < 14 → full → exec i s = .next (s.stall r .mxe))

/-- The tile count and the table have room. -/
def TileRoom (s : State) (r : FlightRef) (f : Flight) : Prop :=
  f.nTiles < 14 ∧ (s.mxe (quadOfCore (s.coreOf r))).waiting.length < 32

/-- R285–R287, R297: a pass instruction. -/
def PassIssue (i : Instr) (o : EFmt) (op : Nat) (scaled : Bool) : Prop :=
  Once i o.g (fun s r f =>
    let b := (List.range 4).map (fun j => f.s (o.p.toNat + j))
    let q := quadOfCore (s.coreOf r)
    let held := (s.mxe q).latch r
    (∀ c sub, s.mmaCheck r f o scaled b = .error (c, sub) → TrapsWith i s r c sub) ∧
    (∀ tile e, s.mmaCheck r f o scaled b = .ok (tile, e) → TileWaits i s r f ∧
      (TileRoom s r f → o.ru = true → held = none → 16 ≤ s.latchesLive q → exec i s = .next (s.stall r .mxe)) ∧
      (TileRoom s r f → (o.ru = true → held = none → s.latchesLive q < 16) →
        TileEnters i s r f (if o.ru = true ∧ held = none then s.claimLatch q else s).mem (fun t en =>
          en.op = op ∧ en.block = b ∧ en.handle = e ∧ en.tile = tile ∧
          (o.ru = true → ∀ L, held = some L → en.a = L.a ∧ en.scales = L.scales ∧ en.cb = L.cb) ∧
          (o.ru = false ∨ held = none → en.cb = f.cb ∧ en.a = f.readA o.v.toNat ∧
            en.scales = if scaled then f.readScales o.x.toNat o.imm.toNat else List.replicate 64 0) ∧
          (o.ru = true → (t.mxe q).latch r = some { owner := r, a := en.a, scales := en.scales, cb := en.cb }) ∧
          (o.ru = false → (t.mxe q).latch r = none)))))

/-- R285 and R286: the bytes of operand A and the scale bytes, lane by lane; an exited lane reads as zero. -/
def OperandA : Prop :=
  ∀ (f : Flight) (v x imm i : Nat), i < 64 →
    let reads := fun (l q : Nat) => if f.exited.getLsbD l then 0 else f.v l q
    (∀ j, j < 64 → (f.readA v).getD (64 * i + j) 0 = (reads (i / 2) (v + 16 * (i % 2) + j / 4)).extractLsb' (8 * (j % 4)) 8) ∧
    (f.readScales x imm).getD i 0 =
      (reads (i / 2) x).extractLsb' (8 * (if i % 2 = 0 then imm % 4 else imm / 4 % 4)) 8

/-- R298: ACCST and ACCLD. -/
def AccIssue (i : Instr) (o : EFmt) (op : Nat) (store quant : Bool) : Prop :=
  Once i o.g (fun s r f =>
    let b := (List.range 4).map (fun j => f.s (o.p.toNat + j))
    (∀ c sub, s.accCheck r f o store quant b = .error (c, sub) → TrapsWith i s r c sub) ∧
    (∀ tile e, s.accCheck r f o store quant b = .ok (tile, e) → TileWaits i s r f ∧
      (TileRoom s r f → TileEnters i s r f s.mem (fun _ en =>
        en.op = op ∧ en.quant = quant ∧ en.block = b ∧ en.handle = e ∧ en.tile = tile))))

/-- R297 and R298: the order of the checks that name a trap. -/
def TileChecks : Prop :=
  ∀ (s : State) (r : FlightRef) (g : Wg) (l : Launch) (f : Flight) (o : EFmt) (b : List Word), s.wgOf r = some g → s.launchOf r = some l →
    (∀ scaled, let res := s.mmaCheck r f o scaled b
      let pairBad := match passPair (mmaA b) (mmaB b) with
        | some (_, plain, scl) => (if scaled then scl else plain) = false
        | none => True
      (mmaZeroBits b = true → res = .error (0x01, 2)) ∧
      (mmaZeroBits b = false → pairBad → res = .error (0x01, 4)) ∧
      (mmaZeroBits b = false → ¬ pairBad → g.accTile (mmaAcc b) = none → res = .error (0x1A, 1)) ∧
      (∀ sub, mmaZeroBits b = false → ¬ pairBad → (g.accTile (mmaAcc b)).isSome → s.handleCheck f l (f.s o.h.toNat) = .error sub →
        res = .error (0x13, sub)) ∧
      (∀ tile e, res = .ok (tile, e) → g.accTile (mmaAcc b) = some tile ∧ s.handleCheck f l (f.s o.h.toNat) = .ok e ∧
        (entryRec e).fmt = mmaB b ∧ (entryRec e).ndim = 2 ∧ (entryRec e).bt = false)) ∧
    (∀ store quant, let res := s.accCheck r f o store quant b
      (accZeroBits b = true → res = .error (0x01, 2)) ∧
      (accZeroBits b = false → 3 < accRm b ∨ (accSat b = true ∧ accFmt b ≠ 4) → res = .error (0x01, 4)) ∧
      (accZeroBits b = false → accBad store quant b = false → g.accTile (accAcc b) = none → res = .error (0x1A, 1)) ∧
      (∀ tile e, res = .ok (tile, e) → g.accTile (accAcc b) = some tile ∧ s.handleCheck f l (f.s o.h.toNat) = .ok e ∧
        (entryRec e).fmt = accFmt b ∧ (entryRec e).ndim = 2 ∧ (entryRec e).bt = false))

end Sys2Proof.Claim

/-- R282, R285–R289, R292, R294 and R296–R300: the six tile operations are checked, wait for room, and take an entry with what they read at
issue; MMA and MMAS fill, use or release the reuse latch; ACCZ binds its name to a fresh tile and ACCREL unbinds it, at entry. -/
def Obligations.TileOperations : Prop :=
  (∀ o : EFmt, PassIssue (.mma o) o 0xA0 false ∧ PassIssue (.mmas o) o 0xA1 true ∧ AccIssue (.accst o) o 0xA3 true (o.f.getLsbD 0) ∧
    AccIssue (.accld o) o 0xA4 false false) ∧
  OperandA ∧ TileChecks ∧
  (∀ o : EFmt, Once (.accz o) o.g (fun s r f => ∀ w fl g, r = .wg w fl → look s.wgs w = some g →
    let n := (o.imm.extractLsb' 0 3).toNat
    let q := quadOfCore g.core
    TileWaits (.accz o) s r f ∧ (TileRoom s r f → TileEnters (.accz o) s r f s.mem (fun t en =>
      en.op = 0xA2 ∧ en.tile = s.uid ∧
      look (t.mxe q).tiles s.uid = some { wg := w, name := n, granted := false, bound := true, ops := 1, vals := [], eff := 0, phys := 0 } ∧
      ∃ g', look t.wgs w = some g' ∧ (n < g.acc.length → g'.accTile n = some s.uid) ∧ ∀ k, k ≠ n → g'.accTile k = g.accTile k)))) ∧
  (∀ o : EFmt, Once (.accrel o) o.g (fun s r f => ∀ w fl g, r = .wg w fl → look s.wgs w = some g →
    let n := (o.imm.extractLsb' 0 3).toNat
    (g.accTile n = none → TrapsWith (.accrel o) s r 0x1A 1) ∧
    (∀ k T, g.accTile n = some k → look (s.mxe (quadOfCore g.core)).tiles k = some T → TileWaits (.accrel o) s r f ∧
      (TileRoom s r f → TileEnters (.accrel o) s r f s.mem (fun t en =>
        en.op = 0xA5 ∧ en.tile = k ∧
        look (t.mxe (quadOfCore g.core)).tiles k = some { T with bound := false, ops := T.ops + 1 } ∧
        ∃ g', look t.wgs w = some g' ∧ g'.accTile n = none ∧ ∀ j, j ≠ n → g'.accTile j = g.accTile j)))))

namespace Sys2Proof.Claim

/-- R284, R290 and R291: what a pass does to one accumulator value: group by group, in increasing order, the group's sum is added. -/
def PassRule : Prop :=
  (∀ (s : State) (e : MxeEntry) (vals : List Word) (i j : Nat), i < 64 → j < 128 → vals.length = 8192 →
    (s.passResult e vals).length = 8192 ∧ (s.passResult e vals).getD (128 * i + j) 0 = passValue (mmaSat e.block) (vals.getD (128 * i + j) 0)
      ((List.range (mmaK e.block)).map (fun k => (aValue e i k).times (s.bValue e k j)))) ∧
  (∀ (sat : Bool) (c : Word) (ps qs : List FVal), ps.length = 32 →
    passValue sat c ps = BitVec.ofNat 32 (accumulate sat c.toNat (groupSum sat ps)) ∧
    (qs.length % 32 = 0 → passValue sat c (qs ++ ps) =
      BitVec.ofNat 32 (accumulate sat ((groupsOf (qs.length / 32) qs).foldl (fun c g => accumulate sat c (groupSum sat g)) c.toNat)
        (groupSum sat ps)))) ∧
  (∀ (sat : Bool) (ps : List FVal),
    ((∃ p ∈ ps, p.isNan = true) ∨ (FVal.inf true ∈ ps ∧ FVal.inf false ∈ ps) → groupSum sat ps = 0x7FC00000) ∧
    ((∀ p ∈ ps, p.isNan = false) → FVal.inf true ∈ ps → FVal.inf false ∉ ps → groupSum sat ps = 0xFF800000) ∧
    ((∀ p ∈ ps, p.isNan = false) → FVal.inf false ∈ ps → FVal.inf true ∉ ps → groupSum sat ps = 0x7F800000) ∧
    ((∀ p ∈ ps, ∃ e, p = .fin { neg := true, m := 0, e }) → groupSum sat ps = 0x80000000) ∧
    ((∀ p ∈ ps, ∃ n e, p = .fin { neg := n, m := 0, e }) → (∃ e, FVal.fin { neg := false, m := 0, e } ∈ ps) → groupSum sat ps = 0))

/-- R302: which result of the runs of a checked pass is used, and the verdict. -/
def JudgeRule : Prop :=
  ∀ (c : Nat) (a b d old : List Word),
    (a = b → judge c a b d old = (a, .equal)) ∧
    (a ≠ b → d = a → judge c a b d old = (a, .transient ((differingRows a b).map (fun i => (i + 64 - (c % 63 + 1)) % 64)))) ∧
    (a ≠ b → d ≠ a → d = b → judge c a b d old = (b, .transient (differingRows a b))) ∧
    (a ≠ b → d ≠ a → d ≠ b → judge c a b d old = (old, .uncorrectable))

/-- R303: two checks among the last 256 that blame one physical row fence the engine, and every partition loses the quad. -/
def LastingRule : Prop :=
  ∀ (s : State) (q : Nat) (owner : FlightRef) (rows : List Nat) (i n : Nat), i ∈ rows → (n, i) ∈ (s.mxe q).blamed →
    (s.mxe q).checks < n + 256 → (s.mxe q).fenced = false → q < 128 →
    ((s.verdict q owner (.transient rows)).mxe q).fenced = true ∧
    ∀ k, k < s.parts.length → ((s.verdict q owner (.transient rows)).part k).desc.quads.getLsbD q = false

end Sys2Proof.Claim

namespace Sys2Proof.Claim

/-- R228, R295 and R298: how a granted operation completes. An ACCST outside deterministic mode moves with each TILE_OP_COMPLETE: the words for
another device go out; some of the aligned words of this device are written; with the last it leaves. In deterministic mode it writes all of
them at its tick. Any other operation leaves at once. -/
def TileCompletes : Prop :=
  ∀ (s : State) (q k : Nat) (e : MxeEntry) (T : Tile) (f : Flight), look (s.mxe q).entries k = some e → look (s.mxe q).tiles e.tile = some T →
    sorted (s.mxe q).tiles = true → e.granted = true → e.paused = none → s.flight? e.owner = some f →
    let table := (storedTile e).1
    let left := table.filter (fun p => !(accSpace e.block == 0 && s.isFar p.1) && !e.given.contains (p.1 / 4))
    let leaves := fun (m : List Host.Cell) (flags : Byte) => ∃ t g, exec (.tileOpComplete q k) s = .next t ∧ t.mem = m ∧
      look (t.mxe q).entries k = none ∧
      look (t.mxe q).tiles e.tile = (if T.bound = true ∨ T.ops - 1 ≠ 0 then some { T with ops := T.ops - 1 } else none) ∧
      t.flight? e.owner = some g ∧ g.nTiles = f.nTiles - 1 ∧ g.fsr = f.fsr ||| flags.setWidth 32 ∧ RegsKept f g ∧ PredsKept f g
    let moves := fun (m : List Host.Cell) (x : MxeEntry → Prop) => ∃ t e', exec (.tileOpComplete q k) s = .next t ∧ t.mem = m ∧
      look (t.mxe q).entries k = some e' ∧ x e'
    (s.det e.owner = true → s.now e.owner < e.due → exec (.tileOpComplete q k) s = .next s) ∧
    (s.det e.owner = false ∨ e.due ≤ s.now e.owner → e.op ≠ 0xA3 → leaves s.mem e.flags) ∧
    (e.op = 0xA3 → s.matBad e = [] → s.det e.owner = true → e.due ≤ s.now e.owner → s.tileFar e = [] →
      (∀ p ∈ table, accSpace e.block = 0 → s.isFar p.1 = false) → e.left = 0 →
      leaves (s.applyWrites e.owner e.part e.ctx (accSpace e.block) left).mem (storedTile e).2) ∧
    (e.op = 0xA3 → s.matBad e = [] → s.det e.owner = false →
      (e.sent = false → moves s.mem (fun e' => e'.sent = true ∧ e'.given = e.given)) ∧
      (e.sent = true → left ≠ [] → ∃ ws, ws ≠ [] ∧ (∀ w ∈ ws, ∃ p ∈ left, p.1 / 4 = w) ∧
        moves (s.applyWrites e.owner e.part e.ctx (accSpace e.block) (left.filter (fun p => ws.contains (p.1 / 4)))).mem
          (fun e' => e' = { e with given := e.given ++ ws })) ∧
      (e.sent = true → left = [] → e.left ≠ 0 → e.lost = none → exec (.tileOpComplete q k) s = .next s) ∧
      (e.sent = true → left = [] → e.left = 0 ∨ e.lost ≠ none → leaves s.mem (storedTile e).2))

end Sys2Proof.Claim

/-- R282–R284, R290–R295 and R298–R303: MXE_GRANT performs the arbiter's entry: a pass adds its products to its tile, ACCZ zeroes its tile,
ACCST reads its tile, ACCLD loads it, or consumes uncorrectable data in its source (R361). Any other entry is left. TILE_OP_COMPLETE writes
an ACCST's codes, word by word, and lowers the tile count; a fault of the memory side pauses the operation or stops it, and a SPAN page
without a plane is lost to it (R389); a waiting entry rises. An event whose condition does not hold leaves the state as it is (log 12). -/
def Obligations.TileEvents : Prop :=
  PassRule ∧ JudgeRule ∧ LastingRule ∧
  (∀ (s : State) (q k : Nat), (s.arbiter q ≠ some k ∨ (s.mxe q).fenced = true) → exec (.mxeGrant q k) s = .next s) ∧
  (∀ (s : State) (q k : Nat) (e : MxeEntry) (T : Tile), look (s.mxe q).entries k = some e → look (s.mxe q).tiles e.tile = some T →
    s.arbiter q = some k → (s.mxe q).fenced = false → (s.det e.owner = true ∨ (s.mxe q).freeAt ≤ s.clk.toNat) →
    let every := (s.die (q / 32)).mxchk
    let n := (s.mxe q).passes + 1
    (e.op = 0xA0 ∨ e.op = 0xA1 → every = 0 ∨ n % every ≠ 0 → ∃ t T' en, exec (.mxeGrant q k) s = .next t ∧ t.mem = s.mem ∧
      look (t.mxe q).tiles e.tile = some T' ∧ T'.vals = s.passResult e T.vals ∧ T'.ops = T.ops ∧ T'.bound = T.bound ∧
      (∀ j, j ≠ e.tile → look (t.mxe q).tiles j = look (s.mxe q).tiles j) ∧ (t.mxe q).passes = n ∧
      look (t.mxe q).entries k = some en ∧ en.granted = true ∧ (s.det e.owner = true → en.due = s.now e.owner + 16 ∧ T'.eff = en.due)) ∧
    (e.op = 0xA0 ∨ e.op = 0xA1 → every ≠ 0 → n % every = 0 → ∃ (t : State) (T' : Tile) (run : Nat → List Word), exec (.mxeGrant q k) s = .next t ∧
      (∀ x, run x = checkedRun (3 * s.free + x) (s.passResult e T.vals)) ∧ look (t.mxe q).tiles e.tile = some T' ∧
      T'.vals = (judge ((s.mxe q).checks + 1) (run 0) (run 1) (run 2) T.vals).1 ∧ t.mem = s.mem ∧ (t.mxe q).passes = n ∧
      (t.mxe q).checks = (s.mxe q).checks + 1 ∧ t.free = s.free + 1) ∧
    (let room := ((s.mxe q).tiles.filter (fun p => p.2.granted)).length < 32
     e.op = 0xA2 → room ∨ T.granted = false → ∃ t T', exec (.mxeGrant q k) s = .next t ∧ (room → t.mem = s.mem) ∧
      look (t.mxe q).tiles e.tile = some T' ∧ T'.granted = true ∧ T'.bound = T.bound ∧ T'.vals = List.replicate 8192 0) ∧
    (e.op = 0xA3 → ∃ t T' en, exec (.mxeGrant q k) s = .next t ∧ t.mem = s.mem ∧ look (t.mxe q).tiles e.tile = some T' ∧ T'.vals = T.vals ∧
      look (t.mxe q).entries k = some en ∧ en.granted = true ∧ en.a = T.vals.flatMap (fun v => toBytes 4 v.toNat)) ∧
    (let poisoned := s.poisonedSide e.owner e.part e.ctx (accSpace e.block) e.addrs
     e.op = 0xA4 → (poisoned = true → exec (.mxeGrant q k) s = .next (s.events [.uncorrConsumed ⟨.flight e.owner, none⟩])) ∧
      (poisoned = false → ∃ t T' en, exec (.mxeGrant q k) s = .next t ∧ t.mem = s.mem ∧ look (t.mxe q).tiles e.tile = some T' ∧
      T'.vals = (s.loadedTile e).1 ∧ look (t.mxe q).entries k = some en ∧ en.granted = true ∧ en.flags = (s.loadedTile e).2))) ∧
  TileCompletes ∧
  (∀ (s : State) (q k : Nat) (e : MxeEntry) (va : Dword) (a : Int) (b : ByteAt), look (s.mxe q).entries k = some e → e.paused = none →
    ((e.op = 0xA3 ∧ e.granted = true) ∨ (e.op = 0xA4 ∧ e.granted = false ∧ (s.mxe q).first k e = true)) → (a, b) ∈ s.matBad e →
    a = va.toNat →
    (∀ w, (s.matBad e).find? (fun p => p.1 == (va.toNat : Int)) = some (a, .page w) → (s.transOf e.part e.ctx).fqsize ≠ 0 →
      (s.faultRoom e.part e.ctx (va.toNat / 4096) = true →
        exec (.matrixFault q k va) s = .next ((s.faultEntry e.owner e.part e.ctx (BitVec.ofInt 64 a) w (32 + if e.op = 0xA3 then 2 else 1)).modMxe
          q (fun m => { m with entries := put m.entries k { e with paused := some (va.toNat / 4096) } }))) ∧
      (s.faultRoom e.part e.ctx (va.toNat / 4096) = false → exec (.matrixFault q k va) s = .next s)) ∧
    ((s.matBad e).find? (fun p => p.1 == (va.toNat : Int)) = some (a, .cut) →
      exec (.matrixFault q k va) s = .next (s.loseTile q k s.image.devIdx.toNat)) ∧
    (∀ cause, (s.matBad e).find? (fun p => p.1 == (va.toNat : Int)) = some (a, b) → s.engineCause e.part e.ctx b = some cause →
      ∃ u : State, exec (.matrixFault q k va) s = .next ((u.endTileOp q k e 0).deferTrap e.owner
          { cause, sub := 0, kind := 2, info := va, org := some (e.pc, e.ix) }) ∧
        ∀ key, readByte u.mem key ≠ readByte s.mem key → e.op = 0xA3 ∧ ∃ p ∈ (storedTile e).1,
          s.byteAt e.owner e.part e.ctx (accSpace e.block) p.1 true = .here key)) ∧
  (∀ (s : State) (q k : Nat) (e : MxeEntry), look (s.mxe q).entries k = some e →
    let wait := (256 * 1000 + s.mhz - 1) / s.mhz
    (e.granted = true ∨ 3 ≤ e.prio ∨ s.det e.owner = true ∨ s.clk.toNat < e.since + wait →
      exec (.mxePrioRaise q k) s = .next s) ∧
    (e.granted = false → e.prio < 3 → s.det e.owner = false → e.since + wait ≤ s.clk.toNat →
      ∃ e', e' = { e with prio := e.prio + 1, since := e.since + wait } ∧
        exec (.mxePrioRaise q k) s = .next (s.modMxe q (fun m => { m with entries := put m.entries k e' }))))

/-! ### The estimator -/

namespace Sys2Proof.Claim

/-- R323 and R324: an estimator instruction is sent with its lanes and what they hold; a posted form retires, a waiting form holds its
flight until the reply. -/
def EstIssue (i : Instr) (g : BitVec 4) (posted : Bool) (data : Flight → Nat → Nat × Nat) : Prop :=
  Once i g (fun s r f => ∀ l w, s.launchOf r = some l → s.wgOf r = some w →
    let estimating := fieldAt l.record 0x10 8 / 2 ^ 42 % 2 = 1
    (¬ estimating → TrapsWith i s r 0x1B 3) ∧
    (estimating → ∃ (t : State) (h : Flight) (op : EstOp), exec i s = .next t ∧ t.mem = s.mem ∧ look t.estQ s.uid = some op ∧ op.owner = r ∧
      op.launch = w.launch ∧ op.instr = i ∧ op.posted = posted ∧ op.held = false ∧ op.det = s.det r ∧ op.due = max (s.now r + 256) f.lastEstE ∧ op.pc = f.header ∧ op.ix = f.ix ∧
      op.lanes = (f.estLanes g).map (fun l => (l, data f l)) ∧
      t.flight? r = some h ∧ h.nEst = f.nEst + 1 ∧ RegsKept f h ∧ PredsKept f h ∧ h.fsr = f.fsr ∧
      (posted = true → h.retired = f.retired + 1) ∧
      (posted = false → h.wait = .reply s.uid ∧ h.retired = f.retired ∧ h.ix = f.ix)))

end Sys2Proof.Claim

/-- R323–R328: DRAW, ESMP, ESTAT and ESTOP go to the estimator with their participating lanes and, for ESMP, each lane's position and
sample; outside an estimating launch each traps DECK with sub-code 3. -/
def Obligations.EstimatorIssues : Prop :=
  ∀ o : EFmt,
    let sample := fun (f : Flight) (l : Nat) => ((f.v64 l o.v.toNat).toNat, (f.v l o.x.toNat).toNat)
    EstIssue (.draw o) o.g false (fun _ _ => (0, 0)) ∧ EstIssue (.esmp o) o.g false sample ∧ EstIssue (.esmpPost o) o.g true sample ∧
    EstIssue (.estat o) o.g false (fun _ _ => (0, 0)) ∧ EstIssue (.estop o) o.g true (fun _ _ => (0, 0))

/-- R313 and R314: the deck of each mode, as the rules compute it. With m the least number of bits that hold the positions, perm(j) is the first
value below N that the steps of the mode reach from j; with seed 0 the second key is the check value; the worked deck of five. -/
def Sys2Proof.Claim.DeckRule : Prop :=
  (∀ (d : Deck) (m : Nat), d.n ≤ 2 ^ m → (m = 0 ∨ 2 ^ (m - 1) < d.n) → d.seed < 2 ^ 64 → d.mode ≤ 1 →
    let affine := fun (x : Nat) =>
      let y := ((d.seed % 2 ^ 32 ||| 1) % 2 ^ m * x + d.seed / 2 ^ 32 % 2 ^ m) % 2 ^ m
      y ^^^ (y >>> ((m + 1) / 2))
    let fin := fun (z : Nat) =>
      let y := (z ^^^ (z >>> 30)) * 0xBF58476D1CE4E5B9 % 2 ^ 64
      let x := (y ^^^ (y >>> 27)) * 0x94D049BB133111EB % 2 ^ 64
      x ^^^ (x >>> 31)
    let h := (m + 1) / 2
    let key := fun (i : Nat) => fin ((d.seed + i * 0x9E3779B97F4A7C15) % 2 ^ 64)
    let round := fun (p : Nat × Nat) (i : Nat) => (p.2, p.1 ^^^ (fin (p.2 ^^^ key i) % 2 ^ h))
    let feistel := fun (x : Nat) =>
      let p := round (round (round (round (x / 2 ^ h, x % 2 ^ h) 0) 1) 2) 3
      p.1 * 2 ^ h + p.2
    let move := if d.mode = 0 then affine else feistel
    (d.seed = 0 → key 0 = 0 ∧ key 1 = 0xE220A8397B1DCDAF) ∧
    ∀ j, j < d.n → ∃ k, d.perm j = Nat.repeat move (k + 1) j ∧ d.perm j < d.n ∧
      ∀ i, 0 < i → i ≤ k → d.n ≤ Nat.repeat move i j) ∧
  (∀ d : Deck, d.n = 5 → d.mode = 0 → d.seed = 0x0000000200000003 → (List.range 5).map d.perm = [2, 4, 0, 3, 1])

/-- R312: the deck of either mode is a permutation of its positions: every position maps to an item below the deck's size, and no
two to one item. -/
def Sys2Proof.Claim.DeckIsPermutation : Prop :=
  ∀ d : Deck, 1 ≤ d.n → d.mode ≤ 1 → (∀ j, j < d.n → d.perm j < d.n) ∧ ∀ i j, i < d.n → j < d.n → d.perm i = d.perm j → i = j

/-- R313 and R314: the deck of either mode is computed as the rules say, and is a permutation of its positions. -/
def Obligations.DeckPermutes : Prop := Sys2Proof.Claim.DeckRule ∧ Sys2Proof.Claim.DeckIsPermutation

namespace Sys2Proof.Claim

/-- R325: which positions a DRAW gives: none when nothing is to be had; those of the reissue list first; else the next ones from the cursor,
in ascending lane order; none beyond the 64 open rounds. -/
def DealRule : Prop :=
  ∀ (d : Deck) (r : Run) (tether : Nat) (ls : List Nat),
    (dealOut d false ls tether r [] = some ([], r)) ∧
    (r.reissue = [] → d.n ≤ r.cursor → dealOut d true ls tether r [] = some ([], r)) ∧
    (r.reissue = [] → r.cursor + ls.length ≤ d.n → (∀ j, j < r.cursor + ls.length → j / d.k < r.merged + 64) →
      ∃ r', dealOut d true ls tether r [] = some (ls.zip (List.range' r.cursor ls.length), r') ∧ r'.cursor = r.cursor + ls.length ∧
        r' = { r with cursor := r'.cursor, drawn := r'.drawn } ∧
        ∀ j, r.cursor ≤ j → j < r.cursor + ls.length → look r'.drawn j = some tether) ∧
    (∀ l j js, ls = [l] → r.reissue = j :: js → j / d.k < r.merged + 64 → ∃ r', dealOut d true ls tether r [] = some ([(l, j)], r') ∧
      r'.cursor = r.cursor ∧ r'.reissue = js) ∧
    (ls ≠ [] → r.reissue = [] → r.cursor < d.n → r.merged + 64 ≤ r.cursor / d.k → dealOut d true ls tether r [] = none)

/-- R317 and R318: how a sample enters its round, a negative one as the negative of its magnitude; a skip only resolves its position; a NaN marks the round. -/
def SampleRule : Prop :=
  ∀ (r : Run) (k j : Nat),
    let a := (look r.rounds (j / k)).getD { c := 0, s := 0, q := 0, bad := false }
    (r.resolve k j none).2 = false ∧ (r.resolve k j none).1 = { r with
      resolved := r.resolved ++ [j], drawn := (r.resolve k j none).1.drawn, reissue := (r.resolve k j none).1.reissue } ∧
    (∀ x v esr, sampleVal x = some (v, esr) → (r.resolve k j (some x)).2 = esr ∧
      look (r.resolve k j (some x)).1.rounds (j / k) = some { c := a.c + 1, s := a.s + v, q := a.q + (v * v).toNat, bad := a.bad }) ∧
    (∀ x, sampleVal x = none → look (r.resolve k j (some x)).1.rounds (j / k) = some { a with bad := true }) ∧
    sampleVal 0 = some (0, false) ∧ (∀ x, x < 2 ^ 31 → sampleVal (2 ^ 31 + x) = (sampleVal x).map (fun p => (-p.1, p.2))) ∧
    (∀ x, x < 2 ^ 32 → (sampleVal x = none ↔ x / 2 ^ 23 % 2 ^ 8 = 255 ∧ x % 2 ^ 23 ≠ 0)) ∧
    (∀ x, x < 2 ^ 31 → 0 < x → x / 2 ^ 23 < 87 → sampleVal x = some (0, true)) ∧
    (∀ x, x < 2 ^ 31 → 0x53800000 < x → x ≤ 0x7F800000 → sampleVal x = some (2 ^ 104, true)) ∧
    (∀ x, 87 ≤ x / 2 ^ 23 → x ≤ 0x53800000 → sampleVal x = some ((((2 ^ 23 + x % 2 ^ 23) * 2 ^ (x / 2 ^ 23 - 86) : Nat) : Int), false))

/-- R319 and R320: a merge of a marked round only stops the run, INVALID; of an empty one leaves the statistics; a first one takes the
round's; a later one moves the mean and adds to M2. The next round's number follows, and the stop test decides by its first row that holds. -/
def MergeRule : Prop :=
  ∀ (r : Run) (d : Deck) (now : Nat),
    let a := (look r.rounds r.merged).getD { c := 0, s := 0, q := 0, bad := false }
    (a.bad = true → r.merge d now = { r with status := 6, stopAt := now }) ∧
    (a.bad = false → (r.merge d now).merged = r.merged + 1 ∧ (r.merge d now).n = r.n + a.c ∧
      (a.c = 0 → (r.merge d now).mean = r.mean ∧ (r.merge d now).m2 = r.m2) ∧
      (let mr := rn64 ⟨a.s, a.c * 2 ^ 64⟩
       let qr := rn64 (Frac.add ⟨a.q, 2 ^ 128⟩ (Frac.neg ⟨a.s * a.s, a.c * 2 ^ 128⟩))
       let delta := q64 (rn64 ((q64 mr).add (q64 r.mean).neg))
       a.c ≠ 0 →
        (r.n = 0 → (r.merge d now).mean = mr ∧ (r.merge d now).m2 = qr) ∧
        (r.n ≠ 0 → (r.merge d now).mean = rn64 ((q64 r.mean).add (q64 (rn64 (delta.mul ⟨a.c, r.n + a.c⟩)))) ∧
          (r.merge d now).m2 = rn64 (((q64 r.m2).add (q64 qr)).add ((delta.mul delta).mul ⟨(r.n : Int) * a.c, r.n + a.c⟩))))) ∧
    (∀ t, let u := r.stopTest d t now
      (r.n < d.nmin → r.n < d.nmax → u.h = r.h ∧
        u.status = (if t = d.lastRound then 3 else if r.stopReq = true then 4 else r.status)) ∧
      (d.nmin ≤ r.n → (q64 u.h).num * (Frac.ofCode .fp32 d.tol).den ≤ (Frac.ofCode .fp32 d.tol).num * (q64 u.h).den → u.status = 1) ∧
      (d.nmin ≤ r.n → ¬ (q64 u.h).num * (Frac.ofCode .fp32 d.tol).den ≤ (Frac.ofCode .fp32 d.tol).num * (q64 u.h).den →
        u.status = (if d.nmax ≤ r.n then 2 else if t = d.lastRound then 3 else if r.stopReq = true then 4 else r.status)) ∧
      u.n = r.n ∧ u.mean = r.mean ∧ u.m2 = r.m2)

/-- R327: the twelve registers of ESTAT. -/
def StatRule : Prop :=
  ∀ r : Run, r.n < 2 ^ 64 → r.merged < 2 ^ 64 → r.status < 16 →
    let at_ := fun (i : Nat) => r.stat.getD i 0
    at_ 1 ++ at_ 0 = BitVec.ofNat 64 r.n ∧ at_ 3 ++ at_ 2 = r.mean ∧ at_ 5 ++ at_ 4 = r.m2 ∧ at_ 7 ++ at_ 6 = r.h ∧
    at_ 8 = BitVec.ofNat 32 (r.status + if r.altered then 16 else 0) ∧ at_ 9 = BitVec.ofNat 32 (min r.discards (2 ^ 32 - 1)) ∧
    at_ 11 ++ at_ 10 = BitVec.ofNat 64 r.merged

/-- R322 and R326: the lanes of an ESMP enter the run in turn: a position past a stopped run's stop round is discarded, any other resolved, with its
sample unless it is skipped; the lanes accepted, and whether a sample was altered. -/
def enters (k : Nat) (skip : Bool) : List (Nat × (Nat × Nat)) → Run → Run × (List Nat × Bool)
  | [], r => (r, ([], false))
  | (lane, (j, x)) :: rest, r =>
    if r.status ≠ 0 ∧ (if r.status = 6 then r.merged < j / k else r.merged ≤ j / k) then enters k skip rest { r with discards := r.discards + 1 }
    else
      let a := r.resolve k j (if skip then none else some x)
      let b := enters k skip rest a.1
      (b.1, (lane :: b.2.1, a.2 || b.2.2))

end Sys2Proof.Claim

/-- R315–R320, R322 and R324–R328: ESTIMATOR_APPLY applies one operation, and discards one of a run that is over (R316): DRAW's positions
and their items reach its lanes, or it waits for a merge; ESMP's check, and the samples it enters; ESTAT's registers, held until the stop
under `.stop`; ESTOP's request. In deterministic mode none before its tick. An event whose condition does not hold leaves the state as it is
(log 12). -/
def Obligations.EstimatorApplies : Prop :=
  DealRule ∧ SampleRule ∧ MergeRule ∧ StatRule ∧
  (∀ (s : State) (k : Nat), look s.estQ k = none → exec (.estimatorApply k) s = .next s) ∧
  (∀ (s : State) (k : Nat) (op : EstOp), look s.estQ k = some op → op.det = true →
    (s.part op.part).cur ≠ some op.ctx ∨ (s.part op.part).tick < op.due → exec (.estimatorApply k) s = .next s) ∧
  (∀ (s : State) (k slot : Nat) (op : EstOp) (r : Run) (l : Launch) (f : Flight), look s.estQ k = some op →
    (op.det = true → (s.part op.part).cur = some op.ctx ∧ op.due ≤ (s.part op.part).tick) → s.runOf op.launch = some (slot, r) →
    look s.launches op.launch = some l → s.flight? op.owner = some f →
    let d := deckOf l.record
    let tether := ((s.wgOf op.owner).map (·.tether)).getD 0
    let leaves := fun (t : State) (g : Flight) => exec (.estimatorApply k) s = .next t ∧ t.mem = s.mem ∧ t.flight? op.owner = some g ∧
      look t.estQ k = none ∧ g.nEst = f.nEst - 1 ∧ (f.wait = .reply k → g.wait = .ready ∧ g.retired = f.retired + 1)
    (r.closed = true → ∃ t g, leaves t g ∧ t.runs = s.runs ∧ RegsKept f g ∧ PredsKept f g ∧ g.fsr = f.fsr) ∧
    (r.closed = false →
      (∀ o, op.instr = .draw o → (op.lanes.map (·.1)).Nodup → (∀ p ∈ op.lanes, p.1 < 32) → o.v.toNat + 4 ≤ 256 →
        let answers := fun (out : List (Nat × Nat)) (r' : Run) => ∃ (t : State) (g : Flight), leaves t g ∧ t.runOf op.launch = some (slot, r') ∧
          g.s o.d.toNat = BitVec.ofNat 32 out.length ∧ (∀ q, q ≠ o.d.toNat → g.s q = f.s q) ∧
          (∀ p ∈ out, g.v64 p.1 o.v.toNat = BitVec.ofNat 64 (d.perm p.2) ∧ g.v64 p.1 (o.v.toNat + 2) = BitVec.ofNat 64 p.2) ∧
          (∀ i q, q < 256 → (∀ p ∈ out, p.1 ≠ i) ∨ q < o.v.toNat ∨ o.v.toNat + 4 ≤ q → g.v i q = f.v i q) ∧
          (∀ p ∈ op.lanes, (o.imm.extractLsb' 0 3).toNat < 7 → g.p p.1 (o.imm.extractLsb' 0 3).toNat = out.any (fun x => x.1 == p.1)) ∧
          ((o.x.extractLsb' 0 3).toNat < 7 → g.q (o.x.extractLsb' 0 3).toNat = !out.isEmpty) ∧ g.fsr = f.fsr
        ∃ late : Bool, (r.status = 0 → late = true) ∧
          (r.status ≠ 0 → op.det = true ∨ op.held = true ∨ r.stopAt + 2000 ≤ s.clk.toNat → late = false) ∧
          (dealOut d late (op.lanes.map (·.1)) tether r [] = none →
            (r.status = 0 → exec (.estimatorApply k) s = .next { s with free := s.free + 1, estQ := put s.estQ k { op with held := true } }) ∧
            (r.status ≠ 0 → answers [] r)) ∧
          (∀ out r', dealOut d late (op.lanes.map (·.1)) tether r [] = some (out, r') → answers out r')) ∧
      (∀ o, op.instr = .esmp o ∧ op.posted = false ∨ op.instr = .esmpPost o ∧ op.posted = true →
        (∀ sub, esmpBad d r (op.lanes.map (fun p => p.2.1)) = some sub →
          (op.posted = false → ∃ u : State, exec (.estimatorApply k) s = .next (u.trap op.owner
              { cause := 0x1B, sub, kind := 0, info := 0, org := none }) ∧ u.runs = s.runs ∧ u.mem = s.mem ∧ look u.estQ k = none) ∧
          (op.posted = true → ∃ u : State, exec (.estimatorApply k) s = .next (u.deferTrap op.owner
              { cause := 0x1B, sub, kind := 2, info := 0, org := some (op.pc, op.ix) }) ∧ u.runs = s.runs ∧ u.mem = s.mem ∧ look u.estQ k = none)) ∧
        (esmpBad d r (op.lanes.map (fun p => p.2.1)) = none → (op.lanes.map (·.1)).Nodup → (∀ p ∈ op.lanes, p.1 < 32) →
          let e := enters d.k (o.imm.getLsbD 3) op.lanes r
          ∃ (t : State) (g : Flight), leaves t g ∧ t.runOf op.launch = some (slot, Run.mergeAll d s.clk.toNat (d.n + 1) e.1) ∧
            (∀ i q, q < 256 → g.v i q = f.v i q) ∧ g.fsr = (if e.2.2 = true then f.fsr ||| fESR.setWidth 32 else f.fsr) ∧
            (op.posted = true → (∀ q, g.s q = f.s q) ∧ PredsKept f g) ∧
            (op.posted = false → g.s o.d.toNat = BitVec.ofNat 32 e.2.1.length ∧ (∀ q, q ≠ o.d.toNat → g.s q = f.s q) ∧ (∀ i, g.q i = f.q i) ∧
              ∀ i n, n < 7 → g.p i n = if n = (o.imm.extractLsb' 0 3).toNat ∧ i ∈ op.lanes.map (·.1) then e.2.1.contains i else f.p i n))) ∧
      (∀ o, op.instr = .estat o →
        (o.imm.getLsbD 0 = true → r.status = 0 → exec (.estimatorApply k) s = .next { s with estQ := put s.estQ k { op with held := true } }) ∧
        (o.imm.getLsbD 0 = false ∨ r.status ≠ 0 → ∃ (t : State) (g : Flight), leaves t g ∧ t.runs = s.runs ∧
          (∀ i, i < 12 → g.s (o.d.toNat + i) = r.stat.getD i 0) ∧ (∀ q, q < o.d.toNat ∨ o.d.toNat + 12 ≤ q → g.s q = f.s q) ∧
          (∀ i q, q < 256 → g.v i q = f.v i q) ∧ PredsKept f g ∧ g.fsr = f.fsr)) ∧
      (∀ o, op.instr = .estop o → ∃ (t : State) (g : Flight) (r' : Run), leaves t g ∧
        t.runOf op.launch = some (slot, r') ∧ r' = { r with stopReq := r.stopReq || r.status == 0 } ∧ RegsKept f g ∧ PredsKept f g)))

/-! ### Halts, resumes, moves between cores, ticks -/

namespace Sys2Proof.Claim

/-- A command of a queue or of the PF (R374, R375, R377): what it does when it stands at the head of its source. `P` gets the state
without the command, its partition, its bytes, and how it may end: with a code, whose completion entry is due; held at the head; or
later. -/
def Command (i : Instr) (src : CmdSrc) (code : Nat)
    (P : State → Nat → Word → List Byte → (State → Nat → Prop) → Prop → (State → Prop) → Prop) : Prop :=
  ∀ s c, s.headCmd src = some c → fieldAt c 0 1 = code → (src = .pf → fieldAt c 1 1 < 16 ∧ fieldAt c 2 6 = 0) →
    (i = .preempt src ∨ i = .ctxrun src → s.inTick (cmdPart src c) = false) →
    let k := cmdPart src c
    let seq := s.cmdSeq src
    P (s.popCmd src) k seq c (fun t x => exec i s = .next (State.pump src 65536 (t.owe k (cmdEntry src k seq x))))
      (exec i s = .next s) (fun t => exec i s = .next (State.pump src 65536 t))

/-- R336: the fields of a trap queue entry. -/
def TrapRecord (bs : List Byte) (pc clk lid wgid fl core ix kind sub cause info : Nat) : Prop :=
  let n := number bs
  bs.length = 64 ∧ n / 2 ^ 448 = pc ∧ n / 2 ^ 192 % 2 ^ 64 = clk ∧ n / 2 ^ 160 % 2 ^ 32 = lid ∧ n / 2 ^ 128 % 2 ^ 32 = wgid ∧
    n / 2 ^ 123 % 2 ^ 5 = fl ∧ n / 2 ^ 113 % 2 ^ 10 = core ∧ n / 2 ^ 109 % 2 ^ 4 = ix ∧ n / 2 ^ 107 % 4 = kind ∧ n / 2 ^ 96 % 256 = sub ∧
    n / 2 ^ 88 % 256 = cause ∧ n % 2 ^ 64 = info

/-- R333: what halting does to a workgroup's flights: one outside a clause, or that waits, stops; one that can go on finishes its clause. While it
halts already, or a debugger holds it, another reason to halt changes no flight. -/
def HaltRule : Prop :=
  ∀ (g : Wg), (g.halt).st = (if g.st = .running then .halting else g.st) ∧ g.halt.flights.length = g.flights.length ∧
    g.halt.trapped = g.trapped ∧ g.halt.entryOwed = g.entryOwed ∧
    (g.st = .halting ∨ g.dbg = true → g.halt.flights = g.flights) ∧
    (g.st ≠ .halting → g.dbg = false → ∀ (k : Nat) (f : Flight), g.flights[k]? = some f → ∃ f', g.halt.flights[k]? = some f' ∧ RegsKept f f' ∧ PredsKept f f' ∧ f'.fsr = f.fsr ∧
      f'.retired = f.retired ∧ f'.npOpen = f.npOpen ∧ (f.stopped = true → f' = f) ∧ (f.stopped = false → f'.skid = 0) ∧
      (f.stopped = false → f.clause.isSome = true → f.ended = false → f.wait = .ready → f'.stopped = false ∧ f'.ix = f.ix ∧ f'.clause = f.clause) ∧
      (f.clause = none ∨ f.wait ≠ .ready → f'.stopped = true) ∧
      (∀ p m, f.stopped = false → f.clause = none → f.sg = 0 → f.pick = some (p, m) → f'.stopPc = p ∧ f'.stopIx = 0))

/-- R333, R334 and R337: a workgroup that resumes runs, without a trap; each of its stopped flights continues at its stop point, where its clause is
fetched again; one that waits at a rendezvous, for a reply or for the outcome of an access goes on waiting; a trap that is pending stays so; one that
has not stopped yet goes on as it stands. A skipped instruction counts as retired and has no effect; where an access that had issued has met
HOME_DOWN, SKIP drops that access (log 33). -/
def ResumeRule : Prop :=
  (∀ (g : Wg), g.resume.st = .running ∧ g.resume.trapped = false ∧ g.resume.firstFlt = 0xFF ∧ g.resume.entryOwed = false ∧
    g.resume.flights.length = g.flights.length ∧
    ∀ (k : Nat) (f : Flight), g.flights[k]? = some f → (f.stopped = false → g.resume.flights[k]? = some f) ∧
      (f.stopped = true → ∃ f', g.resume.flights[k]? = some f' ∧ f'.stopped = false ∧ f'.cause = 0 ∧ f'.kind = 0 ∧
        RegsKept f f' ∧ PredsKept f f' ∧ f'.fsr = f.fsr ∧ f'.pc = f.pc ∧ f'.mr = f.mr ∧ f'.sg = f.sg ∧ f'.retired = f.retired ∧
        f'.stopPc = f.stopPc ∧ f'.stopIx = f.stopIx ∧ f'.accs.map (·.id) = f.accs.map (·.id) ∧ f'.doneMask = f.doneMask ∧
        f'.deferred = f.deferred ∧ (f.ended = false → f'.clause = none ∧ f'.ix = 0) ∧
        (f.ended = false → f.wait.keeps = false → f'.opDue = none ∧ f'.copyHeld = none) ∧
        (f.ended = false → f.wait.keeps = true → f.wait ≠ .op → f'.wait = f.wait))) ∧
  (∀ (det : Bool) (f : Flight), f.homeParked = true → let g := f.skip det
    g.retired = f.retired ∧ RegsKept f g ∧ PredsKept f g ∧ g.fsr = f.fsr ∧ g.stopPc = f.stopPc ∧ g.stopIx = f.stopIx ∧
    ∀ a ∈ g.accs, a ∈ f.accs ∧ a.pieces.any Piece.down = false) ∧
  (∀ (det : Bool) (f : Flight), f.homeParked = false → let g := f.skip det
    g.stopped = true ∧ g.retired = f.retired + 1 ∧ RegsKept f g ∧ PredsKept f g ∧ g.fsr = f.fsr ∧
    (∀ c : Clause, f.clause = some c → f.ix + 1 < c.words.length → g.stopPc = c.addr ∧ g.stopIx = f.ix + 1) ∧
    (f.clause = none → g.stopPc = f.stopPc ∧ g.stopIx = f.stopIx + 1))

end Sys2Proof.Claim

/-- R333–R337 and R368: a workgroup with a reason to halt halts, and is halted once every flight has stopped and its operations have
drained; if one of its flights trapped, the trap queue of its context gets the entry of the first that did. A debugger stops a workgroup
without an entry and lets it go on; in deterministic mode it stops where it stands. TRAPRES resumes, skips or kills what an entry names;
SKIP of an entry of kind 3, as of any kind but 0, is refused. Where its entry and its action stand in a command of a VF is log 9, how a held
workgroup counts log 12. -/
def Obligations.Halting : Prop :=
  HaltRule ∧ ResumeRule ∧
  (∀ (s : State) (w : Nat) (g : Wg), look s.wgs w = some g →
    (g.st = .running → s.mustHalt g = true →
      exec (.workgroupHalt w) s = .next ((s.modWg w Wg.halt).events [.haltDrainComplete w])) ∧
    (g.st ≠ .running ∨ s.mustHalt g = false → exec (.workgroupHalt w) s = .next s) ∧
    (s.mustHalt g = true ↔ g.cancelled = true ∨ ((s.part g.part).ctx g.ctx).st = .halting ∨ (s.mxe (quadOfCore g.core)).fenced = true)) ∧
  (∀ (s : State) (w : Nat) (g : Wg), look s.wgs w = some g → g.cancelled = false →
    (g.st ≠ .halting ∨ (∃ f ∈ g.flights, s.flightDrained f = false) ∨ s.tilesDrained w g = false → exec (.haltDrainComplete w) s = .next s) ∧
    (∀ f ∈ g.flights, s.flightDrained f = true ↔ (f.stopped = true ∨ f.ended = true) ∧ f.nCopies = 0 ∧ f.nEst = 0 ∧ ∀ a ∈ f.accs, s.refused a = true) ∧
    ((s.mxe (quadOfCore g.core)).fenced = false → (s.tilesDrained w g = true ↔ g.flights.foldl (fun n f => n + f.nTiles) 0 = 0)) ∧
    (g.st = .halting → (∀ f ∈ g.flights, s.flightDrained f = true) → s.tilesDrained w g = true → ((s.part g.part).ctx g.ctx).st = .running →
      (s.part g.part).cur = some g.ctx → ∃ (t : State) (g' : Wg), exec (.haltDrainComplete w) s = .next t ∧ look t.wgs w = some g' ∧ g'.st = .halted ∧
        g'.flights = g.flights ∧ g'.entryOwed = false ∧ (g.entryOwed = false → t.mem = s.mem ∧ g'.entryAt = g.entryAt) ∧
        (∀ f, g.entryOwed = true → g.flights[g.firstFlt.toNat]? = some f → g.firstFlt.toNat < 32 → g.wgid < 2 ^ 32 → g.core < 512 →
          f.stopIx < 16 → f.org = none → f.trapAt < 2 ^ 64 → g.ctx < (s.part g.part).ctxs.length → g.part < s.parts.length →
          let ring := ((s.part g.part).ctx g.ctx).trapring
          let lid := ((look s.launches g.launch).map (·.id)).getD 0
          ∃ bs : List Byte, TrapRecord bs f.stopPc.toNat f.trapAt lid.toNat g.wgid g.firstFlt.toNat g.core f.stopIx f.kind.toNat f.sub.toNat
              f.cause.toNat f.info.toNat ∧
            (ring.full = false → ((s.part g.part).ctx g.ctx).trapOwed = [] →
              t.mem = writeBytes s.mem (ring.base.toNat + ring.prod.toNat % max ring.size.toNat 1 * 64) bs ∧
              ((t.part g.part).ctx g.ctx).trapring = { ring with prod := ring.prod + 1 } ∧ g'.entryAt = some ring.prod.toNat) ∧
            (ring.full = true ∨ ((s.part g.part).ctx g.ctx).trapOwed ≠ [] → t.mem = s.mem ∧ ((t.part g.part).ctx g.ctx).trapOwed = ((s.part g.part).ctx g.ctx).trapOwed ++
              [(some (FlightRef.wg w g.firstFlt.toNat), bs)])))) ∧
  (∀ (s : State) (w : Nat) (g : Wg), look s.wgs w = some g →
    (g.dbg = true ∨ g.st = .killed ∨ g.st = .switchedOut → exec (.debugHalt w) s = .next s) ∧
    (g.dbg = false → g.st ≠ .killed → g.st ≠ .switchedOut → s.det (.wg w 0) = false → ∃ (t : State) (g' : Wg), exec (.debugHalt w) s = .next t ∧ t.mem = s.mem ∧
      look t.wgs w = some g' ∧ g'.dbg = true ∧ g'.st = g.st ∧ g'.flights = g.halt.flights ∧ g'.entryOwed = g.entryOwed ∧ g'.trapped = g.trapped) ∧
    (g.dbg = false → g.st ≠ .killed → g.st ≠ .switchedOut → s.det (.wg w 0) = true → s.inTick g.part = false → ∃ (t : State) (g' : Wg),
      exec (.debugHalt w) s = .next t ∧ t.mem = s.mem ∧ look t.wgs w = some g' ∧ g'.dbg = true ∧ g'.st = g.st ∧
      ∀ (k : Nat) (f : Flight), g.flights[k]? = some f → f.stopped = false → f.ended = false →
        ∃ f', g'.flights[k]? = some f' ∧ f'.stopped = true ∧ f'.skid = 0 ∧ f'.accs = f.accs ∧ RegsKept f f' ∧ f'.npOpen = f.npOpen) ∧
    (g.dbg = false → exec (.debuggerRelease w) s = .next s) ∧
    (g.dbg = true → g.resolve = none → g.trapped = false → g.st ≠ .switchedOut → g.st ≠ .killed → s.mustHalt g = false →
      exec (.debuggerRelease w) s = .next (((s.modWg w (fun g => { g with dbg := false })).modWg w Wg.resume).sendPart g.part)) ∧
    (g.dbg = true → g.resolve = none → g.trapped = true → exec (.debuggerRelease w) s = .next (s.modWg w (fun g => { g with dbg := false })))) ∧
  (∀ src, Command (.trapres src) src 0x04 (fun s0 k _ c done _ _ =>
    let n := opWord c 0
    let action := opWord c 1
    (2 < action → done s0 0xFE) ∧
    (action ≤ 2 → s0.halted? k n = none → (s0.part k).ctls.find? (fun p => p.2.halted && p.2.entryAt == some n) = none →
      (let named := n ∈ ((s0.part k).ctx ((s0.cmdCtx k).getD 0)).reports
       (action = 1 ∧ named → done s0 0xFE) ∧ (¬ (action = 1 ∧ named) → done s0 0))) ∧
    (∀ w g f, action ≤ 2 → s0.halted? k n = some (w, g) → look s0.wgs w = some g → g.flights[g.firstFlt.toNat]? = some f →
      (action = 1 → f.kind ≠ 0 → done s0 0xFE) ∧
      ((action ≠ 1 ∨ f.kind = 0) → g.dbg = true ∨ g.st = .switchedOut → done (s0.modWg w (fun g => { g with resolve := some action })) 0) ∧
      ((action ≠ 1 ∨ f.kind = 0) → action ≠ 2 → g.dbg = false → g.st = .halted → s0.mustHalt g = false →
        ∃ g1 : Wg, g1.flights = (if action = 1 then g.flights.set g.firstFlt.toNat (f.skip (s0.det (.wg w g.firstFlt.toNat))) else g.flights) ∧
          { g1 with flights := g.flights } = { g with trapped := false, entryAt := none, firstFlt := 0xFF, firstAt := 0, resolve := none } ∧
          done (((s0.modWg w (fun _ => g1)).modWg w Wg.resume).sendPart g.part) 0) ∧
      (action = 2 → g.dbg = false → g.st = .halted → done (s0.startKill g.launch g.tether 2 (.wg w g.firstFlt.toNat) 0) 0)) ∧
    (∀ d x, action ≤ 2 → s0.halted? k n = none → (s0.part k).ctls.find? (fun p => p.2.halted && p.2.entryAt == some n) = some (d, x) →
      (action = 1 → x.flight.kind ≠ 0 → done s0 0xFE) ∧ (action = 2 → done (s0.endControl d k) 0) ∧
      (action = 0 ∨ (action = 1 ∧ x.flight.kind = 0) → done (s0.modPart k (fun p => { p with ctls := alter p.ctls d (fun c =>
        { c with halted := false, entryAt := none, flight := (if action = 1 then c.flight.skip false else c.flight).resume }) })) 0))))

namespace Sys2Proof.Claim

/-- R344–R346, R382: what time does. -/
def TimeRule : Prop :=
  ∀ (s : State) (ns : Nat), (s.pass ns).clk = s.clk + BitVec.ofNat 64 ns ∧ (s.pass ns).mcyc = s.mcyc + ns * s.mhz ∧ (s.pass ns).mem = s.mem ∧
    ∀ (w k : Nat) (g : Wg) (f : Flight), look s.wgs w = some g → g.flights[k]? = some f → g.st ≠ .switchedOut → f.ended = false →
      let cycles := (s.mcyc + ns * s.mhz) / 1000 - s.mcyc / 1000
      ∃ f', (s.pass ns).flight? (.wg w k) = some f' ∧ f'.wtime = f.wtime + BitVec.ofNat 64 cycles ∧ RegsKept f f' ∧ f'.retired = f.retired ∧
        (s.det (.wg w 0) = false → f.timerOn = true → f'.timerRem = BitVec.ofNat 32 (f.timerRem.toNat - cycles)) ∧
        (s.det (.wg w 0) = false → f.npOpen = true → f'.npClk = f.npClk + BitVec.ofNat 64 cycles) ∧
        (s.det (.wg w 0) = true → f'.timerRem = f.timerRem ∧ f'.npClk = f.npClk)

/-- R171, R173, R174 and R403: a TICK of a partition whose running context runs, drains or is forced out, held by no debugger and with every operation
that is due at hand, takes the operations due, the turns and the tick's end in that order; one that has to reach another device first is sent. Otherwise T stands; an access
whose home is down then meets that (R381).
At the tick's end, with nothing left to grant or end, T stands one higher. -/
def TickRule : Prop :=
  (∀ (s : State) (k : Nat), (s.ticking k = true ↔ ∃ c, (s.part k).cur = some c ∧
      (((s.part k).ctx c).st = .running ∨ ((s.part k).ctx c).st = .draining ∨ ((s.part k).ctx c).st = .forcing) ∧
      ∀ p ∈ s.tickWgs k, p.2.dbg = false ∨ p.2.st = .killed) ∧
    (s.ticking k = false ∨ s.inTick k = true → exec (.tick k) s = .next s) ∧
    (s.ticking k = true → s.inTick k = false → s.stuck k = true →
      exec (.tick k) s = .next (if s.homeMoves k = [] then s else s.events (s.homeMoves k))) ∧
    (s.ticking k = true → s.inTick k = false → s.stuck k = false →
      let sends := ((s.dueCopies k).filter (fun x => decide (x.2.2.due ≤ (s.part k).tick) && s.copySends x.2.2)).map (fun x =>
          Instr.copyComplete x.1 x.2.1) ++
        ((s.dueTileOps k).filter (fun x => s.tileSends x.2.2)).map (fun x => Instr.tileOpComplete x.1 x.2.1)
      ∃ t, exec (.tick k) s = .next t ∧ t.mem = s.mem ∧ t.wgs = s.wgs ∧ (t.part k).tick = (s.part k).tick ∧
        (sends = [] → t = { s with agenda := s.dueMoves k ++ [.turns k, .tickEnd k] ++ s.agenda }) ∧
        (sends ≠ [] → t = { s with agenda := sends.map Move.event ++ s.agenda }))) ∧
  (∀ (s : State) (m : Move) (ms : List Move), s.clauseOver = none → s.agenda = m :: ms → step s = State.make { s with agenda := ms } m) ∧
  (∀ (s : State) (k : Nat) (ms : List Move), s.clauseOver = none → s.agenda = .tickEnd k :: ms → k < s.parts.length →
    let last := s.tickGrants k ++ ((s.tickFlights k).filter (fun p => p.2.done)).map (fun p => Instr.flightEnd p.1)
    (last ≠ [] → step s = .next { s with agenda := last.map Move.event ++ .tickEnd k :: ms }) ∧
    (last = [] → ∃ t, step s = .next t ∧ (t.part k).tick = (s.part k).tick + 1 ∧ t.mem = s.mem ∧ t.clk = s.clk))

/-- R161: an exchange. Of the pending flights that are ready, q has been ready longest, since t0; once that is 2,048 cycles, or ticks, an active
flight at a clause boundary makes room for it. -/
def ExchangeRule : Prop :=
  ∀ (s : State) (core disp slot w fl t0 : Nat) (q : FlightRef) (f g : Flight), Sys2Proof.Machine.least (s.readyPending core disp) = some (q, t0) →
    s.flight? q = some g → (s.dispatched core disp).find? (fun p => p.2.slot == some slot) = some (.wg w fl, f) →
    s.flight? (.wg w fl) = some f → q ≠ .wg w fl →
    (f.clause ≠ none ∨ f.sg ≠ 0 ∨ s.beat q < t0 + 2048 → exec (.forcedExchange core disp slot) s = .next s) ∧
    (f.clause = none → f.sg = 0 → t0 + 2048 ≤ s.beat q → ∃ t, exec (.forcedExchange core disp slot) s = .next t ∧ t.mem = s.mem ∧
      t.flight? (.wg w fl) = some { f with slot := none, readySince := none } ∧
      t.flight? q = some { g with slot := some slot, readySince := none })

/-- R157 and R303: a workgroup that moves keeps its flights' registers, predicates, flags and places; it has no slot there. -/
def Moved (i : Instr) (s : State) (w core : Nat) (g : Wg) (P : Wg → Prop) : Prop :=
  ∃ (t : State) (g' : Wg), exec i s = .next t ∧ look t.wgs w = some g' ∧ g'.core = core ∧ g'.flights.length = g.flights.length ∧
    g'.scratchBytes = g.scratchBytes ∧ P g' ∧
    ∀ (k : Nat) (f : Flight), g.flights[k]? = some f → ∃ f', g'.flights[k]? = some f' ∧ RegsKept f f' ∧ PredsKept f f' ∧ f'.fsr = f.fsr ∧
      f'.pc = f.pc ∧ f'.mr = f.mr ∧ f'.retired = f.retired ∧ f'.slot = none

/-- R157, R303 and R356: who migrates. A running workgroup of a tether of one, outside deterministic mode, with no tile name bound, no section open,
every flight at a clause boundary and nothing outstanding, moves to a core of its board that can take it, where there is a reason to; one that is
halted on a fenced quad moves with its tiles, or its tether is killed where no core can take it. -/
def MigrateRule : Prop :=
  ∀ (s : State) (w core : Nat) (g : Wg), look s.wgs w = some g →
    let fenced := (s.mxe (quadOfCore g.core)).fenced
    let may := (∃ l, look s.launches g.launch = some l ∧ l.width = 1) ∧ s.det (.wg w 0) = false ∧ (∀ x ∈ g.acc, x = none) ∧ g.st = .running ∧
      g.dbg = false ∧ ∀ f ∈ g.flights, f.npOpen = false ∧
        (f.ended = true ∨ (f.clause = none ∧ f.sg = 0 ∧ f.accessesDone = true ∧ f.nCopies = 0 ∧ f.nTiles = 0))
    (fenced = false → ¬ may ∨ s.needsMove g = false ∨ s.canTake w g core = false → exec (.migrate w core) s = .next s) ∧
    (fenced = false → may → s.needsMove g = true → s.canTake w g core = true → Moved (.migrate w core) s w core g (fun g' => g'.st = .running)) ∧
    (fenced = true → g.st ≠ .halted ∨ s.det (.wg w 0) = true → exec (.migrate w core) s = .next s) ∧
    (fenced = true → g.st = .halted → s.det (.wg w 0) = false →
      (s.refuge w g core = true → Moved (.migrate w core) s w core g (fun g' => g'.st = .running ∨ g'.st = .halted)) ∧
      ((∀ c, c < 512 → s.refuge w g c = false) → core < 512 → exec (.migrate w core) s = .next (s.startKill g.launch g.tether 4
        (.wg (((s.tether? g.launch g.tether).map (fun t => t.wgs.headD w)).getD w) 0) 0)))

end Sys2Proof.Claim

/-- R157, R161, R171, R173, R174, R303, R345 and R403: TICK, FORCED_EXCHANGE and MIGRATE as the rules say; time moves CLK and the flights'
clocks; a section at four times its budget forces its context out, and every tether of it is to be killed. An event whose condition does not
hold leaves the state as it is (log 12). Time as a move, and stalls at a tick, are as in log 13 and log 29. -/
def Obligations.TicksAndMoves : Prop :=
  TimeRule ∧ TickRule ∧ ExchangeRule ∧ MigrateRule ∧
  (∀ (s : State) (r : FlightRef) (f : Flight), s.flight? r = some f →
    (f.npOpen = false ∨ f.npClk.toNat < 4 * s.npBudget r → exec (.npWatchdog r) s = .next s) ∧
    (let leave := fun (p : Part) => some (Switch.mk 2 ((p.nextOn (s.ctxOf r)).or (some (s.ctxOf r))) false 0)
     f.npOpen = true → 4 * s.npBudget r ≤ f.npClk.toNat → ∃ t, exec (.npWatchdog r) s = .next t ∧
      t = ((s.modPart (s.partOf r) (fun p => { p with switch := leave p })).forceOut (s.partOf r) (s.ctxOf r) (some r)) ∧
      ∀ l x n y, look s.launches l = some x → x.part = s.partOf r → x.ctx = s.ctxOf r → look x.tethers n = some y →
        ∃ x' y', look t.launches l = some x' ∧ look x'.tethers n = some y' ∧ y'.dying.isSome = true))

/-! ### Pre-emption, tenants and tokens -/

namespace Sys2Proof.Claim

/-- R342: a context that is to leave. Mode D lets its workgroups end; mode H halts them; mode F kills its tethers. -/
def LeaveRule : Prop :=
  ∀ (s : State) (k c mode : Nat) (target : Option Nat), (s.part k).cur = some c → k < s.parts.length → c < (s.part k).ctxs.length →
    (((s.part k).ctx c).st = .running → s.npHeld k c = true → mode < 2 →
      s.requestSwitch k mode target = s.modPart k (fun p => { p with switch := some (Switch.mk mode target true 0) })) ∧
    (((s.part k).ctx c).st = .running → s.npHeld k c = false → s.residents k c ≠ [] →
      (mode = 0 → let t := s.requestSwitch k 0 target
        ((t.part k).ctx c).st = .draining ∧ (t.part k).cur = some c ∧ t.wgs = s.wgs ∧ t.mem = s.mem ∧ t.launches = s.launches ∧
          (t.part k).switch = some (Switch.mk 0 target false s.clk.toNat)) ∧
      (mode = 1 → (∀ p ∈ s.residents k c, s.det (.wg p.1 0) = false ∧ p.2.st = .running) → let t := s.requestSwitch k 1 target
        ((t.part k).ctx c).st = .halting ∧ (t.part k).cur = some c ∧ t.wgs = s.wgs ∧ t.mem = s.mem ∧
          ∀ p ∈ s.residents k c, Move.event (.workgroupHalt p.1) ∈ t.agenda)) ∧
    (2 ≤ mode →
      let x := Switch.mk 2 (target.or ((s.part k).switch.bind (·.target))) false 0
      let s1 := s.modPart k (fun p => { p with switch := some x })
      s.requestSwitch k mode target = if ((s.part k).ctx c).st = .forcing then s1 else s1.forceOut k c none)

/-- R277, R301, R342 and R368: the running context has left: none runs, its workgroups are switched out with their flights' registers, its tick is
kept. A flight keeps its slot in deterministic mode only; outside it the time that a held copy has waited stands still. Only a context that leaves with work writes its save area. -/
def LeftRule : Prop :=
  ∀ (s : State) (k c : Nat) (st : CtxState), k < s.parts.length → c < (s.part k).ctxs.length → (s.part k).vfOff = 0 → (s.part k).onLeave = [] →
    let t := s.leaveCtx k c st
    (t.part k).cur = none ∧ ((t.part k).ctx c).st = st ∧ ((t.part k).ctx c).tick = (s.part k).tick ∧
      (((t.part k).ctx c).drained = true ↔ ((s.part k).ctx c).st = .draining) ∧ (st ≠ .lazy → t.mem = s.mem) ∧
      (t.part k).lastTenant = ((s.part k).ctx c).desc.tenant ∧
      (∀ q, (s.part k).desc.quads.getLsbD q = true → (t.mxe q).freeTick = 0) ∧
      ∀ (w : Nat) (g : Wg), look s.wgs w = some g → ∃ g' : Wg, look t.wgs w = some g' ∧ g'.flights.length = g.flights.length ∧
        (g.part = k ∧ g.ctx = c ∧ g.st ≠ .switchedOut → g'.st = .switchedOut ∧ ∀ (i : Nat) (f : Flight), g.flights[i]? = some f →
          g'.flights[i]? = some { f with slot := if s.det (.wg w 0) then f.slot else none, pastC := [], pastM := []
                                         copyHeld := if s.det (.wg w 0) then f.copyHeld else f.copyHeld.map (fun t => s.clk.toNat - t) }) ∧
        (g.part ≠ k ∨ g.ctx ≠ c ∨ g.st = .switchedOut → g' = g)

/-- R342: what LAZY_CLAIM_SPILL does with each resource that a workgroup of a LAZY context still holds. -/
def SpillRule : Prop :=
  ∀ (s : State) (k slot w : Nat) (g : Wg), ((s.part k).ctx slot).st = .lazy → (s.part k).cur.isSome → look s.wgs w = some g → g.part = k →
    g.ctx = slot → g.st = .switchedOut →
    (g.away.scratch = none → g.scratchBytes ≤ 2 ^ 19 → g.core < 512 → g.scratchBase + g.scratchBytes ≤ 2 ^ 30 → Memory.wf s.mem = true →
      ∃ (t : State) (g' : Wg), exec (.lazyClaimSpill k slot (.scratch w)) s = .next t ∧ look t.wgs w = some g' ∧
        g'.away.scratch = some ((List.range g.scratchBytes).map (fun i => readByte s.mem (spKey g.core (g.scratchBase + i)))) ∧
        ∀ i, i < g.scratchBytes → readByte t.mem (spKey g.core (g.scratchBase + i)) = 0) ∧
    (g.away.rows = false → ∃ t, exec (.lazyClaimSpill k slot (.rows w)) s = .next t ∧
      look t.wgs w = some { g with away := { g.away with rows := true } }) ∧
    (∀ (q n : Nat) (ti : Tile), look (s.mxe q).tiles n = some ti → ti.wg = w → ∃ t, exec (.lazyClaimSpill k slot (.tile q n)) s = .next t ∧
      (t.mxe q).tiles = del (s.mxe q).tiles n ∧ look t.wgs w = some { g with away := { g.away with tiles := put g.away.tiles n ti } }) ∧
    (∀ (q i fl : Nat) (l : Latch), (s.mxe q).latches[i]? = some l → l.owner = .wg w fl → ∃ t, exec (.lazyClaimSpill k slot (.latch q i)) s = .next t ∧
      (t.mxe q).latches = (s.mxe q).latches.filter (· != l) ∧ look t.wgs w = some { g with away := { g.away with latches := g.away.latches ++ [l] } })

/-- R342: the workgroups of a context that is restored, with nothing of theirs in its save area, run again, unless a trap, a debugger or a fence holds
them, with their registers as they were. -/
def BackRule : Prop :=
  ∀ (s : State) (k slot : Nat), (s.part k).admits slot = true → (s.part k).tenantSwitch slot = false → (s.part k).onEnter = [] →
    k < s.parts.length → slot < (s.part k).ctxs.length →
    let back := s.wgs.filter (fun p => p.2.part == k && p.2.ctx == slot && p.2.st == .switchedOut)
    (∀ w g, (w, g) ∈ back → look s.wgs w = some g ∧ g.away = Away.none ∧ s.rowsHeld g.core ≤ 512 ∧ s.scratchHeld g.core ≤ 524288 ∧
      g.resolve = none ∧ g.dbg = false ∧ g.trapped = false ∧ g.cancelled = false ∧ (s.mxe (quadOfCore g.core)).fenced = false ∧
      ∀ f ∈ g.flights, f.accs = []) →
    ∃ t : State, exec (.contextRestore k slot) s = .next t ∧ ∀ w g, (w, g) ∈ back → ∃ g' : Wg, look t.wgs w = some g' ∧ g'.st = .running ∧
      g'.flights.length = g.flights.length ∧ ∀ (i : Nat) (f : Flight), g.flights[i]? = some f →
        ∃ f', g'.flights[i]? = some f' ∧ RegsKept f f' ∧ PredsKept f f' ∧ f'.fsr = f.fsr ∧ f'.pc = f.pc ∧ f'.stopped = false

end Sys2Proof.Claim

/-- R341–R345: SLICE_EXPIRY switches a context whose slice is over, or too many of whose flights are parked, when another is ready; a drain
that takes DDEAD escalates to mode F; PREEMPT and CTXRUN ask for a switch. CONTEXT_RESTORE brings a SAVED or LAZY context back, after the
scrub on a tenant switch, and its workgroups go on. A resource that a LAZY context holds is spilled before another claims it. Where
PREEMPT's mode stands in a command of a VF is log 9; which resource of a LAZY context is spilled is log 12, its images log 23. -/
def Obligations.Preemption : Prop :=
  LeaveRule ∧ LeftRule ∧ SpillRule ∧ BackRule ∧
  (∀ (s : State) (k : Nat), ((s.part k).cur = none → exec (.sliceExpiry k) s = .next s ∧ exec (.ddeadExpiry k) s = .next s) ∧
    (∀ c, (s.part k).cur = some c → s.inTick k = true → exec (.sliceExpiry k) s = .next (s.afterTick k (.event (.sliceExpiry k)))) ∧
    (∀ c x, (s.part k).cur = some c → s.inTick k = false → (s.part k).switch = some x → x.deferred = true →
      exec (.sliceExpiry k) s = .next (if s.npHeld k c then s else s.beginLeave k c x.mode x.target)) ∧
    (∀ c, (s.part k).cur = some c → s.inTick k = false → ((s.part k).ctx c).st = .running → ((s.part k).switch.map (·.deferred)).getD false = false →
      let ends := (s.part k).slice ≠ 0 ∧ (s.part k).sliceEnd ≤ s.clk.toNat
      let due := (s.part k).parkDue = true ∨ ends ∨ (s.part k).spendDue = true
      let mode := min (s.part k).smode.toNat 2
      let s0 := s.modPart k (fun p => { p with parkDue := false, spendDue := false })
      (due → s.otherReady k = true → s.parkedShare k c = true → exec (.sliceExpiry k) s = .next (s0.requestSwitch k 1 none)) ∧
      (s.otherReady k = false ∨ s.parkedShare k c = false → ends → exec (.sliceExpiry k) s = .next
        (if s.otherReady k then (s0.pendSlice k c).requestSwitch k mode none else (s0.pendSlice k c).startSlice k)) ∧
      (s.otherReady k = true → s.parkedShare k c = false → ¬ ends → (s.part k).spendDue = true →
        exec (.sliceExpiry k) s = .next (s0.requestSwitch k mode none)) ∧
      (¬ ends → (s.part k).spendDue = false ∨ s.otherReady k = false → (s.part k).parkDue = false ∨ s.otherReady k = false ∨ s.parkedShare k c = false →
        exec (.sliceExpiry k) s = .next s0)) ∧
    (∀ c x, (s.part k).cur = some c → (s.part k).switch = some x →
      (((s.part k).ctx c).st = .draining → x.since + (s.part k).ddead.toNat * 1000 ≤ s.clk.toNat →
        exec (.ddeadExpiry k) s = .next (s.forceOut k c none)) ∧
      (((s.part k).ctx c).st ≠ .draining ∨ s.clk.toNat < x.since + (s.part k).ddead.toNat * 1000 → exec (.ddeadExpiry k) s = .next s))) ∧
  (∀ (s : State) (k slot : Nat) (res : LazyRes), (((s.part k).ctx slot).st ≠ .lazy ∨ (s.part k).cur = none → exec (.lazyClaimSpill k slot res) s = .next s)) ∧
  (∀ (s : State) (k slot : Nat), ((s.part k).admits slot = false → exec (.contextRestore k slot) s = .next s) ∧
    ((s.part k).admits slot = true → k < s.parts.length → slot < (s.part k).ctxs.length →
      ((s.part k).tenantSwitch slot = true ↔ (s.part k).formed = false ∨ (s.part k).changed = true ∨
        (s.part k).lastTenant ≠ ((s.part k).ctx slot).desc.tenant) ∧
      ((s.part k).tenantSwitch slot = true → ∃ t, exec (.contextRestore k slot) s = .next t ∧ (t.part k).cur = none ∧
        (t.part k).scrubDue.isSome ∧ Move.event (.scrub k) ∈ t.agenda ∧ t.mem = s.mem ∧ t.wgs = s.wgs) ∧
      ((s.part k).tenantSwitch slot = false → (s.part k).onEnter = [] →
        (∀ p ∈ s.wgs, ¬ (p.2.part = k ∧ p.2.ctx = slot ∧ p.2.st = .switchedOut)) → ∃ t, exec (.contextRestore k slot) s = .next t ∧
        (t.part k).cur = some slot ∧ ((t.part k).ctx slot).st = .running ∧ (t.part k).tick = ((s.part k).ctx slot).tick ∧
        (t.part k).switch = none ∧ t.mem = s.mem))) ∧
  (∀ src, Command (.preempt src) src 0x0B (fun s0 k seq c done _ later =>
    (2 < opWord c 0 → done s0 0xFE) ∧ (opWord c 0 ≤ 2 → (s0.part k).cur = none → done s0 0) ∧
    (opWord c 0 ≤ 2 → (s0.part k).cur ≠ none → later ((s0.modPart k (fun p =>
      { p with onLeave := p.onLeave ++ [cmdEntry src k seq 0] })).requestSwitch k (opWord c 0) none)))) ∧
  (∀ src, Command (.ctxrun src) src 0x13 (fun s0 k seq c done _ later =>
    let slot := opWord c 0
    let bad := 16 ≤ slot ∨ 2 < opWord c 1 ∨ (s0.part k).desc.valid = false ∨ ((s0.part k).ctx slot).st = .absent
    let s1 := s0.modPart k (fun p => { p with onEnter := p.onEnter ++ [cmdEntry src k seq 0] })
    (bad → done s0 0xFE) ∧ (¬ bad → (s0.part k).cur = some slot → ((s0.part k).ctx slot).st = .running → (s0.part k).switch = none → done s0 0) ∧
    (¬ bad → (s0.part k).cur = none → later (s1.events [.contextRestore k slot])) ∧
    (∀ x, ¬ bad → (s0.part k).cur = some x → x ≠ slot → later (s1.requestSwitch k (opWord c 1) (some slot)))))

namespace Sys2Proof.Claim

/-- R354: the fields of a token. -/
def TokenFields (tok : List Byte) (part vf flags counter clk ns : Nat) (outTen inTen : Dword) (nonce : BitVec 256) (scope : List Byte) : Prop :=
  fieldAt tok 0 8 = 0x314B54434C43584E ∧ fieldAt tok 8 2 = 1 ∧ fieldAt tok 10 2 = flags ∧ fieldAt tok 12 1 = part ∧ fieldAt tok 13 1 = vf ∧
    fieldAt tok 32 8 = outTen.toNat ∧ fieldAt tok 40 8 = inTen.toNat ∧ (tok.drop 48).take 16 = (sha256 scope).take 16 ∧
    (tok.drop 16).take 16 = (sha256 (edKey ++ dsaKey)).take 16 ∧ fieldAt tok 64 8 = counter ∧ fieldAt tok 72 32 = nonce.toNat ∧ fieldAt tok 104 8 = clk ∧ fieldAt tok 112 4 = ns ∧
    (tok.drop 128).take 64 = (List.range 64).map (Config.ed25519Sign edKey (tok.take 128)) ∧
    (tok.drop 192).take 3309 = (List.range 3309).map (Config.mldsaSign dsaKey (tok.take 128)) ∧ tok.drop 3501 = List.replicate 595 0

end Sys2Proof.Claim

/-- R351–R355: the SCRUB of a tenant switch clears the partition's scratchpads, translations and shadows but for what a LAZY context holds,
and leaves a token due; TOKEN_RECORD signs the oldest that is due with COUNTER one higher and writes it to its context's buffer, where that is
mapped writable; its nonce joins the sixteen last, unless a later switch has overtaken it; TOKREQ reissues the last one with a nonce of the host's and FLAGS.REISSUE, TOKREAD hands it out. -/
def Sys2Proof.Claim.Tokens : Prop :=
  (∀ (body scope : List Byte) (counter part vf flags clk ns : Nat) (outTen inTen : Dword) (nonce : BitVec 256), part < 256 → vf < 256 →
    flags < 2 ^ 16 → clk < 2 ^ 64 → ns < 2 ^ 32 → counter < 2 ^ 64 → body = tokenBody part vf flags outTen inTen nonce clk ns →
    TokenFields (signedToken body scope counter) part vf flags counter clk ns outTen inTen nonce scope ∧
      (signedToken body scope counter).length = 4096) ∧
  (∀ (s : State) (k : Nat), ((s.part k).scrubDue = none ∨ (s.part k).cur ≠ none ∨ s.fabricQuiet k = false → exec (.scrub k) s = .next s) ∧
    (∀ t0 x slot, (s.part k).scrubDue = some t0 → (s.part k).switch = some x → x.target = some slot → (s.part k).cur = none →
      s.fabricQuiet k = true → k < s.parts.length → Memory.wf s.mem = true →
      (∀ x, x < 16 → ((s.part k).ctx x).st = .lazy → (s.part k).last = some x) →
      let flags := (if (s.part k).anyLazy then 1 else 0) + if (s.part k).formed then 0 else 4
      let inc := ((s.part k).ctx slot).desc
      let all := (s.part k).newTenant slot
      ∃ t, exec (.scrub k) s = .next t ∧ (t.part k).scrubDue = none ∧ (t.part k).lastTenant = inc.tenant ∧ (t.part k).formed = true ∧
        (t.part k).changed = false ∧ (t.part k).tlb = [] ∧ (t.part k).nonces = [] ∧ (t.part k).token = [] ∧ (t.part k).clean = (s.part k).desc ∧
        (t.part k).tokenDue = (s.part k).tokenDue ++ [(tokenBody k (s.part k).desc.vf.toNat flags (s.part k).lastTenant inc.tenant inc.nonce s.clk.toNat
          (s.clk.toNat - t0), some slot)] ∧
        Move.event (.contextRestore k slot) ∈ t.agenda ∧ Move.event (.tokenRecord k) ∈ t.agenda ∧
        (∀ key, readByte t.mem key = if s.scratchKept k all key && s.chipKept k all key then readByte s.mem key else 0) ∧
        ∀ core n, all = true → core < 512 → n < 2 ^ 19 → (s.part k).desc.hasCore core = true → inRanges (s.heldScratch core) n = false →
          readByte t.mem (2 ^ 44 + core * 2 ^ 30 + n) = 0)) ∧
  (∀ (s : State) (k slot : Nat) (body : List Byte) (due : List (List Byte × Option Nat)), (s.part k).tokenDue = (body, some slot) :: due →
    k < s.parts.length →
    let tok := signedToken body (s.part k).written (s.counter + 1).toNat
    let buf := ((s.part k).ctx slot).desc.tokbuf
    let keys := s.vaKeys k slot buf.toNat tok.length { w := true }
    ∃ t, exec (.tokenRecord k) s = .next t ∧ t.counter = s.counter + 1 ∧ (t.part k).token = tok ∧ (t.part k).tokenDue = due ∧
      (buf = 0 ∨ keys = none ∨ s.spanCut k slot buf.toNat tok.length = true → t.mem = s.mem) ∧
      (∀ ks, buf ≠ 0 → keys = some ks → s.spanCut k slot buf.toNat tok.length = false → t.mem = writeKeys s.mem (ks.zip tok)) ∧
      (due ≠ [] → (t.part k).nonces = (s.part k).nonces) ∧
      (due = [] → (t.part k).nonces =
        ((s.part k).nonces ++ [BitVec.ofNat 256 (fieldAt tok 72 32)]).drop ((s.part k).nonces.length + 1 - 16))) ∧
  (∀ (s : State) (k : Nat), (s.part k).tokenDue = [] → exec (.tokenRecord k) s = .next s) ∧
  (∀ src, Command (.tokreq src) src 0x06 (fun s0 k _ c done held _ =>
    ((s0.part k).cur = none ∨ (s0.part k).token = [] → held) ∧
    (∀ x, (s0.part k).cur = some x → (s0.part k).token ≠ [] →
      let y := s0.sign k (reissued (s0.part k).token ((c.drop 8).take 32))
      done (y.1.record k x y.2 true) 0))) ∧
  (∀ (tok nonce : List Byte), tok.length = 4096 → nonce.length = 32 →
    let b := reissued tok nonce
    b.length = 128 ∧ fieldAt b 10 2 = Nat.lor (fieldAt tok 10 2) 8 ∧ (b.drop 72).take 32 = nonce ∧ b.take 10 = tok.take 10 ∧
      (b.drop 12).take 60 = (tok.drop 12).take 60) ∧
  (∀ src, Command (.tokread src) src 0x07 (fun s0 k _ c done _ _ =>
    ((s0.part k).token = [] → done s0 0xFE) ∧
    ((s0.part k).token ≠ [] → done (s0.putBytes (opWord c 0) (s0.part k).token) 0 ∧
      (s0.putBytes (opWord c 0) (s0.part k).token).mem = writeBytes s0.mem (opWord c 0) (s0.part k).token)))

/-! ### Queues, rings, commands, descriptors -/

namespace Sys2Proof.Claim

/-- R375: the fields of a completion entry. -/
def CompletionRule : Prop :=
  ∀ (s : State) (k q : Nat) (o : OwedEntry), k < s.parts.length → q < 16 → (s.part k).rings.length = 32 → (s.part k).outs.length = 16 →
    (s.part k).owed = [] → o.queue = q → o.kind ≠ 0 → o.seq = (s.part k).outs.getD q 0 → o.ctr = none →
    let ring := (s.part k).rings.getD (16 + q) Ring.off
    let t := s.owe k o
    (ring.full = true → t.mem = s.mem ∧ (t.part k).owed = [o]) ∧
    (ring.full = false → ∃ bs : List Byte, bs.length = 32 ∧ (t.part k).owed = [] ∧
      t.mem = writeBytes s.mem (ring.base.toNat + ring.prod.toNat % max ring.size.toNat 1 * 32) bs ∧
      (t.part k).rings.getD (16 + q) Ring.off = { ring with prod := ring.prod + 1 } ∧ (t.part k).outs.getD q 0 = o.seq + 1 ∧
      (o.kind < 256 → o.code < 256 → o.reason < 256 → o.state < 16 → o.origin < 2 →
        let n := number bs
        n / 2 ^ 192 = s.clk.toNat ∧ n / 2 ^ 160 % 2 ^ 32 = o.lid.toNat ∧ n / 2 ^ 128 % 2 ^ 32 = o.seq.toNat ∧ n / 2 ^ 120 % 256 = o.kind ∧
          n / 2 ^ 112 % 256 = o.code ∧ n / 2 ^ 104 % 256 = o.reason ∧ n / 2 ^ 100 % 16 = o.state ∧ n / 2 ^ 96 % 16 = q ∧
          n / 2 ^ 91 % 32 = 0 ∧ n / 2 ^ 90 % 2 = o.origin ∧
          (n % 2 = 1 ↔ (ring.prod.toNat / max ring.size.toNat 1 % 2 = 1) ≠ (Config.firstPhase = true))))

/-- R375: the fields of an entry of the PF's ring, which name the partition. -/
def PfCompletionRule : Prop :=
  ∀ (s : State) (k : Nat) (o : OwedEntry), s.pfOwed = [] → s.pfDirect = [] → o.queue = 16 → o.kind ≠ 0 → o.seq = s.pfOut → o.ctr = none →
    let ring := s.pfRing 16
    let t := s.owe k o
    (ring.full = true → t.mem = s.mem ∧ t.pfOwed = [{ o with queue := 0, part := k }]) ∧
    (ring.full = false → ∃ bs : List Byte, bs.length = 32 ∧ t.pfOwed = [] ∧
      t.mem = writeBytes s.mem (ring.base.toNat + ring.prod.toNat % max ring.size.toNat 1 * 32) bs ∧
      t.pfRing 16 = { ring with prod := ring.prod + 1 } ∧ t.pfOut = o.seq + 1 ∧
      (o.kind < 256 → o.code < 256 → o.reason < 256 → o.state < 16 → o.origin < 2 →
        let n := number bs
        n / 2 ^ 192 = s.clk.toNat ∧ n / 2 ^ 160 % 2 ^ 32 = o.lid.toNat ∧ n / 2 ^ 128 % 2 ^ 32 = o.seq.toNat ∧ n / 2 ^ 120 % 256 = o.kind ∧
          n / 2 ^ 112 % 256 = o.code ∧ n / 2 ^ 104 % 256 = o.reason ∧ n / 2 ^ 100 % 16 = o.state ∧ n / 2 ^ 96 % 16 = 0 ∧
          n / 2 ^ 92 % 16 = k % 16 ∧ n / 2 ^ 91 % 2 = 1 ∧ n / 2 ^ 90 % 2 = o.origin ∧
          (n % 2 = 1 ↔ (ring.prod.toNat / max ring.size.toNat 1 % 2 = 1) ≠ (Config.firstPhase = true))))

/-- R376 and R377: the fields of a ring that software writes through BAR2. BASE and SIZE of an empty ring change, where the new descriptor is legal; a
new PROD of a ring that the host fills is its doorbell, a new CONS of a ring that the device fills frees room; the pointers of the other rings,
and the rings that a context's registers place, are ignored (log 28). -/
def RingFields : Prop :=
  ∀ (s : State) (x : Dword), s.contained = false →
    let w := x.extractLsb' 0 32
    let change := fun (f : Ring → Ring) (r : Ring) => if r.prod = r.cons ∧ (f r).placed = true then f r else r
    let base := fun (r : Ring) => { r with base := x }
    let size := fun (r : Ring) => { r with size := w }
    (∀ k n, n < 32 →
      let after := fun (f : Ring → Ring) => (s.modPart k (fun p => { p with rings := modAt p.rings n (change f) })).ringMoved (.part k) n
      exec (.registerWrite (.ringBase (.part k) n) x) s = .next (after base) ∧
      exec (.registerWrite (.ringSize (.part k) n) x) s = .next (after size)) ∧
    (∀ k c, s.cmdCtx k = some c →
      let after := fun (f : Ring → Ring) => (s.modCtx k c (fun y => { y with trapring := change f y.trapring })).ringMoved (.part k) 33
      exec (.registerWrite (.ringBase (.part k) 33) x) s = .next (after base) ∧
      exec (.registerWrite (.ringSize (.part k) 33) x) s = .next (after size)) ∧
    (∀ n, n = 0 ∨ n = 16 ∨ n = 32 ∨ (48 ≤ n ∧ n ≤ 51) →
      let after := fun (f : Ring → Ring) => (s.modPf n (change f)).ringMoved .pf n
      exec (.registerWrite (.ringBase .pf n) x) s = .next (after base) ∧ exec (.registerWrite (.ringSize .pf n) x) s = .next (after size)) ∧
    (∀ k n, n < 16 → exec (.registerWrite (.ringProd (.part k) n) x) s = exec (.launchDoorbell (.vf k n) w) s) ∧
    exec (.registerWrite (.ringProd .pf 0) x) s = exec (.launchDoorbell .pf w) s ∧
    (∀ k n, 16 ≤ n → exec (.registerWrite (.ringProd (.part k) n) x) s = .next s) ∧
    (∀ n, n ≠ 0 → exec (.registerWrite (.ringProd .pf n) x) s = .next s) ∧
    (∀ t n, exec (.registerWrite (.ringCons t n) x) s = exec (.ringConsWrite t n w) s)

/-- R374 and R377: which command a code names; a code that the source has no command for completes with 0xFF, in its place. -/
def CodeRule : Prop :=
  (∀ (src : CmdSrc) (code : Nat),
    (cmdEvent src code = none ↔ code = 0 ∨ code = 0x0D ∨ code = 0x0E ∨ code = 0x0F ∨ 0x15 < code ∨
      (src ≠ .pf ∧ (code = 0x08 ∨ code = 0x0C ∨ 0x10 ≤ code)))) ∧
  (∀ (src : CmdSrc) (n : Nat) (s : State) (c : List Byte), s.headCmd src = some c →
    (∀ i, cmdEvent src (fieldAt c 0 1) = some i → State.pump src (n + 1) s = s.events [i]) ∧
    (cmdEvent src (fieldAt c 0 1) = none → State.pump src (n + 1) s =
      State.pump src n ((s.popCmd src).owe (cmdPart src c) (cmdEntry src (cmdPart src c) (s.cmdSeq src) 0xFF))))

end Sys2Proof.Claim

/-- R373–R377: a doorbell raises a queue's producer count, if the entries fit, and its commands are taken in order; consumer counts free
room, within the entries held; completion entries stand in their ring as R375 has them; PCAP, rings that are empty, and the RW fields of a
halted or switched-out workgroup's records are written through BAR2. That a port which is contained takes no access, what releases it, and
which pointers are ignored are the model's choices (log 24, log 28). An event whose condition does not hold leaves the state as it is (log
12). Ignored pointers and a contained port are as in log 28. -/
def Obligations.HostRings : Prop :=
  CompletionRule ∧ PfCompletionRule ∧ CodeRule ∧ RingFields ∧
  (∀ (s : State) (k q : Nat) (prod : Word), k < 16 → q < 16 →
    let r := (s.part k).rings.getD q Ring.off
    ((s.part k).desc.valid = false ∨ s.contained = true ∨ r.size = 0 ∨ r.size.toNat < (prod - r.cons).toNat → exec (.launchDoorbell (.vf k q) prod) s = .next s) ∧
    ((s.part k).desc.valid = true → s.contained = false → r.size ≠ 0 → (prod - r.cons).toNat ≤ r.size.toNat → exec (.launchDoorbell (.vf k q) prod) s = .next
      (State.pump (.vf k q) 65536 (s.modPart k (fun p => { p with rings := modAt p.rings q (fun r => { r with prod }) }))))) ∧
  (∀ (s : State) (prod : Word), s.contained = false → (s.pfRing 0).size ≠ 0 → (prod - (s.pfRing 0).cons).toNat ≤ (s.pfRing 0).size.toNat →
    exec (.launchDoorbell .pf prod) s = .next (State.pump .pf 65536 (s.modPf 0 (fun r => { r with prod })))) ∧
  (∀ (s : State) (t : RingTable) (n : Nat) (cons : Word), s.contained = true → exec (.ringConsWrite t n cons) s = .next s) ∧
  (∀ (s : State) (k n : Nat) (cons : Word), s.contained = false → ((s.part k).desc.valid = false ∨ n < 16 →
    exec (.ringConsWrite (.part k) n cons) s = .next s) ∧ ((s.part k).desc.valid = true →
    (16 ≤ n → n < 32 → exec (.ringConsWrite (.part k) n cons) s = .next (State.pump (.vf k (n - 16)) 65536
      ((s.modPart k (fun p => { p with rings := modAt p.rings n (fun r => r.consume cons) })).flush k))) ∧
    (∀ c, s.cmdCtx k = some c →
      (34 < n → exec (.ringConsWrite (.part k) n cons) s = .next s) ∧
      (n = 32 → exec (.ringConsWrite (.part k) n cons) s = .next
        ((s.modCtx k c (fun x => { x with fqring := x.fqring.consume cons })).wakeFaults k c)) ∧
      (n = 33 → ((s.part k).ctx c).trapOwed = [] → exec (.ringConsWrite (.part k) n cons) s = .next
        (s.modCtx k c (fun x => { x with trapring := x.trapring.consume cons }))) ∧
      (n = 34 → exec (.ringConsWrite (.part k) n cons) s = .next ((List.range 16).foldl (fun s q => State.pump (.vf k q) 65536 s)
        (s.modCtx k c (fun x => { x with logring := x.logring.consume cons }))))))) ∧
  (∀ (s : State) (n : Nat) (cons : Word), s.contained = false →
    let t := s.modPf n (fun r => r.consume cons)
    (n = 16 → exec (.ringConsWrite .pf n cons) s = .next (State.pump .pf 65536 (State.flushPf (s.pfDirect.length + s.pfOwed.length + 1) t))) ∧
    (n = 32 → exec (.ringConsWrite .pf n cons) s = .next (State.flushTokens (s.pfTokens.length + 1) t)) ∧
    (48 ≤ n → n ≤ 51 →
      exec (.ringConsWrite .pf n cons) s = .next (State.flushEvents (n - 48) ((s.die (n - 48)).evWait.length + 1) t)) ∧
    (n ≠ 16 → n ≠ 32 → n < 48 ∨ 51 < n → exec (.ringConsWrite .pf n cons) s = .next s)) ∧
  (∀ (r : Ring) (cons : Word), r.consume cons = if (cons - r.cons).toNat ≤ (r.prod - r.cons).toNat then { r with cons } else r) ∧
  (∀ (s : State) (x : Dword), s.contained = false → exec (.registerWrite .pcap x) s = .next { s with pcap := x.extractLsb' 0 32 }) ∧
  (∀ (s : State) (x : Dword), exec (.registerWrite .portRelease x) s = .next (if s.contained then State.pumpAll { s with contained := false } else s)) ∧
  (∀ (s : State) (target : RegTarget) (x : Dword), s.contained = true → target ≠ .portRelease → exec (.registerWrite target x) s = .next s) ∧
  (∀ (s : State) (w fl : Nat) (g : Wg) (f : Flight) (x : Dword), s.contained = false → look s.wgs w = some g → g.flights[fl]? = some f →
    let r := FlightRef.wg w fl
    let free := g.st = .halted ∨ g.st = .switchedOut
    (¬ free → ∀ i : Nat, exec (.registerWrite (.stopPc r) x) s = .next s ∧ exec (.registerWrite (.sreg r i) x) s = .next s ∧
      exec (.registerWrite (.fsr r) x) s = .next s ∧ exec (.registerWrite (.pc r i) x) s = .next s ∧
      exec (.registerWrite (.mr r i) x) s = .next s ∧ exec (.registerWrite (.rngctr r) x) s = .next s ∧
      exec (.registerWrite (.ix r) x) s = .next s ∧ exec (.registerWrite (.qpred r) x) s = .next s ∧
      exec (.registerWrite (.cb r i) x) s = .next s ∧ exec (.registerWrite (.pred r i) x) s = .next s) ∧
    (free → ∀ i : Nat,
      exec (.registerWrite (.rngctr r) x) s = .next (s.modFlight r (fun f => { f with rngctr := x })) ∧
      exec (.registerWrite (.fsr r) x) s = .next (s.modFlight r (fun f => { f with fsr := x.extractLsb' 0 32 &&& 0xFF })) ∧
      (i < 160 → exec (.registerWrite (.sreg r i) x) s = .next (s.modFlight r (fun f => f.setS i (x.extractLsb' 0 32)))) ∧
      (i < 32 → ∃ t h, exec (.registerWrite (.pc r i) x) s = .next t ∧ t.flight? r = some h ∧ h.pc.getD i 0 = x ∧
        ∀ l, l < 32 → l ≠ i → h.pc.getD l 0 = f.pc.getD l 0) ∧
      (i < 32 → ∃ t h, exec (.registerWrite (.mr r i) x) s = .next t ∧ t.flight? r = some h ∧ h.mr.getD i 0 = x ∧
        ∀ l, l < 32 → l ≠ i → h.mr.getD l 0 = f.mr.getD l 0) ∧
      exec (.registerWrite (.qpred r) x) s = .next (s.modFlight r (fun f => { f with qpred := x.extractLsb' 0 8 &&& 0x7F })) ∧
      exec (.registerWrite (.cb r i) x) s = .next (s.modFlight r (fun f => { f with cb := modAt f.cb i (fun _ => x.extractLsb' 0 16) })) ∧
      (∃ t h, exec (.registerWrite (.ix r) x) s = .next t ∧ t.flight? r = some h ∧ h.stopIx = x.toNat % 16 ∧ h.stopPc = f.stopPc ∧ RegsKept f h) ∧
      (i < 32 → ∃ t h, exec (.registerWrite (.pred r i) x) s = .next t ∧ t.flight? r = some h ∧ RegsKept f h ∧ (∀ k, h.q k = f.q k) ∧
        ∀ l k, l < 32 → k < 7 → h.p l k = if l = i then x.getLsbD k else f.p l k) ∧
      (∃ t h, exec (.registerWrite (.stopPc r) x) s = .next t ∧ t.flight? r = some h ∧ h.stopPc = x ∧ RegsKept f h)))

/-- R149, R169, R189, R194, R195, R360, R365, R366, R374 and R380: the commands INVAL, FRESUME, ARM, LOGPUT, CAPTURE, CLEARLOST, DIERESET
and CTLRUN, each with its effect and its code. Which context a command acts on, and that one waits at the head of its queue while a
partition has none, is log 28. The code of a LAUNCH that the PF sends a disabled partition is that of log 33. The places of a command's
operands are those of log 9. Which context a command acts on, and that one waits at its head, is log 28. -/
def Obligations.HostCommands : Prop :=
  (Command (.launchCommand .pf) .pf 0x01 (fun s0 k seq c done held later =>
    ((s0.part k).vfOff ≠ 0 → done s0 0xFE) ∧
    ((s0.part k).vfOff = 0 → s0.cmdCtx k = none → held) ∧
    (∀ x, (s0.part k).vfOff = 0 → s0.cmdCtx k = some x → (s0.logFull k x 11 = true → held) ∧
      (s0.logFull k x 11 = false → later (s0.acceptLaunch k x 16 seq 0 (opWord c 0)).1)))) ∧
  (∀ src, Command (.inval src) src 0x02 (fun s0 k _ c done _ _ =>
    let lo := vaLocal (BitVec.ofNat 64 (opWord c 0))
    let inside := fun (e : TlbEntry) => lo < e.vpage * 4096 + 4096 ∧ e.vpage * 4096 < lo + opWord c 1
    s0.outstandingIn k lo (opWord c 1) = false → (∀ e ∈ (s0.part k).tlb, inside e → e.leaf.span = false) →
    (∀ t, look (s0.part k).invals (cmdQueue src) = some t → t + 4096 ≤ s0.cyc) → k < s0.parts.length →
      ∃ t, done t 0 ∧ t.mem = s0.mem ∧ ∀ e, e ∈ (t.part k).tlb ↔ e ∈ (s0.part k).tlb ∧ ¬ inside e)) ∧
  (∀ (s : State) (src : CmdSrc) (c : List Byte), s.headCmd src = some c → fieldAt c 0 1 = 0x02 → (src = .pf → fieldAt c 1 1 < 16 ∧ fieldAt c 2 6 = 0) →
    let k := cmdPart src c
    let lo := vaLocal (BitVec.ofNat 64 (opWord c 0))
    let inside := fun (e : TlbEntry) => lo < e.vpage * 4096 + 4096 ∧ e.vpage * 4096 < lo + opWord c 1
    k < s.parts.length → s.outstandingIn k lo (opWord c 1) = true ∨ (∃ e ∈ (s.part k).tlb, inside e ∧ e.leaf.span = true) →
      ∃ t, exec (.inval src) s = .next t ∧ t.headCmd src = some c ∧ t.mem = s.mem ∧
        ∀ e, e ∈ (t.part k).tlb ↔ e ∈ (s.part k).tlb ∧ ¬ inside e) ∧
  (∀ src, Command (.fresume src) src 0x03 (fun s0 k _ c done _ _ =>
    ((∀ x, s0.cmdCtx k = some x → ∀ p ∈ ((s0.part k).ctx x).faults, p.1 ≠ opWord c 0) → done s0 0xFE) ∧
    (∀ x page, s0.cmdCtx k = some x → x < 16 → ((s0.part k).ctx x).faults.find? (fun p => p.1 == opWord c 0) = some (opWord c 0, page) →
      done ((s0.modCtx k x (fun y => { y with faults := y.faults.filter (fun p => p.1 != opWord c 0) })).resumePage k x page) 0))) ∧
  (∀ (s : State) (k x page w fl : Nat) (g : Wg) (f : Flight), look s.wgs w = some g → g.flights[fl]? = some f → g.part = k → g.ctx = x →
    f.wait = .fault page → ∃ h, (s.resumePage k x page).flight? (.wg w fl) = some h ∧ h = { f with wait := .ready }) ∧
  (∀ src, Command (.arm src) src 0x05 (fun s0 k _ c done held _ =>
    let i := opWord c 0
    (0xFFF ≤ i ∨ 3 < opWord c 3 → done s0 0xFE) ∧
    (i < 0xFFF → opWord c 3 ≤ 3 → (s0.cmdCtx k = none → held) ∧ (∀ x, s0.cmdCtx k = some x →
      ((s0.ctr k x i).state = 0 → done s0 1) ∧
      ((s0.ctr k x i).state ≠ 0 → done (s0.arm k x i (opWord c 1) (opWord c 2 % 4096) (opWord c 3)) 0))))) ∧
  (∀ src, Command (.logput src) src 0x09 (fun s0 k seq c done held _ => ∀ x, s0.cmdCtx k = some x →
    (s0.logFull k x 1 = true → held) ∧
    (s0.logFull k x 1 = false → ∃ bs : List Byte, bs.length = 32 ∧ fieldAt bs 0 1 = 4 ∧ fieldAt bs 8 8 = opWord c 0 ∧
      fieldAt bs 16 8 = seq.toNat ∧ fieldAt bs 24 8 = s0.clk.toNat ∧ fieldAt bs 2 1 = cmdQueue src % 16 % 256 ∧
      done (s0.logAppend k x [bs]) 0))) ∧
  (∀ src, Command (.capture src) src 0x0A (fun s0 k _ _ done held _ => ∀ x, s0.cmdCtx k = some x →
    let busy := (∃ p ∈ s0.launches, p.2.part = k ∧ p.2.ctx = x ∧ p.2.ended = false) ∧
      ¬ (((s0.part k).ctx x).st = .saved ∧ ((s0.part k).ctx x).drained = true)
    (busy ∨ s0.logFull k x (s0.captureRecs k x).length = true → held) ∧
    (¬ busy → s0.logFull k x (s0.captureRecs k x).length = false → done (s0.logAppend k x (s0.captureRecs k x)) 0))) ∧
  (Command (.clearlost .pf) .pf 0x08 (fun s0 _ _ c done _ _ => ∃ t, done t 0 ∧
    (∀ x, x ∈ t.lost ↔ x ∈ s0.lost ∧ ¬ (opWord c 0 / 128 ≤ x ∧ 128 * x < opWord c 0 + opWord c 1)) ∧
    (Memory.wf s0.mem = true → ∀ a, readByte t.mem a =
      if a / 128 ∈ s0.lost ∧ opWord c 0 / 128 ≤ a / 128 ∧ 128 * (a / 128) < opWord c 0 + opWord c 1 then 0 else readByte s0.mem a))) ∧
  (Command (.diereset .pf) .pf 0x0C (fun s0 _ _ c done _ _ =>
    let d := opWord c 0
    (4 ≤ d → done s0 0xFE) ∧ (d < 4 → (s0.die d).st = 0 → done (s0.fenceDie d) 0) ∧
    (d < 4 → (s0.die d).st = 6 → ∃ t, done t 0 ∧ (d < s0.dies.length → (t.die d).st = 3 ∧ (t.die d).tries = 0 ∧
      (t.die d).resets = if (s0.die d).resets = 255 then 255 else (s0.die d).resets + 1)) ∧
    (d < 4 → (s0.die d).st = 7 → done s0 2) ∧
    (d < 4 → (s0.die d).st ≠ 0 → (s0.die d).st ≠ 6 → (s0.die d).st ≠ 7 → done s0 1))) ∧
  (Command (.ctlrun .pf) .pf 0x15 (fun s0 k _ c done held later =>
    (s0.cmdCtx k = none → held) ∧
    (∀ x, s0.cmdCtx k = some x → (s0.readVa k x (opWord c 2) 64 = none → done s0 0xFE) ∧
      (∀ args, s0.readVa k x (opWord c 2) 64 = some args → (4 ≤ opWord c 0 → done s0 0xFE) ∧
        (opWord c 0 < 4 → (look (s0.part k).ctls (opWord c 0)).isSome → done s0 1) ∧
        (opWord c 0 < 4 → look (s0.part k).ctls (opWord c 0) = none → k < s0.parts.length →
          ∃ (t : State) (y : Ctl), later t ∧ look (t.part k).ctls (opWord c 0) = some y ∧ y.ctx = x ∧ y.halted = false ∧ t.mem = s0.mem ∧
            y.flight.exited = 0xFFFFFFFE ∧ y.flight.pc.getD 0 0 = BitVec.ofNat 64 (opWord c 1) ∧
            ∀ i, y.flight.s i = if i < 16 then BitVec.ofNat 32 (fieldAt args (4 * i) 4) else 0)))))

/-- R189, R341, R347, R348, R351, R376, R377 and R386: PARTSET is refused with the code of its first conflict, and else changes the
partition; CTXSET, REGSET and RINGSET write what they name, refused while it is in use or where it is not legal; a new translation context
sets up its counter table (R147). That RUN 0 takes a slot off the run list is log 28. The places of a command's operands are those of log 9.
That RUN 0 takes a slot off the run list is log 28. -/
def Obligations.Descriptors : Prop :=
  (∀ (s : State) (k : Nat) (d : PartDesc),
    let other := fun (e : PartDesc) => ∃ i, i < 16 ∧ i ≠ k ∧ e = (s.part i).desc ∧ e.valid = true
    ((∃ e, other e ∧ (e.quads &&& d.quads ≠ 0 ∨ e.slices &&& d.slices ≠ 0 ∨ e.pchan &&& d.pchan ≠ 0 ∨ e.strms &&& d.strms ≠ 0)) ↔
      s.partCode k d = 1) ∧
    (s.partCode k d = 0 → (∀ e, other e → e.quads &&& d.quads = 0 ∧ e.slices &&& d.slices = 0 ∧ e.pchan &&& d.pchan = 0 ∧
        e.strms &&& d.strms = 0 ∧ e.vf ≠ d.vf ∧ ¬ (d.ctl.getLsbD 1 = true ∧ e.ctl.getLsbD 1 = true)) ∧ d.vf ≠ 0 ∧ d.vf.toNat ≤ 16 ∧
      (∀ c, c < 512 → d.strms.getLsbD c = true → d.quads.getLsbD (quadOfCore c) = true) ∧
      ∀ c ∈ (s.part k).ctxs, c.st ≠ .running ∧ c.st ≠ .draining ∧ c.st ≠ .halting)) ∧
  (Command (.partset .pf) .pf 0x10 (fun s0 k _ c done held _ =>
    let image := readBytes s0.mem (opWord c 0) 256
    let d := PartDesc.ofBytes image
    ((s0.part k).vfOff = 1 → held) ∧ ((s0.part k).vfOff ≠ 1 → s0.partCode k d ≠ 0 → done s0 (s0.partCode k d)) ∧
    ((s0.part k).vfOff ≠ 1 → s0.partCode k d = 0 → k < s0.parts.length → ∃ t, done t 0 ∧ (t.part k).desc = d ∧ (t.part k).written = image.take 208 ∧
      (t.part k).clean = (s0.part k).clean.meet d ∧ (∀ j, j ≠ k → (t.part j).desc = (s0.part j).desc) ∧ (d.valid = true → (t.part k).vfOff = 0) ∧ (∀ x, x < 16 → ((t.part k).ctx x).st ≠ .lazy) ∧
      ((∀ x, x < 16 → ((s0.part k).ctx x).st ≠ .lazy) → t.mem = s0.mem ∧ t.wgs = s0.wgs) ∧
      ((s0.part k).desc.valid = false → d.valid = true → (t.part k).tick = 0 ∧ (t.part k).formed = false)))) ∧
  (∀ b : List Byte, let d := PartDesc.ofBytes b
    d.quads = BitVec.ofNat 128 (fieldAt b 0 16) ∧ d.slices = BitVec.ofNat 512 (fieldAt b 16 64) ∧ d.pchan = BitVec.ofNat 512 (fieldAt b 80 64) ∧
      d.strms = BitVec.ofNat 512 (fieldAt b 144 64) ∧ d.vf = BitVec.ofNat 8 (fieldAt b 209 1)) ∧
  (Command (.ctxset .pf) .pf 0x11 (fun s0 k _ c done _ _ =>
    let slot := opWord c 0
    let b := readBytes s0.mem (opWord c 1) 128
    let legal := slot < 16 ∧ fieldAt b 0 8 ≠ 0 ∧ fieldAt b 8 8 % 2 ^ 21 = 0 ∧ fieldAt b 16 8 % 4096 = 0 ∧ fieldAt b 56 8 % 4096 = 0 ∧
      (fieldAt b 56 8 = 0 → fieldAt b 64 4 = 0) ∧ (fieldAt b 56 8 ≠ 0 → ∃ e, e ≤ 9 ∧ fieldAt b 64 4 = 2 ^ e)
    (¬ legal → done s0 0xFE) ∧ (legal → ((s0.part k).ctx slot).st.busy = true → done s0 7) ∧
    (legal → ((s0.part k).ctx slot).st.busy = false → k < s0.parts.length → slot < (s0.part k).ctxs.length → ∃ t, done t 0 ∧ t.mem = s0.mem ∧
      ((t.part k).ctx slot).desc.tenant.toNat = fieldAt b 0 8 ∧ ((t.part k).ctx slot).desc.save.toNat = fieldAt b 8 8 ∧
      ((t.part k).ctx slot).desc.tokbuf.toNat = fieldAt b 16 8 ∧ ((t.part k).ctx slot).desc.nonce.toNat = fieldAt b 24 32 ∧
      ((t.part k).ctx slot).onList = decide (opWord c 2 % 2 = 1) ∧
      ((t.part k).ctx slot).st = if ((s0.part k).ctx slot).st = .absent then .saved else ((s0.part k).ctx slot).st))) ∧
  (Command (.regset .pf) .pf 0x12 (fun s0 k _ c done _ _ =>
    let slot := opWord c 0
    let block := opWord c 1
    let b := readBytes s0.mem (opWord c 2) 40
    let w := fieldAt b 0 8
    (16 ≤ slot ∨ 2 < block → done s0 0xFE) ∧
    (slot < 16 → block < 2 → ((s0.part k).ctx slot).st.busy = true → done s0 7) ∧
    (slot < 16 → block = 1 → ((s0.part k).ctx slot).st.busy = false → k < s0.parts.length → slot < (s0.part k).ctxs.length → ∃ t, done t 0 ∧
      t.mem = s0.mem ∧ ((t.part k).ctx slot).dom.quiet.toNat = min 1000 (max 12 (w / 2 ^ 32 % 2 ^ 10)) ∧
      ((t.part k).ctx slot).dom.domen = decide (w / 2 ^ 16 % 2 = 1) ∧ ((t.part k).ctx slot).dom.domid.toNat = w % 2 ^ 16 ∧
      ((t.part k).ctx slot).dom.peers.toNat = fieldAt b 8 32) ∧
    (let w3 := fieldAt b 24 8
     let legal := w3 % 2 ^ 12 = 0 ∨ ∃ e, 4 ≤ e ∧ e ≤ 11 ∧ w3 % 2 ^ 12 = 2 ^ e
     slot < 16 → block = 0 → ((s0.part k).ctx slot).st.busy = false → (¬ legal → done s0 0xFE) ∧
      (legal → ∃ tr : TransCtx, done ((s0.modCtx k slot (fun x => { x with trans := tr })).initCounters k slot) 0 ∧
        tr.root1.toNat = w / 2 ^ 12 % 2 ^ 28 * 4096 ∧ tr.stage2 = decide (w % 2 = 1) ∧ tr.root2.toNat = fieldAt b 8 8 / 2 ^ 12 % 2 ^ 28 * 4096 ∧
        tr.twd.toNat = fieldAt b 16 8 % 2 ^ 11 ∧ tr.fqbase.toNat = w3 / 2 ^ 12 % 2 ^ 28 * 4096 ∧ tr.fqsize.toNat = w3 % 2 ^ 12 ∧
        tr.ctrbase.toNat = fieldAt b 32 8 / 2 ^ 17 % 2 ^ 23 * 2 ^ 17)) ∧
    (slot < 16 → block = 2 → (s0.part k).slice ≠ 0 → k < s0.parts.length → ∃ t, done t 0 ∧ t.mem = s0.mem ∧
      (t.part k).slice.toNat = w / 2 ^ 32 ∧ (t.part k).ddead.toNat = w / 2 ^ 16 % 2 ^ 16 ∧ (t.part k).parkth.toNat = w / 2 ^ 8 % 2 ^ 8 ∧
      (t.part k).smode.toNat = w % 4))) ∧
  (∀ (s : State) (part ctx : Nat), Memory.wf s.mem = true → let t := s.initCounters part ctx
    (∀ i, i < 4096 → t.ctr part ctx i = { target := 0, done := 0, conf := 0, state := 9, level := 0, reason := 0, parent := 0, firstBad := 0,
                                          tdone := 0, tconf := 0 }) ∧
    ∀ a, a < s.ctrKey part ctx 0 ∨ s.ctrKey part ctx 4096 ≤ a → readByte t.mem a = readByte s.mem a) ∧
  (Command (.ringset .pf) .pf 0x14 (fun s0 k _ c done _ _ =>
    let n := opWord c 1
    let b := readBytes s0.mem (opWord c 2) 32
    let r : Ring := { base := BitVec.ofNat 64 (fieldAt b 0 8), size := BitVec.ofNat 32 (fieldAt b 8 4), prod := 0, cons := 0 }
    let old := (s0.part k).rings.getD n Ring.off
    (1 < opWord c 0 → done s0 0xFE) ∧ (opWord c 0 = 0 → 34 < n → done s0 0xFE) ∧
    (opWord c 0 = 0 → n < 32 → r.placed = false → done s0 0xFE) ∧
    (opWord c 0 = 0 → n < 32 → r.placed = true → old.prod ≠ old.cons → done s0 1) ∧
    (opWord c 0 = 0 → n < 32 → r.placed = true → old.prod = old.cons →
      done ((s0.modPart k (fun p => { p with rings := modAt p.rings n (fun _ => r) })).ringMoved (.part k) n) 0) ∧
    (∀ x, opWord c 0 = 0 → n = 33 → s0.cmdCtx k = some x → r.placed = true → ((s0.part k).ctx x).trapring.prod = ((s0.part k).ctx x).trapring.cons →
      done ((s0.modCtx k x (fun y => { y with trapring := r, reports := [] })).ringMoved (.part k) n) 0) ∧
    (∀ x, opWord c 0 = 0 → n = 33 → s0.cmdCtx k = some x → (r.placed = false → done s0 0xFE) ∧
      (r.placed = true → ((s0.part k).ctx x).trapring.prod ≠ ((s0.part k).ctx x).trapring.cons → done s0 1)) ∧
    (∀ x, opWord c 0 = 0 → s0.cmdCtx k = some x →
      let y := (s0.part k).ctx x
      (n = 32 → (y.fqring.prod ≠ y.fqring.cons → done s0 1) ∧ (y.fqring.prod = y.fqring.cons →
        done ((s0.modCtx k x (fun y => { y with fqring := Ring.off })).ringMoved (.part k) n) 0)) ∧
      (n = 34 → (y.logring.prod ≠ y.logring.cons → done s0 1) ∧ (y.logring.prod = y.logring.cons →
        done ((s0.modCtx k x (fun y => { y with logring := Ring.off })).ringMoved (.part k) n) 0))) ∧
    (opWord c 0 = 1 → (n = 0 ∨ n = 16 ∨ n = 32 ∨ (48 ≤ n ∧ n ≤ 51)) → r.placed = true →
      ((s0.pfRing n).prod ≠ (s0.pfRing n).cons → done s0 1) ∧
      ((s0.pfRing n).prod = (s0.pfRing n).cons → done ((s0.modPf n (fun _ => r)).ringMoved .pf n) 0)))) ∧
  (∀ (s : State) (k n : Nat) (r : Ring), n < 16 → k < s.parts.length → n < (s.part k).rings.length →
    let t := (s.modPart k (fun p => { p with rings := modAt p.rings n (fun _ => r) })).ringMoved (.part k) n
    t.mem = s.mem ∧ (t.part k).rings.getD n Ring.off = r ∧ ∀ i, i ≠ n → (t.part k).rings.getD i Ring.off = (s.part k).rings.getD i Ring.off)

/-! ### Kills, errors, scan turns, dies, boot -/

namespace Sys2Proof.Claim

/-- R362: an error is reported: its class's AER status bit is set, and a record joins the error log. -/
def Logged (s u : State) (cls at_ : Nat) (names : List ErrName → Prop) : Prop :=
  u = { s with errLog := u.errLog, aer := u.aer } ∧ (∀ i, i < 3 → u.aer.getLsbD i = (s.aer.getLsbD i || decide (i = cls))) ∧
    ∃ e, u.errLog = s.errLog ++ [e] ∧ e.cls = cls ∧ e.at_ = at_ ∧ e.clk = s.clk.toNat ∧ names e.names

/-- R359: an error is noted at a sector, if it has one: corrected, or uncorrectable. -/
def Noted (s u : State) (sector : Option Nat) (bad : Bool) : Prop :=
  u = { s with errAt := u.errAt } ∧ ∀ x, sget (0, 0) u.errAt x =
    let n := sget (0, 0) s.errAt x
    if sector = some x then (if bad then (n.1, n.2 + 1) else (n.1 + 1, n.2)) else n

/-- R245, R363 and R364: a kill begins. The tether's workgroups stop, each flight where it stands, its staging is gone, the kill is counted, and
TETHER_KILL is next. -/
def KillRule : Prop :=
  ∀ (s : State) (l t reason out : Nat) (fr : FlightRef) (x : Launch) (y : Tether), look s.launches l = some x → look x.tethers t = some y →
    (y.dying.isSome = true → s.startKill l t reason fr out = s) ∧
    (y.dying = none → let u := s.startKill l t reason fr out
      ∃ (x' : Launch) (y' : Tether), look u.launches l = some x' ∧ look x'.tethers t = some y' ∧ y'.stage = [] ∧ y'.dying = some (reason, (fr, out)) ∧
        y'.wgs = y.wgs ∧ x'.killsOf t = x.killsOf t + 1 ∧ x'.record = x.record ∧ Move.event (.tetherKill l t reason) ∈ u.agenda ∧
        (∀ r, u.cur = some r → y.wgs.any (ofWg r) = false) ∧
        ∀ w ∈ y.wgs, ∀ g, look s.wgs w = some g → ∃ g' : Wg, look u.wgs w = some g' ∧ g'.st = .killed ∧
          ∀ (k : Nat) (f : Flight) (c : Clause), g.flights[k]? = some f → f.stopped = false → f.ended = false → f.clause = some c →
            f.ix < c.words.length → ∃ f', g'.flights[k]? = some f' ∧ f'.stopped = true ∧ f'.stopPc = c.addr ∧ f'.stopIx = f.ix)

/-- R364: a kill is judged. Its one entry names the flight, with cause, reason and outcome. Relaunched, the tether is to be placed again; else the
launch is killed, and so are its other tethers, for reason 5 with that outcome; with none left its counter becomes KILLED. -/
def KillJudgeRule : Prop :=
  ∀ (s : State) (l t w fl reason out0 : Nat) (x : Launch) (y : Tether) (g : Wg) (f : Flight), look s.launches l = some x → look x.tethers t = some y →
    y.dying = some (reason, (.wg w fl, out0)) → look s.wgs w = some g → g.flights[fl]? = some f → g.launch = l → reason < 6 → out0 < 4 →
    x.killed.getD 0 < 4 → g.wgid < 2 ^ 32 → fl < 32 → g.core < 512 → f.stopIx < 16 →
    let own := x.killOutcome t y
    let out := if reason = 5 then out0 else if own = 0 then x.killed.getD 0 else own
    let cause := if reason = 1 then 0x0C else if reason = 3 ∧ out0 = 1 then 0x18 else 0
    let u := s.judgeKill l t
    ∃ bs : List Byte, TrapRecord bs f.stopPc.toNat s.clk.toNat x.id.toNat g.wgid fl g.core f.stopIx 3 0 cause (reason + 256 * out) ∧
      let s1 := y.wgs.foldl State.removeWg (s.postTrap x.part x.ctx none bs)
      (out = 0 → ∃ again, (∀ k, k ∈ again ↔ k ∈ x.again ∨ k = t) ∧
        u = ((s1.modLaunch l (fun z => { z with again })).tetherGone l t).settleCtx x.part) ∧
      (out ≠ 0 → (∀ c, (s.part x.part).cur = some c → ((s.part x.part).ctx c).st = .running) →
        (∀ k z, look x.tethers k = some z → k ≠ t → z.dying = none → ∃ (x' : Launch) (z' : Tether), look u.launches l = some x' ∧
          x'.killed = some (x.killed.getD out) ∧ x'.again = [] ∧ look x'.tethers t = none ∧ look x'.tethers k = some z' ∧ z'.stage = [] ∧
          z'.dying = some (5, (.wg (z.wgs.headD 0) 0, out))) ∧
        ((∀ k z, look x.tethers k = some z → k = t) → s.cancels = [] → x.cancelled = false → x.ended = false →
          s.launchAt x.part x.ctx x.ctrl = some (l, x) → x.part < s.parts.length → x.queue < 16 → (s.part x.part).owed = [] →
          ((s.part x.part).rings.getD (16 + x.queue) Ring.off).full = true →
          look u.launches l = none ∧ (u.ctr x.part x.ctx x.ctrl).state = 4 ∧ (u.ctr x.part x.ctx x.ctrl).tdone = s.clk.toNat ∧
            ∃ o, (u.part x.part).owed = [o] ∧ o.queue = x.queue ∧ o.seq = x.seq ∧ o.lid = x.id ∧ o.kind = 1 ∧ o.state = 4))

/-- R364: what a kill comes to: 0 a relaunch, 2 without RELAUNCH, 1 of a tether that cannot be relaunched, 3 at the fifth kill. -/
def OutcomeRule : Prop :=
  ∀ (x : Launch) (t : Nat) (y : Tether), x.killOutcome t y =
    if fieldAt x.record 0x10 8 / 2 ^ 41 % 2 = 0 then 2 else if y.norelaunch = true then 1 else if 5 ≤ x.killsOf t then 3 else 0

end Sys2Proof.Claim

/-- R245, R303, R359–R364: a consumed uncorrectable error is logged and kills its tether, or ends a control program (log 34); one that
nothing consumes is poison; TETHER_KILL judges a kill once the accesses of its workgroups are done, or T stands still for them (log 33);
corrected errors are counted and logged; a fatal one contains the port; a page with a lasting error moves to a spare frame of its
pseudo-channel, its unreadable sectors lost, or all of them where no spare is left; memory keeps the address that software uses. An event
whose condition does not hold leaves the state as it is (log 12). What a record names, and a control program that consumes an error, are as
in log 34. Accesses of a killed tether for which T stands still are as in log 33. -/
def Obligations.KillsAndErrors : Prop :=
  KillRule ∧ OutcomeRule ∧ KillJudgeRule ∧
  (∀ (s : State) (sector : Option Nat) (r : FlightRef), ∃ n, Noted s n sector true ∧
    (∀ l t x, look s.launches l = some x → (∃ y, s.tetherOf r = some (l, t, y)) ∨ (s.tetherOf r = none ∧ ∃ w fl y, r = .wg w fl ∧ s.endedWg w = some (l, t, x, y)) →
      ∃ u, exec (.uncorrConsumed ⟨.flight r, sector⟩) s = .next (u.startKill l t 1 r 0) ∧ Logged n u 1 (sector.getD 0) (· = [.tether x.part x.id t])) ∧
    (∀ w fl, r = .wg w fl → s.tetherOf r = none → s.endedWg w = none → exec (.uncorrConsumed ⟨.flight r, sector⟩) s = .next n) ∧
    (∀ die k, r = .ctl die k → ∃ u, exec (.uncorrConsumed ⟨.flight r, sector⟩) s = .next (u.endControl die k) ∧
      Logged n u 1 (sector.getD 0) (· = [.part k])) ∧
    (∃ u, exec (.uncorrConsumed ⟨.host, sector⟩) s = .next u ∧ Logged n u 1 (sector.getD 0) (fun ns => ∀ e, e ∈ ns ↔ ∃ x k, sector = some x ∧
      e = .part k ∧ k < 16 ∧ (s.part k).desc.valid = true ∧
      (s.part k).desc.pchan.getLsbD (paDie (x * 128) * 128 + paChan (x * 128)) = true)) ∧
    (∃ u, exec (.uncorrConsumed ⟨.nobody, sector⟩) s = .next u ∧ u = { n with poison := u.poison } ∧
      ∀ x, x ∈ u.poison ↔ x ∈ s.poison ∨ sector = some x)) ∧
  (∀ (s : State) (l t reason : Nat) (x : Launch) (y : Tether), look s.launches l = some x → look x.tethers t = some y →
    (y.dying.isSome = true → s.killDrained y = false → exec (.tetherKill l t reason) s = .next s) ∧
    (y.dying.isSome = true → s.killDrained y = true → exec (.tetherKill l t reason) s = .next (s.judgeKill l t)) ∧
    (y.dying = none → (reason ≠ 4 ∨ s.onFenced y = false) → exec (.tetherKill l t reason) s = .next s) ∧
    (y.dying = none → reason = 4 → s.onFenced y = true → exec (.tetherKill l t reason) s = .next
      (s.startKill l t 4 (.wg (y.wgs.headD 0) 0) 0)) ∧
    (s.killDrained y = true ↔ ∀ w ∈ y.wgs, ∀ g, look s.wgs w = some g →
      (s.det (.wg w 0) = true ∧ ((s.part g.part).cur ≠ some g.ctx ∨ ((s.part g.part).ctx g.ctx).st = .halting)) ∨ ∀ f ∈ g.flights, f.accs = [])) ∧
  (∀ (s : State) (l t w reason : Nat) (x : Launch) (y : Tether) (g : Wg), look s.launches l = some x → look x.tethers t = some y →
    y.dying = some (reason, (.wg w 0, 0)) → reason ≠ 5 → y.wgs = [w] → look s.wgs w = some g → g.flights ≠ [] → x.killOutcome t y = 0 →
    x.killed = none → x.cancelled = false → x.ended = false → s.cancels = [] →
    ∃ (u : State), s.judgeKill l t = u ∧ look u.wgs w = none ∧ ∀ x', look u.launches l = some x' →
      look x'.tethers t = none ∧ t ∈ x'.again ∧ x'.killed = none) ∧
  (∀ (s : State) (what : Nat) (sector : Option Nat), ∃ n t, exec (.correctedError ⟨what, sector⟩) s = .next t ∧ Noted s n sector false ∧
    Logged { n with corrected := s.corrected + 1 } t 0 (sector.getD 0) (· = [])) ∧
  (∀ (s : State) (n : Nat), ∃ t, exec (.fatalError n) s = .next t ∧ Logged { s with contained := true } t 2 0 (· = [])) ∧
  (∀ (s : State) (frame : Nat) (lost : Word),
    let ails := ∃ i, i < 32 ∧ (2 ≤ (sget (0, 0) s.errAt (frame * 32 + i)).1 ∨ 2 ≤ (sget (0, 0) s.errAt (frame * 32 + i)).2)
    let left := fun (t : State) => t.mem = s.mem ∧ (∀ x, x ∈ t.poison ↔ x ∈ s.poison ∧ x / 32 ≠ frame) ∧
      (∀ x, sget (0, 0) t.errAt x = if x / 32 = frame then (0, 0) else sget (0, 0) s.errAt x) ∧ ∃ e, t.errLog = s.errLog ++ [e]
    (∀ spare, ¬ ails → exec (.pageRetire frame spare lost) s = .next s) ∧
    (∀ spare, s.spareFor frame spare = false → exec (.pageRetire frame (some spare) lost) s = .next s) ∧
    (∀ spare, ails → s.spareFor frame spare = true → ∃ t, exec (.pageRetire frame (some spare) lost) s = .next t ∧ left t ∧
      look t.redirect frame = some spare ∧ spare ∉ t.image.spares ∧
      ∀ n, n ∈ t.lost ↔ n ∈ s.lost ∨ ∃ i, i < 32 ∧ n = frame * 32 + i ∧ (lost.getLsbD i = true ∨ n ∈ s.poison)) ∧
    ((∃ x ∈ s.image.spares, s.spareFor frame x = true) ∨ 2 ^ 28 ≤ frame → exec (.pageRetire frame none lost) s = .next s) ∧
    (ails → (∀ x ∈ s.image.spares, s.spareFor frame x = false) → frame < 2 ^ 28 → ∃ t, exec (.pageRetire frame none lost) s = .next t ∧ left t ∧
      t.redirect = s.redirect ∧ ∀ n, n ∈ t.lost ↔ n ∈ s.lost ∨ n / 32 = frame)) ∧
  (∀ (s : State) (frame spare : Nat), s.spareFor frame spare = true ↔
    spare ∈ s.image.spares ∧ paDie (spare * 4096) = paDie (frame * 4096) ∧ paChan (spare * 4096) = paChan (frame * 4096))

namespace Sys2Proof.Claim

/-- R149, R150 and R357: a signal is confirmed. CONFCNT rises; a DONE counter that reaches TARGET with it becomes CONFIRMED, notes the time and
confirms the signals that it has sent. -/
def ConfirmRule : Prop :=
  ∀ (n : Nat) (s : State) (g : Sig),
    let c := s.ctr g.part g.ctx g.idx
    let conf := min (c.conf + g.count) c.target
    let t := State.confirm (n + 1) s g
    let rest := s.sigs.filter (fun x => x != g)
    (c.state ≠ 1 ∨ conf ≠ c.target → t.ctr g.part g.ctx g.idx = { c with conf } ∧ t.sigs = rest ∧ t.wgs = s.wgs ∧ t.agenda = s.agenda) ∧
    (c.state = 1 → conf = c.target → ∃ u : State, u.ctr g.part g.ctx g.idx = { c with conf, state := 2, tconf := s.clk.toNat } ∧ u.sigs = rest ∧
      t = (rest.filter (fun x => x.part == g.part && x.ctx == g.ctx && x.child == some g.idx)).foldl (State.confirm n) u)

/-- R150 and R358: a DONE counter becomes SUSPECT, and so do those above it that hold its signal; a PENDING one notes it; no other changes. -/
def SuspectRule : Prop :=
  ∀ (n : Nat) (s : State) (part ctx i : Nat),
    let c := s.ctr part ctx i
    let t := State.suspect (n + 1) s (part, (ctx, i))
    (c.state = 1 → ∃ u : State, u.ctr part ctx i = { c with state := 7 } ∧ u.sigs = s.sigs ∧
      t = (s.sigs.filter (fun x => x.part == part && x.ctx == ctx && x.child == some i)).foldl
        (fun s x => State.suspect n s (x.part, (x.ctx, x.idx))) u) ∧
    (c.state = 0 → t.ctr part ctx i = { c with firstBad := if c.firstBad = 0 then 7 else c.firstBad } ∧ t.sigs = s.sigs) ∧
    (c.state ≠ 0 → c.state ≠ 1 → t = s)

end Sys2Proof.Claim

/-- R149, R150, R356–R358: a scan turn closes its core, begins once the core is empty 100 µs later, and ends 250 µs after that: the core
reopens, and signals whose every core has passed are confirmed. A core that fails is fenced, its unconfirmed signals' counters become
SUSPECT, and a report names the core and their jobs. An event whose condition does not hold leaves the state as it is (log 12). -/
def Obligations.ScanTurns : Prop :=
  ConfirmRule ∧ SuspectRule ∧
  ∀ (s : State) (core : Nat), core < 512 →
    let c := s.core core
    let legal := s.image.cores.getLsbD core = true ∧ c.fenced = false ∧ c.scanning = false
    (¬ legal → exec (.scanTurnStart core) s = .next s) ∧
    (legal → c.closed = false → s.nextScan (boardOfCore core) = some core → ∃ t, exec (.scanTurnStart core) s = .next t ∧
      t.core core = { c with closed := true, turnAt := s.clk.toNat } ∧ t.mem = s.mem ∧ t.wgs = s.wgs) ∧
    (legal → c.closed = false → s.nextScan (boardOfCore core) ≠ some core → exec (.scanTurnStart core) s = .next s) ∧
    (legal → c.closed = true → s.clk.toNat < c.turnAt + 100000 → exec (.scanTurnStart core) s = .next s) ∧
    (legal → c.closed = true → c.turnAt + 100000 ≤ s.clk.toNat → s.onCore core = [] →
      (∀ i, i < 64 → (s.core (boardOfCore core * 64 + i)).scanning = false) → ∃ t, exec (.scanTurnStart core) s = .next t ∧
        (t.core core).scanning = true ∧ (t.core core).turnAt = s.clk.toNat ∧ t.sigs = s.sigs.map (Sig.begins core) ∧ t.mem = s.mem ∧
        (s.nextScan (boardOfCore core) = some core → boardOfCore core < s.scanPos.length → t.scanPos.getD (boardOfCore core) 0 = core % 64 + 1)) ∧
    (legal → c.closed = true → c.turnAt + 100000 ≤ s.clk.toNat → (s.vacate core).onCore core ≠ [] →
      (∀ i, i < 64 → (s.core (boardOfCore core * 64 + i)).scanning = false) → ∃ t, exec (.scanTurnStart core) s = .next t ∧
        t.core core = (s.vacate core).core core ∧ t.sigs = (s.vacate core).sigs) ∧
    (c.scanning = false → exec (.scanTurnEnd core) s = .next s ∧ exec (.scanTurnFail core) s = .next s) ∧
    (c.scanning = true → s.clk.toNat < c.turnAt + 250000 → exec (.scanTurnEnd core) s = .next s) ∧
    (∀ g : Sig, let g' := Sig.passes core g
      g' = { g with passed := g'.passed } ∧ (∀ x, x ∈ g'.passed ↔ x ∈ g.passed ∨ (x = core ∧ core ∈ g.begun)) ∧
      (g.ready = true ↔ g.child = none ∧ ∀ x ∈ g.need, x ∈ g.passed)) ∧
    (c.scanning = true → c.turnAt + 250000 ≤ s.clk.toNat →
      let passed := s.sigs.map (Sig.passes core)
      (∃ u : State, u.core core = { c with scanning := false, closed := false } ∧ u.sigs = passed ∧ u.mem = s.mem ∧ u.wgs = s.wgs ∧
        exec (.scanTurnEnd core) s = .next ((passed.filter Sig.ready).foldl (fun s g => State.confirm 4096 s g) u)) ∧
      (∀ g, passed.filter Sig.ready = [g] → (s.ctr g.part g.ctx g.idx).state = 1 →
        (s.ctr g.part g.ctx g.idx).target ≤ (s.ctr g.part g.ctx g.idx).conf + g.count →
        (∀ h ∈ s.sigs, h.part = g.part → h.ctx = g.ctx → h.child ≠ some g.idx) →
        ∃ t, exec (.scanTurnEnd core) s = .next t ∧ t.core core = { c with scanning := false, closed := false } ∧
          (t.ctr g.part g.ctx g.idx).state = 2 ∧ (t.ctr g.part g.ctx g.idx).tconf = s.clk.toNat ∧
          (t.ctr g.part g.ctx g.idx).conf = (s.ctr g.part g.ctx g.idx).target)) ∧
    (c.scanning = true →
      let hit := s.sigs.filter (fun g => g.need.contains core)
      (∃ u t : State, u.core core = { c with scanning := false, closed := false, fenced := true } ∧ u.sigs = s.sigs ∧ u.mem = s.mem ∧ u.wgs = s.wgs ∧
        exec (.scanTurnFail core) s = .next t ∧
        Logged (hit.foldl (fun s g => State.suspect 4096 s (g.part, (g.ctx, g.idx))) u) t 1 core (fun ns => ErrName.core core ∈ ns ∧
          (∀ g ∈ hit, (s.ctr g.part g.ctx g.idx).state < 2 → ErrName.job g.part g.ctx g.idx ∈ ns) ∧
          ∀ k x i, ErrName.job k x i ∈ ns → (s.ctr k x i).state < 2)) ∧
      (∀ g, hit = [g] → (s.ctr g.part g.ctx g.idx).state = 1 → (∀ h ∈ s.sigs, h.part = g.part → h.ctx = g.ctx → h.child ≠ some g.idx) →
        ∃ t, exec (.scanTurnFail core) s = .next t ∧ (t.core core).fenced = true ∧ (t.ctr g.part g.ctx g.idx).state = 7))

/-- R372, R379–R382: a die that leaves ADMITTED goes through FENCING, FLUSHING, RESET and TRAINING, and comes back through REJOINING with
its scratchpads at zero, or is OUT after the third attempt; each change takes CLK[41:10]. BOOT brings the device up from its reset values,
step by step, a failed one in its fallback form; the clock moves by 100 MHz within 1,800 and 3,600. An event whose condition does not hold
leaves the state as it is (log 12). A die that is OUT and the boot's fallbacks are as in log 24 and log 25. -/
def Obligations.DiesAndBoot : Prop :=
  (∀ (s : State) (d : Nat), d < 4 → s.dies.length = 4 →
    let now := fun (t : State) => (t.die d).tchg = s.clk.extractLsb' 10 32
    ((s.die d).st ≠ 0 → exec (.dieFault d) s = .next s) ∧
    ((s.die d).st = 0 → exec (.dieFault d) s = .next (s.fenceDie d)) ∧
    (s.tethersOn d = [] → ((s.fenceDie d).die d).st = 1 ∧ now (s.fenceDie d) ∧
      (s.fenceDie d).mem = s.mem ∧ ((s.fenceDie d).die d).resets = if (s.die d).resets = 255 then 255 else (s.die d).resets + 1) ∧
    ((s.die d).st = 1 → s.tethersOn d = [] → ∃ t, exec (.dieFencingDone d) s = .next t ∧ (t.die d).st = 2 ∧ now t ∧ t.mem = s.mem) ∧
    ((s.die d).st ≠ 1 ∨ s.tethersOn d ≠ [] → exec (.dieFencingDone d) s = .next s) ∧
    ((s.die d).st = 2 → ∃ t, exec (.dieFlushDone d) s = .next t ∧ (t.die d).st = 3 ∧ now t ∧ t.mem = s.mem) ∧
    ((s.die d).st ≠ 2 → exec (.dieFlushDone d) s = .next s) ∧
    ((s.die d).st = 3 → ∃ t, exec (.dieResetDone d) s = .next t ∧ (t.die d).st = 4 ∧ now t ∧ t.mem = s.mem ∧ (t.die d).mxchk = 64 ∧
      (∀ q, q / 32 = d → (t.mxe q).passes = 0 ∧ (t.mxe q).checks = 0) ∧
      ∀ c, c / 128 = d → (t.core c).scanning = false ∧ (t.core c).closed = false) ∧
    ((s.die d).st ≠ 3 → exec (.dieResetDone d) s = .next s) ∧
    ((s.die d).st = 4 → ∃ t, exec (.dieTrainingDone d true) s = .next t ∧ (t.die d).st = 5 ∧ now t ∧ (t.die d).tries = (s.die d).tries + 1 ∧
      t.sigs = s.sigs.map (fun g => (coresOfDie d).foldl (fun g c => Sig.begins c g) g)) ∧
    ((s.die d).st = 4 → (s.die d).tries.toNat < 2 → ∃ t, exec (.dieTrainingDone d false) s = .next t ∧ (t.die d).st = 4 ∧
      (t.die d).tries = (s.die d).tries + 1 ∧ t.mem = s.mem) ∧
    ((s.die d).st = 4 → (s.die d).tries = 2 → ∃ t, exec (.dieTrainingDone d false) s = .next t ∧ (t.die d).st = 6 ∧ now t ∧
      ∃ n, Move.event (.fatalError n) ∈ t.agenda) ∧
    (∀ b, (s.die d).st ≠ 4 → exec (.dieTrainingDone d b) s = .next s) ∧
    (∀ (ok : List Bool) (bc : List Nat),
      let trained := ∀ k, k < 4 → ok.getD k false = true
      ((s.die d).st ≠ 5 → exec (.dieRejoinDone ⟨d, ok, bc⟩) s = .next s) ∧
      ((s.die d).st = 5 → ∃ t, exec (.dieRejoinDone ⟨d, ok, bc⟩) s = .next t ∧ (t.die d).st = 0 ∧ now t ∧
        (∀ c ∈ bc, c / 128 = d → c < 512 → (t.core c).fenced = true) ∧ (∀ c, c / 128 = d → (t.core c).shadows = []) ∧
        (∃ a b, t.journal = s.journal ++ [16, 17, 20, a, 24, 25, 28, b] ∧ (trained → a = 21) ∧ (¬ trained → a = 22) ∧
          ((∀ c ∈ bc, c / 128 ≠ d) → b = 29) ∧ ((∃ c ∈ bc, c / 128 = d) → b = 30)) ∧
        ∀ i, i < 512 → t.badChans.getLsbD i = (s.badChans.getLsbD i || decide (i / 128 = d ∧ ok.getD (i / 32 % 4) false = false))) ∧
      ((s.die d).st = 5 → (∀ c ∈ bc, c / 128 ≠ d) →
        (∀ g ∈ s.sigs, ((coresOfDie d).foldl (fun g c => Sig.passes c g) g).ready = false) →
        ∃ t, exec (.dieRejoinDone ⟨d, ok, bc⟩) s = .next t ∧
        (∀ k, readByte t.mem k = if onDie d k = true then 0 else readByte s.mem k) ∧
        t.sigs = s.sigs.map (fun g => (coresOfDie d).foldl (fun g c => Sig.passes c g) g) ∧
        (∀ w fl f, s.flight? (.wg w fl) = some f → f.accs = [] → (∀ e, f.wait ≠ .homeDown e) → f.wait ≠ .staging → t.flight? (.wg w fl) = some f) ∧
        ∀ w fl f, s.flight? (.wg w fl) = some f → f.wait = .homeDown d → ∃ g, t.flight? (.wg w fl) = some g ∧ g.wait = .ready ∧ RegsKept f g ∧
          g.accs.map (·.id) = f.accs.map (·.id)))) ∧
  (∀ (s : State) (dev w fl d : Nat) (f : Flight), s.flight? (.wg w fl) = some f → d < 4 → f.wait = .homeDown (farHome dev d) →
    (∀ c ∈ s.srcCtx, c.2.queued = []) → (∀ r h, s.flight? r = some h → h.accs = []) → ∃ t g, exec (.readmissionMessage dev) s = .next t ∧ t.flight? (.wg w fl) = some g ∧ g.wait = .ready ∧ RegsKept f g) ∧
  (∀ s : State, exec (.clockThrottle true) s = .next { s with mhz := max 1800 (s.mhz - 100) } ∧
    exec (.clockThrottle false) s = .next { s with mhz := min 3600 (s.mhz + 100) }) ∧
  (∀ (s : State) (b : BootReport), s.journal = [] → Memory.wf s.mem = true → b.cut = none → b.first = List.replicate 8 true →
    imageOk s.rollback (b.images.getD 0 default) = true → imageOk s.rollback (b.images.getD 2 default) = true → b.dieOk = List.replicate 4 true →
    b.stackOk = List.replicate 16 true → b.badCores = [] → ∃ t, exec (.boot b) s = .next t ∧ t.booted = true ∧
      t.journal = [4, 5, 8, 9, 12, 13, 16, 17, 20, 21, 24, 25, 28, 29, 32, 33] ∧ t.wgs = [] ∧ t.launches = [] ∧ t.parts = State.reset.parts ∧
      t.dies = State.reset.dies ∧ t.counter = s.counter ∧ t.lost = s.lost ∧ t.redirect = s.redirect ∧ t.poison = s.poison ∧ t.lastImage = t.image ∧
      (let x := (b.images.getD 2 default).content
       t.image = { x with pool := s.image.pool, spares := t.image.spares } ∧
         ∀ f, f ∈ t.image.spares ↔ f ∈ x.spares ∧ ∀ p ∈ s.redirect, p.2 ≠ f) ∧
      ∀ k, readByte t.mem k = if k < 2 ^ 40 ∧ t.inTwinWindow (paDie k) k = false ∧ t.inCountPlane (paDie k) k = false then readByte s.mem k else 0) ∧
  (∀ (s : State) (b : BootReport), s.journal = [] → b.cut ≠ some 1 →
    b.first.getD 0 false = false ∨ imageOk s.rollback (b.images.getD 0 default) = false → ∃ t, exec (.boot b) s = .next t ∧ t.booted = false ∧
    t.journal = [4, 6]) ∧
  (∀ (s : State) (b : BootReport), b.cut = some 1 → ∃ t, exec (.boot b) s = .next t ∧ t.booted = false ∧ t.journal = s.journal ++ [4]) ∧
  (∀ (s : State) (b : BootReport), s.journal = [4] → b.cut ≠ some 1 →
    b.fallback.getD 0 false = false ∨ imageOk s.rollback (b.images.getD 1 default) = false → ∃ t, exec (.boot b) s = .next t ∧ t.booted = false ∧
    t.journal = [4, 4, 6])

/-- R150, R350: VF_DISABLE cancels the partition's launches for the host, ends its control programs and forces its running context out; once none
runs, its contexts and workgroups are discarded, its resources scrubbed, and the token of R350 is due. -/
def Sys2Proof.Claim.VfDisabled : Prop :=
  ∀ (s : State) (k : Nat), k < 16 → s.parts.length = 16 →
    ((s.part k).vfOff = 2 ∨ ((s.part k).vfOff = 1 ∧ (s.part k).cur ≠ none) → exec (.vfDisable k) s = .next s) ∧
    ((s.part k).vfOff = 0 → ∃ t, exec (.vfDisable k) s = .next t ∧ (t.part k).vfOff = 1 ∧
      ((s.part k).cur = none → (t.part k).cur = none ∧ Move.event (.vfDisable k) ∈ t.agenda) ∧
      (∀ c, (s.part k).cur = some c → (t.part k).cur = none ∨ ((t.part k).cur = some c ∧ (c < (s.part k).ctxs.length → ((t.part k).ctx c).st = .forcing))) ∧
      ((∀ d, 4 ≤ d → look (s.part k).ctls d = none) → ∀ d, look (t.part k).ctls d = none) ∧
      (∀ key l, look s.launches key = some l → l.part = k → ∃ x, look t.launches key = some x ∧
        (l.ended = false → l.queue ≤ 16 → x.ended = true ∧ x.cancelled = true ∧ x.again = []) ∧
        ∀ n y, look l.tethers n = some y → ∃ z, look x.tethers n = some z ∧
          ((s.part k).cur = some l.ctx → z.dying.isSome = true ∧ (y.dying = none → z.stage = []))) ∧
      (sorted s.launches = true → (s.pfRing 16).full = true →
        let keys := (List.range 17).flatMap (fun q => (s.launches.filter (fun p => p.2.part == k && !p.2.ended && p.2.queue == q)).map Prod.fst)
        ∃ bs : List (List Byte), t.pfDirect = s.pfDirect ++ bs ∧ bs.length = keys.length ∧
          ∀ (i key : Nat) l, keys[i]? = some key → look s.launches key = some l → l.origin < 2 →
          ∃ b, bs[i]? = some b ∧ b.length = 32 ∧ fieldAt b 20 4 = l.id.toNat ∧ fieldAt b 16 4 = l.seq.toNat ∧ fieldAt b 15 1 = 1 ∧
            fieldAt b 14 1 = 0 ∧ fieldAt b 12 1 = 16 * 6 + l.queue % 16)) ∧
    ((s.part k).vfOff = 1 → s.fabricQuiet k = false → exec (.vfDisable k) s = .next s) ∧
    ((s.part k).vfOff = 1 → (s.part k).cur = none → s.fabricQuiet k = true → ∃ t, exec (.vfDisable k) s = .next t ∧ (t.part k).vfOff = 2 ∧ (t.part k).formed = false ∧
      (∀ c ∈ (t.part k).ctxs, c.st = .absent ∧ c.onList = false) ∧ (∀ p ∈ t.wgs, p.2.part ≠ k) ∧ (∀ p ∈ t.launches, p.2.part ≠ k) ∧
      (∀ g ∈ t.sigs, g.part ≠ k) ∧ (∀ x i st c cs, Move.event (.counterSignal k x i st c cs) ∉ t.agenda) ∧
      (t.part k).tlb = [] ∧ (t.part k).nonces = [] ∧ (t.part k).token = [] ∧
      (∃ nonce ns, (t.part k).tokenDue = (s.part k).tokenDue ++
        [(tokenBody k (s.part k).desc.vf.toNat 2 (s.part k).lastTenant 0 nonce s.clk.toNat ns, none)]) ∧
      Move.event (.tokenRecord k) ∈ t.agenda ∧
      ∀ core n, core < 512 → n < 2 ^ 19 → (s.part k).desc.hasCore core = true → (∀ p ∈ s.wgs, p.2.core = core → p.2.part = k) →
        readByte t.mem (2 ^ 44 + core * 2 ^ 30 + n) = 0) ∧
    (∀ (key : Nat) (l : Launch), look s.launches key = some l → l.part = k → l.queue < 16 →
      let c := s.ctr l.part l.ctx l.ctrl
      let t := s.hostCancel key
      (∃ x, look t.launches key = some x ∧ x.ended = true ∧ x.cancelled = true ∧ x.again = []) ∧
      (∃ bs : List Byte, t.pfDirect = s.pfDirect ++ [bs] ∧ bs.length = 32 ∧ (l.origin < 2 → fieldAt bs 20 4 = l.id.toNat)) ∧
      ((s.part k).owed = [] → (t.ctr l.part l.ctx l.ctrl).state = 6 ∧ (t.ctr l.part l.ctx l.ctrl).tdone = s.clk.toNat) ∧
      (c.parent ≠ 0xFFF → Move.event (.counterSignal l.part l.ctx c.parent 6 (some l.ctrl) []) ∈ t.agenda)) ∧
    (∀ (body : List Byte) (due : List (List Byte × Option Nat)), (s.part k).tokenDue = (body, none) :: due → s.pfTokens = [] →
      (s.pfRing 32).full = false → ∃ t, exec (.tokenRecord k) s = .next t ∧ t.counter = s.counter + 1 ∧ (t.part k).tokenDue = due ∧ t.pfTokens = [] ∧
        t.mem = writeBytes s.mem ((s.pfRing 32).entryAt (s.pfRing 32).prod 4096) (signedToken body (s.part k).written (s.counter + 1).toNat) ∧
        (t.pfRing 32).prod = (s.pfRing 32).prod + 1)

/-- R350–R355: clearance tokens, and the end of a VF. An event whose condition does not hold leaves the state as it is (log 12). The
signatures are opaque (log 18), and COUNTER is the value after the increment (log 26). The places of a command's operands are those of log
9. -/
def Obligations.TokensAndVfEnd : Prop := Sys2Proof.Claim.Tokens ∧ Sys2Proof.Claim.VfDisabled

/-! ### Planes, delivery contexts, requests of other devices -/

namespace Sys2Proof.Claim

/-- The plane a line of a SPAN page is homed on (R388): of the n live planes of its owner, in ascending order, the one at place h mod n, where
h folds bits [31:8] of the physical address by sixes and the owner's index. -/
def HomePlaneRule : Prop :=
  ∀ (planes : BitVec 64) (dev pa : Nat),
    (planes = 0 → homePlane planes dev pa = none) ∧
    (planes ≠ 0 → ∃ p, homePlane planes dev pa = some p ∧ p < 64 ∧ planes.getLsbD p = true ∧
      let n := ((List.range 64).filter (fun i => planes.getLsbD i)).length
      let h := (pa / 2 ^ 8 % 64) ^^^ (pa / 2 ^ 14 % 64) ^^^ (pa / 2 ^ 20 % 64) ^^^ (pa / 2 ^ 26 % 64) ^^^ (dev % 64)
      ((List.range p).filter (fun i => planes.getLsbD i)).length = h % n)

/-- The virtual lane of an operation (R394): a slot return has lane 2, a request lane 0. -/
def laneOf (op : RemOp) : Nat := if op.kind = .spoolReturn then 2 else 0

/-- A live plane on which an operation's lane is not stopped (R394). -/
def OpenOn (s : State) (op : RemOp) (i : Nat) : Prop := i < 64 ∧ s.planes.getLsbD i = true ∧ (i, laneOf op) ∉ s.stopped

/-- A packet as an operation of a delivery context is first sent (R387, R391): with its SEQ, its domain and Pts, on an open plane. -/
def SentAs (s : State) (x : Word × (Waiter × RemOp)) (p : Packet) : Prop :=
  p.seq = x.1 ∧ p.who = x.2.1 ∧ p.op = x.2.2 ∧ p.domid = (s.domOf x.2.1.flight).domid ∧ p.pts = (s.core (s.coreOf x.2.1.flight)).pts ∧
    p.firstSent = s.clk.toNat ∧ p.sentAt = s.clk.toNat

/-- R391, R392 and R394: an operation for a target opens its context, with a new epoch, and takes the next SEQ as it is issued; it goes out on an
open plane, or waits while 64 are unacknowledged or no plane is open to its lane. -/
def SendRule : Prop :=
  ∀ (s : State) (part dev : Nat) (who : Waiter) (op : RemOp),
    let key := part * 256 + dev
    let t := s.send part dev who op
    t.mem = s.mem ∧ t.uid = s.uid + 1 ∧ (∀ k, k ≠ key → look t.srcCtx k = look s.srcCtx k) ∧
    (look s.srcCtx key = none → ∃ c : SrcCtx, look t.srcCtx key = some c ∧ c.epoch = BitVec.ofNat 32 s.uid ∧ c.seq = 1 ∧
      ((∃ i, OpenOn s op i) → c.queued = [] ∧ ∃ p, c.waiting = [p] ∧ SentAs s (0, (who, op)) p ∧ OpenOn s op p.plane) ∧
      (¬ (∃ i, OpenOn s op i) → c.queued = [(0, (who, op))] ∧ c.waiting = [])) ∧
    (∀ b, look s.srcCtx key = some b → ∃ c : SrcCtx, look t.srcCtx key = some c ∧ c.epoch = b.epoch ∧ c.seq = b.seq + 1 ∧
      let q := b.queued ++ [(b.seq, (who, op))]
      (64 ≤ b.waiting.length ∨ (∀ x ∈ q, ∀ i, ¬ OpenOn s x.2.2 i) → c.waiting = b.waiting ∧ c.queued = q) ∧
      ∀ xs x rest, q = xs ++ x :: rest → b.waiting.length < 64 → (∀ y ∈ xs, ∀ i, ¬ OpenOn s y.2.2 i) → (∃ i, OpenOn s x.2.2 i) →
        (∀ y ∈ xs ++ rest, y.1 ≠ x.1) → c.queued = xs ++ rest ∧ ∃ p, c.waiting = b.waiting ++ [p] ∧ SentAs s x p ∧ OpenOn s x.2.2 p.plane)

/-- R392 and R394: operations that waited in delivery contexts go out, each behind those of its context that can go before it. -/
def Goes (s t : State) : Prop :=
  ∀ (key : Nat) (c : SrcCtx) xs x rest, look s.srcCtx key = some c → c.waiting.length < 64 → c.queued = xs ++ x :: rest →
    (∀ y ∈ xs, ∀ i, ¬ OpenOn t y.2.2 i) → (∃ i, OpenOn t x.2.2 i) → ∃ c', look t.srcCtx key = some c' ∧ (∀ y ∈ c'.queued, y.1 ≠ x.1) ∧
      ∃ p ∈ c'.waiting, SentAs s x p ∧ OpenOn t x.2.2 p.plane

/-- The access of one lane in one line of another device that a held flight waits for. -/
def FarAccess (s : State) (w fl dev : Nat) (f : Flight) (a : Acc) (p : Piece) : Prop :=
  s.flight? (.wg w fl) = some f ∧ f.accs = [a] ∧ a.pieces = [p] ∧ p.done = false ∧ p.dev = some dev ∧ p.first = 0 ∧ p.lane < 32 ∧
    p.len = a.bytes ∧ f.wait = .remote a.id ∧ f.stopped = false ∧ s.det (.wg w fl) = false ∧
    p.refused = 0 ∧
    (∀ r h, r ≠ FlightRef.wg w fl → s.flight? r = some h → h.accs = []) ∧ a.fault = none ∧ a.got = [] ∧ a.arrived = 0 ∧ a.landed = [] ∧ a.t + 4 ≤ 256 ∧ dev < 256 ∧
    (a.kind = .store ∨ ∃ sx sp, a.kind = .load sx sp)

/-- R387, R389 and R395: what a target answers. No partition whose domain context admits the source: PROT. Else, on bytes it may reach, a load
returns them and a store writes them, in the partition that accepts; a SPAN line that no plane reaches, or a held write, waits; an LDA at an OPEN granule
is refused, and its flight noted as a waiter, up to 1,024 a die. -/
def TargetRule : Prop :=
  (∀ (s : State) (q : RemoteReq), (s.acceptor q = none ↔ ∀ k, k < 16 → ∀ c, s.cmdCtx k = some c →
      ¬ ((s.part k).desc.valid = true ∧ ((s.part k).cur.isSome ∨ (s.part k).lastTenant = ((s.part k).ctx c).desc.tenant) ∧
        ((s.part k).ctx c).dom.domen = true ∧ ((s.part k).ctx c).dom.domid = q.domid ∧ ((s.part k).ctx c).dom.peers.getLsbD q.srcDev = true)) ∧
    (s.acceptor q = none → s.performRemote q = some (s, .fault 0x09 0 q.op.va))) ∧
  (∀ (s : State) (q : RemoteReq) (k c : Nat) (keys : List Nat) (sp : Bool), s.acceptor q = some (k, c) → q.op.parts = [] →
    (s.remPiece k c q.op.kind q.op.va.toNat q.op.len = .ok (keys, sp) → keys.length = q.op.len → q.op.len ≤ 256 →
    (q.op.kind = .load → q.op.len ≠ 64 → sp = false ∨ s.planes ≠ 0 →
      ∃ (t : State) (wts : Nat), s.performRemote q = some (t, .data (keys.map (readByte s.mem)) wts 0) ∧ t.mem = s.mem) ∧
    (q.op.kind = .load → q.op.len = 64 → sp = false ∨ s.planes ≠ 0 → ∃ (t : State) (wts : Nat),
      s.performRemote q = some (t, .data (s.recordAt (keys.headD 0) (keys.map (readByte s.mem))) wts 0) ∧ t.mem = s.mem) ∧
    (q.op.kind = .load ∨ q.op.kind = .store → sp = true → s.planes = 0 → s.performRemote q = none) ∧
    (q.op.kind = .store → sp = true → s.spanHeld (keys.headD 0) = true → s.performRemote q = none) ∧
    (q.op.kind = .store → sp = false → keys.Nodup → q.op.data.length = q.op.len →
      ∃ (t : State) (wts : Nat), s.performRemote q = some (t, .data [] wts 0) ∧ keys.map (readByte t.mem) = q.op.data ∧
        ∀ j, j ∉ keys → readByte t.mem j = readByte s.mem j) ∧
    (∀ kind, (∃ op ty, q.op.kind = .atom op ty ∧ kind = .atom op ty) ∨ (q.op.kind = .acas ∧ kind = .acas) → sp = false →
      let ev := eventOn s.mem kind keys q.op.data
      ∃ (t : State) (wts : Nat), s.performRemote q = some (t, .data ev.got wts ev.flags) ∧ t.mem = ev.mem)) ∧
    (∀ e, q.op.kind = .lda e → s.remPiece k c q.op.kind (q.op.va.toNat % 2 ^ 55) q.op.len = .ok (keys, sp) → sp = false →
      let gs := granulesOf keys
      let open_ := gs.filter (fun g => (s.granule g).1 == 1)
      let room := (s.ldaWaiters.filter (fun p => paDie (p.2.headD 0) == paDie (open_.headD 0))).length < 1024
      (∀ g ∈ gs, (s.granule g).1 ≠ 3) → open_ ≠ [] → ∃ t : State, s.performRemote q = some (t, .twinOpen) ∧ t.mem = s.mem ∧
        (room → ∀ x, x ∈ t.ldaWaiters ↔ x ∈ s.ldaWaiters ∨ x = ((q.srcDev, q.flight), open_)) ∧ (¬ room → t.ldaWaiters = s.ldaWaiters)))

end Sys2Proof.Claim

/-- R383, R388, R389 and R394: a plane leaves PLANES and returns to it, and the device remembers the planes as they were, so that writes to
lines that have a new home wait for 4,096 cycles; with PLANES empty every delivery context fails. A lane is stopped, and open again, and a
plane that returns or a lane that opens lets waiting operations go. An event whose condition does not hold leaves the state as it is (log
12). -/
def Obligations.Planes : Prop :=
  HomePlaneRule ∧
  (∀ (s : State) (p : Nat),
    let kept := fun (t : State) => t.mem = s.mem ∧ t.wgs = s.wgs ∧ (p, (s.planes.toNat, s.cyc)) ∈ t.spanHold ∧
      ((∀ c ∈ s.srcCtx, c.2.queued = []) → t.srcCtx = s.srcCtx)
    (64 ≤ p ∨ s.planes.getLsbD p = false → exec (.planeDown p) s = .next s) ∧
    (p < 64 → s.planes.getLsbD p = true → ∃ t, exec (.planeDown p) s = .next t ∧ kept t ∧
      (∀ i, t.planes.getLsbD i = (decide (i ≠ p) && s.planes.getLsbD i)) ∧
      (t.planes = 0 → ∀ c ∈ s.srcCtx, Move.event (.deliveryFail (c.1 / 256) (c.1 % 256)) ∈ t.agenda)) ∧
    (64 ≤ p ∨ s.booted = false ∨ s.planes.getLsbD p = true → exec (.planeUp p) s = .next s) ∧
    (p < 64 → s.booted = true → s.planes.getLsbD p = false → ∃ t, exec (.planeUp p) s = .next t ∧ kept t ∧ Goes s t ∧
      ∀ i, t.planes.getLsbD i = (decide (i = p) || s.planes.getLsbD i)) ∧
    ((∀ h ∈ s.spanHold, h.1 = p → s.cyc < h.2.2 + 4096) → exec (.spanWriteRelease p) s = .next s) ∧
    ((∃ h ∈ s.spanHold, h.1 = p ∧ h.2.2 + 4096 ≤ s.cyc) → s.dstCtx = [] → ∃ t, exec (.spanWriteRelease p) s = .next t ∧
      (∀ h, h ∈ t.spanHold ↔ h ∈ s.spanHold ∧ h.1 ≠ p) ∧ t.mem = s.mem ∧ t.wgs = s.wgs)) ∧
  (∀ (s : State) (key : Nat), s.spanHeld key = true ↔
    ∃ h ∈ s.spanHold, homePlane (BitVec.ofNat 64 h.2.1) s.image.devIdx.toNat key ≠ homePlane s.planes s.image.devIdx.toNat key) ∧
  (∀ (s : State) (port lane : Nat), ∃ t u, exec (.linkStop port lane) s = .next t ∧ exec (.linkGo port lane) s = .next u ∧
    (∀ x, x ∈ t.stopped ↔ x = (port, lane) ∨ x ∈ s.stopped) ∧ (∀ x, x ∈ u.stopped ↔ x ≠ (port, lane) ∧ x ∈ s.stopped) ∧
    t = { s with stopped := t.stopped } ∧ u = { s with stopped := u.stopped, srcCtx := u.srcCtx, free := u.free } ∧
    Goes s u ∧ ((∀ c ∈ s.srcCtx, c.2.queued = []) → u.srcCtx = s.srcCtx))

/-- R387 and R391–R394, at the source: an operation is sent or waits for room or for an open lane; the reply of its epoch and SEQ
acknowledges it and delivers its result; a packet without reply for 2 µs, or whose plane is down, is sent again with the same SEQ, on
another plane where one is open (else on the same: log 33); when the oldest has waited 10 µs, or no plane is live, the context is gone, a
load writes 0 and the peer bit is set; an idle context ends after QUIET. An event whose condition does not hold leaves the state as it is
(log 12). What a remote operation brings is in the event (log 27). The plane of a packet sent again is as in log 33. -/
def Obligations.DeliveryAtSource : Prop :=
  SendRule ∧
  (∀ (s : State) (part dev : Nat) (epoch seq : Word) (ans : RemoteAns),
    let key := part * 256 + dev
    ((∀ c, look s.srcCtx key = some c → c.epoch ≠ epoch ∨ ∀ p ∈ c.waiting, p.seq ≠ seq) → exec (.remoteReply part dev epoch seq ans) s = .next s) ∧
    (∀ (c : SrcCtx) (p : Packet) (r : FlightRef), look s.srcCtx key = some c → c.epoch = epoch → c.waiting.find? (fun q => q.seq == seq) = some p →
      p.who = .spool r → c.waiting.length ≤ 64 → ∃ t c', exec (.remoteReply part dev epoch seq ans) s = .next t ∧ t.mem = s.mem ∧ t.wgs = (s.modFlight r Flight.poke).wgs ∧
        look t.srcCtx key = some c' ∧ c'.epoch = epoch ∧ (∀ q, q ∈ c.waiting → q.seq ≠ seq → q ∈ c'.waiting) ∧
        c'.seq = c.seq ∧
        ((∀ x ∈ c.queued, ∀ i, ¬ OpenOn s x.2.2 i) → c'.queued = c.queued ∧ ∀ q, q ∈ c'.waiting ↔ q ∈ c.waiting ∧ q.seq ≠ seq) ∧
        (∀ xs x rest, c.queued = xs ++ x :: rest → (∀ y ∈ xs, ∀ i, ¬ OpenOn s y.2.2 i) → (∃ i, OpenOn s x.2.2 i) → (∀ y ∈ xs ++ rest, y.1 ≠ x.1) →
          c'.queued = xs ++ rest ∧ ∃ q ∈ c'.waiting, SentAs s x q ∧ OpenOn s x.2.2 q.plane)) ∧
    (∀ (c : SrcCtx) (p : Packet) (w fl : Nat) (f : Flight) (bytes : List Byte) (wts : Nat) (flags : Byte), look s.srcCtx key = some c → c.epoch = epoch →
      c.waiting.find? (fun q => q.seq == seq) = some p → p.who = .spoolOp (.wg w fl) → s.flight? (.wg w fl) = some f → f.wait = .far →
      ans = .data bytes wts flags → ∃ t, exec (.remoteReply part dev epoch seq ans) s = .next t ∧ t.mem = s.mem ∧
        let wait := if s.det (.wg w fl) || f.stopped then Wait.op else Wait.ready
        (p.op.kind ≠ .probe → t.flight? (.wg w fl) = some { f with opBuf := some bytes, wait }) ∧
        (∀ va n d, p.op.kind = .probe → p.op.parts = [(va, (n, d))] →
          t.flight? (.wg w fl) = some { f with known := f.known ++ [((va.toNat, n), bytes.take (1 + n))], wait })) ∧
    (∀ (c : SrcCtx) (p : Packet) (w fl : Nat) (f : Flight) (a : Acc) (q : Piece) (bytes : List Byte) (wts : Nat) (flags : Byte),
      FarAccess s w fl dev f a q → look s.srcCtx key = some c → c.epoch = epoch → c.waiting.find? (fun q => q.seq == seq) = some p →
      p.who = .access (.wg w fl) a.id 0 → ans = .data bytes wts flags → bytes.length = q.len →
      ∃ t g, exec (.remoteReply part dev epoch seq ans) s = .next t ∧ t.mem = s.mem ∧ t.flight? (.wg w fl) = some g ∧ g.accs = [] ∧
        g.wait = .ready ∧ g.retired = f.retired + 1 ∧ g.peer = f.peer ∧ g.fsr = f.fsr ∧
        (t.core (s.coreOf (.wg w fl))).pts = max (s.core (s.coreOf (.wg w fl))).pts wts ∧
        (a.kind = .store → RegsKept f g) ∧
        (∀ sx sp, a.kind = .load sx sp → (a.bytes = 4 ∨ a.bytes = 8 ∨ a.bytes = 16) → ∀ j, j < a.bytes / 4 →
          g.v q.lane (a.t + j) = BitVec.ofNat 32 (number ((bytes.drop (4 * j)).take 4))))) ∧
  (∀ (s : State) (part dev plane : Nat) (seq : Word), ∃ t, exec (.resend part dev seq plane) s = .next t ∧ t = { s with srcCtx := t.srcCtx } ∧
    (look s.srcCtx (part * 256 + dev) = none → t = s) ∧
    ∀ c, look s.srcCtx (part * 256 + dev) = some c → ∃ c', look t.srcCtx (part * 256 + dev) = some c' ∧ c' = { c with waiting := c'.waiting } ∧
      c'.waiting.length = c.waiting.length ∧ ∀ (i : Nat) (p : Packet), c.waiting[i]? = some p → ∃ p' : Packet, c'.waiting[i]? = some p' ∧
        let again := p.seq = seq ∧ OpenOn s p.op plane ∧ (plane ≠ p.plane ∨ ∀ i, OpenOn s p.op i → i = plane) ∧ (p.sentAt + 2000 ≤ s.clk.toNat ∨ s.planes.getLsbD p.plane = false)
        (again → p' = { p with plane := plane, sentAt := s.clk.toNat }) ∧ (¬ again → p' = p)) ∧
  (∀ (s : State) (part dev : Nat),
    let key := part * 256 + dev
    (look s.srcCtx key = none → exec (.deliveryFail part dev) s = .next s) ∧
    (∀ c, look s.srcCtx key = some c →
      (s.planes ≠ 0 → (∀ p ∈ c.waiting, s.clk.toNat < p.firstSent + 10000) → exec (.deliveryFail part dev) s = .next s) ∧
      (∀ (p : Packet) (w fl : Nat) (f : Flight) (a : Acc) (q : Piece), FarAccess s w fl dev f a q → c.waiting = [p] → c.queued = [] →
        p.who = .access (.wg w fl) a.id 0 → s.planes = 0 ∨ p.firstSent + 10000 ≤ s.clk.toNat →
        ∃ t g, exec (.deliveryFail part dev) s = .next t ∧ look t.srcCtx key = none ∧ t.mem = s.mem ∧ t.flight? (.wg w fl) = some g ∧
          g.accs = [] ∧ g.wait = .ready ∧ (∀ d, d < 256 → g.peer.getLsbD d = (decide (d = dev) || f.peer.getLsbD d)) ∧
          (a.kind = .store → RegsKept f g) ∧
          (∀ sx sp, a.kind = .load sx sp → (a.bytes = 4 ∨ a.bytes = 8 ∨ a.bytes = 16) → ∀ j, j < a.bytes / 4 → g.v q.lane (a.t + j) = 0))) ∧
    (let idle := ∃ c, look s.srcCtx key = some c ∧ c.waiting = [] ∧ c.queued = [] ∧ c.lastUse + s.quietNs part ≤ s.clk.toNat
     (idle → ∃ t, exec (.quietExpiry true part dev) s = .next t ∧ look t.srcCtx key = none ∧ t = { s with srcCtx := t.srcCtx }) ∧
     (¬ idle → exec (.quietExpiry true part dev) s = .next s)) ∧
    (∀ c, s.cmdCtx part = some c → s.quietNs part = 1000 * ((s.part part).ctx c).dom.quiet.toNat))

/-- R387, R391, R392 and R395, at the target: CREATE opens a context, or opens it anew under another epoch; a packet of another epoch, of
one whose reply is held, or of none is not performed, nor is one older than 10 µs; one ahead of its turn is buffered, until it is that old;
the expected one is performed and its reply held. Under which context a partition serves that runs none, and which CLKs the age compares, is
log 33; QUIET of a target's contexts is log 27. An event whose condition does not hold leaves the state as it is (log 12). What a remote
operation brings is in the event (log 27). Under which context a partition serves that runs none, and which clocks the age of a packet
compares, is log 33. QUIET of a target's contexts is log 27. -/
def Obligations.DeliveryAtTarget : Prop :=
  TargetRule ∧
  (∀ (s : State) (dev part : Nat) (epoch : Word), ∃ t c, exec (.createPacket dev part epoch) s = .next t ∧ t = { s with dstCtx := t.dstCtx } ∧
    look t.dstCtx (dev * 256 + part) = some c ∧ c.epoch = epoch ∧ c.lastUse = s.clk.toNat ∧
    (∀ b, look s.dstCtx (dev * 256 + part) = some b → b.epoch = epoch → c = { b with lastUse := s.clk.toNat }) ∧
    ((∀ b, look s.dstCtx (dev * 256 + part) = some b → b.epoch ≠ epoch) → c.expect = 0 ∧ c.replies = [] ∧ c.buffered = [])) ∧
  (∀ (s : State) (q : RemoteReq), q.create = false →
    let key := q.srcDev * 256 + q.srcPart
    (q.sent + 10000 ≤ s.clk.toNat ∨ look s.dstCtx key = none → exec (.remoteRequest q) s = .next s) ∧
    ∀ c, look s.dstCtx key = some c → s.clk.toNat < q.sent + 10000 →
      let stale := c.epoch ≠ q.epoch ∨ (∃ a, (q.seq, a) ∈ c.replies) ∨ (∃ b ∈ c.buffered, b.seq = q.seq) ∨ 2 ^ 31 ≤ (q.seq - c.expect).toNat
      (stale → ∃ t c', exec (.remoteRequest q) s = .next t ∧ t = { s with dstCtx := t.dstCtx } ∧ look t.dstCtx key = some c' ∧
        c' = { c with lastUse := c'.lastUse }) ∧
      (¬ stale → q.seq ≠ c.expect → (∀ b ∈ c.buffered, b.seq ≠ c.expect) →
        ∃ t c', exec (.remoteRequest q) s = .next t ∧ t = { s with dstCtx := t.dstCtx } ∧ look t.dstCtx key = some c' ∧
          c' = { c with buffered := c.buffered ++ [q], lastUse := s.clk.toNat }) ∧
      (¬ stale → q.seq = c.expect → c.buffered = [] →
        State.performRemote { s with dstCtx := put s.dstCtx key { c with buffered := [q], lastUse := s.clk.toNat } } q = none →
        exec (.remoteRequest q) s = .next { s with dstCtx := put s.dstCtx key { c with buffered := [q], lastUse := s.clk.toNat } }) ∧
      (¬ stale → q.seq = c.expect → c.buffered = [] → ∀ u ans,
        State.performRemote { s with dstCtx := put s.dstCtx key { c with buffered := [q], lastUse := s.clk.toNat } } q = some (u, ans) →
        ∃ t c', exec (.remoteRequest q) s = .next t ∧ t.mem = u.mem ∧ look t.dstCtx key = some c' ∧ c'.epoch = c.epoch ∧ c'.expect = c.expect + 1 ∧
          c'.buffered = [] ∧ (q.seq, ans) ∈ c'.replies ∧ c'.replies.length = min 64 (c.replies.length + 1))) ∧
  (∀ (s : State) (part dev : Nat),
    let old := ∃ c, look s.dstCtx (dev * 256 + part) = some c ∧ c.lastUse + s.targetQuiet dev ≤ s.clk.toNat
    let admits := fun (k c : Nat) => k < 16 ∧ s.cmdCtx k = some c ∧ ((s.part k).ctx c).dom.domen = true ∧ ((s.part k).ctx c).dom.peers.getLsbD dev = true
    12000 ≤ s.targetQuiet dev ∧ (∀ k c, admits k c → 1000 * ((s.part k).ctx c).dom.quiet.toNat ≤ s.targetQuiet dev) ∧
    (s.targetQuiet dev = 12000 ∨ ∃ k c, admits k c ∧ s.targetQuiet dev = 1000 * ((s.part k).ctx c).dom.quiet.toNat) ∧
    (old → ∃ t, exec (.quietExpiry false part dev) s = .next t ∧ look t.dstCtx (dev * 256 + part) = none ∧ t = { s with dstCtx := t.dstCtx }) ∧
    (¬ old → exec (.quietExpiry false part dev) s = .next s)) ∧
  (∀ (s : State) (part dev : Nat) (seq : Word), ∃ t, exec (.packetExpiry part dev seq) s = .next t ∧ t = { s with dstCtx := t.dstCtx } ∧
    ∀ c, look s.dstCtx (dev * 256 + part) = some c → ∃ c', look t.dstCtx (dev * 256 + part) = some c' ∧
      c' = { c with buffered := c'.buffered } ∧ ∀ b, b ∈ c'.buffered ↔ b ∈ c.buffered ∧ (b.seq ≠ seq ∨ b.seq = c.expect ∨ s.clk.toNat < b.sent + 10000))
end

