-- ==== Sys2Proof/Laws/Assoc.lean ====
section
/-! SUPPORT. The laws of the sorted tables that hold memory, registers and named records: read after write, and the canonical form
that every operation keeps. -/

namespace Sys2Proof.Machine

variable {α : Type}

@[simp] theorem look_nil (i : Nat) : look ([] : List (Nat × α)) i = none := rfl

theorem look_cons (k : Nat) (v : α) (m : List (Nat × α)) (i : Nat) :
    look ((k, v) :: m) i = if i = k then some v else look m i := rfl

@[simp] theorem look_put_same (m : List (Nat × α)) (i : Nat) (x : α) : look (put m i x) i = some x := by
  induction m with
  | nil => simp [put, look]
  | cons p m ih =>
    obtain ⟨k, v⟩ := p
    simp only [put]
    split
    · simp [look]
    · split
      · simp [look]
      · simp_all [look]

@[simp] theorem look_put_ne (m : List (Nat × α)) {i j : Nat} (x : α) (h : j ≠ i) : look (put m i x) j = look m j := by
  induction m with
  | nil => simp [put, look, h]
  | cons p m ih =>
    obtain ⟨k, v⟩ := p
    simp only [put]
    split
    · simp [look, h]
    · split
      · subst_vars; simp [look, h]
      · simp [look, ih]

@[simp] theorem look_del_same (m : List (Nat × α)) (i : Nat) : look (del m i) i = none := by
  induction m with
  | nil => rfl
  | cons p m ih =>
    obtain ⟨k, v⟩ := p
    simp only [del]
    split
    · exact ih
    · simp_all [look]

@[simp] theorem look_del_ne (m : List (Nat × α)) {i j : Nat} (h : j ≠ i) : look (del m i) j = look m j := by
  induction m with
  | nil => rfl
  | cons p m ih =>
    obtain ⟨k, v⟩ := p
    simp only [del]
    split
    · subst_vars; simp [look, h, ih]
    · simp [look, ih]

@[simp] theorem sget_sput_same [DecidableEq α] (d : α) (m : List (Nat × α)) (i : Nat) (x : α) : sget d (sput d m i x) i = x := by
  unfold sget sput
  split <;> simp_all

@[simp] theorem sget_sput_ne [DecidableEq α] (d : α) (m : List (Nat × α)) {i j : Nat} (x : α) (h : j ≠ i) :
    sget d (sput d m i x) j = sget d m j := by
  unfold sget sput
  split <;> simp [h]

/-- Reading a table after one write. -/
theorem sget_sput [DecidableEq α] (d : α) (m : List (Nat × α)) (i j : Nat) (x : α) :
    sget d (sput d m i x) j = if j = i then x else sget d m j := by
  by_cases h : j = i
  · subst h; simp
  · simp [h]

theorem look_alter_same (m : List (Nat × α)) (i : Nat) (f : α → α) : look (alter m i f) i = (look m i).map f := by
  unfold alter
  split <;> simp_all

theorem look_alter_ne (m : List (Nat × α)) {i j : Nat} (f : α → α) (h : j ≠ i) : look (alter m i f) j = look m j := by
  unfold alter
  split
  · exact look_put_ne m _ h
  · rfl

/-- Reading a table after a change of one entry. -/
@[simp] theorem look_alter (m : List (Nat × α)) (i j : Nat) (f : α → α) :
    look (alter m i f) j = if j = i then (look m i).map f else look m j := by
  by_cases h : j = i
  · subst h; simp [look_alter_same]
  · simp [h, look_alter_ne]

@[simp] theorem look_mapVals (m : List (Nat × α)) (f : Nat → α → α) (i : Nat) : look (mapVals m f) i = (look m i).map (f i) := by
  induction m with
  | nil => rfl
  | cons p m ih =>
    obtain ⟨k, v⟩ := p
    simp only [mapVals, List.map_cons, look] at *
    split
    · subst_vars; simp
    · exact ih

/-! ### The canonical form -/

theorem keysAbove_put (m : List (Nat × α)) (k i : Nat) (x : α) (h : keysAbove k m = true) (hi : k < i) :
    keysAbove k (put m i x) = true := by
  induction m with
  | nil => simpa [keysAbove, put] using hi
  | cons p m ih =>
    obtain ⟨a, v⟩ := p
    simp only [keysAbove, List.all_cons, Bool.and_eq_true, decide_eq_true_eq] at h ih
    simp only [put]
    split
    · simp [keysAbove, hi, h.1]; simpa using h.2
    · split
      · simp [keysAbove, hi]; simpa using h.2
      · simp only [keysAbove, List.all_cons, Bool.and_eq_true, decide_eq_true_eq]
        exact ⟨h.1, ih h.2⟩

theorem keysAbove_mono {m : List (Nat × α)} {i k : Nat} (h : keysAbove k m = true) (hi : i ≤ k) : keysAbove i m = true := by
  simp only [keysAbove, List.all_eq_true, decide_eq_true_eq] at *
  intro p hp
  have := h p hp
  omega

theorem sorted_put (m : List (Nat × α)) (i : Nat) (x : α) (h : sorted m = true) : sorted (put m i x) = true := by
  induction m with
  | nil => rfl
  | cons p m ih =>
    obtain ⟨k, v⟩ := p
    simp only [sorted, Bool.and_eq_true] at h
    simp only [put]
    split
    · next hlt =>
      simp only [sorted, Bool.and_eq_true]
      refine ⟨?_, h.1, h.2⟩
      simp only [keysAbove, List.all_cons, Bool.and_eq_true, decide_eq_true_eq]
      exact ⟨hlt, keysAbove_mono h.1 (by omega)⟩
    · split
      · subst_vars; simpa [sorted] using h
      · simp only [sorted, Bool.and_eq_true]
        exact ⟨keysAbove_put m k i x h.1 (by omega), ih h.2⟩

theorem keysAbove_del (m : List (Nat × α)) (k i : Nat) (h : keysAbove k m = true) : keysAbove k (del m i) = true := by
  induction m with
  | nil => rfl
  | cons p m ih =>
    obtain ⟨a, v⟩ := p
    simp only [keysAbove, List.all_cons, Bool.and_eq_true] at h ih
    simp only [del]
    split
    · exact ih h.2
    · simp only [keysAbove, List.all_cons, Bool.and_eq_true]
      exact ⟨h.1, ih h.2⟩

theorem sorted_del (m : List (Nat × α)) (i : Nat) (h : sorted m = true) : sorted (del m i) = true := by
  induction m with
  | nil => rfl
  | cons p m ih =>
    obtain ⟨k, v⟩ := p
    simp only [sorted, Bool.and_eq_true] at h
    simp only [del]
    split
    · exact ih h.2
    · simp only [sorted, Bool.and_eq_true]
      exact ⟨keysAbove_del m k i h.1, ih h.2⟩

theorem mem_put {m : List (Nat × α)} {i : Nat} {x : α} {p : Nat × α} (h : p ∈ put m i x) : p = (i, x) ∨ p ∈ m := by
  induction m with
  | nil => simpa [put] using h
  | cons q m ih =>
    obtain ⟨k, v⟩ := q
    simp only [put] at h
    split at h
    · simpa using h
    · split at h
      · rcases List.mem_cons.1 h with h | h
        · exact .inl h
        · exact .inr (List.mem_cons_of_mem _ h)
      · rcases List.mem_cons.1 h with h | h
        · exact .inr (h ▸ List.mem_cons_self)
        · rcases ih h with h | h
          · exact .inl h
          · exact .inr (List.mem_cons_of_mem _ h)

theorem mem_del {m : List (Nat × α)} {i : Nat} {p : Nat × α} (h : p ∈ del m i) : p ∈ m := by
  induction m with
  | nil => exact h
  | cons q m ih =>
    obtain ⟨k, v⟩ := q
    simp only [del] at h
    split at h
    · exact List.mem_cons_of_mem _ (ih h)
    · rcases List.mem_cons.1 h with h | h
      · exact h ▸ List.mem_cons_self
      · exact List.mem_cons_of_mem _ (ih h)

/-- Writing an entry keeps the canonical form. -/
theorem swf_sput [DecidableEq α] (d : α) (m : List (Nat × α)) (i : Nat) (x : α) (h : swf d m = true) : swf d (sput d m i x) = true := by
  simp only [swf, Bool.and_eq_true, List.all_eq_true, decide_eq_true_eq] at *
  unfold sput
  split
  · exact ⟨sorted_del m i h.1, fun p hp => h.2 p (mem_del hp)⟩
  · next hx =>
    refine ⟨sorted_put m i x h.1, fun p hp => ?_⟩
    rcases mem_put hp with rfl | hp
    · exact hx
    · exact h.2 p hp

theorem sorted_filter (m : List (Nat × α)) (q : Nat × α → Bool) (h : sorted m = true) : sorted (m.filter q) = true := by
  induction m with
  | nil => rfl
  | cons p m ih =>
    obtain ⟨k, v⟩ := p
    simp only [sorted, Bool.and_eq_true] at h
    simp only [List.filter_cons]
    split
    · simp only [sorted, Bool.and_eq_true]
      refine ⟨?_, ih h.2⟩
      simp only [keysAbove, List.all_eq_true, decide_eq_true_eq] at *
      exact fun p hp => h.1 p (List.mem_of_mem_filter hp)
    · exact ih h.2

/-- Leaving entries out keeps the canonical form. -/
theorem swf_filter [DecidableEq α] (d : α) (m : List (Nat × α)) (q : Nat × α → Bool) (h : swf d m = true) :
    swf d (m.filter q) = true := by
  simp only [swf, Bool.and_eq_true, List.all_eq_true, decide_eq_true_eq] at *
  exact ⟨sorted_filter m q h.1, fun p hp => h.2 p (List.mem_of_mem_filter hp)⟩

/-! ### Lists changed at an index -/

@[simp] theorem length_modAt (l : List α) (i : Nat) (f : α → α) : (modAt l i f).length = l.length := by
  unfold modAt
  split <;> simp

@[simp] theorem getElem?_modAt (l : List α) (i j : Nat) (f : α → α) :
    (modAt l i f)[j]? = if j = i then l[i]?.map f else l[j]? := by
  unfold modAt
  split
  · next x hx =>
    by_cases h : j = i
    · subst h
      simp [List.getElem?_set, hx]
      exact (List.getElem?_eq_some_iff.1 hx).1
    · simp [h, Ne.symm h]
  · next hx =>
    by_cases h : j = i
    · subst h; simp [hx]
    · simp [h]

end Sys2Proof.Machine
end

