-- ==== Sys2Proof/Laws/Memory.lean ====
section
/-! SUPPORT. The laws of memory: read after write, and the canonical form that every memory operation keeps. -/

namespace Sys2Proof.Machine

/-- Reading a byte after one write. -/
@[simp] theorem readByte_writeByte (m : List Host.Cell) (k j : Nat) (b : Byte) :
    readByte (writeByte m k b) j = if j = k then b else readByte m j := sget_sput unlistedByte m k j b

@[simp] theorem writeKeys_nil (m : List Host.Cell) : writeKeys m [] = m := rfl

@[simp] theorem writeKeys_cons (m : List Host.Cell) (p : Nat × Byte) (ps : List (Nat × Byte)) :
    writeKeys m (p :: ps) = writeKeys (writeByte m p.1 p.2) ps := rfl

/-- A byte outside the keys written reads as before. -/
theorem readByte_writeKeys_ne (kb : List (Nat × Byte)) (m : List Host.Cell) (j : Nat) (h : ∀ p ∈ kb, p.1 ≠ j) :
    readByte (writeKeys m kb) j = readByte m j := by
  induction kb generalizing m with
  | nil => rfl
  | cons p kb ih =>
    have hp : j ≠ p.1 := fun e => h p List.mem_cons_self e.symm
    rw [writeKeys_cons, ih _ (fun q hq => h q (List.mem_cons_of_mem _ hq)), readByte_writeByte, if_neg hp]

/-- A byte outside adjacent bytes written reads as before. -/
theorem readByte_writeBytes_ne (bs : List Byte) (m : List Host.Cell) (k j : Nat) (h : j < k ∨ k + bs.length ≤ j) :
    readByte (writeBytes m k bs) j = readByte m j := by
  induction bs generalizing m k with
  | nil => rfl
  | cons b bs ih =>
    simp only [List.length_cons] at h
    simp only [writeBytes]
    rw [ih _ _ (by omega), readByte_writeByte, if_neg (by omega)]

/-- A byte among adjacent bytes written reads as written. -/
theorem readByte_writeBytes (bs : List Byte) (m : List Host.Cell) (k i : Nat) (h : i < bs.length) :
    readByte (writeBytes m k bs) (k + i) = bs[i] := by
  induction bs generalizing m k i with
  | nil => simp at h
  | cons b bs ih =>
    simp only [writeBytes]
    cases i with
    | zero =>
      rw [readByte_writeBytes_ne _ _ _ _ (by omega)]
      simp
    | succ i =>
      have : k + (i + 1) = (k + 1) + i := by omega
      rw [this, ih (writeByte m k b) (k + 1) i (by simpa using h)]
      simp

/-- Adjacent bytes read as written. -/
theorem readBytes_writeBytes (bs : List Byte) (m : List Host.Cell) (k : Nat) : readBytes (writeBytes m k bs) k bs.length = bs := by
  apply List.ext_getElem
  · simp [readBytes]
  · intro i h1 h2
    simp only [readBytes, List.getElem_map, List.getElem_range]
    exact readByte_writeBytes bs m k i h2

/-! ### The canonical form -/

theorem writeByte_wf {m : List Host.Cell} (k : Nat) (b : Byte) (h : Memory.wf m = true) : Memory.wf (writeByte m k b) = true :=
  swf_sput unlistedByte m k b h

theorem writeKeys_wf {m : List Host.Cell} (kb : List (Nat × Byte)) (h : Memory.wf m = true) : Memory.wf (writeKeys m kb) = true := by
  induction kb generalizing m with
  | nil => exact h
  | cons p kb ih => exact ih (writeByte_wf p.1 p.2 h)

theorem writeBytes_wf {m : List Host.Cell} (k : Nat) (bs : List Byte) (h : Memory.wf m = true) :
    Memory.wf (writeBytes m k bs) = true := by
  induction bs generalizing m k with
  | nil => exact h
  | cons b bs ih => exact ih (k + 1) (writeByte_wf k b h)

theorem filter_wf {m : List Host.Cell} (q : Host.Cell → Bool) (h : Memory.wf m = true) : Memory.wf (m.filter q) = true :=
  swf_filter unlistedByte m q h

theorem putNat_wf {s : State} (k n x : Nat) (h : Memory.wf s.mem = true) : Memory.wf (s.putNat k n x).mem = true :=
  writeBytes_wf k _ h

theorem putBytes_wf {s : State} (k : Nat) (bs : List Byte) (h : Memory.wf s.mem = true) : Memory.wf (s.putBytes k bs).mem = true :=
  writeBytes_wf k bs h

theorem reset_memory_wf : Memory.wf State.reset.mem = true := rfl

end Sys2Proof.Machine
end

