-- ==== Sys2Proof/Laws/State.lean ====
section
/-! SUPPORT. One lemma per field of the state and per named update: what the update writes, and that it leaves the other fields as
they are; the same for a flight's registers. -/

namespace Sys2Proof.Machine

/-! ### modWg -/

@[simp] theorem State.modWg_agenda (s : State) (w : Nat) (f : Wg → Wg) : (s.modWg w f).agenda = s.agenda := rfl
@[simp] theorem State.modWg_cur (s : State) (w : Nat) (f : Wg → Wg) : (s.modWg w f).cur = s.cur := rfl
@[simp] theorem State.modWg_uid (s : State) (w : Nat) (f : Wg → Wg) : (s.modWg w f).uid = s.uid := rfl
@[simp] theorem State.modWg_free (s : State) (w : Nat) (f : Wg → Wg) : (s.modWg w f).free = s.free := rfl
@[simp] theorem State.modWg_mem (s : State) (w : Nat) (f : Wg → Wg) : (s.modWg w f).mem = s.mem := rfl
@[simp] theorem State.modWg_wgs (s : State) (w : Nat) (f : Wg → Wg) : (s.modWg w f).wgs = alter s.wgs w f := rfl
@[simp] theorem State.modWg_launches (s : State) (w : Nat) (f : Wg → Wg) : (s.modWg w f).launches = s.launches := rfl
@[simp] theorem State.modWg_cancels (s : State) (w : Nat) (f : Wg → Wg) : (s.modWg w f).cancels = s.cancels := rfl
@[simp] theorem State.modWg_parts (s : State) (w : Nat) (f : Wg → Wg) : (s.modWg w f).parts = s.parts := rfl
@[simp] theorem State.modWg_cores (s : State) (w : Nat) (f : Wg → Wg) : (s.modWg w f).cores = s.cores := rfl
@[simp] theorem State.modWg_mxes (s : State) (w : Nat) (f : Wg → Wg) : (s.modWg w f).mxes = s.mxes := rfl
@[simp] theorem State.modWg_runs (s : State) (w : Nat) (f : Wg → Wg) : (s.modWg w f).runs = s.runs := rfl
@[simp] theorem State.modWg_estQ (s : State) (w : Nat) (f : Wg → Wg) : (s.modWg w f).estQ = s.estQ := rfl
@[simp] theorem State.modWg_sigs (s : State) (w : Nat) (f : Wg → Wg) : (s.modWg w f).sigs = s.sigs := rfl
@[simp] theorem State.modWg_spools (s : State) (w : Nat) (f : Wg → Wg) : (s.modWg w f).spools = s.spools := rfl
@[simp] theorem State.modWg_dies (s : State) (w : Nat) (f : Wg → Wg) : (s.modWg w f).dies = s.dies := rfl
@[simp] theorem State.modWg_pfRings (s : State) (w : Nat) (f : Wg → Wg) : (s.modWg w f).pfRings = s.pfRings := rfl
@[simp] theorem State.modWg_pfSeq (s : State) (w : Nat) (f : Wg → Wg) : (s.modWg w f).pfSeq = s.pfSeq := rfl
@[simp] theorem State.modWg_pfOut (s : State) (w : Nat) (f : Wg → Wg) : (s.modWg w f).pfOut = s.pfOut := rfl
@[simp] theorem State.modWg_pfOwed (s : State) (w : Nat) (f : Wg → Wg) : (s.modWg w f).pfOwed = s.pfOwed := rfl
@[simp] theorem State.modWg_pfDirect (s : State) (w : Nat) (f : Wg → Wg) : (s.modWg w f).pfDirect = s.pfDirect := rfl
@[simp] theorem State.modWg_pfTokens (s : State) (w : Nat) (f : Wg → Wg) : (s.modWg w f).pfTokens = s.pfTokens := rfl
@[simp] theorem State.modWg_image (s : State) (w : Nat) (f : Wg → Wg) : (s.modWg w f).image = s.image := rfl
@[simp] theorem State.modWg_lastImage (s : State) (w : Nat) (f : Wg → Wg) : (s.modWg w f).lastImage = s.lastImage := rfl
@[simp] theorem State.modWg_badChans (s : State) (w : Nat) (f : Wg → Wg) : (s.modWg w f).badChans = s.badChans := rfl
@[simp] theorem State.modWg_lost (s : State) (w : Nat) (f : Wg → Wg) : (s.modWg w f).lost = s.lost := rfl
@[simp] theorem State.modWg_redirect (s : State) (w : Nat) (f : Wg → Wg) : (s.modWg w f).redirect = s.redirect := rfl
@[simp] theorem State.modWg_lineTime (s : State) (w : Nat) (f : Wg → Wg) : (s.modWg w f).lineTime = s.lineTime := rfl
@[simp] theorem State.modWg_errLog (s : State) (w : Nat) (f : Wg → Wg) : (s.modWg w f).errLog = s.errLog := rfl
@[simp] theorem State.modWg_aer (s : State) (w : Nat) (f : Wg → Wg) : (s.modWg w f).aer = s.aer := rfl
@[simp] theorem State.modWg_errAt (s : State) (w : Nat) (f : Wg → Wg) : (s.modWg w f).errAt = s.errAt := rfl
@[simp] theorem State.modWg_poison (s : State) (w : Nat) (f : Wg → Wg) : (s.modWg w f).poison = s.poison := rfl
@[simp] theorem State.modWg_corrected (s : State) (w : Nat) (f : Wg → Wg) : (s.modWg w f).corrected = s.corrected := rfl
@[simp] theorem State.modWg_contained (s : State) (w : Nat) (f : Wg → Wg) : (s.modWg w f).contained = s.contained := rfl
@[simp] theorem State.modWg_journal (s : State) (w : Nat) (f : Wg → Wg) : (s.modWg w f).journal = s.journal := rfl
@[simp] theorem State.modWg_booted (s : State) (w : Nat) (f : Wg → Wg) : (s.modWg w f).booted = s.booted := rfl
@[simp] theorem State.modWg_scanPos (s : State) (w : Nat) (f : Wg → Wg) : (s.modWg w f).scanPos = s.scanPos := rfl
@[simp] theorem State.modWg_counter (s : State) (w : Nat) (f : Wg → Wg) : (s.modWg w f).counter = s.counter := rfl
@[simp] theorem State.modWg_rollback (s : State) (w : Nat) (f : Wg → Wg) : (s.modWg w f).rollback = s.rollback := rfl
@[simp] theorem State.modWg_pcap (s : State) (w : Nat) (f : Wg → Wg) : (s.modWg w f).pcap = s.pcap := rfl
@[simp] theorem State.modWg_mhz (s : State) (w : Nat) (f : Wg → Wg) : (s.modWg w f).mhz = s.mhz := rfl
@[simp] theorem State.modWg_clk (s : State) (w : Nat) (f : Wg → Wg) : (s.modWg w f).clk = s.clk := rfl
@[simp] theorem State.modWg_mcyc (s : State) (w : Nat) (f : Wg → Wg) : (s.modWg w f).mcyc = s.mcyc := rfl
@[simp] theorem State.modWg_planes (s : State) (w : Nat) (f : Wg → Wg) : (s.modWg w f).planes = s.planes := rfl
@[simp] theorem State.modWg_spanHold (s : State) (w : Nat) (f : Wg → Wg) : (s.modWg w f).spanHold = s.spanHold := rfl
@[simp] theorem State.modWg_srcCtx (s : State) (w : Nat) (f : Wg → Wg) : (s.modWg w f).srcCtx = s.srcCtx := rfl
@[simp] theorem State.modWg_dstCtx (s : State) (w : Nat) (f : Wg → Wg) : (s.modWg w f).dstCtx = s.dstCtx := rfl
@[simp] theorem State.modWg_stopped (s : State) (w : Nat) (f : Wg → Wg) : (s.modWg w f).stopped = s.stopped := rfl
@[simp] theorem State.modWg_ldaWaiters (s : State) (w : Nat) (f : Wg → Wg) : (s.modWg w f).ldaWaiters = s.ldaWaiters := rfl
@[simp] theorem State.modWg_readmit (s : State) (w : Nat) (f : Wg → Wg) : (s.modWg w f).readmit = s.readmit := rfl

/-! ### modPart -/

@[simp] theorem State.modPart_agenda (s : State) (p : Nat) (f : Part → Part) : (s.modPart p f).agenda = s.agenda := rfl
@[simp] theorem State.modPart_cur (s : State) (p : Nat) (f : Part → Part) : (s.modPart p f).cur = s.cur := rfl
@[simp] theorem State.modPart_uid (s : State) (p : Nat) (f : Part → Part) : (s.modPart p f).uid = s.uid := rfl
@[simp] theorem State.modPart_free (s : State) (p : Nat) (f : Part → Part) : (s.modPart p f).free = s.free := rfl
@[simp] theorem State.modPart_mem (s : State) (p : Nat) (f : Part → Part) : (s.modPart p f).mem = s.mem := rfl
@[simp] theorem State.modPart_wgs (s : State) (p : Nat) (f : Part → Part) : (s.modPart p f).wgs = s.wgs := rfl
@[simp] theorem State.modPart_launches (s : State) (p : Nat) (f : Part → Part) : (s.modPart p f).launches = s.launches := rfl
@[simp] theorem State.modPart_cancels (s : State) (p : Nat) (f : Part → Part) : (s.modPart p f).cancels = s.cancels := rfl
@[simp] theorem State.modPart_parts (s : State) (p : Nat) (f : Part → Part) : (s.modPart p f).parts = modAt s.parts p f := rfl
@[simp] theorem State.modPart_cores (s : State) (p : Nat) (f : Part → Part) : (s.modPart p f).cores = s.cores := rfl
@[simp] theorem State.modPart_mxes (s : State) (p : Nat) (f : Part → Part) : (s.modPart p f).mxes = s.mxes := rfl
@[simp] theorem State.modPart_runs (s : State) (p : Nat) (f : Part → Part) : (s.modPart p f).runs = s.runs := rfl
@[simp] theorem State.modPart_estQ (s : State) (p : Nat) (f : Part → Part) : (s.modPart p f).estQ = s.estQ := rfl
@[simp] theorem State.modPart_sigs (s : State) (p : Nat) (f : Part → Part) : (s.modPart p f).sigs = s.sigs := rfl
@[simp] theorem State.modPart_spools (s : State) (p : Nat) (f : Part → Part) : (s.modPart p f).spools = s.spools := rfl
@[simp] theorem State.modPart_dies (s : State) (p : Nat) (f : Part → Part) : (s.modPart p f).dies = s.dies := rfl
@[simp] theorem State.modPart_pfRings (s : State) (p : Nat) (f : Part → Part) : (s.modPart p f).pfRings = s.pfRings := rfl
@[simp] theorem State.modPart_pfSeq (s : State) (p : Nat) (f : Part → Part) : (s.modPart p f).pfSeq = s.pfSeq := rfl
@[simp] theorem State.modPart_pfOut (s : State) (p : Nat) (f : Part → Part) : (s.modPart p f).pfOut = s.pfOut := rfl
@[simp] theorem State.modPart_pfOwed (s : State) (p : Nat) (f : Part → Part) : (s.modPart p f).pfOwed = s.pfOwed := rfl
@[simp] theorem State.modPart_pfDirect (s : State) (p : Nat) (f : Part → Part) : (s.modPart p f).pfDirect = s.pfDirect := rfl
@[simp] theorem State.modPart_pfTokens (s : State) (p : Nat) (f : Part → Part) : (s.modPart p f).pfTokens = s.pfTokens := rfl
@[simp] theorem State.modPart_image (s : State) (p : Nat) (f : Part → Part) : (s.modPart p f).image = s.image := rfl
@[simp] theorem State.modPart_lastImage (s : State) (p : Nat) (f : Part → Part) : (s.modPart p f).lastImage = s.lastImage := rfl
@[simp] theorem State.modPart_badChans (s : State) (p : Nat) (f : Part → Part) : (s.modPart p f).badChans = s.badChans := rfl
@[simp] theorem State.modPart_lost (s : State) (p : Nat) (f : Part → Part) : (s.modPart p f).lost = s.lost := rfl
@[simp] theorem State.modPart_redirect (s : State) (p : Nat) (f : Part → Part) : (s.modPart p f).redirect = s.redirect := rfl
@[simp] theorem State.modPart_lineTime (s : State) (p : Nat) (f : Part → Part) : (s.modPart p f).lineTime = s.lineTime := rfl
@[simp] theorem State.modPart_errLog (s : State) (p : Nat) (f : Part → Part) : (s.modPart p f).errLog = s.errLog := rfl
@[simp] theorem State.modPart_aer (s : State) (p : Nat) (f : Part → Part) : (s.modPart p f).aer = s.aer := rfl
@[simp] theorem State.modPart_errAt (s : State) (p : Nat) (f : Part → Part) : (s.modPart p f).errAt = s.errAt := rfl
@[simp] theorem State.modPart_poison (s : State) (p : Nat) (f : Part → Part) : (s.modPart p f).poison = s.poison := rfl
@[simp] theorem State.modPart_corrected (s : State) (p : Nat) (f : Part → Part) : (s.modPart p f).corrected = s.corrected := rfl
@[simp] theorem State.modPart_contained (s : State) (p : Nat) (f : Part → Part) : (s.modPart p f).contained = s.contained := rfl
@[simp] theorem State.modPart_journal (s : State) (p : Nat) (f : Part → Part) : (s.modPart p f).journal = s.journal := rfl
@[simp] theorem State.modPart_booted (s : State) (p : Nat) (f : Part → Part) : (s.modPart p f).booted = s.booted := rfl
@[simp] theorem State.modPart_scanPos (s : State) (p : Nat) (f : Part → Part) : (s.modPart p f).scanPos = s.scanPos := rfl
@[simp] theorem State.modPart_counter (s : State) (p : Nat) (f : Part → Part) : (s.modPart p f).counter = s.counter := rfl
@[simp] theorem State.modPart_rollback (s : State) (p : Nat) (f : Part → Part) : (s.modPart p f).rollback = s.rollback := rfl
@[simp] theorem State.modPart_pcap (s : State) (p : Nat) (f : Part → Part) : (s.modPart p f).pcap = s.pcap := rfl
@[simp] theorem State.modPart_mhz (s : State) (p : Nat) (f : Part → Part) : (s.modPart p f).mhz = s.mhz := rfl
@[simp] theorem State.modPart_clk (s : State) (p : Nat) (f : Part → Part) : (s.modPart p f).clk = s.clk := rfl
@[simp] theorem State.modPart_mcyc (s : State) (p : Nat) (f : Part → Part) : (s.modPart p f).mcyc = s.mcyc := rfl
@[simp] theorem State.modPart_planes (s : State) (p : Nat) (f : Part → Part) : (s.modPart p f).planes = s.planes := rfl
@[simp] theorem State.modPart_spanHold (s : State) (p : Nat) (f : Part → Part) : (s.modPart p f).spanHold = s.spanHold := rfl
@[simp] theorem State.modPart_srcCtx (s : State) (p : Nat) (f : Part → Part) : (s.modPart p f).srcCtx = s.srcCtx := rfl
@[simp] theorem State.modPart_dstCtx (s : State) (p : Nat) (f : Part → Part) : (s.modPart p f).dstCtx = s.dstCtx := rfl
@[simp] theorem State.modPart_stopped (s : State) (p : Nat) (f : Part → Part) : (s.modPart p f).stopped = s.stopped := rfl
@[simp] theorem State.modPart_ldaWaiters (s : State) (p : Nat) (f : Part → Part) : (s.modPart p f).ldaWaiters = s.ldaWaiters := rfl
@[simp] theorem State.modPart_readmit (s : State) (p : Nat) (f : Part → Part) : (s.modPart p f).readmit = s.readmit := rfl

/-! ### modCtx -/

@[simp] theorem State.modCtx_agenda (s : State) (p c : Nat) (f : Ctx → Ctx) : (s.modCtx p c f).agenda = s.agenda := rfl
@[simp] theorem State.modCtx_cur (s : State) (p c : Nat) (f : Ctx → Ctx) : (s.modCtx p c f).cur = s.cur := rfl
@[simp] theorem State.modCtx_uid (s : State) (p c : Nat) (f : Ctx → Ctx) : (s.modCtx p c f).uid = s.uid := rfl
@[simp] theorem State.modCtx_free (s : State) (p c : Nat) (f : Ctx → Ctx) : (s.modCtx p c f).free = s.free := rfl
@[simp] theorem State.modCtx_mem (s : State) (p c : Nat) (f : Ctx → Ctx) : (s.modCtx p c f).mem = s.mem := rfl
@[simp] theorem State.modCtx_wgs (s : State) (p c : Nat) (f : Ctx → Ctx) : (s.modCtx p c f).wgs = s.wgs := rfl
@[simp] theorem State.modCtx_launches (s : State) (p c : Nat) (f : Ctx → Ctx) : (s.modCtx p c f).launches = s.launches := rfl
@[simp] theorem State.modCtx_cancels (s : State) (p c : Nat) (f : Ctx → Ctx) : (s.modCtx p c f).cancels = s.cancels := rfl
@[simp] theorem State.modCtx_cores (s : State) (p c : Nat) (f : Ctx → Ctx) : (s.modCtx p c f).cores = s.cores := rfl
@[simp] theorem State.modCtx_mxes (s : State) (p c : Nat) (f : Ctx → Ctx) : (s.modCtx p c f).mxes = s.mxes := rfl
@[simp] theorem State.modCtx_runs (s : State) (p c : Nat) (f : Ctx → Ctx) : (s.modCtx p c f).runs = s.runs := rfl
@[simp] theorem State.modCtx_estQ (s : State) (p c : Nat) (f : Ctx → Ctx) : (s.modCtx p c f).estQ = s.estQ := rfl
@[simp] theorem State.modCtx_sigs (s : State) (p c : Nat) (f : Ctx → Ctx) : (s.modCtx p c f).sigs = s.sigs := rfl
@[simp] theorem State.modCtx_spools (s : State) (p c : Nat) (f : Ctx → Ctx) : (s.modCtx p c f).spools = s.spools := rfl
@[simp] theorem State.modCtx_dies (s : State) (p c : Nat) (f : Ctx → Ctx) : (s.modCtx p c f).dies = s.dies := rfl
@[simp] theorem State.modCtx_pfRings (s : State) (p c : Nat) (f : Ctx → Ctx) : (s.modCtx p c f).pfRings = s.pfRings := rfl
@[simp] theorem State.modCtx_pfSeq (s : State) (p c : Nat) (f : Ctx → Ctx) : (s.modCtx p c f).pfSeq = s.pfSeq := rfl
@[simp] theorem State.modCtx_pfOut (s : State) (p c : Nat) (f : Ctx → Ctx) : (s.modCtx p c f).pfOut = s.pfOut := rfl
@[simp] theorem State.modCtx_pfOwed (s : State) (p c : Nat) (f : Ctx → Ctx) : (s.modCtx p c f).pfOwed = s.pfOwed := rfl
@[simp] theorem State.modCtx_pfDirect (s : State) (p c : Nat) (f : Ctx → Ctx) : (s.modCtx p c f).pfDirect = s.pfDirect := rfl
@[simp] theorem State.modCtx_pfTokens (s : State) (p c : Nat) (f : Ctx → Ctx) : (s.modCtx p c f).pfTokens = s.pfTokens := rfl
@[simp] theorem State.modCtx_image (s : State) (p c : Nat) (f : Ctx → Ctx) : (s.modCtx p c f).image = s.image := rfl
@[simp] theorem State.modCtx_lastImage (s : State) (p c : Nat) (f : Ctx → Ctx) : (s.modCtx p c f).lastImage = s.lastImage := rfl
@[simp] theorem State.modCtx_badChans (s : State) (p c : Nat) (f : Ctx → Ctx) : (s.modCtx p c f).badChans = s.badChans := rfl
@[simp] theorem State.modCtx_lost (s : State) (p c : Nat) (f : Ctx → Ctx) : (s.modCtx p c f).lost = s.lost := rfl
@[simp] theorem State.modCtx_redirect (s : State) (p c : Nat) (f : Ctx → Ctx) : (s.modCtx p c f).redirect = s.redirect := rfl
@[simp] theorem State.modCtx_lineTime (s : State) (p c : Nat) (f : Ctx → Ctx) : (s.modCtx p c f).lineTime = s.lineTime := rfl
@[simp] theorem State.modCtx_errLog (s : State) (p c : Nat) (f : Ctx → Ctx) : (s.modCtx p c f).errLog = s.errLog := rfl
@[simp] theorem State.modCtx_aer (s : State) (p c : Nat) (f : Ctx → Ctx) : (s.modCtx p c f).aer = s.aer := rfl
@[simp] theorem State.modCtx_errAt (s : State) (p c : Nat) (f : Ctx → Ctx) : (s.modCtx p c f).errAt = s.errAt := rfl
@[simp] theorem State.modCtx_poison (s : State) (p c : Nat) (f : Ctx → Ctx) : (s.modCtx p c f).poison = s.poison := rfl
@[simp] theorem State.modCtx_corrected (s : State) (p c : Nat) (f : Ctx → Ctx) : (s.modCtx p c f).corrected = s.corrected := rfl
@[simp] theorem State.modCtx_contained (s : State) (p c : Nat) (f : Ctx → Ctx) : (s.modCtx p c f).contained = s.contained := rfl
@[simp] theorem State.modCtx_journal (s : State) (p c : Nat) (f : Ctx → Ctx) : (s.modCtx p c f).journal = s.journal := rfl
@[simp] theorem State.modCtx_booted (s : State) (p c : Nat) (f : Ctx → Ctx) : (s.modCtx p c f).booted = s.booted := rfl
@[simp] theorem State.modCtx_scanPos (s : State) (p c : Nat) (f : Ctx → Ctx) : (s.modCtx p c f).scanPos = s.scanPos := rfl
@[simp] theorem State.modCtx_counter (s : State) (p c : Nat) (f : Ctx → Ctx) : (s.modCtx p c f).counter = s.counter := rfl
@[simp] theorem State.modCtx_rollback (s : State) (p c : Nat) (f : Ctx → Ctx) : (s.modCtx p c f).rollback = s.rollback := rfl
@[simp] theorem State.modCtx_pcap (s : State) (p c : Nat) (f : Ctx → Ctx) : (s.modCtx p c f).pcap = s.pcap := rfl
@[simp] theorem State.modCtx_mhz (s : State) (p c : Nat) (f : Ctx → Ctx) : (s.modCtx p c f).mhz = s.mhz := rfl
@[simp] theorem State.modCtx_clk (s : State) (p c : Nat) (f : Ctx → Ctx) : (s.modCtx p c f).clk = s.clk := rfl
@[simp] theorem State.modCtx_mcyc (s : State) (p c : Nat) (f : Ctx → Ctx) : (s.modCtx p c f).mcyc = s.mcyc := rfl
@[simp] theorem State.modCtx_planes (s : State) (p c : Nat) (f : Ctx → Ctx) : (s.modCtx p c f).planes = s.planes := rfl
@[simp] theorem State.modCtx_spanHold (s : State) (p c : Nat) (f : Ctx → Ctx) : (s.modCtx p c f).spanHold = s.spanHold := rfl
@[simp] theorem State.modCtx_srcCtx (s : State) (p c : Nat) (f : Ctx → Ctx) : (s.modCtx p c f).srcCtx = s.srcCtx := rfl
@[simp] theorem State.modCtx_dstCtx (s : State) (p c : Nat) (f : Ctx → Ctx) : (s.modCtx p c f).dstCtx = s.dstCtx := rfl
@[simp] theorem State.modCtx_stopped (s : State) (p c : Nat) (f : Ctx → Ctx) : (s.modCtx p c f).stopped = s.stopped := rfl
@[simp] theorem State.modCtx_ldaWaiters (s : State) (p c : Nat) (f : Ctx → Ctx) : (s.modCtx p c f).ldaWaiters = s.ldaWaiters := rfl
@[simp] theorem State.modCtx_readmit (s : State) (p c : Nat) (f : Ctx → Ctx) : (s.modCtx p c f).readmit = s.readmit := rfl

/-! ### modCore -/

@[simp] theorem State.modCore_agenda (s : State) (c : Nat) (f : Core → Core) : (s.modCore c f).agenda = s.agenda := rfl
@[simp] theorem State.modCore_cur (s : State) (c : Nat) (f : Core → Core) : (s.modCore c f).cur = s.cur := rfl
@[simp] theorem State.modCore_uid (s : State) (c : Nat) (f : Core → Core) : (s.modCore c f).uid = s.uid := rfl
@[simp] theorem State.modCore_free (s : State) (c : Nat) (f : Core → Core) : (s.modCore c f).free = s.free := rfl
@[simp] theorem State.modCore_mem (s : State) (c : Nat) (f : Core → Core) : (s.modCore c f).mem = s.mem := rfl
@[simp] theorem State.modCore_wgs (s : State) (c : Nat) (f : Core → Core) : (s.modCore c f).wgs = s.wgs := rfl
@[simp] theorem State.modCore_launches (s : State) (c : Nat) (f : Core → Core) : (s.modCore c f).launches = s.launches := rfl
@[simp] theorem State.modCore_cancels (s : State) (c : Nat) (f : Core → Core) : (s.modCore c f).cancels = s.cancels := rfl
@[simp] theorem State.modCore_parts (s : State) (c : Nat) (f : Core → Core) : (s.modCore c f).parts = s.parts := rfl
@[simp] theorem State.modCore_cores (s : State) (c : Nat) (f : Core → Core) : (s.modCore c f).cores = sput Core.reset s.cores c (f (s.core c)) := rfl
@[simp] theorem State.modCore_mxes (s : State) (c : Nat) (f : Core → Core) : (s.modCore c f).mxes = s.mxes := rfl
@[simp] theorem State.modCore_runs (s : State) (c : Nat) (f : Core → Core) : (s.modCore c f).runs = s.runs := rfl
@[simp] theorem State.modCore_estQ (s : State) (c : Nat) (f : Core → Core) : (s.modCore c f).estQ = s.estQ := rfl
@[simp] theorem State.modCore_sigs (s : State) (c : Nat) (f : Core → Core) : (s.modCore c f).sigs = s.sigs := rfl
@[simp] theorem State.modCore_spools (s : State) (c : Nat) (f : Core → Core) : (s.modCore c f).spools = s.spools := rfl
@[simp] theorem State.modCore_dies (s : State) (c : Nat) (f : Core → Core) : (s.modCore c f).dies = s.dies := rfl
@[simp] theorem State.modCore_pfRings (s : State) (c : Nat) (f : Core → Core) : (s.modCore c f).pfRings = s.pfRings := rfl
@[simp] theorem State.modCore_pfSeq (s : State) (c : Nat) (f : Core → Core) : (s.modCore c f).pfSeq = s.pfSeq := rfl
@[simp] theorem State.modCore_pfOut (s : State) (c : Nat) (f : Core → Core) : (s.modCore c f).pfOut = s.pfOut := rfl
@[simp] theorem State.modCore_pfOwed (s : State) (c : Nat) (f : Core → Core) : (s.modCore c f).pfOwed = s.pfOwed := rfl
@[simp] theorem State.modCore_pfDirect (s : State) (c : Nat) (f : Core → Core) : (s.modCore c f).pfDirect = s.pfDirect := rfl
@[simp] theorem State.modCore_pfTokens (s : State) (c : Nat) (f : Core → Core) : (s.modCore c f).pfTokens = s.pfTokens := rfl
@[simp] theorem State.modCore_image (s : State) (c : Nat) (f : Core → Core) : (s.modCore c f).image = s.image := rfl
@[simp] theorem State.modCore_lastImage (s : State) (c : Nat) (f : Core → Core) : (s.modCore c f).lastImage = s.lastImage := rfl
@[simp] theorem State.modCore_badChans (s : State) (c : Nat) (f : Core → Core) : (s.modCore c f).badChans = s.badChans := rfl
@[simp] theorem State.modCore_lost (s : State) (c : Nat) (f : Core → Core) : (s.modCore c f).lost = s.lost := rfl
@[simp] theorem State.modCore_redirect (s : State) (c : Nat) (f : Core → Core) : (s.modCore c f).redirect = s.redirect := rfl
@[simp] theorem State.modCore_lineTime (s : State) (c : Nat) (f : Core → Core) : (s.modCore c f).lineTime = s.lineTime := rfl
@[simp] theorem State.modCore_errLog (s : State) (c : Nat) (f : Core → Core) : (s.modCore c f).errLog = s.errLog := rfl
@[simp] theorem State.modCore_aer (s : State) (c : Nat) (f : Core → Core) : (s.modCore c f).aer = s.aer := rfl
@[simp] theorem State.modCore_errAt (s : State) (c : Nat) (f : Core → Core) : (s.modCore c f).errAt = s.errAt := rfl
@[simp] theorem State.modCore_poison (s : State) (c : Nat) (f : Core → Core) : (s.modCore c f).poison = s.poison := rfl
@[simp] theorem State.modCore_corrected (s : State) (c : Nat) (f : Core → Core) : (s.modCore c f).corrected = s.corrected := rfl
@[simp] theorem State.modCore_contained (s : State) (c : Nat) (f : Core → Core) : (s.modCore c f).contained = s.contained := rfl
@[simp] theorem State.modCore_journal (s : State) (c : Nat) (f : Core → Core) : (s.modCore c f).journal = s.journal := rfl
@[simp] theorem State.modCore_booted (s : State) (c : Nat) (f : Core → Core) : (s.modCore c f).booted = s.booted := rfl
@[simp] theorem State.modCore_scanPos (s : State) (c : Nat) (f : Core → Core) : (s.modCore c f).scanPos = s.scanPos := rfl
@[simp] theorem State.modCore_counter (s : State) (c : Nat) (f : Core → Core) : (s.modCore c f).counter = s.counter := rfl
@[simp] theorem State.modCore_rollback (s : State) (c : Nat) (f : Core → Core) : (s.modCore c f).rollback = s.rollback := rfl
@[simp] theorem State.modCore_pcap (s : State) (c : Nat) (f : Core → Core) : (s.modCore c f).pcap = s.pcap := rfl
@[simp] theorem State.modCore_mhz (s : State) (c : Nat) (f : Core → Core) : (s.modCore c f).mhz = s.mhz := rfl
@[simp] theorem State.modCore_clk (s : State) (c : Nat) (f : Core → Core) : (s.modCore c f).clk = s.clk := rfl
@[simp] theorem State.modCore_mcyc (s : State) (c : Nat) (f : Core → Core) : (s.modCore c f).mcyc = s.mcyc := rfl
@[simp] theorem State.modCore_planes (s : State) (c : Nat) (f : Core → Core) : (s.modCore c f).planes = s.planes := rfl
@[simp] theorem State.modCore_spanHold (s : State) (c : Nat) (f : Core → Core) : (s.modCore c f).spanHold = s.spanHold := rfl
@[simp] theorem State.modCore_srcCtx (s : State) (c : Nat) (f : Core → Core) : (s.modCore c f).srcCtx = s.srcCtx := rfl
@[simp] theorem State.modCore_dstCtx (s : State) (c : Nat) (f : Core → Core) : (s.modCore c f).dstCtx = s.dstCtx := rfl
@[simp] theorem State.modCore_stopped (s : State) (c : Nat) (f : Core → Core) : (s.modCore c f).stopped = s.stopped := rfl
@[simp] theorem State.modCore_ldaWaiters (s : State) (c : Nat) (f : Core → Core) : (s.modCore c f).ldaWaiters = s.ldaWaiters := rfl
@[simp] theorem State.modCore_readmit (s : State) (c : Nat) (f : Core → Core) : (s.modCore c f).readmit = s.readmit := rfl

/-! ### modMxe -/

@[simp] theorem State.modMxe_agenda (s : State) (q : Nat) (f : Mxe → Mxe) : (s.modMxe q f).agenda = s.agenda := rfl
@[simp] theorem State.modMxe_cur (s : State) (q : Nat) (f : Mxe → Mxe) : (s.modMxe q f).cur = s.cur := rfl
@[simp] theorem State.modMxe_uid (s : State) (q : Nat) (f : Mxe → Mxe) : (s.modMxe q f).uid = s.uid := rfl
@[simp] theorem State.modMxe_free (s : State) (q : Nat) (f : Mxe → Mxe) : (s.modMxe q f).free = s.free := rfl
@[simp] theorem State.modMxe_mem (s : State) (q : Nat) (f : Mxe → Mxe) : (s.modMxe q f).mem = s.mem := rfl
@[simp] theorem State.modMxe_wgs (s : State) (q : Nat) (f : Mxe → Mxe) : (s.modMxe q f).wgs = s.wgs := rfl
@[simp] theorem State.modMxe_launches (s : State) (q : Nat) (f : Mxe → Mxe) : (s.modMxe q f).launches = s.launches := rfl
@[simp] theorem State.modMxe_cancels (s : State) (q : Nat) (f : Mxe → Mxe) : (s.modMxe q f).cancels = s.cancels := rfl
@[simp] theorem State.modMxe_parts (s : State) (q : Nat) (f : Mxe → Mxe) : (s.modMxe q f).parts = s.parts := rfl
@[simp] theorem State.modMxe_cores (s : State) (q : Nat) (f : Mxe → Mxe) : (s.modMxe q f).cores = s.cores := rfl
@[simp] theorem State.modMxe_mxes (s : State) (q : Nat) (f : Mxe → Mxe) : (s.modMxe q f).mxes = sput Mxe.reset s.mxes q (f (s.mxe q)) := rfl
@[simp] theorem State.modMxe_runs (s : State) (q : Nat) (f : Mxe → Mxe) : (s.modMxe q f).runs = s.runs := rfl
@[simp] theorem State.modMxe_estQ (s : State) (q : Nat) (f : Mxe → Mxe) : (s.modMxe q f).estQ = s.estQ := rfl
@[simp] theorem State.modMxe_sigs (s : State) (q : Nat) (f : Mxe → Mxe) : (s.modMxe q f).sigs = s.sigs := rfl
@[simp] theorem State.modMxe_spools (s : State) (q : Nat) (f : Mxe → Mxe) : (s.modMxe q f).spools = s.spools := rfl
@[simp] theorem State.modMxe_dies (s : State) (q : Nat) (f : Mxe → Mxe) : (s.modMxe q f).dies = s.dies := rfl
@[simp] theorem State.modMxe_pfRings (s : State) (q : Nat) (f : Mxe → Mxe) : (s.modMxe q f).pfRings = s.pfRings := rfl
@[simp] theorem State.modMxe_pfSeq (s : State) (q : Nat) (f : Mxe → Mxe) : (s.modMxe q f).pfSeq = s.pfSeq := rfl
@[simp] theorem State.modMxe_pfOut (s : State) (q : Nat) (f : Mxe → Mxe) : (s.modMxe q f).pfOut = s.pfOut := rfl
@[simp] theorem State.modMxe_pfOwed (s : State) (q : Nat) (f : Mxe → Mxe) : (s.modMxe q f).pfOwed = s.pfOwed := rfl
@[simp] theorem State.modMxe_pfDirect (s : State) (q : Nat) (f : Mxe → Mxe) : (s.modMxe q f).pfDirect = s.pfDirect := rfl
@[simp] theorem State.modMxe_pfTokens (s : State) (q : Nat) (f : Mxe → Mxe) : (s.modMxe q f).pfTokens = s.pfTokens := rfl
@[simp] theorem State.modMxe_image (s : State) (q : Nat) (f : Mxe → Mxe) : (s.modMxe q f).image = s.image := rfl
@[simp] theorem State.modMxe_lastImage (s : State) (q : Nat) (f : Mxe → Mxe) : (s.modMxe q f).lastImage = s.lastImage := rfl
@[simp] theorem State.modMxe_badChans (s : State) (q : Nat) (f : Mxe → Mxe) : (s.modMxe q f).badChans = s.badChans := rfl
@[simp] theorem State.modMxe_lost (s : State) (q : Nat) (f : Mxe → Mxe) : (s.modMxe q f).lost = s.lost := rfl
@[simp] theorem State.modMxe_redirect (s : State) (q : Nat) (f : Mxe → Mxe) : (s.modMxe q f).redirect = s.redirect := rfl
@[simp] theorem State.modMxe_lineTime (s : State) (q : Nat) (f : Mxe → Mxe) : (s.modMxe q f).lineTime = s.lineTime := rfl
@[simp] theorem State.modMxe_errLog (s : State) (q : Nat) (f : Mxe → Mxe) : (s.modMxe q f).errLog = s.errLog := rfl
@[simp] theorem State.modMxe_aer (s : State) (q : Nat) (f : Mxe → Mxe) : (s.modMxe q f).aer = s.aer := rfl
@[simp] theorem State.modMxe_errAt (s : State) (q : Nat) (f : Mxe → Mxe) : (s.modMxe q f).errAt = s.errAt := rfl
@[simp] theorem State.modMxe_poison (s : State) (q : Nat) (f : Mxe → Mxe) : (s.modMxe q f).poison = s.poison := rfl
@[simp] theorem State.modMxe_corrected (s : State) (q : Nat) (f : Mxe → Mxe) : (s.modMxe q f).corrected = s.corrected := rfl
@[simp] theorem State.modMxe_contained (s : State) (q : Nat) (f : Mxe → Mxe) : (s.modMxe q f).contained = s.contained := rfl
@[simp] theorem State.modMxe_journal (s : State) (q : Nat) (f : Mxe → Mxe) : (s.modMxe q f).journal = s.journal := rfl
@[simp] theorem State.modMxe_booted (s : State) (q : Nat) (f : Mxe → Mxe) : (s.modMxe q f).booted = s.booted := rfl
@[simp] theorem State.modMxe_scanPos (s : State) (q : Nat) (f : Mxe → Mxe) : (s.modMxe q f).scanPos = s.scanPos := rfl
@[simp] theorem State.modMxe_counter (s : State) (q : Nat) (f : Mxe → Mxe) : (s.modMxe q f).counter = s.counter := rfl
@[simp] theorem State.modMxe_rollback (s : State) (q : Nat) (f : Mxe → Mxe) : (s.modMxe q f).rollback = s.rollback := rfl
@[simp] theorem State.modMxe_pcap (s : State) (q : Nat) (f : Mxe → Mxe) : (s.modMxe q f).pcap = s.pcap := rfl
@[simp] theorem State.modMxe_mhz (s : State) (q : Nat) (f : Mxe → Mxe) : (s.modMxe q f).mhz = s.mhz := rfl
@[simp] theorem State.modMxe_clk (s : State) (q : Nat) (f : Mxe → Mxe) : (s.modMxe q f).clk = s.clk := rfl
@[simp] theorem State.modMxe_mcyc (s : State) (q : Nat) (f : Mxe → Mxe) : (s.modMxe q f).mcyc = s.mcyc := rfl
@[simp] theorem State.modMxe_planes (s : State) (q : Nat) (f : Mxe → Mxe) : (s.modMxe q f).planes = s.planes := rfl
@[simp] theorem State.modMxe_spanHold (s : State) (q : Nat) (f : Mxe → Mxe) : (s.modMxe q f).spanHold = s.spanHold := rfl
@[simp] theorem State.modMxe_srcCtx (s : State) (q : Nat) (f : Mxe → Mxe) : (s.modMxe q f).srcCtx = s.srcCtx := rfl
@[simp] theorem State.modMxe_dstCtx (s : State) (q : Nat) (f : Mxe → Mxe) : (s.modMxe q f).dstCtx = s.dstCtx := rfl
@[simp] theorem State.modMxe_stopped (s : State) (q : Nat) (f : Mxe → Mxe) : (s.modMxe q f).stopped = s.stopped := rfl
@[simp] theorem State.modMxe_ldaWaiters (s : State) (q : Nat) (f : Mxe → Mxe) : (s.modMxe q f).ldaWaiters = s.ldaWaiters := rfl
@[simp] theorem State.modMxe_readmit (s : State) (q : Nat) (f : Mxe → Mxe) : (s.modMxe q f).readmit = s.readmit := rfl

/-! ### modLaunch -/

@[simp] theorem State.modLaunch_agenda (s : State) (l : Nat) (f : Launch → Launch) : (s.modLaunch l f).agenda = s.agenda := rfl
@[simp] theorem State.modLaunch_cur (s : State) (l : Nat) (f : Launch → Launch) : (s.modLaunch l f).cur = s.cur := rfl
@[simp] theorem State.modLaunch_uid (s : State) (l : Nat) (f : Launch → Launch) : (s.modLaunch l f).uid = s.uid := rfl
@[simp] theorem State.modLaunch_free (s : State) (l : Nat) (f : Launch → Launch) : (s.modLaunch l f).free = s.free := rfl
@[simp] theorem State.modLaunch_mem (s : State) (l : Nat) (f : Launch → Launch) : (s.modLaunch l f).mem = s.mem := rfl
@[simp] theorem State.modLaunch_wgs (s : State) (l : Nat) (f : Launch → Launch) : (s.modLaunch l f).wgs = s.wgs := rfl
@[simp] theorem State.modLaunch_launches (s : State) (l : Nat) (f : Launch → Launch) : (s.modLaunch l f).launches = alter s.launches l f := rfl
@[simp] theorem State.modLaunch_cancels (s : State) (l : Nat) (f : Launch → Launch) : (s.modLaunch l f).cancels = s.cancels := rfl
@[simp] theorem State.modLaunch_parts (s : State) (l : Nat) (f : Launch → Launch) : (s.modLaunch l f).parts = s.parts := rfl
@[simp] theorem State.modLaunch_cores (s : State) (l : Nat) (f : Launch → Launch) : (s.modLaunch l f).cores = s.cores := rfl
@[simp] theorem State.modLaunch_mxes (s : State) (l : Nat) (f : Launch → Launch) : (s.modLaunch l f).mxes = s.mxes := rfl
@[simp] theorem State.modLaunch_runs (s : State) (l : Nat) (f : Launch → Launch) : (s.modLaunch l f).runs = s.runs := rfl
@[simp] theorem State.modLaunch_estQ (s : State) (l : Nat) (f : Launch → Launch) : (s.modLaunch l f).estQ = s.estQ := rfl
@[simp] theorem State.modLaunch_sigs (s : State) (l : Nat) (f : Launch → Launch) : (s.modLaunch l f).sigs = s.sigs := rfl
@[simp] theorem State.modLaunch_spools (s : State) (l : Nat) (f : Launch → Launch) : (s.modLaunch l f).spools = s.spools := rfl
@[simp] theorem State.modLaunch_dies (s : State) (l : Nat) (f : Launch → Launch) : (s.modLaunch l f).dies = s.dies := rfl
@[simp] theorem State.modLaunch_pfRings (s : State) (l : Nat) (f : Launch → Launch) : (s.modLaunch l f).pfRings = s.pfRings := rfl
@[simp] theorem State.modLaunch_pfSeq (s : State) (l : Nat) (f : Launch → Launch) : (s.modLaunch l f).pfSeq = s.pfSeq := rfl
@[simp] theorem State.modLaunch_pfOut (s : State) (l : Nat) (f : Launch → Launch) : (s.modLaunch l f).pfOut = s.pfOut := rfl
@[simp] theorem State.modLaunch_pfOwed (s : State) (l : Nat) (f : Launch → Launch) : (s.modLaunch l f).pfOwed = s.pfOwed := rfl
@[simp] theorem State.modLaunch_pfDirect (s : State) (l : Nat) (f : Launch → Launch) : (s.modLaunch l f).pfDirect = s.pfDirect := rfl
@[simp] theorem State.modLaunch_pfTokens (s : State) (l : Nat) (f : Launch → Launch) : (s.modLaunch l f).pfTokens = s.pfTokens := rfl
@[simp] theorem State.modLaunch_image (s : State) (l : Nat) (f : Launch → Launch) : (s.modLaunch l f).image = s.image := rfl
@[simp] theorem State.modLaunch_lastImage (s : State) (l : Nat) (f : Launch → Launch) : (s.modLaunch l f).lastImage = s.lastImage := rfl
@[simp] theorem State.modLaunch_badChans (s : State) (l : Nat) (f : Launch → Launch) : (s.modLaunch l f).badChans = s.badChans := rfl
@[simp] theorem State.modLaunch_lost (s : State) (l : Nat) (f : Launch → Launch) : (s.modLaunch l f).lost = s.lost := rfl
@[simp] theorem State.modLaunch_redirect (s : State) (l : Nat) (f : Launch → Launch) : (s.modLaunch l f).redirect = s.redirect := rfl
@[simp] theorem State.modLaunch_lineTime (s : State) (l : Nat) (f : Launch → Launch) : (s.modLaunch l f).lineTime = s.lineTime := rfl
@[simp] theorem State.modLaunch_errLog (s : State) (l : Nat) (f : Launch → Launch) : (s.modLaunch l f).errLog = s.errLog := rfl
@[simp] theorem State.modLaunch_aer (s : State) (l : Nat) (f : Launch → Launch) : (s.modLaunch l f).aer = s.aer := rfl
@[simp] theorem State.modLaunch_errAt (s : State) (l : Nat) (f : Launch → Launch) : (s.modLaunch l f).errAt = s.errAt := rfl
@[simp] theorem State.modLaunch_poison (s : State) (l : Nat) (f : Launch → Launch) : (s.modLaunch l f).poison = s.poison := rfl
@[simp] theorem State.modLaunch_corrected (s : State) (l : Nat) (f : Launch → Launch) : (s.modLaunch l f).corrected = s.corrected := rfl
@[simp] theorem State.modLaunch_contained (s : State) (l : Nat) (f : Launch → Launch) : (s.modLaunch l f).contained = s.contained := rfl
@[simp] theorem State.modLaunch_journal (s : State) (l : Nat) (f : Launch → Launch) : (s.modLaunch l f).journal = s.journal := rfl
@[simp] theorem State.modLaunch_booted (s : State) (l : Nat) (f : Launch → Launch) : (s.modLaunch l f).booted = s.booted := rfl
@[simp] theorem State.modLaunch_scanPos (s : State) (l : Nat) (f : Launch → Launch) : (s.modLaunch l f).scanPos = s.scanPos := rfl
@[simp] theorem State.modLaunch_counter (s : State) (l : Nat) (f : Launch → Launch) : (s.modLaunch l f).counter = s.counter := rfl
@[simp] theorem State.modLaunch_rollback (s : State) (l : Nat) (f : Launch → Launch) : (s.modLaunch l f).rollback = s.rollback := rfl
@[simp] theorem State.modLaunch_pcap (s : State) (l : Nat) (f : Launch → Launch) : (s.modLaunch l f).pcap = s.pcap := rfl
@[simp] theorem State.modLaunch_mhz (s : State) (l : Nat) (f : Launch → Launch) : (s.modLaunch l f).mhz = s.mhz := rfl
@[simp] theorem State.modLaunch_clk (s : State) (l : Nat) (f : Launch → Launch) : (s.modLaunch l f).clk = s.clk := rfl
@[simp] theorem State.modLaunch_mcyc (s : State) (l : Nat) (f : Launch → Launch) : (s.modLaunch l f).mcyc = s.mcyc := rfl
@[simp] theorem State.modLaunch_planes (s : State) (l : Nat) (f : Launch → Launch) : (s.modLaunch l f).planes = s.planes := rfl
@[simp] theorem State.modLaunch_spanHold (s : State) (l : Nat) (f : Launch → Launch) : (s.modLaunch l f).spanHold = s.spanHold := rfl
@[simp] theorem State.modLaunch_srcCtx (s : State) (l : Nat) (f : Launch → Launch) : (s.modLaunch l f).srcCtx = s.srcCtx := rfl
@[simp] theorem State.modLaunch_dstCtx (s : State) (l : Nat) (f : Launch → Launch) : (s.modLaunch l f).dstCtx = s.dstCtx := rfl
@[simp] theorem State.modLaunch_stopped (s : State) (l : Nat) (f : Launch → Launch) : (s.modLaunch l f).stopped = s.stopped := rfl
@[simp] theorem State.modLaunch_ldaWaiters (s : State) (l : Nat) (f : Launch → Launch) : (s.modLaunch l f).ldaWaiters = s.ldaWaiters := rfl
@[simp] theorem State.modLaunch_readmit (s : State) (l : Nat) (f : Launch → Launch) : (s.modLaunch l f).readmit = s.readmit := rfl

/-! ### modDie -/

@[simp] theorem State.modDie_agenda (s : State) (d : Nat) (f : Die → Die) : (s.modDie d f).agenda = s.agenda := rfl
@[simp] theorem State.modDie_cur (s : State) (d : Nat) (f : Die → Die) : (s.modDie d f).cur = s.cur := rfl
@[simp] theorem State.modDie_uid (s : State) (d : Nat) (f : Die → Die) : (s.modDie d f).uid = s.uid := rfl
@[simp] theorem State.modDie_free (s : State) (d : Nat) (f : Die → Die) : (s.modDie d f).free = s.free := rfl
@[simp] theorem State.modDie_mem (s : State) (d : Nat) (f : Die → Die) : (s.modDie d f).mem = s.mem := rfl
@[simp] theorem State.modDie_wgs (s : State) (d : Nat) (f : Die → Die) : (s.modDie d f).wgs = s.wgs := rfl
@[simp] theorem State.modDie_launches (s : State) (d : Nat) (f : Die → Die) : (s.modDie d f).launches = s.launches := rfl
@[simp] theorem State.modDie_cancels (s : State) (d : Nat) (f : Die → Die) : (s.modDie d f).cancels = s.cancels := rfl
@[simp] theorem State.modDie_parts (s : State) (d : Nat) (f : Die → Die) : (s.modDie d f).parts = s.parts := rfl
@[simp] theorem State.modDie_cores (s : State) (d : Nat) (f : Die → Die) : (s.modDie d f).cores = s.cores := rfl
@[simp] theorem State.modDie_mxes (s : State) (d : Nat) (f : Die → Die) : (s.modDie d f).mxes = s.mxes := rfl
@[simp] theorem State.modDie_runs (s : State) (d : Nat) (f : Die → Die) : (s.modDie d f).runs = s.runs := rfl
@[simp] theorem State.modDie_estQ (s : State) (d : Nat) (f : Die → Die) : (s.modDie d f).estQ = s.estQ := rfl
@[simp] theorem State.modDie_sigs (s : State) (d : Nat) (f : Die → Die) : (s.modDie d f).sigs = s.sigs := rfl
@[simp] theorem State.modDie_spools (s : State) (d : Nat) (f : Die → Die) : (s.modDie d f).spools = s.spools := rfl
@[simp] theorem State.modDie_dies (s : State) (d : Nat) (f : Die → Die) : (s.modDie d f).dies = modAt s.dies d f := rfl
@[simp] theorem State.modDie_pfRings (s : State) (d : Nat) (f : Die → Die) : (s.modDie d f).pfRings = s.pfRings := rfl
@[simp] theorem State.modDie_pfSeq (s : State) (d : Nat) (f : Die → Die) : (s.modDie d f).pfSeq = s.pfSeq := rfl
@[simp] theorem State.modDie_pfOut (s : State) (d : Nat) (f : Die → Die) : (s.modDie d f).pfOut = s.pfOut := rfl
@[simp] theorem State.modDie_pfOwed (s : State) (d : Nat) (f : Die → Die) : (s.modDie d f).pfOwed = s.pfOwed := rfl
@[simp] theorem State.modDie_pfDirect (s : State) (d : Nat) (f : Die → Die) : (s.modDie d f).pfDirect = s.pfDirect := rfl
@[simp] theorem State.modDie_pfTokens (s : State) (d : Nat) (f : Die → Die) : (s.modDie d f).pfTokens = s.pfTokens := rfl
@[simp] theorem State.modDie_image (s : State) (d : Nat) (f : Die → Die) : (s.modDie d f).image = s.image := rfl
@[simp] theorem State.modDie_lastImage (s : State) (d : Nat) (f : Die → Die) : (s.modDie d f).lastImage = s.lastImage := rfl
@[simp] theorem State.modDie_badChans (s : State) (d : Nat) (f : Die → Die) : (s.modDie d f).badChans = s.badChans := rfl
@[simp] theorem State.modDie_lost (s : State) (d : Nat) (f : Die → Die) : (s.modDie d f).lost = s.lost := rfl
@[simp] theorem State.modDie_redirect (s : State) (d : Nat) (f : Die → Die) : (s.modDie d f).redirect = s.redirect := rfl
@[simp] theorem State.modDie_lineTime (s : State) (d : Nat) (f : Die → Die) : (s.modDie d f).lineTime = s.lineTime := rfl
@[simp] theorem State.modDie_errLog (s : State) (d : Nat) (f : Die → Die) : (s.modDie d f).errLog = s.errLog := rfl
@[simp] theorem State.modDie_aer (s : State) (d : Nat) (f : Die → Die) : (s.modDie d f).aer = s.aer := rfl
@[simp] theorem State.modDie_errAt (s : State) (d : Nat) (f : Die → Die) : (s.modDie d f).errAt = s.errAt := rfl
@[simp] theorem State.modDie_poison (s : State) (d : Nat) (f : Die → Die) : (s.modDie d f).poison = s.poison := rfl
@[simp] theorem State.modDie_corrected (s : State) (d : Nat) (f : Die → Die) : (s.modDie d f).corrected = s.corrected := rfl
@[simp] theorem State.modDie_contained (s : State) (d : Nat) (f : Die → Die) : (s.modDie d f).contained = s.contained := rfl
@[simp] theorem State.modDie_journal (s : State) (d : Nat) (f : Die → Die) : (s.modDie d f).journal = s.journal := rfl
@[simp] theorem State.modDie_booted (s : State) (d : Nat) (f : Die → Die) : (s.modDie d f).booted = s.booted := rfl
@[simp] theorem State.modDie_scanPos (s : State) (d : Nat) (f : Die → Die) : (s.modDie d f).scanPos = s.scanPos := rfl
@[simp] theorem State.modDie_counter (s : State) (d : Nat) (f : Die → Die) : (s.modDie d f).counter = s.counter := rfl
@[simp] theorem State.modDie_rollback (s : State) (d : Nat) (f : Die → Die) : (s.modDie d f).rollback = s.rollback := rfl
@[simp] theorem State.modDie_pcap (s : State) (d : Nat) (f : Die → Die) : (s.modDie d f).pcap = s.pcap := rfl
@[simp] theorem State.modDie_mhz (s : State) (d : Nat) (f : Die → Die) : (s.modDie d f).mhz = s.mhz := rfl
@[simp] theorem State.modDie_clk (s : State) (d : Nat) (f : Die → Die) : (s.modDie d f).clk = s.clk := rfl
@[simp] theorem State.modDie_mcyc (s : State) (d : Nat) (f : Die → Die) : (s.modDie d f).mcyc = s.mcyc := rfl
@[simp] theorem State.modDie_planes (s : State) (d : Nat) (f : Die → Die) : (s.modDie d f).planes = s.planes := rfl
@[simp] theorem State.modDie_spanHold (s : State) (d : Nat) (f : Die → Die) : (s.modDie d f).spanHold = s.spanHold := rfl
@[simp] theorem State.modDie_srcCtx (s : State) (d : Nat) (f : Die → Die) : (s.modDie d f).srcCtx = s.srcCtx := rfl
@[simp] theorem State.modDie_dstCtx (s : State) (d : Nat) (f : Die → Die) : (s.modDie d f).dstCtx = s.dstCtx := rfl
@[simp] theorem State.modDie_stopped (s : State) (d : Nat) (f : Die → Die) : (s.modDie d f).stopped = s.stopped := rfl
@[simp] theorem State.modDie_ldaWaiters (s : State) (d : Nat) (f : Die → Die) : (s.modDie d f).ldaWaiters = s.ldaWaiters := rfl
@[simp] theorem State.modDie_readmit (s : State) (d : Nat) (f : Die → Die) : (s.modDie d f).readmit = s.readmit := rfl

/-! ### putNat -/

@[simp] theorem State.putNat_agenda (s : State) (k n x : Nat) : (s.putNat k n x).agenda = s.agenda := rfl
@[simp] theorem State.putNat_cur (s : State) (k n x : Nat) : (s.putNat k n x).cur = s.cur := rfl
@[simp] theorem State.putNat_uid (s : State) (k n x : Nat) : (s.putNat k n x).uid = s.uid := rfl
@[simp] theorem State.putNat_free (s : State) (k n x : Nat) : (s.putNat k n x).free = s.free := rfl
@[simp] theorem State.putNat_mem (s : State) (k n x : Nat) : (s.putNat k n x).mem = writeBytes s.mem k (toBytes n x) := rfl
@[simp] theorem State.putNat_wgs (s : State) (k n x : Nat) : (s.putNat k n x).wgs = s.wgs := rfl
@[simp] theorem State.putNat_launches (s : State) (k n x : Nat) : (s.putNat k n x).launches = s.launches := rfl
@[simp] theorem State.putNat_cancels (s : State) (k n x : Nat) : (s.putNat k n x).cancels = s.cancels := rfl
@[simp] theorem State.putNat_parts (s : State) (k n x : Nat) : (s.putNat k n x).parts = s.parts := rfl
@[simp] theorem State.putNat_cores (s : State) (k n x : Nat) : (s.putNat k n x).cores = s.cores := rfl
@[simp] theorem State.putNat_mxes (s : State) (k n x : Nat) : (s.putNat k n x).mxes = s.mxes := rfl
@[simp] theorem State.putNat_runs (s : State) (k n x : Nat) : (s.putNat k n x).runs = s.runs := rfl
@[simp] theorem State.putNat_estQ (s : State) (k n x : Nat) : (s.putNat k n x).estQ = s.estQ := rfl
@[simp] theorem State.putNat_sigs (s : State) (k n x : Nat) : (s.putNat k n x).sigs = s.sigs := rfl
@[simp] theorem State.putNat_spools (s : State) (k n x : Nat) : (s.putNat k n x).spools = s.spools := rfl
@[simp] theorem State.putNat_dies (s : State) (k n x : Nat) : (s.putNat k n x).dies = s.dies := rfl
@[simp] theorem State.putNat_pfRings (s : State) (k n x : Nat) : (s.putNat k n x).pfRings = s.pfRings := rfl
@[simp] theorem State.putNat_pfSeq (s : State) (k n x : Nat) : (s.putNat k n x).pfSeq = s.pfSeq := rfl
@[simp] theorem State.putNat_pfOut (s : State) (k n x : Nat) : (s.putNat k n x).pfOut = s.pfOut := rfl
@[simp] theorem State.putNat_pfOwed (s : State) (k n x : Nat) : (s.putNat k n x).pfOwed = s.pfOwed := rfl
@[simp] theorem State.putNat_pfDirect (s : State) (k n x : Nat) : (s.putNat k n x).pfDirect = s.pfDirect := rfl
@[simp] theorem State.putNat_pfTokens (s : State) (k n x : Nat) : (s.putNat k n x).pfTokens = s.pfTokens := rfl
@[simp] theorem State.putNat_image (s : State) (k n x : Nat) : (s.putNat k n x).image = s.image := rfl
@[simp] theorem State.putNat_lastImage (s : State) (k n x : Nat) : (s.putNat k n x).lastImage = s.lastImage := rfl
@[simp] theorem State.putNat_badChans (s : State) (k n x : Nat) : (s.putNat k n x).badChans = s.badChans := rfl
@[simp] theorem State.putNat_lost (s : State) (k n x : Nat) : (s.putNat k n x).lost = s.lost := rfl
@[simp] theorem State.putNat_redirect (s : State) (k n x : Nat) : (s.putNat k n x).redirect = s.redirect := rfl
@[simp] theorem State.putNat_lineTime (s : State) (k n x : Nat) : (s.putNat k n x).lineTime = s.lineTime := rfl
@[simp] theorem State.putNat_errLog (s : State) (k n x : Nat) : (s.putNat k n x).errLog = s.errLog := rfl
@[simp] theorem State.putNat_aer (s : State) (k n x : Nat) : (s.putNat k n x).aer = s.aer := rfl
@[simp] theorem State.putNat_errAt (s : State) (k n x : Nat) : (s.putNat k n x).errAt = s.errAt := rfl
@[simp] theorem State.putNat_poison (s : State) (k n x : Nat) : (s.putNat k n x).poison = s.poison := rfl
@[simp] theorem State.putNat_corrected (s : State) (k n x : Nat) : (s.putNat k n x).corrected = s.corrected := rfl
@[simp] theorem State.putNat_contained (s : State) (k n x : Nat) : (s.putNat k n x).contained = s.contained := rfl
@[simp] theorem State.putNat_journal (s : State) (k n x : Nat) : (s.putNat k n x).journal = s.journal := rfl
@[simp] theorem State.putNat_booted (s : State) (k n x : Nat) : (s.putNat k n x).booted = s.booted := rfl
@[simp] theorem State.putNat_scanPos (s : State) (k n x : Nat) : (s.putNat k n x).scanPos = s.scanPos := rfl
@[simp] theorem State.putNat_counter (s : State) (k n x : Nat) : (s.putNat k n x).counter = s.counter := rfl
@[simp] theorem State.putNat_rollback (s : State) (k n x : Nat) : (s.putNat k n x).rollback = s.rollback := rfl
@[simp] theorem State.putNat_pcap (s : State) (k n x : Nat) : (s.putNat k n x).pcap = s.pcap := rfl
@[simp] theorem State.putNat_mhz (s : State) (k n x : Nat) : (s.putNat k n x).mhz = s.mhz := rfl
@[simp] theorem State.putNat_clk (s : State) (k n x : Nat) : (s.putNat k n x).clk = s.clk := rfl
@[simp] theorem State.putNat_mcyc (s : State) (k n x : Nat) : (s.putNat k n x).mcyc = s.mcyc := rfl
@[simp] theorem State.putNat_planes (s : State) (k n x : Nat) : (s.putNat k n x).planes = s.planes := rfl
@[simp] theorem State.putNat_spanHold (s : State) (k n x : Nat) : (s.putNat k n x).spanHold = s.spanHold := rfl
@[simp] theorem State.putNat_srcCtx (s : State) (k n x : Nat) : (s.putNat k n x).srcCtx = s.srcCtx := rfl
@[simp] theorem State.putNat_dstCtx (s : State) (k n x : Nat) : (s.putNat k n x).dstCtx = s.dstCtx := rfl
@[simp] theorem State.putNat_stopped (s : State) (k n x : Nat) : (s.putNat k n x).stopped = s.stopped := rfl
@[simp] theorem State.putNat_ldaWaiters (s : State) (k n x : Nat) : (s.putNat k n x).ldaWaiters = s.ldaWaiters := rfl
@[simp] theorem State.putNat_readmit (s : State) (k n x : Nat) : (s.putNat k n x).readmit = s.readmit := rfl

/-! ### putBytes -/

@[simp] theorem State.putBytes_agenda (s : State) (k : Nat) (bs : List Byte) : (s.putBytes k bs).agenda = s.agenda := rfl
@[simp] theorem State.putBytes_cur (s : State) (k : Nat) (bs : List Byte) : (s.putBytes k bs).cur = s.cur := rfl
@[simp] theorem State.putBytes_uid (s : State) (k : Nat) (bs : List Byte) : (s.putBytes k bs).uid = s.uid := rfl
@[simp] theorem State.putBytes_free (s : State) (k : Nat) (bs : List Byte) : (s.putBytes k bs).free = s.free := rfl
@[simp] theorem State.putBytes_mem (s : State) (k : Nat) (bs : List Byte) : (s.putBytes k bs).mem = writeBytes s.mem k bs := rfl
@[simp] theorem State.putBytes_wgs (s : State) (k : Nat) (bs : List Byte) : (s.putBytes k bs).wgs = s.wgs := rfl
@[simp] theorem State.putBytes_launches (s : State) (k : Nat) (bs : List Byte) : (s.putBytes k bs).launches = s.launches := rfl
@[simp] theorem State.putBytes_cancels (s : State) (k : Nat) (bs : List Byte) : (s.putBytes k bs).cancels = s.cancels := rfl
@[simp] theorem State.putBytes_parts (s : State) (k : Nat) (bs : List Byte) : (s.putBytes k bs).parts = s.parts := rfl
@[simp] theorem State.putBytes_cores (s : State) (k : Nat) (bs : List Byte) : (s.putBytes k bs).cores = s.cores := rfl
@[simp] theorem State.putBytes_mxes (s : State) (k : Nat) (bs : List Byte) : (s.putBytes k bs).mxes = s.mxes := rfl
@[simp] theorem State.putBytes_runs (s : State) (k : Nat) (bs : List Byte) : (s.putBytes k bs).runs = s.runs := rfl
@[simp] theorem State.putBytes_estQ (s : State) (k : Nat) (bs : List Byte) : (s.putBytes k bs).estQ = s.estQ := rfl
@[simp] theorem State.putBytes_sigs (s : State) (k : Nat) (bs : List Byte) : (s.putBytes k bs).sigs = s.sigs := rfl
@[simp] theorem State.putBytes_spools (s : State) (k : Nat) (bs : List Byte) : (s.putBytes k bs).spools = s.spools := rfl
@[simp] theorem State.putBytes_dies (s : State) (k : Nat) (bs : List Byte) : (s.putBytes k bs).dies = s.dies := rfl
@[simp] theorem State.putBytes_pfRings (s : State) (k : Nat) (bs : List Byte) : (s.putBytes k bs).pfRings = s.pfRings := rfl
@[simp] theorem State.putBytes_pfSeq (s : State) (k : Nat) (bs : List Byte) : (s.putBytes k bs).pfSeq = s.pfSeq := rfl
@[simp] theorem State.putBytes_pfOut (s : State) (k : Nat) (bs : List Byte) : (s.putBytes k bs).pfOut = s.pfOut := rfl
@[simp] theorem State.putBytes_pfOwed (s : State) (k : Nat) (bs : List Byte) : (s.putBytes k bs).pfOwed = s.pfOwed := rfl
@[simp] theorem State.putBytes_pfDirect (s : State) (k : Nat) (bs : List Byte) : (s.putBytes k bs).pfDirect = s.pfDirect := rfl
@[simp] theorem State.putBytes_pfTokens (s : State) (k : Nat) (bs : List Byte) : (s.putBytes k bs).pfTokens = s.pfTokens := rfl
@[simp] theorem State.putBytes_image (s : State) (k : Nat) (bs : List Byte) : (s.putBytes k bs).image = s.image := rfl
@[simp] theorem State.putBytes_lastImage (s : State) (k : Nat) (bs : List Byte) : (s.putBytes k bs).lastImage = s.lastImage := rfl
@[simp] theorem State.putBytes_badChans (s : State) (k : Nat) (bs : List Byte) : (s.putBytes k bs).badChans = s.badChans := rfl
@[simp] theorem State.putBytes_lost (s : State) (k : Nat) (bs : List Byte) : (s.putBytes k bs).lost = s.lost := rfl
@[simp] theorem State.putBytes_redirect (s : State) (k : Nat) (bs : List Byte) : (s.putBytes k bs).redirect = s.redirect := rfl
@[simp] theorem State.putBytes_lineTime (s : State) (k : Nat) (bs : List Byte) : (s.putBytes k bs).lineTime = s.lineTime := rfl
@[simp] theorem State.putBytes_errLog (s : State) (k : Nat) (bs : List Byte) : (s.putBytes k bs).errLog = s.errLog := rfl
@[simp] theorem State.putBytes_aer (s : State) (k : Nat) (bs : List Byte) : (s.putBytes k bs).aer = s.aer := rfl
@[simp] theorem State.putBytes_errAt (s : State) (k : Nat) (bs : List Byte) : (s.putBytes k bs).errAt = s.errAt := rfl
@[simp] theorem State.putBytes_poison (s : State) (k : Nat) (bs : List Byte) : (s.putBytes k bs).poison = s.poison := rfl
@[simp] theorem State.putBytes_corrected (s : State) (k : Nat) (bs : List Byte) : (s.putBytes k bs).corrected = s.corrected := rfl
@[simp] theorem State.putBytes_contained (s : State) (k : Nat) (bs : List Byte) : (s.putBytes k bs).contained = s.contained := rfl
@[simp] theorem State.putBytes_journal (s : State) (k : Nat) (bs : List Byte) : (s.putBytes k bs).journal = s.journal := rfl
@[simp] theorem State.putBytes_booted (s : State) (k : Nat) (bs : List Byte) : (s.putBytes k bs).booted = s.booted := rfl
@[simp] theorem State.putBytes_scanPos (s : State) (k : Nat) (bs : List Byte) : (s.putBytes k bs).scanPos = s.scanPos := rfl
@[simp] theorem State.putBytes_counter (s : State) (k : Nat) (bs : List Byte) : (s.putBytes k bs).counter = s.counter := rfl
@[simp] theorem State.putBytes_rollback (s : State) (k : Nat) (bs : List Byte) : (s.putBytes k bs).rollback = s.rollback := rfl
@[simp] theorem State.putBytes_pcap (s : State) (k : Nat) (bs : List Byte) : (s.putBytes k bs).pcap = s.pcap := rfl
@[simp] theorem State.putBytes_mhz (s : State) (k : Nat) (bs : List Byte) : (s.putBytes k bs).mhz = s.mhz := rfl
@[simp] theorem State.putBytes_clk (s : State) (k : Nat) (bs : List Byte) : (s.putBytes k bs).clk = s.clk := rfl
@[simp] theorem State.putBytes_mcyc (s : State) (k : Nat) (bs : List Byte) : (s.putBytes k bs).mcyc = s.mcyc := rfl
@[simp] theorem State.putBytes_planes (s : State) (k : Nat) (bs : List Byte) : (s.putBytes k bs).planes = s.planes := rfl
@[simp] theorem State.putBytes_spanHold (s : State) (k : Nat) (bs : List Byte) : (s.putBytes k bs).spanHold = s.spanHold := rfl
@[simp] theorem State.putBytes_srcCtx (s : State) (k : Nat) (bs : List Byte) : (s.putBytes k bs).srcCtx = s.srcCtx := rfl
@[simp] theorem State.putBytes_dstCtx (s : State) (k : Nat) (bs : List Byte) : (s.putBytes k bs).dstCtx = s.dstCtx := rfl
@[simp] theorem State.putBytes_stopped (s : State) (k : Nat) (bs : List Byte) : (s.putBytes k bs).stopped = s.stopped := rfl
@[simp] theorem State.putBytes_ldaWaiters (s : State) (k : Nat) (bs : List Byte) : (s.putBytes k bs).ldaWaiters = s.ldaWaiters := rfl
@[simp] theorem State.putBytes_readmit (s : State) (k : Nat) (bs : List Byte) : (s.putBytes k bs).readmit = s.readmit := rfl

/-! ### soon -/

@[simp] theorem State.soon_agenda (s : State) (ms : List Move) : (s.soon ms).agenda = ms ++ s.agenda := rfl
@[simp] theorem State.soon_cur (s : State) (ms : List Move) : (s.soon ms).cur = s.cur := rfl
@[simp] theorem State.soon_uid (s : State) (ms : List Move) : (s.soon ms).uid = s.uid := rfl
@[simp] theorem State.soon_free (s : State) (ms : List Move) : (s.soon ms).free = s.free := rfl
@[simp] theorem State.soon_mem (s : State) (ms : List Move) : (s.soon ms).mem = s.mem := rfl
@[simp] theorem State.soon_wgs (s : State) (ms : List Move) : (s.soon ms).wgs = s.wgs := rfl
@[simp] theorem State.soon_launches (s : State) (ms : List Move) : (s.soon ms).launches = s.launches := rfl
@[simp] theorem State.soon_cancels (s : State) (ms : List Move) : (s.soon ms).cancels = s.cancels := rfl
@[simp] theorem State.soon_parts (s : State) (ms : List Move) : (s.soon ms).parts = s.parts := rfl
@[simp] theorem State.soon_cores (s : State) (ms : List Move) : (s.soon ms).cores = s.cores := rfl
@[simp] theorem State.soon_mxes (s : State) (ms : List Move) : (s.soon ms).mxes = s.mxes := rfl
@[simp] theorem State.soon_runs (s : State) (ms : List Move) : (s.soon ms).runs = s.runs := rfl
@[simp] theorem State.soon_estQ (s : State) (ms : List Move) : (s.soon ms).estQ = s.estQ := rfl
@[simp] theorem State.soon_sigs (s : State) (ms : List Move) : (s.soon ms).sigs = s.sigs := rfl
@[simp] theorem State.soon_spools (s : State) (ms : List Move) : (s.soon ms).spools = s.spools := rfl
@[simp] theorem State.soon_dies (s : State) (ms : List Move) : (s.soon ms).dies = s.dies := rfl
@[simp] theorem State.soon_pfRings (s : State) (ms : List Move) : (s.soon ms).pfRings = s.pfRings := rfl
@[simp] theorem State.soon_pfSeq (s : State) (ms : List Move) : (s.soon ms).pfSeq = s.pfSeq := rfl
@[simp] theorem State.soon_pfOut (s : State) (ms : List Move) : (s.soon ms).pfOut = s.pfOut := rfl
@[simp] theorem State.soon_pfOwed (s : State) (ms : List Move) : (s.soon ms).pfOwed = s.pfOwed := rfl
@[simp] theorem State.soon_pfDirect (s : State) (ms : List Move) : (s.soon ms).pfDirect = s.pfDirect := rfl
@[simp] theorem State.soon_pfTokens (s : State) (ms : List Move) : (s.soon ms).pfTokens = s.pfTokens := rfl
@[simp] theorem State.soon_image (s : State) (ms : List Move) : (s.soon ms).image = s.image := rfl
@[simp] theorem State.soon_lastImage (s : State) (ms : List Move) : (s.soon ms).lastImage = s.lastImage := rfl
@[simp] theorem State.soon_badChans (s : State) (ms : List Move) : (s.soon ms).badChans = s.badChans := rfl
@[simp] theorem State.soon_lost (s : State) (ms : List Move) : (s.soon ms).lost = s.lost := rfl
@[simp] theorem State.soon_redirect (s : State) (ms : List Move) : (s.soon ms).redirect = s.redirect := rfl
@[simp] theorem State.soon_lineTime (s : State) (ms : List Move) : (s.soon ms).lineTime = s.lineTime := rfl
@[simp] theorem State.soon_errLog (s : State) (ms : List Move) : (s.soon ms).errLog = s.errLog := rfl
@[simp] theorem State.soon_aer (s : State) (ms : List Move) : (s.soon ms).aer = s.aer := rfl
@[simp] theorem State.soon_errAt (s : State) (ms : List Move) : (s.soon ms).errAt = s.errAt := rfl
@[simp] theorem State.soon_poison (s : State) (ms : List Move) : (s.soon ms).poison = s.poison := rfl
@[simp] theorem State.soon_corrected (s : State) (ms : List Move) : (s.soon ms).corrected = s.corrected := rfl
@[simp] theorem State.soon_contained (s : State) (ms : List Move) : (s.soon ms).contained = s.contained := rfl
@[simp] theorem State.soon_journal (s : State) (ms : List Move) : (s.soon ms).journal = s.journal := rfl
@[simp] theorem State.soon_booted (s : State) (ms : List Move) : (s.soon ms).booted = s.booted := rfl
@[simp] theorem State.soon_scanPos (s : State) (ms : List Move) : (s.soon ms).scanPos = s.scanPos := rfl
@[simp] theorem State.soon_counter (s : State) (ms : List Move) : (s.soon ms).counter = s.counter := rfl
@[simp] theorem State.soon_rollback (s : State) (ms : List Move) : (s.soon ms).rollback = s.rollback := rfl
@[simp] theorem State.soon_pcap (s : State) (ms : List Move) : (s.soon ms).pcap = s.pcap := rfl
@[simp] theorem State.soon_mhz (s : State) (ms : List Move) : (s.soon ms).mhz = s.mhz := rfl
@[simp] theorem State.soon_clk (s : State) (ms : List Move) : (s.soon ms).clk = s.clk := rfl
@[simp] theorem State.soon_mcyc (s : State) (ms : List Move) : (s.soon ms).mcyc = s.mcyc := rfl
@[simp] theorem State.soon_planes (s : State) (ms : List Move) : (s.soon ms).planes = s.planes := rfl
@[simp] theorem State.soon_spanHold (s : State) (ms : List Move) : (s.soon ms).spanHold = s.spanHold := rfl
@[simp] theorem State.soon_srcCtx (s : State) (ms : List Move) : (s.soon ms).srcCtx = s.srcCtx := rfl
@[simp] theorem State.soon_dstCtx (s : State) (ms : List Move) : (s.soon ms).dstCtx = s.dstCtx := rfl
@[simp] theorem State.soon_stopped (s : State) (ms : List Move) : (s.soon ms).stopped = s.stopped := rfl
@[simp] theorem State.soon_ldaWaiters (s : State) (ms : List Move) : (s.soon ms).ldaWaiters = s.ldaWaiters := rfl
@[simp] theorem State.soon_readmit (s : State) (ms : List Move) : (s.soon ms).readmit = s.readmit := rfl

/-! ### events -/

@[simp] theorem State.events_agenda (s : State) (is : List Instr) : (s.events is).agenda = is.map Move.event ++ s.agenda := rfl
@[simp] theorem State.events_cur (s : State) (is : List Instr) : (s.events is).cur = s.cur := rfl
@[simp] theorem State.events_uid (s : State) (is : List Instr) : (s.events is).uid = s.uid := rfl
@[simp] theorem State.events_free (s : State) (is : List Instr) : (s.events is).free = s.free := rfl
@[simp] theorem State.events_mem (s : State) (is : List Instr) : (s.events is).mem = s.mem := rfl
@[simp] theorem State.events_wgs (s : State) (is : List Instr) : (s.events is).wgs = s.wgs := rfl
@[simp] theorem State.events_launches (s : State) (is : List Instr) : (s.events is).launches = s.launches := rfl
@[simp] theorem State.events_cancels (s : State) (is : List Instr) : (s.events is).cancels = s.cancels := rfl
@[simp] theorem State.events_parts (s : State) (is : List Instr) : (s.events is).parts = s.parts := rfl
@[simp] theorem State.events_cores (s : State) (is : List Instr) : (s.events is).cores = s.cores := rfl
@[simp] theorem State.events_mxes (s : State) (is : List Instr) : (s.events is).mxes = s.mxes := rfl
@[simp] theorem State.events_runs (s : State) (is : List Instr) : (s.events is).runs = s.runs := rfl
@[simp] theorem State.events_estQ (s : State) (is : List Instr) : (s.events is).estQ = s.estQ := rfl
@[simp] theorem State.events_sigs (s : State) (is : List Instr) : (s.events is).sigs = s.sigs := rfl
@[simp] theorem State.events_spools (s : State) (is : List Instr) : (s.events is).spools = s.spools := rfl
@[simp] theorem State.events_dies (s : State) (is : List Instr) : (s.events is).dies = s.dies := rfl
@[simp] theorem State.events_pfRings (s : State) (is : List Instr) : (s.events is).pfRings = s.pfRings := rfl
@[simp] theorem State.events_pfSeq (s : State) (is : List Instr) : (s.events is).pfSeq = s.pfSeq := rfl
@[simp] theorem State.events_pfOut (s : State) (is : List Instr) : (s.events is).pfOut = s.pfOut := rfl
@[simp] theorem State.events_pfOwed (s : State) (is : List Instr) : (s.events is).pfOwed = s.pfOwed := rfl
@[simp] theorem State.events_pfDirect (s : State) (is : List Instr) : (s.events is).pfDirect = s.pfDirect := rfl
@[simp] theorem State.events_pfTokens (s : State) (is : List Instr) : (s.events is).pfTokens = s.pfTokens := rfl
@[simp] theorem State.events_image (s : State) (is : List Instr) : (s.events is).image = s.image := rfl
@[simp] theorem State.events_lastImage (s : State) (is : List Instr) : (s.events is).lastImage = s.lastImage := rfl
@[simp] theorem State.events_badChans (s : State) (is : List Instr) : (s.events is).badChans = s.badChans := rfl
@[simp] theorem State.events_lost (s : State) (is : List Instr) : (s.events is).lost = s.lost := rfl
@[simp] theorem State.events_redirect (s : State) (is : List Instr) : (s.events is).redirect = s.redirect := rfl
@[simp] theorem State.events_lineTime (s : State) (is : List Instr) : (s.events is).lineTime = s.lineTime := rfl
@[simp] theorem State.events_errLog (s : State) (is : List Instr) : (s.events is).errLog = s.errLog := rfl
@[simp] theorem State.events_aer (s : State) (is : List Instr) : (s.events is).aer = s.aer := rfl
@[simp] theorem State.events_errAt (s : State) (is : List Instr) : (s.events is).errAt = s.errAt := rfl
@[simp] theorem State.events_poison (s : State) (is : List Instr) : (s.events is).poison = s.poison := rfl
@[simp] theorem State.events_corrected (s : State) (is : List Instr) : (s.events is).corrected = s.corrected := rfl
@[simp] theorem State.events_contained (s : State) (is : List Instr) : (s.events is).contained = s.contained := rfl
@[simp] theorem State.events_journal (s : State) (is : List Instr) : (s.events is).journal = s.journal := rfl
@[simp] theorem State.events_booted (s : State) (is : List Instr) : (s.events is).booted = s.booted := rfl
@[simp] theorem State.events_scanPos (s : State) (is : List Instr) : (s.events is).scanPos = s.scanPos := rfl
@[simp] theorem State.events_counter (s : State) (is : List Instr) : (s.events is).counter = s.counter := rfl
@[simp] theorem State.events_rollback (s : State) (is : List Instr) : (s.events is).rollback = s.rollback := rfl
@[simp] theorem State.events_pcap (s : State) (is : List Instr) : (s.events is).pcap = s.pcap := rfl
@[simp] theorem State.events_mhz (s : State) (is : List Instr) : (s.events is).mhz = s.mhz := rfl
@[simp] theorem State.events_clk (s : State) (is : List Instr) : (s.events is).clk = s.clk := rfl
@[simp] theorem State.events_mcyc (s : State) (is : List Instr) : (s.events is).mcyc = s.mcyc := rfl
@[simp] theorem State.events_planes (s : State) (is : List Instr) : (s.events is).planes = s.planes := rfl
@[simp] theorem State.events_spanHold (s : State) (is : List Instr) : (s.events is).spanHold = s.spanHold := rfl
@[simp] theorem State.events_srcCtx (s : State) (is : List Instr) : (s.events is).srcCtx = s.srcCtx := rfl
@[simp] theorem State.events_dstCtx (s : State) (is : List Instr) : (s.events is).dstCtx = s.dstCtx := rfl
@[simp] theorem State.events_stopped (s : State) (is : List Instr) : (s.events is).stopped = s.stopped := rfl
@[simp] theorem State.events_ldaWaiters (s : State) (is : List Instr) : (s.events is).ldaWaiters = s.ldaWaiters := rfl
@[simp] theorem State.events_readmit (s : State) (is : List Instr) : (s.events is).readmit = s.readmit := rfl

/-! ### A change of one flight -/

@[simp] theorem State.modFlight_agenda (s : State) (r : FlightRef) (h : Flight → Flight) : (s.modFlight r h).agenda = s.agenda := by cases r <;> rfl
@[simp] theorem State.setFlight_agenda (s : State) (r : FlightRef) (x : Flight) : (s.setFlight r x).agenda = s.agenda := by cases r <;> rfl
@[simp] theorem State.modFlight_cur (s : State) (r : FlightRef) (h : Flight → Flight) : (s.modFlight r h).cur = s.cur := by cases r <;> rfl
@[simp] theorem State.setFlight_cur (s : State) (r : FlightRef) (x : Flight) : (s.setFlight r x).cur = s.cur := by cases r <;> rfl
@[simp] theorem State.modFlight_uid (s : State) (r : FlightRef) (h : Flight → Flight) : (s.modFlight r h).uid = s.uid := by cases r <;> rfl
@[simp] theorem State.setFlight_uid (s : State) (r : FlightRef) (x : Flight) : (s.setFlight r x).uid = s.uid := by cases r <;> rfl
@[simp] theorem State.modFlight_free (s : State) (r : FlightRef) (h : Flight → Flight) : (s.modFlight r h).free = s.free := by cases r <;> rfl
@[simp] theorem State.setFlight_free (s : State) (r : FlightRef) (x : Flight) : (s.setFlight r x).free = s.free := by cases r <;> rfl
@[simp] theorem State.modFlight_mem (s : State) (r : FlightRef) (h : Flight → Flight) : (s.modFlight r h).mem = s.mem := by cases r <;> rfl
@[simp] theorem State.setFlight_mem (s : State) (r : FlightRef) (x : Flight) : (s.setFlight r x).mem = s.mem := by cases r <;> rfl
@[simp] theorem State.modFlight_launches (s : State) (r : FlightRef) (h : Flight → Flight) : (s.modFlight r h).launches = s.launches := by cases r <;> rfl
@[simp] theorem State.setFlight_launches (s : State) (r : FlightRef) (x : Flight) : (s.setFlight r x).launches = s.launches := by cases r <;> rfl
@[simp] theorem State.modFlight_cancels (s : State) (r : FlightRef) (h : Flight → Flight) : (s.modFlight r h).cancels = s.cancels := by cases r <;> rfl
@[simp] theorem State.setFlight_cancels (s : State) (r : FlightRef) (x : Flight) : (s.setFlight r x).cancels = s.cancels := by cases r <;> rfl
@[simp] theorem State.modFlight_cores (s : State) (r : FlightRef) (h : Flight → Flight) : (s.modFlight r h).cores = s.cores := by cases r <;> rfl
@[simp] theorem State.setFlight_cores (s : State) (r : FlightRef) (x : Flight) : (s.setFlight r x).cores = s.cores := by cases r <;> rfl
@[simp] theorem State.modFlight_mxes (s : State) (r : FlightRef) (h : Flight → Flight) : (s.modFlight r h).mxes = s.mxes := by cases r <;> rfl
@[simp] theorem State.setFlight_mxes (s : State) (r : FlightRef) (x : Flight) : (s.setFlight r x).mxes = s.mxes := by cases r <;> rfl
@[simp] theorem State.modFlight_runs (s : State) (r : FlightRef) (h : Flight → Flight) : (s.modFlight r h).runs = s.runs := by cases r <;> rfl
@[simp] theorem State.setFlight_runs (s : State) (r : FlightRef) (x : Flight) : (s.setFlight r x).runs = s.runs := by cases r <;> rfl
@[simp] theorem State.modFlight_estQ (s : State) (r : FlightRef) (h : Flight → Flight) : (s.modFlight r h).estQ = s.estQ := by cases r <;> rfl
@[simp] theorem State.setFlight_estQ (s : State) (r : FlightRef) (x : Flight) : (s.setFlight r x).estQ = s.estQ := by cases r <;> rfl
@[simp] theorem State.modFlight_sigs (s : State) (r : FlightRef) (h : Flight → Flight) : (s.modFlight r h).sigs = s.sigs := by cases r <;> rfl
@[simp] theorem State.setFlight_sigs (s : State) (r : FlightRef) (x : Flight) : (s.setFlight r x).sigs = s.sigs := by cases r <;> rfl
@[simp] theorem State.modFlight_spools (s : State) (r : FlightRef) (h : Flight → Flight) : (s.modFlight r h).spools = s.spools := by cases r <;> rfl
@[simp] theorem State.setFlight_spools (s : State) (r : FlightRef) (x : Flight) : (s.setFlight r x).spools = s.spools := by cases r <;> rfl
@[simp] theorem State.modFlight_dies (s : State) (r : FlightRef) (h : Flight → Flight) : (s.modFlight r h).dies = s.dies := by cases r <;> rfl
@[simp] theorem State.setFlight_dies (s : State) (r : FlightRef) (x : Flight) : (s.setFlight r x).dies = s.dies := by cases r <;> rfl
@[simp] theorem State.modFlight_pfRings (s : State) (r : FlightRef) (h : Flight → Flight) : (s.modFlight r h).pfRings = s.pfRings := by cases r <;> rfl
@[simp] theorem State.setFlight_pfRings (s : State) (r : FlightRef) (x : Flight) : (s.setFlight r x).pfRings = s.pfRings := by cases r <;> rfl
@[simp] theorem State.modFlight_pfSeq (s : State) (r : FlightRef) (h : Flight → Flight) : (s.modFlight r h).pfSeq = s.pfSeq := by cases r <;> rfl
@[simp] theorem State.setFlight_pfSeq (s : State) (r : FlightRef) (x : Flight) : (s.setFlight r x).pfSeq = s.pfSeq := by cases r <;> rfl
@[simp] theorem State.modFlight_pfOut (s : State) (r : FlightRef) (h : Flight → Flight) : (s.modFlight r h).pfOut = s.pfOut := by cases r <;> rfl
@[simp] theorem State.setFlight_pfOut (s : State) (r : FlightRef) (x : Flight) : (s.setFlight r x).pfOut = s.pfOut := by cases r <;> rfl
@[simp] theorem State.modFlight_pfOwed (s : State) (r : FlightRef) (h : Flight → Flight) : (s.modFlight r h).pfOwed = s.pfOwed := by cases r <;> rfl
@[simp] theorem State.setFlight_pfOwed (s : State) (r : FlightRef) (x : Flight) : (s.setFlight r x).pfOwed = s.pfOwed := by cases r <;> rfl
@[simp] theorem State.modFlight_pfDirect (s : State) (r : FlightRef) (h : Flight → Flight) : (s.modFlight r h).pfDirect = s.pfDirect := by cases r <;> rfl
@[simp] theorem State.setFlight_pfDirect (s : State) (r : FlightRef) (x : Flight) : (s.setFlight r x).pfDirect = s.pfDirect := by cases r <;> rfl
@[simp] theorem State.modFlight_pfTokens (s : State) (r : FlightRef) (h : Flight → Flight) : (s.modFlight r h).pfTokens = s.pfTokens := by cases r <;> rfl
@[simp] theorem State.setFlight_pfTokens (s : State) (r : FlightRef) (x : Flight) : (s.setFlight r x).pfTokens = s.pfTokens := by cases r <;> rfl
@[simp] theorem State.modFlight_image (s : State) (r : FlightRef) (h : Flight → Flight) : (s.modFlight r h).image = s.image := by cases r <;> rfl
@[simp] theorem State.setFlight_image (s : State) (r : FlightRef) (x : Flight) : (s.setFlight r x).image = s.image := by cases r <;> rfl
@[simp] theorem State.modFlight_lastImage (s : State) (r : FlightRef) (h : Flight → Flight) : (s.modFlight r h).lastImage = s.lastImage := by cases r <;> rfl
@[simp] theorem State.setFlight_lastImage (s : State) (r : FlightRef) (x : Flight) : (s.setFlight r x).lastImage = s.lastImage := by cases r <;> rfl
@[simp] theorem State.modFlight_badChans (s : State) (r : FlightRef) (h : Flight → Flight) : (s.modFlight r h).badChans = s.badChans := by cases r <;> rfl
@[simp] theorem State.setFlight_badChans (s : State) (r : FlightRef) (x : Flight) : (s.setFlight r x).badChans = s.badChans := by cases r <;> rfl
@[simp] theorem State.modFlight_lost (s : State) (r : FlightRef) (h : Flight → Flight) : (s.modFlight r h).lost = s.lost := by cases r <;> rfl
@[simp] theorem State.setFlight_lost (s : State) (r : FlightRef) (x : Flight) : (s.setFlight r x).lost = s.lost := by cases r <;> rfl
@[simp] theorem State.modFlight_redirect (s : State) (r : FlightRef) (h : Flight → Flight) : (s.modFlight r h).redirect = s.redirect := by cases r <;> rfl
@[simp] theorem State.setFlight_redirect (s : State) (r : FlightRef) (x : Flight) : (s.setFlight r x).redirect = s.redirect := by cases r <;> rfl
@[simp] theorem State.modFlight_lineTime (s : State) (r : FlightRef) (h : Flight → Flight) : (s.modFlight r h).lineTime = s.lineTime := by cases r <;> rfl
@[simp] theorem State.setFlight_lineTime (s : State) (r : FlightRef) (x : Flight) : (s.setFlight r x).lineTime = s.lineTime := by cases r <;> rfl
@[simp] theorem State.modFlight_errLog (s : State) (r : FlightRef) (h : Flight → Flight) : (s.modFlight r h).errLog = s.errLog := by cases r <;> rfl
@[simp] theorem State.setFlight_errLog (s : State) (r : FlightRef) (x : Flight) : (s.setFlight r x).errLog = s.errLog := by cases r <;> rfl
@[simp] theorem State.modFlight_aer (s : State) (r : FlightRef) (h : Flight → Flight) : (s.modFlight r h).aer = s.aer := by cases r <;> rfl
@[simp] theorem State.setFlight_aer (s : State) (r : FlightRef) (x : Flight) : (s.setFlight r x).aer = s.aer := by cases r <;> rfl
@[simp] theorem State.modFlight_errAt (s : State) (r : FlightRef) (h : Flight → Flight) : (s.modFlight r h).errAt = s.errAt := by cases r <;> rfl
@[simp] theorem State.setFlight_errAt (s : State) (r : FlightRef) (x : Flight) : (s.setFlight r x).errAt = s.errAt := by cases r <;> rfl
@[simp] theorem State.modFlight_poison (s : State) (r : FlightRef) (h : Flight → Flight) : (s.modFlight r h).poison = s.poison := by cases r <;> rfl
@[simp] theorem State.setFlight_poison (s : State) (r : FlightRef) (x : Flight) : (s.setFlight r x).poison = s.poison := by cases r <;> rfl
@[simp] theorem State.modFlight_corrected (s : State) (r : FlightRef) (h : Flight → Flight) : (s.modFlight r h).corrected = s.corrected := by cases r <;> rfl
@[simp] theorem State.setFlight_corrected (s : State) (r : FlightRef) (x : Flight) : (s.setFlight r x).corrected = s.corrected := by cases r <;> rfl
@[simp] theorem State.modFlight_contained (s : State) (r : FlightRef) (h : Flight → Flight) : (s.modFlight r h).contained = s.contained := by cases r <;> rfl
@[simp] theorem State.setFlight_contained (s : State) (r : FlightRef) (x : Flight) : (s.setFlight r x).contained = s.contained := by cases r <;> rfl
@[simp] theorem State.modFlight_journal (s : State) (r : FlightRef) (h : Flight → Flight) : (s.modFlight r h).journal = s.journal := by cases r <;> rfl
@[simp] theorem State.setFlight_journal (s : State) (r : FlightRef) (x : Flight) : (s.setFlight r x).journal = s.journal := by cases r <;> rfl
@[simp] theorem State.modFlight_booted (s : State) (r : FlightRef) (h : Flight → Flight) : (s.modFlight r h).booted = s.booted := by cases r <;> rfl
@[simp] theorem State.setFlight_booted (s : State) (r : FlightRef) (x : Flight) : (s.setFlight r x).booted = s.booted := by cases r <;> rfl
@[simp] theorem State.modFlight_scanPos (s : State) (r : FlightRef) (h : Flight → Flight) : (s.modFlight r h).scanPos = s.scanPos := by cases r <;> rfl
@[simp] theorem State.setFlight_scanPos (s : State) (r : FlightRef) (x : Flight) : (s.setFlight r x).scanPos = s.scanPos := by cases r <;> rfl
@[simp] theorem State.modFlight_counter (s : State) (r : FlightRef) (h : Flight → Flight) : (s.modFlight r h).counter = s.counter := by cases r <;> rfl
@[simp] theorem State.setFlight_counter (s : State) (r : FlightRef) (x : Flight) : (s.setFlight r x).counter = s.counter := by cases r <;> rfl
@[simp] theorem State.modFlight_rollback (s : State) (r : FlightRef) (h : Flight → Flight) : (s.modFlight r h).rollback = s.rollback := by cases r <;> rfl
@[simp] theorem State.setFlight_rollback (s : State) (r : FlightRef) (x : Flight) : (s.setFlight r x).rollback = s.rollback := by cases r <;> rfl
@[simp] theorem State.modFlight_pcap (s : State) (r : FlightRef) (h : Flight → Flight) : (s.modFlight r h).pcap = s.pcap := by cases r <;> rfl
@[simp] theorem State.setFlight_pcap (s : State) (r : FlightRef) (x : Flight) : (s.setFlight r x).pcap = s.pcap := by cases r <;> rfl
@[simp] theorem State.modFlight_mhz (s : State) (r : FlightRef) (h : Flight → Flight) : (s.modFlight r h).mhz = s.mhz := by cases r <;> rfl
@[simp] theorem State.setFlight_mhz (s : State) (r : FlightRef) (x : Flight) : (s.setFlight r x).mhz = s.mhz := by cases r <;> rfl
@[simp] theorem State.modFlight_clk (s : State) (r : FlightRef) (h : Flight → Flight) : (s.modFlight r h).clk = s.clk := by cases r <;> rfl
@[simp] theorem State.setFlight_clk (s : State) (r : FlightRef) (x : Flight) : (s.setFlight r x).clk = s.clk := by cases r <;> rfl
@[simp] theorem State.modFlight_mcyc (s : State) (r : FlightRef) (h : Flight → Flight) : (s.modFlight r h).mcyc = s.mcyc := by cases r <;> rfl
@[simp] theorem State.setFlight_mcyc (s : State) (r : FlightRef) (x : Flight) : (s.setFlight r x).mcyc = s.mcyc := by cases r <;> rfl
@[simp] theorem State.modFlight_planes (s : State) (r : FlightRef) (h : Flight → Flight) : (s.modFlight r h).planes = s.planes := by cases r <;> rfl
@[simp] theorem State.setFlight_planes (s : State) (r : FlightRef) (x : Flight) : (s.setFlight r x).planes = s.planes := by cases r <;> rfl
@[simp] theorem State.modFlight_spanHold (s : State) (r : FlightRef) (h : Flight → Flight) : (s.modFlight r h).spanHold = s.spanHold := by cases r <;> rfl
@[simp] theorem State.setFlight_spanHold (s : State) (r : FlightRef) (x : Flight) : (s.setFlight r x).spanHold = s.spanHold := by cases r <;> rfl
@[simp] theorem State.modFlight_srcCtx (s : State) (r : FlightRef) (h : Flight → Flight) : (s.modFlight r h).srcCtx = s.srcCtx := by cases r <;> rfl
@[simp] theorem State.setFlight_srcCtx (s : State) (r : FlightRef) (x : Flight) : (s.setFlight r x).srcCtx = s.srcCtx := by cases r <;> rfl
@[simp] theorem State.modFlight_dstCtx (s : State) (r : FlightRef) (h : Flight → Flight) : (s.modFlight r h).dstCtx = s.dstCtx := by cases r <;> rfl
@[simp] theorem State.setFlight_dstCtx (s : State) (r : FlightRef) (x : Flight) : (s.setFlight r x).dstCtx = s.dstCtx := by cases r <;> rfl
@[simp] theorem State.modFlight_stopped (s : State) (r : FlightRef) (h : Flight → Flight) : (s.modFlight r h).stopped = s.stopped := by cases r <;> rfl
@[simp] theorem State.setFlight_stopped (s : State) (r : FlightRef) (x : Flight) : (s.setFlight r x).stopped = s.stopped := by cases r <;> rfl
@[simp] theorem State.modFlight_ldaWaiters (s : State) (r : FlightRef) (h : Flight → Flight) : (s.modFlight r h).ldaWaiters = s.ldaWaiters := by cases r <;> rfl
@[simp] theorem State.setFlight_ldaWaiters (s : State) (r : FlightRef) (x : Flight) : (s.setFlight r x).ldaWaiters = s.ldaWaiters := by cases r <;> rfl
@[simp] theorem State.modFlight_readmit (s : State) (r : FlightRef) (h : Flight → Flight) : (s.modFlight r h).readmit = s.readmit := by cases r <;> rfl
@[simp] theorem State.setFlight_readmit (s : State) (r : FlightRef) (x : Flight) : (s.setFlight r x).readmit = s.readmit := by cases r <;> rfl

/-! ### Flight.setV -/

@[simp] theorem Flight.setV_vrows (f : Flight) (l r : Nat) (x : Word) : (f.setV l r x).vrows = f.vrows := rfl
@[simp] theorem Flight.setV_pc (f : Flight) (l r : Nat) (x : Word) : (f.setV l r x).pc = f.pc := rfl
@[simp] theorem Flight.setV_mr (f : Flight) (l r : Nat) (x : Word) : (f.setV l r x).mr = f.mr := rfl
@[simp] theorem Flight.setV_exited (f : Flight) (l r : Nat) (x : Word) : (f.setV l r x).exited = f.exited := rfl
@[simp] theorem Flight.setV_held (f : Flight) (l r : Nat) (x : Word) : (f.setV l r x).held = f.held := rfl
@[simp] theorem Flight.setV_late (f : Flight) (l r : Nat) (x : Word) : (f.setV l r x).late = f.late := rfl
@[simp] theorem Flight.setV_preds (f : Flight) (l r : Nat) (x : Word) : (f.setV l r x).preds = f.preds := rfl
@[simp] theorem Flight.setV_qpred (f : Flight) (l r : Nat) (x : Word) : (f.setV l r x).qpred = f.qpred := rfl
@[simp] theorem Flight.setV_vregs (f : Flight) (l r : Nat) (x : Word) : (f.setV l r x).vregs = sput 0 f.vregs (l * 256 + r) x := rfl
@[simp] theorem Flight.setV_sregs (f : Flight) (l r : Nat) (x : Word) : (f.setV l r x).sregs = f.sregs := rfl
@[simp] theorem Flight.setV_cb (f : Flight) (l r : Nat) (x : Word) : (f.setV l r x).cb = f.cb := rfl
@[simp] theorem Flight.setV_fsr (f : Flight) (l r : Nat) (x : Word) : (f.setV l r x).fsr = f.fsr := rfl
@[simp] theorem Flight.setV_rngctr (f : Flight) (l r : Nat) (x : Word) : (f.setV l r x).rngctr = f.rngctr := rfl
@[simp] theorem Flight.setV_tids (f : Flight) (l r : Nat) (x : Word) : (f.setV l r x).tids = f.tids := rfl
@[simp] theorem Flight.setV_clause (f : Flight) (l r : Nat) (x : Word) : (f.setV l r x).clause = f.clause := rfl
@[simp] theorem Flight.setV_ix (f : Flight) (l r : Nat) (x : Word) : (f.setV l r x).ix = f.ix := rfl
@[simp] theorem Flight.setV_sg (f : Flight) (l r : Nat) (x : Word) : (f.setV l r x).sg = f.sg := rfl
@[simp] theorem Flight.setV_brMask (f : Flight) (l r : Nat) (x : Word) : (f.setV l r x).brMask = f.brMask := rfl
@[simp] theorem Flight.setV_brTarget (f : Flight) (l r : Nat) (x : Word) : (f.setV l r x).brTarget = f.brTarget := rfl
@[simp] theorem Flight.setV_callTo (f : Flight) (l r : Nat) (x : Word) : (f.setV l r x).callTo = f.callTo := rfl
@[simp] theorem Flight.setV_skid (f : Flight) (l r : Nat) (x : Word) : (f.setV l r x).skid = f.skid := rfl
@[simp] theorem Flight.setV_stopped (f : Flight) (l r : Nat) (x : Word) : (f.setV l r x).stopped = f.stopped := rfl
@[simp] theorem Flight.setV_nLoads (f : Flight) (l r : Nat) (x : Word) : (f.setV l r x).nLoads = f.nLoads := rfl
@[simp] theorem Flight.setV_nStores (f : Flight) (l r : Nat) (x : Word) : (f.setV l r x).nStores = f.nStores := rfl
@[simp] theorem Flight.setV_nCopies (f : Flight) (l r : Nat) (x : Word) : (f.setV l r x).nCopies = f.nCopies := rfl
@[simp] theorem Flight.setV_nTiles (f : Flight) (l r : Nat) (x : Word) : (f.setV l r x).nTiles = f.nTiles := rfl
@[simp] theorem Flight.setV_nEst (f : Flight) (l r : Nat) (x : Word) : (f.setV l r x).nEst = f.nEst := rfl
@[simp] theorem Flight.setV_accs (f : Flight) (l r : Nat) (x : Word) : (f.setV l r x).accs = f.accs := rfl
@[simp] theorem Flight.setV_peer (f : Flight) (l r : Nat) (x : Word) : (f.setV l r x).peer = f.peer := rfl
@[simp] theorem Flight.setV_retired (f : Flight) (l r : Nat) (x : Word) : (f.setV l r x).retired = f.retired := rfl
@[simp] theorem Flight.setV_wtime (f : Flight) (l r : Nat) (x : Word) : (f.setV l r x).wtime = f.wtime := rfl
@[simp] theorem Flight.setV_timerOn (f : Flight) (l r : Nat) (x : Word) : (f.setV l r x).timerOn = f.timerOn := rfl
@[simp] theorem Flight.setV_timerRem (f : Flight) (l r : Nat) (x : Word) : (f.setV l r x).timerRem = f.timerRem := rfl
@[simp] theorem Flight.setV_tpend (f : Flight) (l r : Nat) (x : Word) : (f.setV l r x).tpend = f.tpend := rfl
@[simp] theorem Flight.setV_spend (f : Flight) (l r : Nat) (x : Word) : (f.setV l r x).spend = f.spend := rfl
@[simp] theorem Flight.setV_npOpen (f : Flight) (l r : Nat) (x : Word) : (f.setV l r x).npOpen = f.npOpen := rfl
@[simp] theorem Flight.setV_npClk (f : Flight) (l r : Nat) (x : Word) : (f.setV l r x).npClk = f.npClk := rfl
@[simp] theorem Flight.setV_stopPc (f : Flight) (l r : Nat) (x : Word) : (f.setV l r x).stopPc = f.stopPc := rfl
@[simp] theorem Flight.setV_stopIx (f : Flight) (l r : Nat) (x : Word) : (f.setV l r x).stopIx = f.stopIx := rfl
@[simp] theorem Flight.setV_cause (f : Flight) (l r : Nat) (x : Word) : (f.setV l r x).cause = f.cause := rfl
@[simp] theorem Flight.setV_sub (f : Flight) (l r : Nat) (x : Word) : (f.setV l r x).sub = f.sub := rfl
@[simp] theorem Flight.setV_kind (f : Flight) (l r : Nat) (x : Word) : (f.setV l r x).kind = f.kind := rfl
@[simp] theorem Flight.setV_info (f : Flight) (l r : Nat) (x : Word) : (f.setV l r x).info = f.info := rfl
@[simp] theorem Flight.setV_org (f : Flight) (l r : Nat) (x : Word) : (f.setV l r x).org = f.org := rfl
@[simp] theorem Flight.setV_lateHdrs (f : Flight) (l r : Nat) (x : Word) : (f.setV l r x).lateHdrs = f.lateHdrs := rfl
@[simp] theorem Flight.setV_trapAt (f : Flight) (l r : Nat) (x : Word) : (f.setV l r x).trapAt = f.trapAt := rfl
@[simp] theorem Flight.setV_doneMask (f : Flight) (l r : Nat) (x : Word) : (f.setV l r x).doneMask = f.doneMask := rfl
@[simp] theorem Flight.setV_opFlags (f : Flight) (l r : Nat) (x : Word) : (f.setV l r x).opFlags = f.opFlags := rfl
@[simp] theorem Flight.setV_ldaData (f : Flight) (l r : Nat) (x : Word) : (f.setV l r x).ldaData = f.ldaData := rfl
@[simp] theorem Flight.setV_twinPark (f : Flight) (l r : Nat) (x : Word) : (f.setV l r x).twinPark = f.twinPark := rfl
@[simp] theorem Flight.setV_parkAt (f : Flight) (l r : Nat) (x : Word) : (f.setV l r x).parkAt = f.parkAt := rfl
@[simp] theorem Flight.setV_copyHeld (f : Flight) (l r : Nat) (x : Word) : (f.setV l r x).copyHeld = f.copyHeld := rfl
@[simp] theorem Flight.setV_deferred (f : Flight) (l r : Nat) (x : Word) : (f.setV l r x).deferred = f.deferred := rfl
@[simp] theorem Flight.setV_wait (f : Flight) (l r : Nat) (x : Word) : (f.setV l r x).wait = f.wait := rfl
@[simp] theorem Flight.setV_disp (f : Flight) (l r : Nat) (x : Word) : (f.setV l r x).disp = f.disp := rfl
@[simp] theorem Flight.setV_slot (f : Flight) (l r : Nat) (x : Word) : (f.setV l r x).slot = f.slot := rfl
@[simp] theorem Flight.setV_readySince (f : Flight) (l r : Nat) (x : Word) : (f.setV l r x).readySince = f.readySince := rfl
@[simp] theorem Flight.setV_lastIssue (f : Flight) (l r : Nat) (x : Word) : (f.setV l r x).lastIssue = f.lastIssue := rfl
@[simp] theorem Flight.setV_yielded (f : Flight) (l r : Nat) (x : Word) : (f.setV l r x).yielded = f.yielded := rfl
@[simp] theorem Flight.setV_opDue (f : Flight) (l r : Nat) (x : Word) : (f.setV l r x).opDue = f.opDue := rfl
@[simp] theorem Flight.setV_opBuf (f : Flight) (l r : Nat) (x : Word) : (f.setV l r x).opBuf = f.opBuf := rfl
@[simp] theorem Flight.setV_known (f : Flight) (l r : Nat) (x : Word) : (f.setV l r x).known = f.known := rfl
@[simp] theorem Flight.setV_pastC (f : Flight) (l r : Nat) (x : Word) : (f.setV l r x).pastC = f.pastC := rfl
@[simp] theorem Flight.setV_pastM (f : Flight) (l r : Nat) (x : Word) : (f.setV l r x).pastM = f.pastM := rfl
@[simp] theorem Flight.setV_lastE (f : Flight) (l r : Nat) (x : Word) : (f.setV l r x).lastE = f.lastE := rfl
@[simp] theorem Flight.setV_lastCopyE (f : Flight) (l r : Nat) (x : Word) : (f.setV l r x).lastCopyE = f.lastCopyE := rfl
@[simp] theorem Flight.setV_lastEstE (f : Flight) (l r : Nat) (x : Word) : (f.setV l r x).lastEstE = f.lastEstE := rfl
@[simp] theorem Flight.setV_busy (f : Flight) (l r : Nat) (x : Word) : (f.setV l r x).busy = f.busy := rfl
@[simp] theorem Flight.setV_ended (f : Flight) (l r : Nat) (x : Word) : (f.setV l r x).ended = f.ended := rfl

/-! ### Flight.setS -/

@[simp] theorem Flight.setS_vrows (f : Flight) (r : Nat) (x : Word) : (f.setS r x).vrows = f.vrows := rfl
@[simp] theorem Flight.setS_pc (f : Flight) (r : Nat) (x : Word) : (f.setS r x).pc = f.pc := rfl
@[simp] theorem Flight.setS_mr (f : Flight) (r : Nat) (x : Word) : (f.setS r x).mr = f.mr := rfl
@[simp] theorem Flight.setS_exited (f : Flight) (r : Nat) (x : Word) : (f.setS r x).exited = f.exited := rfl
@[simp] theorem Flight.setS_held (f : Flight) (r : Nat) (x : Word) : (f.setS r x).held = f.held := rfl
@[simp] theorem Flight.setS_late (f : Flight) (r : Nat) (x : Word) : (f.setS r x).late = f.late := rfl
@[simp] theorem Flight.setS_preds (f : Flight) (r : Nat) (x : Word) : (f.setS r x).preds = f.preds := rfl
@[simp] theorem Flight.setS_qpred (f : Flight) (r : Nat) (x : Word) : (f.setS r x).qpred = f.qpred := rfl
@[simp] theorem Flight.setS_vregs (f : Flight) (r : Nat) (x : Word) : (f.setS r x).vregs = f.vregs := rfl
@[simp] theorem Flight.setS_sregs (f : Flight) (r : Nat) (x : Word) : (f.setS r x).sregs = sput 0 f.sregs r x := rfl
@[simp] theorem Flight.setS_cb (f : Flight) (r : Nat) (x : Word) : (f.setS r x).cb = f.cb := rfl
@[simp] theorem Flight.setS_fsr (f : Flight) (r : Nat) (x : Word) : (f.setS r x).fsr = f.fsr := rfl
@[simp] theorem Flight.setS_rngctr (f : Flight) (r : Nat) (x : Word) : (f.setS r x).rngctr = f.rngctr := rfl
@[simp] theorem Flight.setS_tids (f : Flight) (r : Nat) (x : Word) : (f.setS r x).tids = f.tids := rfl
@[simp] theorem Flight.setS_clause (f : Flight) (r : Nat) (x : Word) : (f.setS r x).clause = f.clause := rfl
@[simp] theorem Flight.setS_ix (f : Flight) (r : Nat) (x : Word) : (f.setS r x).ix = f.ix := rfl
@[simp] theorem Flight.setS_sg (f : Flight) (r : Nat) (x : Word) : (f.setS r x).sg = f.sg := rfl
@[simp] theorem Flight.setS_brMask (f : Flight) (r : Nat) (x : Word) : (f.setS r x).brMask = f.brMask := rfl
@[simp] theorem Flight.setS_brTarget (f : Flight) (r : Nat) (x : Word) : (f.setS r x).brTarget = f.brTarget := rfl
@[simp] theorem Flight.setS_callTo (f : Flight) (r : Nat) (x : Word) : (f.setS r x).callTo = f.callTo := rfl
@[simp] theorem Flight.setS_skid (f : Flight) (r : Nat) (x : Word) : (f.setS r x).skid = f.skid := rfl
@[simp] theorem Flight.setS_stopped (f : Flight) (r : Nat) (x : Word) : (f.setS r x).stopped = f.stopped := rfl
@[simp] theorem Flight.setS_nLoads (f : Flight) (r : Nat) (x : Word) : (f.setS r x).nLoads = f.nLoads := rfl
@[simp] theorem Flight.setS_nStores (f : Flight) (r : Nat) (x : Word) : (f.setS r x).nStores = f.nStores := rfl
@[simp] theorem Flight.setS_nCopies (f : Flight) (r : Nat) (x : Word) : (f.setS r x).nCopies = f.nCopies := rfl
@[simp] theorem Flight.setS_nTiles (f : Flight) (r : Nat) (x : Word) : (f.setS r x).nTiles = f.nTiles := rfl
@[simp] theorem Flight.setS_nEst (f : Flight) (r : Nat) (x : Word) : (f.setS r x).nEst = f.nEst := rfl
@[simp] theorem Flight.setS_accs (f : Flight) (r : Nat) (x : Word) : (f.setS r x).accs = f.accs := rfl
@[simp] theorem Flight.setS_peer (f : Flight) (r : Nat) (x : Word) : (f.setS r x).peer = f.peer := rfl
@[simp] theorem Flight.setS_retired (f : Flight) (r : Nat) (x : Word) : (f.setS r x).retired = f.retired := rfl
@[simp] theorem Flight.setS_wtime (f : Flight) (r : Nat) (x : Word) : (f.setS r x).wtime = f.wtime := rfl
@[simp] theorem Flight.setS_timerOn (f : Flight) (r : Nat) (x : Word) : (f.setS r x).timerOn = f.timerOn := rfl
@[simp] theorem Flight.setS_timerRem (f : Flight) (r : Nat) (x : Word) : (f.setS r x).timerRem = f.timerRem := rfl
@[simp] theorem Flight.setS_tpend (f : Flight) (r : Nat) (x : Word) : (f.setS r x).tpend = f.tpend := rfl
@[simp] theorem Flight.setS_spend (f : Flight) (r : Nat) (x : Word) : (f.setS r x).spend = f.spend := rfl
@[simp] theorem Flight.setS_npOpen (f : Flight) (r : Nat) (x : Word) : (f.setS r x).npOpen = f.npOpen := rfl
@[simp] theorem Flight.setS_npClk (f : Flight) (r : Nat) (x : Word) : (f.setS r x).npClk = f.npClk := rfl
@[simp] theorem Flight.setS_stopPc (f : Flight) (r : Nat) (x : Word) : (f.setS r x).stopPc = f.stopPc := rfl
@[simp] theorem Flight.setS_stopIx (f : Flight) (r : Nat) (x : Word) : (f.setS r x).stopIx = f.stopIx := rfl
@[simp] theorem Flight.setS_cause (f : Flight) (r : Nat) (x : Word) : (f.setS r x).cause = f.cause := rfl
@[simp] theorem Flight.setS_sub (f : Flight) (r : Nat) (x : Word) : (f.setS r x).sub = f.sub := rfl
@[simp] theorem Flight.setS_kind (f : Flight) (r : Nat) (x : Word) : (f.setS r x).kind = f.kind := rfl
@[simp] theorem Flight.setS_info (f : Flight) (r : Nat) (x : Word) : (f.setS r x).info = f.info := rfl
@[simp] theorem Flight.setS_org (f : Flight) (r : Nat) (x : Word) : (f.setS r x).org = f.org := rfl
@[simp] theorem Flight.setS_lateHdrs (f : Flight) (r : Nat) (x : Word) : (f.setS r x).lateHdrs = f.lateHdrs := rfl
@[simp] theorem Flight.setS_trapAt (f : Flight) (r : Nat) (x : Word) : (f.setS r x).trapAt = f.trapAt := rfl
@[simp] theorem Flight.setS_doneMask (f : Flight) (r : Nat) (x : Word) : (f.setS r x).doneMask = f.doneMask := rfl
@[simp] theorem Flight.setS_opFlags (f : Flight) (r : Nat) (x : Word) : (f.setS r x).opFlags = f.opFlags := rfl
@[simp] theorem Flight.setS_ldaData (f : Flight) (r : Nat) (x : Word) : (f.setS r x).ldaData = f.ldaData := rfl
@[simp] theorem Flight.setS_twinPark (f : Flight) (r : Nat) (x : Word) : (f.setS r x).twinPark = f.twinPark := rfl
@[simp] theorem Flight.setS_parkAt (f : Flight) (r : Nat) (x : Word) : (f.setS r x).parkAt = f.parkAt := rfl
@[simp] theorem Flight.setS_copyHeld (f : Flight) (r : Nat) (x : Word) : (f.setS r x).copyHeld = f.copyHeld := rfl
@[simp] theorem Flight.setS_deferred (f : Flight) (r : Nat) (x : Word) : (f.setS r x).deferred = f.deferred := rfl
@[simp] theorem Flight.setS_wait (f : Flight) (r : Nat) (x : Word) : (f.setS r x).wait = f.wait := rfl
@[simp] theorem Flight.setS_disp (f : Flight) (r : Nat) (x : Word) : (f.setS r x).disp = f.disp := rfl
@[simp] theorem Flight.setS_slot (f : Flight) (r : Nat) (x : Word) : (f.setS r x).slot = f.slot := rfl
@[simp] theorem Flight.setS_readySince (f : Flight) (r : Nat) (x : Word) : (f.setS r x).readySince = f.readySince := rfl
@[simp] theorem Flight.setS_lastIssue (f : Flight) (r : Nat) (x : Word) : (f.setS r x).lastIssue = f.lastIssue := rfl
@[simp] theorem Flight.setS_yielded (f : Flight) (r : Nat) (x : Word) : (f.setS r x).yielded = f.yielded := rfl
@[simp] theorem Flight.setS_opDue (f : Flight) (r : Nat) (x : Word) : (f.setS r x).opDue = f.opDue := rfl
@[simp] theorem Flight.setS_opBuf (f : Flight) (r : Nat) (x : Word) : (f.setS r x).opBuf = f.opBuf := rfl
@[simp] theorem Flight.setS_known (f : Flight) (r : Nat) (x : Word) : (f.setS r x).known = f.known := rfl
@[simp] theorem Flight.setS_pastC (f : Flight) (r : Nat) (x : Word) : (f.setS r x).pastC = f.pastC := rfl
@[simp] theorem Flight.setS_pastM (f : Flight) (r : Nat) (x : Word) : (f.setS r x).pastM = f.pastM := rfl
@[simp] theorem Flight.setS_lastE (f : Flight) (r : Nat) (x : Word) : (f.setS r x).lastE = f.lastE := rfl
@[simp] theorem Flight.setS_lastCopyE (f : Flight) (r : Nat) (x : Word) : (f.setS r x).lastCopyE = f.lastCopyE := rfl
@[simp] theorem Flight.setS_lastEstE (f : Flight) (r : Nat) (x : Word) : (f.setS r x).lastEstE = f.lastEstE := rfl
@[simp] theorem Flight.setS_busy (f : Flight) (r : Nat) (x : Word) : (f.setS r x).busy = f.busy := rfl
@[simp] theorem Flight.setS_ended (f : Flight) (r : Nat) (x : Word) : (f.setS r x).ended = f.ended := rfl

/-! ### Flight.raise -/

@[simp] theorem Flight.raise_vrows (f : Flight) (g : Byte) : (f.raise g).vrows = f.vrows := rfl
@[simp] theorem Flight.raise_pc (f : Flight) (g : Byte) : (f.raise g).pc = f.pc := rfl
@[simp] theorem Flight.raise_mr (f : Flight) (g : Byte) : (f.raise g).mr = f.mr := rfl
@[simp] theorem Flight.raise_exited (f : Flight) (g : Byte) : (f.raise g).exited = f.exited := rfl
@[simp] theorem Flight.raise_held (f : Flight) (g : Byte) : (f.raise g).held = f.held := rfl
@[simp] theorem Flight.raise_late (f : Flight) (g : Byte) : (f.raise g).late = f.late := rfl
@[simp] theorem Flight.raise_preds (f : Flight) (g : Byte) : (f.raise g).preds = f.preds := rfl
@[simp] theorem Flight.raise_qpred (f : Flight) (g : Byte) : (f.raise g).qpred = f.qpred := rfl
@[simp] theorem Flight.raise_vregs (f : Flight) (g : Byte) : (f.raise g).vregs = f.vregs := rfl
@[simp] theorem Flight.raise_sregs (f : Flight) (g : Byte) : (f.raise g).sregs = f.sregs := rfl
@[simp] theorem Flight.raise_cb (f : Flight) (g : Byte) : (f.raise g).cb = f.cb := rfl
@[simp] theorem Flight.raise_fsr (f : Flight) (g : Byte) : (f.raise g).fsr = f.fsr ||| g.setWidth 32 := rfl
@[simp] theorem Flight.raise_rngctr (f : Flight) (g : Byte) : (f.raise g).rngctr = f.rngctr := rfl
@[simp] theorem Flight.raise_tids (f : Flight) (g : Byte) : (f.raise g).tids = f.tids := rfl
@[simp] theorem Flight.raise_clause (f : Flight) (g : Byte) : (f.raise g).clause = f.clause := rfl
@[simp] theorem Flight.raise_ix (f : Flight) (g : Byte) : (f.raise g).ix = f.ix := rfl
@[simp] theorem Flight.raise_sg (f : Flight) (g : Byte) : (f.raise g).sg = f.sg := rfl
@[simp] theorem Flight.raise_brMask (f : Flight) (g : Byte) : (f.raise g).brMask = f.brMask := rfl
@[simp] theorem Flight.raise_brTarget (f : Flight) (g : Byte) : (f.raise g).brTarget = f.brTarget := rfl
@[simp] theorem Flight.raise_callTo (f : Flight) (g : Byte) : (f.raise g).callTo = f.callTo := rfl
@[simp] theorem Flight.raise_skid (f : Flight) (g : Byte) : (f.raise g).skid = f.skid := rfl
@[simp] theorem Flight.raise_stopped (f : Flight) (g : Byte) : (f.raise g).stopped = f.stopped := rfl
@[simp] theorem Flight.raise_nLoads (f : Flight) (g : Byte) : (f.raise g).nLoads = f.nLoads := rfl
@[simp] theorem Flight.raise_nStores (f : Flight) (g : Byte) : (f.raise g).nStores = f.nStores := rfl
@[simp] theorem Flight.raise_nCopies (f : Flight) (g : Byte) : (f.raise g).nCopies = f.nCopies := rfl
@[simp] theorem Flight.raise_nTiles (f : Flight) (g : Byte) : (f.raise g).nTiles = f.nTiles := rfl
@[simp] theorem Flight.raise_nEst (f : Flight) (g : Byte) : (f.raise g).nEst = f.nEst := rfl
@[simp] theorem Flight.raise_accs (f : Flight) (g : Byte) : (f.raise g).accs = f.accs := rfl
@[simp] theorem Flight.raise_peer (f : Flight) (g : Byte) : (f.raise g).peer = f.peer := rfl
@[simp] theorem Flight.raise_retired (f : Flight) (g : Byte) : (f.raise g).retired = f.retired := rfl
@[simp] theorem Flight.raise_wtime (f : Flight) (g : Byte) : (f.raise g).wtime = f.wtime := rfl
@[simp] theorem Flight.raise_timerOn (f : Flight) (g : Byte) : (f.raise g).timerOn = f.timerOn := rfl
@[simp] theorem Flight.raise_timerRem (f : Flight) (g : Byte) : (f.raise g).timerRem = f.timerRem := rfl
@[simp] theorem Flight.raise_tpend (f : Flight) (g : Byte) : (f.raise g).tpend = f.tpend := rfl
@[simp] theorem Flight.raise_spend (f : Flight) (g : Byte) : (f.raise g).spend = f.spend := rfl
@[simp] theorem Flight.raise_npOpen (f : Flight) (g : Byte) : (f.raise g).npOpen = f.npOpen := rfl
@[simp] theorem Flight.raise_npClk (f : Flight) (g : Byte) : (f.raise g).npClk = f.npClk := rfl
@[simp] theorem Flight.raise_stopPc (f : Flight) (g : Byte) : (f.raise g).stopPc = f.stopPc := rfl
@[simp] theorem Flight.raise_stopIx (f : Flight) (g : Byte) : (f.raise g).stopIx = f.stopIx := rfl
@[simp] theorem Flight.raise_cause (f : Flight) (g : Byte) : (f.raise g).cause = f.cause := rfl
@[simp] theorem Flight.raise_sub (f : Flight) (g : Byte) : (f.raise g).sub = f.sub := rfl
@[simp] theorem Flight.raise_kind (f : Flight) (g : Byte) : (f.raise g).kind = f.kind := rfl
@[simp] theorem Flight.raise_info (f : Flight) (g : Byte) : (f.raise g).info = f.info := rfl
@[simp] theorem Flight.raise_org (f : Flight) (g : Byte) : (f.raise g).org = f.org := rfl
@[simp] theorem Flight.raise_lateHdrs (f : Flight) (g : Byte) : (f.raise g).lateHdrs = f.lateHdrs := rfl
@[simp] theorem Flight.raise_trapAt (f : Flight) (g : Byte) : (f.raise g).trapAt = f.trapAt := rfl
@[simp] theorem Flight.raise_doneMask (f : Flight) (g : Byte) : (f.raise g).doneMask = f.doneMask := rfl
@[simp] theorem Flight.raise_opFlags (f : Flight) (g : Byte) : (f.raise g).opFlags = f.opFlags := rfl
@[simp] theorem Flight.raise_ldaData (f : Flight) (g : Byte) : (f.raise g).ldaData = f.ldaData := rfl
@[simp] theorem Flight.raise_twinPark (f : Flight) (g : Byte) : (f.raise g).twinPark = f.twinPark := rfl
@[simp] theorem Flight.raise_parkAt (f : Flight) (g : Byte) : (f.raise g).parkAt = f.parkAt := rfl
@[simp] theorem Flight.raise_copyHeld (f : Flight) (g : Byte) : (f.raise g).copyHeld = f.copyHeld := rfl
@[simp] theorem Flight.raise_deferred (f : Flight) (g : Byte) : (f.raise g).deferred = f.deferred := rfl
@[simp] theorem Flight.raise_wait (f : Flight) (g : Byte) : (f.raise g).wait = f.wait := rfl
@[simp] theorem Flight.raise_disp (f : Flight) (g : Byte) : (f.raise g).disp = f.disp := rfl
@[simp] theorem Flight.raise_slot (f : Flight) (g : Byte) : (f.raise g).slot = f.slot := rfl
@[simp] theorem Flight.raise_readySince (f : Flight) (g : Byte) : (f.raise g).readySince = f.readySince := rfl
@[simp] theorem Flight.raise_lastIssue (f : Flight) (g : Byte) : (f.raise g).lastIssue = f.lastIssue := rfl
@[simp] theorem Flight.raise_yielded (f : Flight) (g : Byte) : (f.raise g).yielded = f.yielded := rfl
@[simp] theorem Flight.raise_opDue (f : Flight) (g : Byte) : (f.raise g).opDue = f.opDue := rfl
@[simp] theorem Flight.raise_opBuf (f : Flight) (g : Byte) : (f.raise g).opBuf = f.opBuf := rfl
@[simp] theorem Flight.raise_known (f : Flight) (g : Byte) : (f.raise g).known = f.known := rfl
@[simp] theorem Flight.raise_pastC (f : Flight) (g : Byte) : (f.raise g).pastC = f.pastC := rfl
@[simp] theorem Flight.raise_pastM (f : Flight) (g : Byte) : (f.raise g).pastM = f.pastM := rfl
@[simp] theorem Flight.raise_lastE (f : Flight) (g : Byte) : (f.raise g).lastE = f.lastE := rfl
@[simp] theorem Flight.raise_lastCopyE (f : Flight) (g : Byte) : (f.raise g).lastCopyE = f.lastCopyE := rfl
@[simp] theorem Flight.raise_lastEstE (f : Flight) (g : Byte) : (f.raise g).lastEstE = f.lastEstE := rfl
@[simp] theorem Flight.raise_busy (f : Flight) (g : Byte) : (f.raise g).busy = f.busy := rfl
@[simp] theorem Flight.raise_ended (f : Flight) (g : Byte) : (f.raise g).ended = f.ended := rfl

/-! ### Flight.setP -/

@[simp] theorem Flight.setP_vrows (f : Flight) (l i : Nat) (x : Bool) : (f.setP l i x).vrows = f.vrows := by unfold Flight.setP; split <;> rfl
@[simp] theorem Flight.setP_pc (f : Flight) (l i : Nat) (x : Bool) : (f.setP l i x).pc = f.pc := by unfold Flight.setP; split <;> rfl
@[simp] theorem Flight.setP_mr (f : Flight) (l i : Nat) (x : Bool) : (f.setP l i x).mr = f.mr := by unfold Flight.setP; split <;> rfl
@[simp] theorem Flight.setP_exited (f : Flight) (l i : Nat) (x : Bool) : (f.setP l i x).exited = f.exited := by unfold Flight.setP; split <;> rfl
@[simp] theorem Flight.setP_held (f : Flight) (l i : Nat) (x : Bool) : (f.setP l i x).held = f.held := by unfold Flight.setP; split <;> rfl
@[simp] theorem Flight.setP_late (f : Flight) (l i : Nat) (x : Bool) : (f.setP l i x).late = f.late := by unfold Flight.setP; split <;> rfl
@[simp] theorem Flight.setP_qpred (f : Flight) (l i : Nat) (x : Bool) : (f.setP l i x).qpred = f.qpred := by unfold Flight.setP; split <;> rfl
@[simp] theorem Flight.setP_vregs (f : Flight) (l i : Nat) (x : Bool) : (f.setP l i x).vregs = f.vregs := by unfold Flight.setP; split <;> rfl
@[simp] theorem Flight.setP_sregs (f : Flight) (l i : Nat) (x : Bool) : (f.setP l i x).sregs = f.sregs := by unfold Flight.setP; split <;> rfl
@[simp] theorem Flight.setP_cb (f : Flight) (l i : Nat) (x : Bool) : (f.setP l i x).cb = f.cb := by unfold Flight.setP; split <;> rfl
@[simp] theorem Flight.setP_fsr (f : Flight) (l i : Nat) (x : Bool) : (f.setP l i x).fsr = f.fsr := by unfold Flight.setP; split <;> rfl
@[simp] theorem Flight.setP_rngctr (f : Flight) (l i : Nat) (x : Bool) : (f.setP l i x).rngctr = f.rngctr := by unfold Flight.setP; split <;> rfl
@[simp] theorem Flight.setP_tids (f : Flight) (l i : Nat) (x : Bool) : (f.setP l i x).tids = f.tids := by unfold Flight.setP; split <;> rfl
@[simp] theorem Flight.setP_clause (f : Flight) (l i : Nat) (x : Bool) : (f.setP l i x).clause = f.clause := by unfold Flight.setP; split <;> rfl
@[simp] theorem Flight.setP_ix (f : Flight) (l i : Nat) (x : Bool) : (f.setP l i x).ix = f.ix := by unfold Flight.setP; split <;> rfl
@[simp] theorem Flight.setP_sg (f : Flight) (l i : Nat) (x : Bool) : (f.setP l i x).sg = f.sg := by unfold Flight.setP; split <;> rfl
@[simp] theorem Flight.setP_brMask (f : Flight) (l i : Nat) (x : Bool) : (f.setP l i x).brMask = f.brMask := by unfold Flight.setP; split <;> rfl
@[simp] theorem Flight.setP_brTarget (f : Flight) (l i : Nat) (x : Bool) : (f.setP l i x).brTarget = f.brTarget := by unfold Flight.setP; split <;> rfl
@[simp] theorem Flight.setP_callTo (f : Flight) (l i : Nat) (x : Bool) : (f.setP l i x).callTo = f.callTo := by unfold Flight.setP; split <;> rfl
@[simp] theorem Flight.setP_skid (f : Flight) (l i : Nat) (x : Bool) : (f.setP l i x).skid = f.skid := by unfold Flight.setP; split <;> rfl
@[simp] theorem Flight.setP_stopped (f : Flight) (l i : Nat) (x : Bool) : (f.setP l i x).stopped = f.stopped := by unfold Flight.setP; split <;> rfl
@[simp] theorem Flight.setP_nLoads (f : Flight) (l i : Nat) (x : Bool) : (f.setP l i x).nLoads = f.nLoads := by unfold Flight.setP; split <;> rfl
@[simp] theorem Flight.setP_nStores (f : Flight) (l i : Nat) (x : Bool) : (f.setP l i x).nStores = f.nStores := by unfold Flight.setP; split <;> rfl
@[simp] theorem Flight.setP_nCopies (f : Flight) (l i : Nat) (x : Bool) : (f.setP l i x).nCopies = f.nCopies := by unfold Flight.setP; split <;> rfl
@[simp] theorem Flight.setP_nTiles (f : Flight) (l i : Nat) (x : Bool) : (f.setP l i x).nTiles = f.nTiles := by unfold Flight.setP; split <;> rfl
@[simp] theorem Flight.setP_nEst (f : Flight) (l i : Nat) (x : Bool) : (f.setP l i x).nEst = f.nEst := by unfold Flight.setP; split <;> rfl
@[simp] theorem Flight.setP_accs (f : Flight) (l i : Nat) (x : Bool) : (f.setP l i x).accs = f.accs := by unfold Flight.setP; split <;> rfl
@[simp] theorem Flight.setP_peer (f : Flight) (l i : Nat) (x : Bool) : (f.setP l i x).peer = f.peer := by unfold Flight.setP; split <;> rfl
@[simp] theorem Flight.setP_retired (f : Flight) (l i : Nat) (x : Bool) : (f.setP l i x).retired = f.retired := by unfold Flight.setP; split <;> rfl
@[simp] theorem Flight.setP_wtime (f : Flight) (l i : Nat) (x : Bool) : (f.setP l i x).wtime = f.wtime := by unfold Flight.setP; split <;> rfl
@[simp] theorem Flight.setP_timerOn (f : Flight) (l i : Nat) (x : Bool) : (f.setP l i x).timerOn = f.timerOn := by unfold Flight.setP; split <;> rfl
@[simp] theorem Flight.setP_timerRem (f : Flight) (l i : Nat) (x : Bool) : (f.setP l i x).timerRem = f.timerRem := by unfold Flight.setP; split <;> rfl
@[simp] theorem Flight.setP_tpend (f : Flight) (l i : Nat) (x : Bool) : (f.setP l i x).tpend = f.tpend := by unfold Flight.setP; split <;> rfl
@[simp] theorem Flight.setP_spend (f : Flight) (l i : Nat) (x : Bool) : (f.setP l i x).spend = f.spend := by unfold Flight.setP; split <;> rfl
@[simp] theorem Flight.setP_npOpen (f : Flight) (l i : Nat) (x : Bool) : (f.setP l i x).npOpen = f.npOpen := by unfold Flight.setP; split <;> rfl
@[simp] theorem Flight.setP_npClk (f : Flight) (l i : Nat) (x : Bool) : (f.setP l i x).npClk = f.npClk := by unfold Flight.setP; split <;> rfl
@[simp] theorem Flight.setP_stopPc (f : Flight) (l i : Nat) (x : Bool) : (f.setP l i x).stopPc = f.stopPc := by unfold Flight.setP; split <;> rfl
@[simp] theorem Flight.setP_stopIx (f : Flight) (l i : Nat) (x : Bool) : (f.setP l i x).stopIx = f.stopIx := by unfold Flight.setP; split <;> rfl
@[simp] theorem Flight.setP_cause (f : Flight) (l i : Nat) (x : Bool) : (f.setP l i x).cause = f.cause := by unfold Flight.setP; split <;> rfl
@[simp] theorem Flight.setP_sub (f : Flight) (l i : Nat) (x : Bool) : (f.setP l i x).sub = f.sub := by unfold Flight.setP; split <;> rfl
@[simp] theorem Flight.setP_kind (f : Flight) (l i : Nat) (x : Bool) : (f.setP l i x).kind = f.kind := by unfold Flight.setP; split <;> rfl
@[simp] theorem Flight.setP_info (f : Flight) (l i : Nat) (x : Bool) : (f.setP l i x).info = f.info := by unfold Flight.setP; split <;> rfl
@[simp] theorem Flight.setP_org (f : Flight) (l i : Nat) (x : Bool) : (f.setP l i x).org = f.org := by unfold Flight.setP; split <;> rfl
@[simp] theorem Flight.setP_lateHdrs (f : Flight) (l i : Nat) (x : Bool) : (f.setP l i x).lateHdrs = f.lateHdrs := by unfold Flight.setP; split <;> rfl
@[simp] theorem Flight.setP_trapAt (f : Flight) (l i : Nat) (x : Bool) : (f.setP l i x).trapAt = f.trapAt := by unfold Flight.setP; split <;> rfl
@[simp] theorem Flight.setP_doneMask (f : Flight) (l i : Nat) (x : Bool) : (f.setP l i x).doneMask = f.doneMask := by unfold Flight.setP; split <;> rfl
@[simp] theorem Flight.setP_opFlags (f : Flight) (l i : Nat) (x : Bool) : (f.setP l i x).opFlags = f.opFlags := by unfold Flight.setP; split <;> rfl
@[simp] theorem Flight.setP_ldaData (f : Flight) (l i : Nat) (x : Bool) : (f.setP l i x).ldaData = f.ldaData := by unfold Flight.setP; split <;> rfl
@[simp] theorem Flight.setP_twinPark (f : Flight) (l i : Nat) (x : Bool) : (f.setP l i x).twinPark = f.twinPark := by unfold Flight.setP; split <;> rfl
@[simp] theorem Flight.setP_parkAt (f : Flight) (l i : Nat) (x : Bool) : (f.setP l i x).parkAt = f.parkAt := by unfold Flight.setP; split <;> rfl
@[simp] theorem Flight.setP_copyHeld (f : Flight) (l i : Nat) (x : Bool) : (f.setP l i x).copyHeld = f.copyHeld := by unfold Flight.setP; split <;> rfl
@[simp] theorem Flight.setP_deferred (f : Flight) (l i : Nat) (x : Bool) : (f.setP l i x).deferred = f.deferred := by unfold Flight.setP; split <;> rfl
@[simp] theorem Flight.setP_wait (f : Flight) (l i : Nat) (x : Bool) : (f.setP l i x).wait = f.wait := by unfold Flight.setP; split <;> rfl
@[simp] theorem Flight.setP_disp (f : Flight) (l i : Nat) (x : Bool) : (f.setP l i x).disp = f.disp := by unfold Flight.setP; split <;> rfl
@[simp] theorem Flight.setP_slot (f : Flight) (l i : Nat) (x : Bool) : (f.setP l i x).slot = f.slot := by unfold Flight.setP; split <;> rfl
@[simp] theorem Flight.setP_readySince (f : Flight) (l i : Nat) (x : Bool) : (f.setP l i x).readySince = f.readySince := by unfold Flight.setP; split <;> rfl
@[simp] theorem Flight.setP_lastIssue (f : Flight) (l i : Nat) (x : Bool) : (f.setP l i x).lastIssue = f.lastIssue := by unfold Flight.setP; split <;> rfl
@[simp] theorem Flight.setP_yielded (f : Flight) (l i : Nat) (x : Bool) : (f.setP l i x).yielded = f.yielded := by unfold Flight.setP; split <;> rfl
@[simp] theorem Flight.setP_opDue (f : Flight) (l i : Nat) (x : Bool) : (f.setP l i x).opDue = f.opDue := by unfold Flight.setP; split <;> rfl
@[simp] theorem Flight.setP_opBuf (f : Flight) (l i : Nat) (x : Bool) : (f.setP l i x).opBuf = f.opBuf := by unfold Flight.setP; split <;> rfl
@[simp] theorem Flight.setP_known (f : Flight) (l i : Nat) (x : Bool) : (f.setP l i x).known = f.known := by unfold Flight.setP; split <;> rfl
@[simp] theorem Flight.setP_pastC (f : Flight) (l i : Nat) (x : Bool) : (f.setP l i x).pastC = f.pastC := by unfold Flight.setP; split <;> rfl
@[simp] theorem Flight.setP_pastM (f : Flight) (l i : Nat) (x : Bool) : (f.setP l i x).pastM = f.pastM := by unfold Flight.setP; split <;> rfl
@[simp] theorem Flight.setP_lastE (f : Flight) (l i : Nat) (x : Bool) : (f.setP l i x).lastE = f.lastE := by unfold Flight.setP; split <;> rfl
@[simp] theorem Flight.setP_lastCopyE (f : Flight) (l i : Nat) (x : Bool) : (f.setP l i x).lastCopyE = f.lastCopyE := by unfold Flight.setP; split <;> rfl
@[simp] theorem Flight.setP_lastEstE (f : Flight) (l i : Nat) (x : Bool) : (f.setP l i x).lastEstE = f.lastEstE := by unfold Flight.setP; split <;> rfl
@[simp] theorem Flight.setP_busy (f : Flight) (l i : Nat) (x : Bool) : (f.setP l i x).busy = f.busy := by unfold Flight.setP; split <;> rfl
@[simp] theorem Flight.setP_ended (f : Flight) (l i : Nat) (x : Bool) : (f.setP l i x).ended = f.ended := by unfold Flight.setP; split <;> rfl

/-! ### Flight.setQ -/

@[simp] theorem Flight.setQ_vrows (f : Flight) (i : Nat) (x : Bool) : (f.setQ i x).vrows = f.vrows := by unfold Flight.setQ; split <;> rfl
@[simp] theorem Flight.setQ_pc (f : Flight) (i : Nat) (x : Bool) : (f.setQ i x).pc = f.pc := by unfold Flight.setQ; split <;> rfl
@[simp] theorem Flight.setQ_mr (f : Flight) (i : Nat) (x : Bool) : (f.setQ i x).mr = f.mr := by unfold Flight.setQ; split <;> rfl
@[simp] theorem Flight.setQ_exited (f : Flight) (i : Nat) (x : Bool) : (f.setQ i x).exited = f.exited := by unfold Flight.setQ; split <;> rfl
@[simp] theorem Flight.setQ_held (f : Flight) (i : Nat) (x : Bool) : (f.setQ i x).held = f.held := by unfold Flight.setQ; split <;> rfl
@[simp] theorem Flight.setQ_late (f : Flight) (i : Nat) (x : Bool) : (f.setQ i x).late = f.late := by unfold Flight.setQ; split <;> rfl
@[simp] theorem Flight.setQ_preds (f : Flight) (i : Nat) (x : Bool) : (f.setQ i x).preds = f.preds := by unfold Flight.setQ; split <;> rfl
@[simp] theorem Flight.setQ_vregs (f : Flight) (i : Nat) (x : Bool) : (f.setQ i x).vregs = f.vregs := by unfold Flight.setQ; split <;> rfl
@[simp] theorem Flight.setQ_sregs (f : Flight) (i : Nat) (x : Bool) : (f.setQ i x).sregs = f.sregs := by unfold Flight.setQ; split <;> rfl
@[simp] theorem Flight.setQ_cb (f : Flight) (i : Nat) (x : Bool) : (f.setQ i x).cb = f.cb := by unfold Flight.setQ; split <;> rfl
@[simp] theorem Flight.setQ_fsr (f : Flight) (i : Nat) (x : Bool) : (f.setQ i x).fsr = f.fsr := by unfold Flight.setQ; split <;> rfl
@[simp] theorem Flight.setQ_rngctr (f : Flight) (i : Nat) (x : Bool) : (f.setQ i x).rngctr = f.rngctr := by unfold Flight.setQ; split <;> rfl
@[simp] theorem Flight.setQ_tids (f : Flight) (i : Nat) (x : Bool) : (f.setQ i x).tids = f.tids := by unfold Flight.setQ; split <;> rfl
@[simp] theorem Flight.setQ_clause (f : Flight) (i : Nat) (x : Bool) : (f.setQ i x).clause = f.clause := by unfold Flight.setQ; split <;> rfl
@[simp] theorem Flight.setQ_ix (f : Flight) (i : Nat) (x : Bool) : (f.setQ i x).ix = f.ix := by unfold Flight.setQ; split <;> rfl
@[simp] theorem Flight.setQ_sg (f : Flight) (i : Nat) (x : Bool) : (f.setQ i x).sg = f.sg := by unfold Flight.setQ; split <;> rfl
@[simp] theorem Flight.setQ_brMask (f : Flight) (i : Nat) (x : Bool) : (f.setQ i x).brMask = f.brMask := by unfold Flight.setQ; split <;> rfl
@[simp] theorem Flight.setQ_brTarget (f : Flight) (i : Nat) (x : Bool) : (f.setQ i x).brTarget = f.brTarget := by unfold Flight.setQ; split <;> rfl
@[simp] theorem Flight.setQ_callTo (f : Flight) (i : Nat) (x : Bool) : (f.setQ i x).callTo = f.callTo := by unfold Flight.setQ; split <;> rfl
@[simp] theorem Flight.setQ_skid (f : Flight) (i : Nat) (x : Bool) : (f.setQ i x).skid = f.skid := by unfold Flight.setQ; split <;> rfl
@[simp] theorem Flight.setQ_stopped (f : Flight) (i : Nat) (x : Bool) : (f.setQ i x).stopped = f.stopped := by unfold Flight.setQ; split <;> rfl
@[simp] theorem Flight.setQ_nLoads (f : Flight) (i : Nat) (x : Bool) : (f.setQ i x).nLoads = f.nLoads := by unfold Flight.setQ; split <;> rfl
@[simp] theorem Flight.setQ_nStores (f : Flight) (i : Nat) (x : Bool) : (f.setQ i x).nStores = f.nStores := by unfold Flight.setQ; split <;> rfl
@[simp] theorem Flight.setQ_nCopies (f : Flight) (i : Nat) (x : Bool) : (f.setQ i x).nCopies = f.nCopies := by unfold Flight.setQ; split <;> rfl
@[simp] theorem Flight.setQ_nTiles (f : Flight) (i : Nat) (x : Bool) : (f.setQ i x).nTiles = f.nTiles := by unfold Flight.setQ; split <;> rfl
@[simp] theorem Flight.setQ_nEst (f : Flight) (i : Nat) (x : Bool) : (f.setQ i x).nEst = f.nEst := by unfold Flight.setQ; split <;> rfl
@[simp] theorem Flight.setQ_accs (f : Flight) (i : Nat) (x : Bool) : (f.setQ i x).accs = f.accs := by unfold Flight.setQ; split <;> rfl
@[simp] theorem Flight.setQ_peer (f : Flight) (i : Nat) (x : Bool) : (f.setQ i x).peer = f.peer := by unfold Flight.setQ; split <;> rfl
@[simp] theorem Flight.setQ_retired (f : Flight) (i : Nat) (x : Bool) : (f.setQ i x).retired = f.retired := by unfold Flight.setQ; split <;> rfl
@[simp] theorem Flight.setQ_wtime (f : Flight) (i : Nat) (x : Bool) : (f.setQ i x).wtime = f.wtime := by unfold Flight.setQ; split <;> rfl
@[simp] theorem Flight.setQ_timerOn (f : Flight) (i : Nat) (x : Bool) : (f.setQ i x).timerOn = f.timerOn := by unfold Flight.setQ; split <;> rfl
@[simp] theorem Flight.setQ_timerRem (f : Flight) (i : Nat) (x : Bool) : (f.setQ i x).timerRem = f.timerRem := by unfold Flight.setQ; split <;> rfl
@[simp] theorem Flight.setQ_tpend (f : Flight) (i : Nat) (x : Bool) : (f.setQ i x).tpend = f.tpend := by unfold Flight.setQ; split <;> rfl
@[simp] theorem Flight.setQ_spend (f : Flight) (i : Nat) (x : Bool) : (f.setQ i x).spend = f.spend := by unfold Flight.setQ; split <;> rfl
@[simp] theorem Flight.setQ_npOpen (f : Flight) (i : Nat) (x : Bool) : (f.setQ i x).npOpen = f.npOpen := by unfold Flight.setQ; split <;> rfl
@[simp] theorem Flight.setQ_npClk (f : Flight) (i : Nat) (x : Bool) : (f.setQ i x).npClk = f.npClk := by unfold Flight.setQ; split <;> rfl
@[simp] theorem Flight.setQ_stopPc (f : Flight) (i : Nat) (x : Bool) : (f.setQ i x).stopPc = f.stopPc := by unfold Flight.setQ; split <;> rfl
@[simp] theorem Flight.setQ_stopIx (f : Flight) (i : Nat) (x : Bool) : (f.setQ i x).stopIx = f.stopIx := by unfold Flight.setQ; split <;> rfl
@[simp] theorem Flight.setQ_cause (f : Flight) (i : Nat) (x : Bool) : (f.setQ i x).cause = f.cause := by unfold Flight.setQ; split <;> rfl
@[simp] theorem Flight.setQ_sub (f : Flight) (i : Nat) (x : Bool) : (f.setQ i x).sub = f.sub := by unfold Flight.setQ; split <;> rfl
@[simp] theorem Flight.setQ_kind (f : Flight) (i : Nat) (x : Bool) : (f.setQ i x).kind = f.kind := by unfold Flight.setQ; split <;> rfl
@[simp] theorem Flight.setQ_info (f : Flight) (i : Nat) (x : Bool) : (f.setQ i x).info = f.info := by unfold Flight.setQ; split <;> rfl
@[simp] theorem Flight.setQ_org (f : Flight) (i : Nat) (x : Bool) : (f.setQ i x).org = f.org := by unfold Flight.setQ; split <;> rfl
@[simp] theorem Flight.setQ_lateHdrs (f : Flight) (i : Nat) (x : Bool) : (f.setQ i x).lateHdrs = f.lateHdrs := by unfold Flight.setQ; split <;> rfl
@[simp] theorem Flight.setQ_trapAt (f : Flight) (i : Nat) (x : Bool) : (f.setQ i x).trapAt = f.trapAt := by unfold Flight.setQ; split <;> rfl
@[simp] theorem Flight.setQ_doneMask (f : Flight) (i : Nat) (x : Bool) : (f.setQ i x).doneMask = f.doneMask := by unfold Flight.setQ; split <;> rfl
@[simp] theorem Flight.setQ_opFlags (f : Flight) (i : Nat) (x : Bool) : (f.setQ i x).opFlags = f.opFlags := by unfold Flight.setQ; split <;> rfl
@[simp] theorem Flight.setQ_ldaData (f : Flight) (i : Nat) (x : Bool) : (f.setQ i x).ldaData = f.ldaData := by unfold Flight.setQ; split <;> rfl
@[simp] theorem Flight.setQ_twinPark (f : Flight) (i : Nat) (x : Bool) : (f.setQ i x).twinPark = f.twinPark := by unfold Flight.setQ; split <;> rfl
@[simp] theorem Flight.setQ_parkAt (f : Flight) (i : Nat) (x : Bool) : (f.setQ i x).parkAt = f.parkAt := by unfold Flight.setQ; split <;> rfl
@[simp] theorem Flight.setQ_copyHeld (f : Flight) (i : Nat) (x : Bool) : (f.setQ i x).copyHeld = f.copyHeld := by unfold Flight.setQ; split <;> rfl
@[simp] theorem Flight.setQ_deferred (f : Flight) (i : Nat) (x : Bool) : (f.setQ i x).deferred = f.deferred := by unfold Flight.setQ; split <;> rfl
@[simp] theorem Flight.setQ_wait (f : Flight) (i : Nat) (x : Bool) : (f.setQ i x).wait = f.wait := by unfold Flight.setQ; split <;> rfl
@[simp] theorem Flight.setQ_disp (f : Flight) (i : Nat) (x : Bool) : (f.setQ i x).disp = f.disp := by unfold Flight.setQ; split <;> rfl
@[simp] theorem Flight.setQ_slot (f : Flight) (i : Nat) (x : Bool) : (f.setQ i x).slot = f.slot := by unfold Flight.setQ; split <;> rfl
@[simp] theorem Flight.setQ_readySince (f : Flight) (i : Nat) (x : Bool) : (f.setQ i x).readySince = f.readySince := by unfold Flight.setQ; split <;> rfl
@[simp] theorem Flight.setQ_lastIssue (f : Flight) (i : Nat) (x : Bool) : (f.setQ i x).lastIssue = f.lastIssue := by unfold Flight.setQ; split <;> rfl
@[simp] theorem Flight.setQ_yielded (f : Flight) (i : Nat) (x : Bool) : (f.setQ i x).yielded = f.yielded := by unfold Flight.setQ; split <;> rfl
@[simp] theorem Flight.setQ_opDue (f : Flight) (i : Nat) (x : Bool) : (f.setQ i x).opDue = f.opDue := by unfold Flight.setQ; split <;> rfl
@[simp] theorem Flight.setQ_opBuf (f : Flight) (i : Nat) (x : Bool) : (f.setQ i x).opBuf = f.opBuf := by unfold Flight.setQ; split <;> rfl
@[simp] theorem Flight.setQ_known (f : Flight) (i : Nat) (x : Bool) : (f.setQ i x).known = f.known := by unfold Flight.setQ; split <;> rfl
@[simp] theorem Flight.setQ_pastC (f : Flight) (i : Nat) (x : Bool) : (f.setQ i x).pastC = f.pastC := by unfold Flight.setQ; split <;> rfl
@[simp] theorem Flight.setQ_pastM (f : Flight) (i : Nat) (x : Bool) : (f.setQ i x).pastM = f.pastM := by unfold Flight.setQ; split <;> rfl
@[simp] theorem Flight.setQ_lastE (f : Flight) (i : Nat) (x : Bool) : (f.setQ i x).lastE = f.lastE := by unfold Flight.setQ; split <;> rfl
@[simp] theorem Flight.setQ_lastCopyE (f : Flight) (i : Nat) (x : Bool) : (f.setQ i x).lastCopyE = f.lastCopyE := by unfold Flight.setQ; split <;> rfl
@[simp] theorem Flight.setQ_lastEstE (f : Flight) (i : Nat) (x : Bool) : (f.setQ i x).lastEstE = f.lastEstE := by unfold Flight.setQ; split <;> rfl
@[simp] theorem Flight.setQ_busy (f : Flight) (i : Nat) (x : Bool) : (f.setQ i x).busy = f.busy := by unfold Flight.setQ; split <;> rfl
@[simp] theorem Flight.setQ_ended (f : Flight) (i : Nat) (x : Bool) : (f.setQ i x).ended = f.ended := by unfold Flight.setQ; split <;> rfl

end Sys2Proof.Machine
end

