-- ==== Sys2Proof/Laws/Flight.lean ====
section
/-! SUPPORT. The laws of a flight's registers, of changing one flight, and of retiring, stalling and trapping it: each says once what the
operation can do. -/

namespace Sys2Proof.Machine

/-! ### Registers -/

/-- A v register after a write: the key of a lane and a register number below 256 names them both. -/
theorem Flight.v_setV (f : Flight) (l r k q : Nat) (x : Word) (hr : r < 256) (hq : q < 256) :
    (f.setV l r x).v k q = if k = l ∧ q = r then x else f.v k q := by
  unfold Flight.v Flight.setV
  rw [sget_sput]
  by_cases h : k = l ∧ q = r
  · simp [h.1, h.2]
  · rw [if_neg h, if_neg (by omega)]

@[simp] theorem Flight.s_setS (f : Flight) (r q : Nat) (x : Word) : (f.setS r x).s q = if q = r then x else f.s q := by
  unfold Flight.s Flight.setS
  exact sget_sput 0 f.sregs r q x

@[simp] theorem Flight.s_setV (f : Flight) (l r q : Nat) (x : Word) : (f.setV l r x).s q = f.s q := rfl

@[simp] theorem Flight.v_setS (f : Flight) (r k q : Nat) (x : Word) : (f.setS r x).v k q = f.v k q := rfl

@[simp] theorem Flight.v_raise (f : Flight) (g : Byte) (k q : Nat) : (f.raise g).v k q = f.v k q := rfl

@[simp] theorem Flight.s_raise (f : Flight) (g : Byte) (q : Nat) : (f.raise g).s q = f.s q := rfl

/-- p7 reads true, whatever is written to it (R22). -/
@[simp] theorem Flight.p_seven (f : Flight) (l : Nat) : f.p l 7 = true := rfl

/-- q7 reads true, whatever is written to it (R22). -/
@[simp] theorem Flight.q_seven (f : Flight) : f.q 7 = true := rfl

/-! ### One flight of the state -/

/-- A flight of the state after one flight is changed. -/
@[simp] theorem State.flight?_modFlight (s : State) (r q : FlightRef) (h : Flight → Flight) :
    (s.modFlight r h).flight? q = if q = r then (s.flight? r).map h else s.flight? q := by
  cases r with
  | wg w fl =>
    cases q with
    | wg w' fl' =>
      simp only [State.modFlight, State.flight?, State.modWg_wgs, look_alter, FlightRef.wg.injEq]
      by_cases hw : w' = w
      · subst hw
        cases hl : look s.wgs w' with
        | none => simp
        | some g => simp [getElem?_modAt]
      · simp [hw]
    | ctl d p => simp [State.modFlight, State.flight?]
  | ctl d p =>
    cases q with
    | wg w fl => simp [State.modFlight, State.flight?]
    | ctl d' p' =>
      simp only [State.modFlight, State.flight?, State.modPart_parts, getElem?_modAt, FlightRef.ctl.injEq]
      by_cases hp : p' = p
      · subst hp
        cases hl : s.parts[p']? with
        | none => simp
        | some x =>
          simp only [Option.map_some, Option.bind_some]
          by_cases hd : d' = d
          · subst hd
            cases hc : look x.ctls d' <;> simp [hc]
          · simp [hd]
      · simp [hp]

@[simp] theorem State.flight?_setFlight (s : State) (r q : FlightRef) (x : Flight) :
    (s.setFlight r x).flight? q = if q = r then (s.flight? r).map (fun _ => x) else s.flight? q :=
  State.flight?_modFlight s r q _

/-- The flight that has the issue is a flight of the state, and its name is the one the state names. -/
theorem State.issuer_some {s : State} {r : FlightRef} {f : Flight} (h : s.issuer = some (r, f)) :
    s.cur = some r ∧ s.flight? r = some f := by
  unfold State.issuer at h
  cases hc : s.cur with
  | none => simp [hc] at h
  | some q =>
    simp only [hc, Option.bind_some, Option.map_eq_some_iff, Prod.mk.injEq] at h
    obtain ⟨g, hg, rfl, rfl⟩ := h
    exact ⟨rfl, hg⟩

theorem State.issuer_of {s : State} {r : FlightRef} {f : Flight} (hc : s.cur = some r) (hf : s.flight? r = some f) :
    s.issuer = some (r, f) := by simp [State.issuer, hc, hf]

/-! ### Instructions of the flight that has the issue -/

/-- An instruction's body runs for the flight that has the issue. -/
theorem withIssuer_next {s : State} {r : FlightRef} {f : Flight} (h : s.issuer = some (r, f)) (k : FlightRef → Flight → State) :
    withIssuer s k = .next (k r f) := by simp [withIssuer, h]

/-- A lane-by-lane instruction always completes: the acting lanes' results are written and it retires. -/
theorem lanewise_next {s : State} {r : FlightRef} {f : Flight} (h : s.issuer = some (r, f)) (g : BitVec 4)
    (body : Flight → Nat → LaneOut) : lanewise g body s = .next (s.retire r (f.laneStep g (body f))) := withIssuer_next h _

/-- An instruction that rewrites its flight always completes. -/
theorem flightwise_next {s : State} {r : FlightRef} {f : Flight} (h : s.issuer = some (r, f)) (g : BitVec 4) (body : Flight → Flight) :
    flightwise g body s = .next (s.retire r (if f.actsOnce g then body f else f)) := withIssuer_next h _

/-! ### Retiring -/

/-- What retiring leaves alone: memory, and every flight but the one that retires. -/
@[simp] theorem State.retire_mem (s : State) (r : FlightRef) (f : Flight) : (s.retire r f).mem = s.mem := by simp [State.retire]

@[simp] theorem State.retire_cur (s : State) (r : FlightRef) (f : Flight) : (s.retire r f).cur = s.cur := by simp [State.retire]

@[simp] theorem State.retire_launches (s : State) (r : FlightRef) (f : Flight) : (s.retire r f).launches = s.launches := by
  simp [State.retire]

theorem State.retire_flight?_ne (s : State) {r q : FlightRef} (f : Flight) (h : q ≠ r) : (s.retire r f).flight? q = s.flight? q := by
  simp [State.retire, h]

/-- The flight as retiring leaves it (R170, R333, R344). -/
def State.retired (s : State) (r : FlightRef) (f : Flight) : Flight :=
  let g := { f.retire with skid := if s.halting r then f.skid + 1 else f.skid }
  if s.det r then g.tickTimer else g

theorem State.retire_flight? (s : State) (r : FlightRef) (f x : Flight) (h : s.flight? r = some x) :
    (s.retire r f).flight? r = some (s.retired r f) := by
  simp only [State.retire, State.flight?_setFlight, h, Option.map_some, if_true]
  rfl

/-- What completing a clause leaves as it is. -/
theorem Flight.completeClause_kept (f : Flight) : f.completeClause.vregs = f.vregs ∧ f.completeClause.sregs = f.sregs ∧
    f.completeClause.preds = f.preds ∧ f.completeClause.qpred = f.qpred ∧ f.completeClause.fsr = f.fsr ∧
    f.completeClause.mr = f.mr ∧ f.completeClause.exited = f.exited ∧ f.completeClause.cb = f.cb ∧ f.completeClause.tids = f.tids ∧
    f.completeClause.rngctr = f.rngctr ∧ f.completeClause.peer = f.peer ∧ f.completeClause.accs = f.accs ∧
    f.completeClause.retired = f.retired := ⟨rfl, rfl, rfl, rfl, rfl, rfl, rfl, rfl, rfl, rfl, rfl, rfl, rfl⟩

/-- What a stop of the flight leaves as it is. -/
theorem Flight.stopHere_kept (f : Flight) : f.stopHere.vregs = f.vregs ∧ f.stopHere.sregs = f.sregs ∧
    f.stopHere.preds = f.preds ∧ f.stopHere.qpred = f.qpred ∧ f.stopHere.fsr = f.fsr ∧
    f.stopHere.mr = f.mr ∧ f.stopHere.exited = f.exited ∧ f.stopHere.cb = f.cb ∧ f.stopHere.tids = f.tids ∧
    f.stopHere.rngctr = f.rngctr ∧ f.stopHere.peer = f.peer ∧ f.stopHere.accs = f.accs ∧ f.stopHere.retired = f.retired := by
  unfold Flight.stopHere
  split
  · split
    · exact ⟨rfl, rfl, rfl, rfl, rfl, rfl, rfl, rfl, rfl, rfl, rfl, rfl, rfl⟩
    · exact f.completeClause_kept
  · split <;> exact ⟨rfl, rfl, rfl, rfl, rfl, rfl, rfl, rfl, rfl, rfl, rfl, rfl, rfl⟩

/-- What retiring leaves as it is in the flight itself: registers, predicates, flags, meeting points, operations in progress; it counts
one retired instruction. -/
theorem State.retired_kept (s : State) (r : FlightRef) (f : Flight) : (s.retired r f).vregs = f.vregs ∧ (s.retired r f).sregs = f.sregs ∧
    (s.retired r f).preds = f.preds ∧ (s.retired r f).qpred = f.qpred ∧ (s.retired r f).fsr = f.fsr ∧
    (s.retired r f).mr = f.mr ∧ (s.retired r f).exited = f.exited ∧ (s.retired r f).cb = f.cb ∧ (s.retired r f).tids = f.tids ∧
    (s.retired r f).rngctr = f.rngctr ∧ (s.retired r f).peer = f.peer ∧ (s.retired r f).accs = f.accs ∧
    (s.retired r f).retired = f.retired + 1 := by
  have key : ∀ g : Flight, g.retire.vregs = g.vregs ∧ g.retire.sregs = g.sregs ∧
    g.retire.preds = g.preds ∧ g.retire.qpred = g.qpred ∧ g.retire.fsr = g.fsr ∧
    g.retire.mr = g.mr ∧ g.retire.exited = g.exited ∧ g.retire.cb = g.cb ∧ g.retire.tids = g.tids ∧
    g.retire.rngctr = g.rngctr ∧ g.retire.peer = g.peer ∧ g.retire.accs = g.accs ∧ g.retire.retired = g.retired + 1 := by
    intro g
    unfold Flight.retire
    dsimp only
    by_cases h : g.stopped = true
    · simp only [if_pos h]
      exact Flight.stopHere_kept _
    · simp [h]
  have tick : ∀ g : Flight, g.tickTimer.vregs = g.vregs ∧ g.tickTimer.sregs = g.sregs ∧
    g.tickTimer.preds = g.preds ∧ g.tickTimer.qpred = g.qpred ∧ g.tickTimer.fsr = g.fsr ∧
    g.tickTimer.mr = g.mr ∧ g.tickTimer.exited = g.exited ∧ g.tickTimer.cb = g.cb ∧ g.tickTimer.tids = g.tids ∧
    g.tickTimer.rngctr = g.rngctr ∧ g.tickTimer.peer = g.peer ∧ g.tickTimer.accs = g.accs ∧ g.tickTimer.retired = g.retired := by
    intro g
    unfold Flight.tickTimer
    split
    · exact ⟨rfl, rfl, rfl, rfl, rfl, rfl, rfl, rfl, rfl, rfl, rfl, rfl, rfl⟩
    · split <;> exact ⟨rfl, rfl, rfl, rfl, rfl, rfl, rfl, rfl, rfl, rfl, rfl, rfl, rfl⟩
  unfold State.retired
  dsimp only
  split
  · obtain ⟨a1, a2, a3, a4, a5, a6, a7, a8, a9, a10, a11, a12, a13⟩ := key f
    obtain ⟨b1, b2, b3, b4, b5, b6, b7, b8, b9, b10, b11, b12, b13⟩ :=
      tick { f.retire with skid := if s.halting r then f.skid + 1 else f.skid }
    exact ⟨b1.trans a1, b2.trans a2, b3.trans a3, b4.trans a4, b5.trans a5, b6.trans a6, b7.trans a7, b8.trans a8, b9.trans a9,
      b10.trans a10, b11.trans a11, b12.trans a12, b13.trans a13⟩
  · exact key f

/-! ### Stalling and trapping -/

/-- A stall leaves memory alone and takes the issue from the flight. -/
@[simp] theorem State.stall_mem (s : State) (r : FlightRef) (w : Wait) : (s.stall r w).mem = s.mem := by simp [State.stall]

theorem State.stall_cur (s : State) (r : FlightRef) (w : Wait) : (s.stall r w).cur = if s.cur = some r then none else s.cur := rfl

@[simp] theorem State.closeNp_mem (s : State) (r : FlightRef) (f : Flight) : (s.closeNp r f).mem = s.mem := by
  unfold State.closeNp
  split
  · rfl
  · simp only
    split <;> simp

theorem State.foldl_mem {α : Type} (h : State → α → State) (hh : ∀ s a, (h s a).mem = s.mem) (l : List α) (s : State) :
    (l.foldl h s).mem = s.mem := by
  induction l generalizing s with
  | nil => rfl
  | cons a l ih => exact (ih (h s a)).trans (hh s a)

@[simp] theorem State.closeSections_mem (s : State) (w : Nat) : (s.closeSections w).mem = s.mem := by
  unfold State.closeSections
  split
  · refine State.foldl_mem _ (fun t k => ?_) _ s
    split <;> simp
  · rfl

/-- The trap of a workgroup's flight writes no memory (R333: the trapping instruction has no effect; the entry follows at the halt). -/
@[simp] theorem State.trap_wg_mem (s : State) (w fl : Nat) (t : TrapInfo) : (s.trap (.wg w fl) t).mem = s.mem := by simp [State.trap]

end Sys2Proof.Machine
end

