-- ==== Sys2Proof/Laws/Lanes.lean ====
section
/-! SUPPORT. What the shared frame of the lane-by-lane instructions does: one law from which the effect of each of them follows. -/

namespace Sys2Proof.Machine

open Sys2Proof.Claim

/-! ### The lanes that act -/

theorem maskLanes_nodup (m : Word) : (maskLanes m).Nodup := List.Nodup.filter _ List.nodup_range

theorem acting_nodup (f : Flight) (g : BitVec 4) : (f.acting g).Nodup := by
  unfold Flight.acting
  split
  · split <;> simp
  · exact (maskLanes_nodup _).filter _

theorem acting_lt (f : Flight) (g : BitVec 4) (l : Nat) (h : l ∈ f.acting g) : l < 32 := by
  unfold Flight.acting at h
  split at h
  · split at h
    · simp at h; omega
    · simp at h
  · have := List.mem_of_mem_filter (List.mem_of_mem_filter h)
    simpa [lanes] using this

theorem acting_uni (f : Flight) (g : BitVec 4) (h : f.uniPath = true) : f.acting g = [] ∨ f.acting g = [0] := by
  unfold Flight.acting
  rw [if_pos h]
  split <;> simp

/-! ### Registers of one lane -/

/-- A flight with registers of a lane written in turn. -/
def Flight.setRs (f : Flight) (uni : Bool) (l : Nat) (ps : List (Nat × Word)) : Flight :=
  ps.foldl (fun f p => f.setR uni l p.1 p.2) f

/-- A flight with predicates of a lane written in turn. -/
def Flight.setPs (f : Flight) (uni : Bool) (l : Nat) (ps : List (Nat × Bool)) : Flight :=
  ps.foldl (fun f p => f.setPQ uni l p.1 p.2) f

/-- Everything of a flight but its registers, predicates and flags is as before. -/
def Flight.Like (f g : Flight) : Prop :=
  g = { f with vregs := g.vregs, sregs := g.sregs, preds := g.preds, qpred := g.qpred, fsr := g.fsr }

theorem Flight.Like.refl (f : Flight) : f.Like f := rfl

theorem Flight.Like.trans {f g h : Flight} (a : f.Like g) (b : g.Like h) : f.Like h := by
  unfold Flight.Like at *
  rw [b, a]

theorem setR_like (f : Flight) (uni : Bool) (l r : Nat) (x : Word) : f.Like (f.setR uni l r x) := by
  unfold Flight.setR
  split <;> rfl

theorem setPQ_like (f : Flight) (uni : Bool) (l i : Nat) (b : Bool) : f.Like (f.setPQ uni l i b) := by
  unfold Flight.setPQ Flight.setP Flight.setQ
  split <;> split <;> rfl

theorem setRs_like (ps : List (Nat × Word)) (f : Flight) (uni : Bool) (l : Nat) : f.Like (f.setRs uni l ps) := by
  induction ps generalizing f with
  | nil => rfl
  | cons p ps ih => exact (setR_like f uni l p.1 p.2).trans (ih _)

theorem setPs_like (ps : List (Nat × Bool)) (f : Flight) (uni : Bool) (l : Nat) : f.Like (f.setPs uni l ps) := by
  induction ps generalizing f with
  | nil => rfl
  | cons p ps ih => exact (setPQ_like f uni l p.1 p.2).trans (ih _)

theorem setRs_v (ps : List (Nat × Word)) (f : Flight) (uni : Bool) (l k q : Nat) (hq : q < 256) (hp : ∀ p ∈ ps, p.1 < 256)
    (h : uni = true ∨ k ≠ l ∨ ∀ p ∈ ps, p.1 ≠ q) : (f.setRs uni l ps).v k q = f.v k q := by
  induction ps generalizing f with
  | nil => rfl
  | cons p ps ih =>
    have h1 : (f.setR uni l p.1 p.2).v k q = f.v k q := by
      unfold Flight.setR
      split
      · rfl
      · rw [Flight.v_setV _ _ _ _ _ _ (hp p List.mem_cons_self) hq, if_neg]
        rintro ⟨rfl, rfl⟩
        rcases h with h | h | h
        · contradiction
        · exact h rfl
        · exact h p List.mem_cons_self rfl
    refine (ih (f.setR uni l p.1 p.2) (fun x hx => hp x (List.mem_cons_of_mem _ hx)) ?_).trans h1
    rcases h with h | h | h
    · exact .inl h
    · exact .inr (.inl h)
    · exact .inr (.inr (fun x hx => h x (List.mem_cons_of_mem _ hx)))

theorem setRs_s (ps : List (Nat × Word)) (f : Flight) (uni : Bool) (l q : Nat)
    (h : uni = false ∨ ∀ p ∈ ps, p.1 ≠ q) : (f.setRs uni l ps).s q = f.s q := by
  induction ps generalizing f with
  | nil => rfl
  | cons p ps ih =>
    have h1 : (f.setR uni l p.1 p.2).s q = f.s q := by
      unfold Flight.setR
      split
      · rw [Flight.s_setS, if_neg]
        rcases h with h | h
        · simp_all
        · exact fun e => h p List.mem_cons_self e.symm
      · rfl
    refine (ih (f.setR uni l p.1 p.2) ?_).trans h1
    rcases h with h | h
    · exact .inl h
    · exact .inr (fun x hx => h x (List.mem_cons_of_mem _ hx))

theorem setRs_reg (ps : List (Nat × Word)) (f : Flight) (uni : Bool) (l : Nat) (hp : ∀ p ∈ ps, p.1 < 256)
    (hn : (ps.map Prod.fst).Nodup) : ∀ p ∈ ps, reg (f.setRs uni l ps) uni l p.1 = p.2 := by
  induction ps generalizing f with
  | nil => simp
  | cons p ps ih =>
    simp only [List.map_cons, List.nodup_cons] at hn
    have hp' := fun x hx => hp x (List.mem_cons_of_mem _ hx)
    intro q hq
    rcases List.mem_cons.1 hq with rfl | hq
    · have hne : ∀ x ∈ ps, x.1 ≠ q.1 := fun x hx e => hn.1 (e ▸ List.mem_map_of_mem hx)
      show reg ((f.setR uni l q.1 q.2).setRs uni l ps) uni l q.1 = q.2
      cases uni with
      | true =>
        simp only [reg, if_true]
        rw [setRs_s _ _ _ _ _ (.inr hne)]
        simp [Flight.setR]
      | false =>
        simp only [reg, Bool.false_eq_true, if_false]
        rw [setRs_v _ _ _ _ _ _ (hp q List.mem_cons_self) hp' (.inr (.inr hne))]
        simp [Flight.setR, Flight.v_setV _ _ _ _ _ _ (hp q List.mem_cons_self) (hp q List.mem_cons_self)]
    · exact ih _ hp' hn.2 q hq

theorem setRs_pq (ps : List (Nat × Word)) (f : Flight) (uni : Bool) (l : Nat) :
    (f.setRs uni l ps).preds = f.preds ∧ (f.setRs uni l ps).qpred = f.qpred ∧ (f.setRs uni l ps).fsr = f.fsr := by
  induction ps generalizing f with
  | nil => exact ⟨rfl, rfl, rfl⟩
  | cons p ps ih =>
    have h : (f.setR uni l p.1 p.2).preds = f.preds ∧ (f.setR uni l p.1 p.2).qpred = f.qpred ∧ (f.setR uni l p.1 p.2).fsr = f.fsr := by
      unfold Flight.setR
      split <;> exact ⟨rfl, rfl, rfl⟩
    obtain ⟨a, b, c⟩ := ih (f.setR uni l p.1 p.2)
    exact ⟨a.trans h.1, b.trans h.2.1, c.trans h.2.2⟩

/-! ### Predicates of one lane -/

theorem getLsbD_setBit {n : Nat} (m : BitVec n) (i j : Nat) (b : Bool) (hj : j < n) :
    (setBit m i b).getLsbD j = if j = i then b else m.getLsbD j := by
  have h1 : (1#n <<< i).getLsbD j = decide (j = i) := by
    simp only [BitVec.getLsbD_shiftLeft, BitVec.getLsbD_one]
    by_cases h : j = i
    · subst h; simp; omega
    · by_cases h2 : j < i
      · simp [h2, h]
      · have : j - i ≠ 0 := by omega
        simp [h, this]
  unfold setBit
  split
  · rename_i hb
    rw [BitVec.getLsbD_or, h1]
    by_cases h : j = i <;> simp [h, hb]
  · rename_i hb
    rw [BitVec.getLsbD_and, BitVec.getLsbD_not, h1]
    by_cases h : j = i <;> simp_all

theorem p_setPQ_ne (f : Flight) (uni : Bool) (l i k j : Nat) (b : Bool) (hk : k < 32)
    (h : uni = true ∨ k ≠ l ∨ i ≠ j) : (f.setPQ uni l i b).p k j = f.p k j := by
  unfold Flight.setPQ
  split
  · unfold Flight.setQ; split <;> rfl
  · unfold Flight.setP
    split
    · rfl
    · unfold Flight.p
      split
      · rfl
      · simp only [sget_sput]
        by_cases hij : j = i
        · subst hij
          have hkl : k ≠ l := by rcases h with h | h | h <;> simp_all
          simp [getLsbD_setBit _ l k b hk, hkl]
        · simp [hij]

theorem q_setPQ_ne (f : Flight) (uni : Bool) (l i j : Nat) (b : Bool) (h : uni = false ∨ i ≠ j) :
    (f.setPQ uni l i b).q j = f.q j := by
  unfold Flight.setPQ
  split
  · have hij : i ≠ j := by simp_all
    unfold Flight.setQ Flight.q
    split
    · rfl
    · split
      · rfl
      · by_cases hj : j < 8
        · simp [getLsbD_setBit f.qpred i j b hj, Ne.symm hij]
        · rw [BitVec.getLsbD_of_ge _ _ (by omega), BitVec.getLsbD_of_ge _ _ (by omega)]
  · unfold Flight.setP; split <;> rfl

theorem prd_setPQ_same (f : Flight) (uni : Bool) (l i : Nat) (b : Bool) (hl : l < 32) (hi : i < 7) :
    prd (f.setPQ uni l i b) uni l i = b := by
  have h7 : i ≠ 7 := by omega
  cases uni with
  | true => simp [prd, Flight.setPQ, Flight.setQ, Flight.q, h7, getLsbD_setBit f.qpred i i b (by omega)]
  | false => simp [prd, Flight.setPQ, Flight.setP, Flight.p, h7, getLsbD_setBit _ l l b hl]

theorem setPs_p (ps : List (Nat × Bool)) (f : Flight) (uni : Bool) (l k j : Nat) (hk : k < 32)
    (h : uni = true ∨ k ≠ l ∨ ∀ p ∈ ps, p.1 ≠ j) : (f.setPs uni l ps).p k j = f.p k j := by
  induction ps generalizing f with
  | nil => rfl
  | cons p ps ih =>
    refine (ih (f.setPQ uni l p.1 p.2) ?_).trans (p_setPQ_ne f uni l p.1 k j p.2 hk ?_)
    · rcases h with h | h | h
      · exact .inl h
      · exact .inr (.inl h)
      · exact .inr (.inr (fun x hx => h x (List.mem_cons_of_mem _ hx)))
    · rcases h with h | h | h
      · exact .inl h
      · exact .inr (.inl h)
      · exact .inr (.inr (h p List.mem_cons_self))

theorem setPs_q (ps : List (Nat × Bool)) (f : Flight) (uni : Bool) (l j : Nat)
    (h : uni = false ∨ ∀ p ∈ ps, p.1 ≠ j) : (f.setPs uni l ps).q j = f.q j := by
  induction ps generalizing f with
  | nil => rfl
  | cons p ps ih =>
    refine (ih (f.setPQ uni l p.1 p.2) ?_).trans (q_setPQ_ne f uni l p.1 j p.2 ?_)
    · rcases h with h | h
      · exact .inl h
      · exact .inr (fun x hx => h x (List.mem_cons_of_mem _ hx))
    · rcases h with h | h
      · exact .inl h
      · exact .inr (h p List.mem_cons_self)

theorem setPs_prd (ps : List (Nat × Bool)) (f : Flight) (uni : Bool) (l : Nat) (hl : l < 32)
    (hn : (ps.map Prod.fst).Nodup) : ∀ p ∈ ps, p.1 < 7 → prd (f.setPs uni l ps) uni l p.1 = p.2 := by
  induction ps generalizing f with
  | nil => simp
  | cons p ps ih =>
    simp only [List.map_cons, List.nodup_cons] at hn
    intro q hq h7
    rcases List.mem_cons.1 hq with rfl | hq
    · have hne : ∀ x ∈ ps, x.1 ≠ q.1 := fun x hx e => hn.1 (e ▸ List.mem_map_of_mem hx)
      have hb := prd_setPQ_same f uni l q.1 q.2 hl h7
      show prd ((f.setPQ uni l q.1 q.2).setPs uni l ps) uni l q.1 = q.2
      cases uni with
      | true => simpa only [prd, if_true, setPs_q _ _ _ _ _ (.inr hne)] using hb
      | false =>
        simpa only [prd, Bool.false_eq_true, if_false, setPs_p ps _ false l l q.1 hl (.inr (.inr hne))] using hb
    · exact ih _ hn.2 q hq h7

theorem setPs_regs (ps : List (Nat × Bool)) (f : Flight) (uni : Bool) (l : Nat) :
    (f.setPs uni l ps).vregs = f.vregs ∧ (f.setPs uni l ps).sregs = f.sregs ∧ (f.setPs uni l ps).fsr = f.fsr := by
  induction ps generalizing f with
  | nil => exact ⟨rfl, rfl, rfl⟩
  | cons p ps ih =>
    have h : (f.setPQ uni l p.1 p.2).vregs = f.vregs ∧ (f.setPQ uni l p.1 p.2).sregs = f.sregs ∧ (f.setPQ uni l p.1 p.2).fsr = f.fsr := by
      unfold Flight.setPQ Flight.setP Flight.setQ
      split <;> split <;> exact ⟨rfl, rfl, rfl⟩
    obtain ⟨a, b, c⟩ := ih (f.setPQ uni l p.1 p.2)
    exact ⟨a.trans h.1, b.trans h.2.1, c.trans h.2.2⟩

/-! ### One lane, and every acting lane -/

theorem apply_eq (f : Flight) (uni : Bool) (l : Nat) (x : LaneOut) :
    f.apply uni l x = ((f.setRs uni l x.regs).setPs uni l x.preds).raise x.flags := rfl

theorem raise_like (f : Flight) (g : Byte) : f.Like (f.raise g) := rfl

theorem apply_like (f : Flight) (uni : Bool) (l : Nat) (x : LaneOut) : f.Like (f.apply uni l x) := by
  rw [apply_eq]
  exact ((setRs_like _ _ _ _).trans (setPs_like _ _ _ _)).trans (raise_like _ _)

theorem applyAll_like (xs : List (Nat × LaneOut)) (f : Flight) (uni : Bool) : f.Like (f.applyAll uni xs) := by
  induction xs generalizing f with
  | nil => rfl
  | cons x xs ih => exact (apply_like f uni x.1 x.2).trans (ih _)

theorem vs_congr {f g : Flight} (hv : g.vregs = f.vregs) (hs : g.sregs = f.sregs) :
    (∀ k q, g.v k q = f.v k q) ∧ ∀ q, g.s q = f.s q := ⟨fun k q => by simp [Flight.v, hv], fun q => by simp [Flight.s, hs]⟩

theorem pq_congr {f g : Flight} (hp : g.preds = f.preds) (hq : g.qpred = f.qpred) :
    (∀ k i, g.p k i = f.p k i) ∧ ∀ i, g.q i = f.q i := ⟨fun k i => by simp [Flight.p, hp], fun i => by simp [Flight.q, hq]⟩

theorem apply_v (f : Flight) (uni : Bool) (l k q : Nat) (x : LaneOut) (hq : q < 256) (hp : ∀ p ∈ x.regs, p.1 < 256)
    (h : uni = true ∨ k ≠ l ∨ ∀ p ∈ x.regs, p.1 ≠ q) : (f.apply uni l x).v k q = f.v k q := by
  obtain ⟨a, b, -⟩ := setPs_regs x.preds (f.setRs uni l x.regs) uni l
  rw [apply_eq, Flight.v_raise, (vs_congr a b).1, setRs_v _ _ _ _ _ _ hq hp h]

theorem apply_s (f : Flight) (uni : Bool) (l q : Nat) (x : LaneOut) (h : uni = false ∨ ∀ p ∈ x.regs, p.1 ≠ q) :
    (f.apply uni l x).s q = f.s q := by
  obtain ⟨a, b, -⟩ := setPs_regs x.preds (f.setRs uni l x.regs) uni l
  rw [apply_eq, Flight.s_raise, (vs_congr a b).2, setRs_s _ _ _ _ _ h]

theorem apply_reg (f : Flight) (uni : Bool) (l : Nat) (x : LaneOut) (hp : ∀ p ∈ x.regs, p.1 < 256)
    (hn : (x.regs.map Prod.fst).Nodup) : ∀ p ∈ x.regs, reg (f.apply uni l x) uni l p.1 = p.2 := by
  intro p hm
  obtain ⟨a, b, -⟩ := setPs_regs x.preds (f.setRs uni l x.regs) uni l
  have hr := setRs_reg x.regs f uni l hp hn p hm
  have hc := vs_congr a b
  rw [apply_eq]
  cases uni <;> simpa [reg, hc.1, hc.2] using hr

theorem apply_p (f : Flight) (uni : Bool) (l k j : Nat) (x : LaneOut) (hk : k < 32)
    (h : uni = true ∨ k ≠ l ∨ ∀ p ∈ x.preds, p.1 ≠ j) : (f.apply uni l x).p k j = f.p k j := by
  obtain ⟨a, b, -⟩ := setRs_pq x.regs f uni l
  show ((f.setRs uni l x.regs).setPs uni l x.preds).p k j = f.p k j
  rw [setPs_p _ _ _ _ _ _ hk h, (pq_congr a b).1]

theorem apply_q (f : Flight) (uni : Bool) (l j : Nat) (x : LaneOut) (h : uni = false ∨ ∀ p ∈ x.preds, p.1 ≠ j) :
    (f.apply uni l x).q j = f.q j := by
  obtain ⟨a, b, -⟩ := setRs_pq x.regs f uni l
  show ((f.setRs uni l x.regs).setPs uni l x.preds).q j = f.q j
  rw [setPs_q _ _ _ _ _ h, (pq_congr a b).2]

theorem apply_prd (f : Flight) (uni : Bool) (l : Nat) (x : LaneOut) (hl : l < 32) (hn : (x.preds.map Prod.fst).Nodup) :
    ∀ p ∈ x.preds, p.1 < 7 → prd (f.apply uni l x) uni l p.1 = p.2 := by
  intro p hm h7
  have h := setPs_prd x.preds (f.setRs uni l x.regs) uni l hl hn p hm h7
  have hc := pq_congr (f := (f.setRs uni l x.regs).setPs uni l x.preds)
    (g := ((f.setRs uni l x.regs).setPs uni l x.preds).raise x.flags) rfl rfl
  rw [apply_eq]
  cases uni <;> simpa [prd, hc.1, hc.2] using h

theorem apply_fsr (f : Flight) (uni : Bool) (l : Nat) (x : LaneOut) : (f.apply uni l x).fsr = f.fsr ||| x.flags.setWidth 32 := by
  obtain ⟨-, -, a⟩ := setPs_regs x.preds (f.setRs uni l x.regs) uni l
  obtain ⟨-, -, b⟩ := setRs_pq x.regs f uni l
  rw [apply_eq, Flight.raise_fsr, a, b]

/-- What a lane-by-lane instruction may write: its registers exist and no register or predicate is named twice. -/
def LaneOut.Sound (x : LaneOut) : Prop := (∀ p ∈ x.regs, p.1 < 256) ∧ (x.regs.map Prod.fst).Nodup ∧ (x.preds.map Prod.fst).Nodup

theorem applyAll_effect (ls : List Nat) (f : Flight) (uni : Bool) (out : Nat → LaneOut) (hs : ∀ l ∈ ls, (out l).Sound) (hn : ls.Nodup)
    (hl : ∀ l ∈ ls, l < 32) (hu : uni = true → ls = [] ∨ ls = [0]) :
    let g := f.applyAll uni (ls.map (fun l => (l, out l)))
    (∀ l ∈ ls, ∀ p ∈ (out l).regs, reg g uni l p.1 = p.2) ∧
    (∀ l r, r < 256 → (uni = true ∨ l ∉ ls ∨ ∀ p ∈ (out l).regs, p.1 ≠ r) → g.v l r = f.v l r) ∧
    (∀ r, (uni = false ∨ ls = [] ∨ ∀ p ∈ (out 0).regs, p.1 ≠ r) → g.s r = f.s r) ∧
    (∀ l ∈ ls, ∀ p ∈ (out l).preds, p.1 < 7 → prd g uni l p.1 = p.2) ∧
    (∀ l i, l < 32 → (uni = true ∨ l ∉ ls ∨ ∀ p ∈ (out l).preds, p.1 ≠ i) → g.p l i = f.p l i) ∧
    (∀ i, (uni = false ∨ ls = [] ∨ ∀ p ∈ (out 0).preds, p.1 ≠ i) → g.q i = f.q i) ∧
    g.fsr = ls.foldl (fun x l => x ||| (out l).flags.setWidth 32) f.fsr := by
  induction ls generalizing f with
  | nil => simp [Flight.applyAll]
  | cons a ls ih =>
    obtain ⟨ha, hn'⟩ := List.nodup_cons.1 hn
    have h0 : uni = true → a = 0 ∧ ls = [] := by
      intro h
      rcases hu h with h | h <;> simp_all
    obtain ⟨i1, i2, i3, i4, i5, i6, i7⟩ := ih (f.apply uni a (out a)) (fun l hm => hs l (List.mem_cons_of_mem _ hm)) hn'
      (fun l hm => hl l (List.mem_cons_of_mem _ hm)) (fun h => .inl (h0 h).2)
    obtain ⟨s1, s2, s3⟩ := hs a List.mem_cons_self
    have hal := hl a List.mem_cons_self
    intro g
    have hg : g = (f.apply uni a (out a)).applyAll uni (ls.map (fun l => (l, out l))) := rfl
    rw [hg]
    refine ⟨?_, ?_, ?_, ?_, ?_, ?_, ?_⟩
    · intro l hm p hp
      rcases List.mem_cons.1 hm with rfl | hm
      · have hb := apply_reg f uni l (out l) s1 s2 p hp
        cases hc : uni with
        | true =>
          simp only [hc, reg, if_true] at hb i3 ⊢
          rw [i3 _ (.inr (.inl (h0 hc).2))]
          exact hb
        | false =>
          simp only [hc, reg, Bool.false_eq_true, if_false] at hb i2 ⊢
          rw [i2 l p.1 (s1 p hp) (.inr (.inl ha))]
          exact hb
      · exact i1 l hm p hp
    · intro l r hr h
      rw [i2 l r hr (by
        rcases h with h | h | h
        · exact .inl h
        · exact .inr (.inl (fun e => h (List.mem_cons_of_mem _ e)))
        · exact .inr (.inr h))]
      refine apply_v f uni a l r (out a) hr s1 ?_
      rcases h with h | h | h
      · exact .inl h
      · exact .inr (.inl (fun e => h (e ▸ List.mem_cons_self)))
      · by_cases e : l = a
        · subst e; exact .inr (.inr h)
        · exact .inr (.inl e)
    · intro r h
      rw [i3 r (by
        cases hc : uni with
        | true => exact .inr (.inl (h0 hc).2)
        | false => exact .inl rfl)]
      refine apply_s f uni a r (out a) ?_
      cases hc : uni with
      | false => exact .inl rfl
      | true =>
        have h := h.resolve_left (by simp [hc])
        rcases h with h | h
        · simp at h
        · exact .inr ((h0 hc).1 ▸ h)
    · intro l hm p hp h7
      rcases List.mem_cons.1 hm with rfl | hm
      · have hb := apply_prd f uni l (out l) hal s3 p hp h7
        cases hc : uni with
        | true =>
          simp only [hc, prd, if_true] at hb i6 ⊢
          rw [i6 _ (.inr (.inl (h0 hc).2))]
          exact hb
        | false =>
          simp only [hc, prd, Bool.false_eq_true, if_false] at hb i5 ⊢
          rw [i5 l p.1 hal (.inr (.inl ha))]
          exact hb
      · exact i4 l hm p hp h7
    · intro l i hl2 h
      rw [i5 l i hl2 (by
        rcases h with h | h | h
        · exact .inl h
        · exact .inr (.inl (fun e => h (List.mem_cons_of_mem _ e)))
        · exact .inr (.inr h))]
      refine apply_p f uni a l i (out a) hl2 ?_
      rcases h with h | h | h
      · exact .inl h
      · exact .inr (.inl (fun e => h (e ▸ List.mem_cons_self)))
      · by_cases e : l = a
        · subst e; exact .inr (.inr h)
        · exact .inr (.inl e)
    · intro i h
      rw [i6 i (by
        cases hc : uni with
        | true => exact .inr (.inl (h0 hc).2)
        | false => exact .inl rfl)]
      refine apply_q f uni a i (out a) ?_
      cases hc : uni with
      | false => exact .inl rfl
      | true =>
        have h := h.resolve_left (by simp [hc])
        rcases h with h | h
        · simp at h
        · exact .inr ((h0 hc).1 ▸ h)
    · rw [i7, apply_fsr]
      rfl

/-- The counts of a flight, which retiring leaves as they are. -/
theorem retired_counts (s : State) (r : FlightRef) (f : Flight) : (s.retired r f).nLoads = f.nLoads ∧ (s.retired r f).nStores = f.nStores ∧
    (s.retired r f).nCopies = f.nCopies ∧ (s.retired r f).nTiles = f.nTiles ∧ (s.retired r f).nEst = f.nEst := by
  have stop : ∀ g : Flight, g.stopHere.nLoads = g.nLoads ∧ g.stopHere.nStores = g.nStores ∧ g.stopHere.nCopies = g.nCopies ∧
      g.stopHere.nTiles = g.nTiles ∧ g.stopHere.nEst = g.nEst := by
    intro g
    unfold Flight.stopHere
    split
    · split <;> exact ⟨rfl, rfl, rfl, rfl, rfl⟩
    · split <;> exact ⟨rfl, rfl, rfl, rfl, rfl⟩
  have key : ∀ g : Flight, g.retire.nLoads = g.nLoads ∧ g.retire.nStores = g.nStores ∧ g.retire.nCopies = g.nCopies ∧
      g.retire.nTiles = g.nTiles ∧ g.retire.nEst = g.nEst := by
    intro g
    unfold Flight.retire
    dsimp only
    by_cases h : g.stopped = true
    · simp only [h, if_true]
      exact stop _
    · simp only [h, Bool.false_eq_true, if_false, and_self]
  have tick : ∀ g : Flight, g.tickTimer.nLoads = g.nLoads ∧ g.tickTimer.nStores = g.nStores ∧ g.tickTimer.nCopies = g.nCopies ∧
      g.tickTimer.nTiles = g.nTiles ∧ g.tickTimer.nEst = g.nEst := by
    intro g
    unfold Flight.tickTimer
    split
    · exact ⟨rfl, rfl, rfl, rfl, rfl⟩
    · split <;> exact ⟨rfl, rfl, rfl, rfl, rfl⟩
  unfold State.retired
  dsimp only
  split
  · obtain ⟨a1, a2, a3, a4, a5⟩ := key f
    obtain ⟨b1, b2, b3, b4, b5⟩ := tick { f.retire with skid := if s.halting r then f.skid + 1 else f.skid }
    exact ⟨b1.trans a1, b2.trans a2, b3.trans a3, b4.trans a4, b5.trans a5⟩
  · exact key f

/-- A flight that retires keeps what it holds. -/
theorem retired_reads (s : State) (r : FlightRef) (f : Flight) :
    (∀ k q, (s.retired r f).v k q = f.v k q) ∧ (∀ q, (s.retired r f).s q = f.s q) ∧
    (∀ k i, (s.retired r f).p k i = f.p k i) ∧ (∀ i, (s.retired r f).q i = f.q i) := by
  obtain ⟨a, b, c, d, -⟩ := State.retired_kept s r f
  exact ⟨(vs_congr a b).1, (vs_congr a b).2, (pq_congr c d).1, (pq_congr c d).2⟩

/-- What a lane-by-lane body does to its flight, once it has retired, and whatever else the instruction does to RNGCTR. -/
theorem laneStep_effect (s : State) (r : FlightRef) (f : Flight) (g : BitVec 4) (k : Dword) (out : Nat → LaneOut)
    (hs : ∀ l ∈ f.acting g, (out l).Sound) :
    Lanes f (s.retired r { f.laneStep g out with rngctr := f.rngctr + k }) g k out := by
  have hlike : f.Like (f.laneStep g out) := applyAll_like _ f f.uniPath
  obtain ⟨h1, h2, h3, h4, h5, h6, h7⟩ := applyAll_effect (f.acting g) f f.uniPath out hs (acting_nodup f g) (acting_lt f g) (acting_uni f g)
  have hdef : f.laneStep g out = f.applyAll f.uniPath ((f.acting g).map (fun l => (l, out l))) := rfl
  rw [← hdef] at h1 h2 h3 h4 h5 h6 h7
  obtain ⟨rv, rs, rp, rq⟩ := retired_reads s r { f.laneStep g out with rngctr := f.rngctr + k }
  obtain ⟨-, -, -, -, k5, k6, k7, k8, k9, k10, k11, k12, k13⟩ := State.retired_kept s r { f.laneStep g out with rngctr := f.rngctr + k }
  obtain ⟨c1, c2, c3, c4, c5⟩ := retired_counts s r { f.laneStep g out with rngctr := f.rngctr + k }
  have like : ∀ {β : Type} (q : Flight → β), (∀ x y : Flight, x.Like y → q y = q x) → q (f.laneStep g out) = q f := fun q h => h _ _ hlike
  refine ⟨?_, ?_, ?_, ?_, ?_, ?_, k5.trans h7, k8.trans (like (·.cb) (fun x y h => by rw [h])), k10, ?_⟩
  · intro l hl p hp
    have := h1 l hl p hp
    revert this
    cases f.uniPath <;> simp [reg, rv, rs] <;> exact id
  · intro l q hq h; rw [rv]; exact h2 l q hq h
  · intro q h; rw [rs]; exact h3 q h
  · intro l hl p hp hi
    have := h4 l hl p hp hi
    revert this
    cases f.uniPath <;> simp [prd, rp, rq] <;> exact id
  · intro l i hl h; rw [rp]; exact h5 l i hl h
  · intro i h; rw [rq]; exact h6 i h
  · refine ⟨k6.trans (like (·.mr) (fun x y h => by rw [h])), k7.trans (like (·.exited) (fun x y h => by rw [h])),
      k9.trans (like (·.tids) (fun x y h => by rw [h])), k12.trans (like (·.accs) (fun x y h => by rw [h])),
      k11.trans (like (·.peer) (fun x y h => by rw [h])), c1.trans (like (·.nLoads) (fun x y h => by rw [h])),
      c2.trans (like (·.nStores) (fun x y h => by rw [h])), c3.trans (like (·.nCopies) (fun x y h => by rw [h])),
      c4.trans (like (·.nTiles) (fun x y h => by rw [h])), c5.trans (like (·.nEst) (fun x y h => by rw [h])),
      k13.trans ?_⟩
    show (f.laneStep g out).retired + 1 = f.retired + 1
    rw [like (·.retired) (fun x y h => by rw [h])]

theorem retire_eq (s : State) (r : FlightRef) (f : Flight) : s.retire r f = s.setFlight r (s.retired r f) := rfl

theorem with_rngctr (f : Flight) (k : Dword) (h : f.rngctr = k) : { f with rngctr := k } = f := by subst h; rfl

/-- Every lane-by-lane instruction completes with the results of its body, whatever the results are, as long as they name registers that
exist and none of them twice. -/
theorem lanewise_completes {i : Instr} {g : BitVec 4} {body out : Flight → Nat → LaneOut} (hi : ∀ s, exec i s = lanewise g body s)
    (hb : ∀ f l, body f l = out f l) (hs : ∀ f l, (out f l).Sound) : LaneWise i g out := by
  intro s r f h
  have e : body f = out f := funext (hb f)
  refine ⟨s.retired r (f.laneStep g (out f)), ?_, ?_⟩
  · rw [hi, lanewise_next h, retire_eq, e]
  · have hlike : f.Like (f.laneStep g (out f)) := applyAll_like _ f f.uniPath
    have hr : (f.laneStep g (out f)).rngctr = f.rngctr := by rw [hlike]
    have := laneStep_effect s r f g 0 (out f) (fun l _ => hs f l)
    have e2 := with_rngctr (f.laneStep g (out f)) (f.rngctr + 0) (by rw [hr]; simp)
    rwa [e2] at this

theorem sound_w32 (d : Byte) (x : Word) (fl : Byte) : (w32 d x fl).Sound := by
  refine ⟨?_, by simp [w32], by simp [w32]⟩
  have := d.isLt
  intro p hp
  simp [w32] at hp
  subst hp
  exact this

theorem sound_w64 (d : Byte) (x : Dword) (fl : Byte) (h : EvenReg d) : (w64 d x fl).Sound := by
  have := d.isLt
  unfold EvenReg at h
  refine ⟨?_, by simp [w64], by simp [w64]⟩
  intro p hp
  simp [w64] at hp
  rcases hp with rfl | rfl <;> simp <;> omega

theorem sound_w1 (d : Nat) (b : Bool) (fl : Byte) : (w1 d b fl).Sound := by simp [w1, LaneOut.Sound]

end Sys2Proof.Machine
end

