-- ==== Sys2Proof/Laws/Pages.lean ====
section
/-! SUPPORT. Translation of the bytes of one page: they share their leaf, so that a range inside a page is read at adjacent places. -/

namespace Sys2Proof.Laws

open Sys2Proof.Machine

theorem tableIndex_page {a b : Nat} (h : a / 4096 = b / 4096) (lvl : Nat) : tableIndex a lvl = tableIndex b lvl := by
  have e : ∀ x : Nat, x / 2 ^ (12 + 9 * lvl) = x / 4096 / 2 ^ (9 * lvl) := fun x => by
    rw [Nat.pow_add, ← Nat.div_div_eq_div_mul]
  unfold tableIndex bits
  rw [e a, e b, h]

theorem walkGo_page {mem : List Host.Cell} {tab : Nat → Except WalkErr Nat} {stage a b : Nat} (h : a / 4096 = b / 4096) :
    ∀ n table lvl x, walkGo mem tab stage a n table lvl = .ok x → walkGo mem tab stage b n table lvl = .ok x := by
  intro n
  induction n with
  | zero => intro table lvl x hx; simp [walkGo] at hx
  | succ n ih =>
    intro table lvl x hx
    simp only [walkGo] at hx ⊢
    rw [tableIndex_page h.symm lvl]
    split at hx
    · simp at hx
    · rename_i k hk
      split at hx
      · simp at hx
      · rename_i h1
        rw [if_neg h1]
        split at hx
        · simp at hx
        · rename_i h2
          rw [if_neg h2]
          split at hx
          · rename_i h3; rw [if_pos h3]; exact hx
          · rename_i h3; rw [if_neg h3]; exact ih _ _ _ hx

theorem leafOf_page {a b : Nat} (h : a / 4096 = b / 4096) (e lvl : Nat) : leafOf e lvl a = leafOf e lvl b := by
  have hn : ∃ m, pageBits e lvl = 12 + m := by
    unfold pageBits
    split
    · exact ⟨18, rfl⟩
    · split
      · exact ⟨9, rfl⟩
      · split
        · exact ⟨4, rfl⟩
        · exact ⟨0, rfl⟩
  obtain ⟨m, hm⟩ := hn
  have key : ∀ x : Nat, x % 2 ^ (12 + m) = 4096 * (x / 4096 % 2 ^ m) + x % 4096 := fun x => by
    rw [Nat.pow_add, show 2 ^ 12 = 4096 from rfl, Nat.mod_mul]
    omega
  have base : bits e 39 12 * 4096 - bits e 39 12 * 4096 % 2 ^ (12 + m) =
      4096 * (bits e 39 12 - bits e 39 12 % 2 ^ m) := by
    rw [Nat.pow_add, show 2 ^ 12 = 4096 from rfl, Nat.mul_comm (bits e 39 12) 4096, Nat.mul_mod_mul_left, Nat.mul_sub]
  unfold leafOf
  simp only [hm, key a, key b, base, h]
  congr 1
  omega

theorem stage2_page {s : State} {t : TransCtx} {a b : Nat} (h : a / 4096 = b / 4096) {l : Leaf} (hl : s.stage2 t a = .ok l) :
    s.stage2 t b = .ok l := by
  unfold State.stage2 at *
  split at hl
  · simp at hl
  · rename_i e lvl hw
    rw [walkGo_page h _ _ _ _ hw]
    dsimp only
    rw [← leafOf_page h]; exact hl

theorem leafOf_base (e lvl va : Nat) : (leafOf e lvl va).base % 4096 = 0 := by
  show (_ - _ % 4096) % 4096 = 0
  omega

/-- The walks of two addresses of one page end in one leaf. -/
theorem walk_page {s : State} {part : Nat} {t : TransCtx} {a b : Nat} (h : a / 4096 = b / 4096) {l : Leaf} (hl : s.walk part t a = .ok l) :
    s.walk part t b = .ok l := by
  unfold State.walk at *
  split at hl
  · simp at hl
  · rename_i e lvl hw
    rw [walkGo_page h _ _ _ _ hw]
    dsimp only at hl ⊢
    rw [← leafOf_page h]
    split at hl
    · rename_i h2
      rw [if_pos h2]
      have z := leafOf_base e lvl a
      split at hl
      · simp at hl
      · rename_i l2 hs
        rw [stage2_page (by omega) hs]
        exact hl
    · rename_i h2; rw [if_neg h2]; exact hl

/-- The bytes of a page have one leaf. -/
theorem leaf_page {s : State} {part ctx : Nat} {a b : Dword} (h : vaLocal a / 4096 = vaLocal b / 4096) {l : Leaf}
    (hl : s.leaf part ctx a = .ok l) : s.leaf part ctx b = .ok l := by
  have hw : unlocked (s.walk part (s.transOf part ctx) (vaLocal a)) = unlocked (s.walk part (s.transOf part ctx) (vaLocal b)) := by
    cases ha : s.walk part (s.transOf part ctx) (vaLocal a) with
    | ok w => rw [walk_page h ha]
    | error e =>
      cases hb : s.walk part (s.transOf part ctx) (vaLocal b) with
      | ok w => rw [walk_page h.symm hb] at ha; cases ha
      | error e' => rfl
  unfold State.leaf at *
  dsimp only at *
  rw [← h, ← hw]
  split at hl
  · split at hl
    · rename_i h1; rw [if_pos h1]; exact hl
    · rename_i h1; rw [if_neg h1]; exact walk_page h hl
  · exact walk_page h hl

/-- Every byte of a range inside one page is translated by the page's leaf. -/
theorem leaf_range {s : State} {part ctx va n : Nat} {l : Leaf} (hin : va % 4096 + n ≤ 4096) (htop : va + n ≤ 2 ^ 47)
    (hl : s.leaf part ctx (BitVec.ofNat 64 va) = .ok l) {i : Nat} (hi : i < n) :
    vaLocal (BitVec.ofNat 64 (va + i)) = va + i ∧ s.leaf part ctx (BitVec.ofNat 64 (va + i)) = .ok l := by
  have loc : ∀ i, i < n → vaLocal (BitVec.ofNat 64 (va + i)) = va + i := fun i hi => by
    unfold vaLocal bits; rw [BitVec.toNat_ofNat]; omega
  have h0 : vaLocal (BitVec.ofNat 64 va) = va := by simpa using loc 0 (by omega)
  exact ⟨loc i hi, leaf_page (by rw [h0, loc i hi]; omega) hl⟩

/-- The bytes of a range inside one page of this device, all served, that the page permits lie side by side at the page's frame. -/
theorem vaKeys_page {s : State} {part ctx va n : Nat} {l : Leaf} {need : Need} (hin : va % 4096 + n ≤ 4096) (htop : va + n ≤ 2 ^ 47)
    (hdev : s.image.devIdx = 0) (hl : s.leaf part ctx (BitVec.ofNat 64 va) = .ok l) (hp : l.permits need = true)
    (hm : ∀ i, i < n → s.mappable part (l.base + (va % 4096 + i)) = true) :
    s.vaKeys part ctx va n need = some ((List.range n).map (fun i => l.base + va % 4096 + i)) := by
  have key : ∀ i, i < n → s.vaKey part ctx (va + i) need = some (l.base + va % 4096 + i) := fun i hi => by
    obtain ⟨hloc, hpage⟩ := leaf_range hin htop hl hi
    have hd : vaDev (BitVec.ofNat 64 (va + i)) = 0 := by unfold vaDev bits; rw [BitVec.toNat_ofNat]; omega
    have hoff : l.base + (va + i) % 4096 = l.base + (va % 4096 + i) := by omega
    unfold State.vaKey State.translate
    dsimp only
    rw [if_neg (by rw [hd, hdev]; simp; omega), hpage]
    dsimp only
    rw [hloc, hoff, if_pos (by simp [hp, hm i hi])]
    simp [Nat.add_assoc]
  have all : ∀ m, m ≤ n → (List.range m).mapM (fun i => s.vaKey part ctx (va + i) need) =
      some ((List.range m).map (fun i => l.base + va % 4096 + i)) := by
    intro m
    induction m with
    | zero => intro _; rfl
    | succ m ih => intro hm'; rw [List.range_succ, List.mapM_append, ih (by omega)]; simp [key m (by omega)]
  exact all n (Nat.le_refl n)

/-- A range inside one page that is no SPAN page is reached whatever planes are live. -/
theorem spanCut_page {s : State} {part ctx va n : Nat} {l : Leaf} (hin : va % 4096 + n ≤ 4096) (htop : va + n ≤ 2 ^ 47)
    (hl : s.leaf part ctx (BitVec.ofNat 64 va) = .ok l) (hspan : l.span = false) : s.spanCut part ctx va n = false := by
  unfold State.spanCut
  rw [Bool.and_eq_false_iff]
  refine Or.inr (List.any_eq_false.2 (fun i hi => ?_))
  rw [(leaf_range hin htop hl (List.mem_range.1 hi)).2]
  simp [hspan]

/-- A read inside one page of this device, whose bytes are all served, reads adjacent bytes at the page's frame. -/
theorem readVa_page {s : State} {part ctx va n : Nat} {l : Leaf} (hin : va % 4096 + n ≤ 4096) (htop : va + n ≤ 2 ^ 47)
    (hdev : s.image.devIdx = 0) (hl : s.leaf part ctx (BitVec.ofNat 64 va) = .ok l) (hr : l.r = true)
    (hspan : l.span = false) (hm : ∀ i, i < n → s.mappable part (l.base + (va % 4096 + i)) = true) :
    s.readVa part ctx va n = some (readBytes s.mem (l.base + va % 4096) n) := by
  unfold State.readVa readBytes
  rw [vaKeys_page hin htop hdev hl (by simp [Leaf.permits, hr]) hm, spanCut_page hin htop hl hspan]
  simp [List.map_map, Function.comp_def]

/-- Every address of a die has a home slice once the partition owns a slice of the die (R187). -/
theorem homeSlice_isSome {d : PartDesc} {pa i : Nat} (h : i ∈ d.slicesOn (paDie pa)) : (d.homeSlice pa).isSome = true := by
  have hl : 0 < (d.slicesOn (paDie pa)).length := List.length_pos_of_mem h
  unfold PartDesc.homeSlice
  rw [List.getElem?_eq_getElem (Nat.lt_of_lt_of_le (Nat.mod_lt _ (by omega)) (by omega))]
  rfl

/-- Low memory of a partition that holds the first slice and pseudo-channel of die 0, outside the twin window and the count plane. -/
theorem mappable_low {s : State} {part pa : Nat} (hpa : pa < 1000000000) (hc : (s.part part).desc.pchan.getLsbD 0 = true)
    (hs : (s.part part).desc.slices.getLsbD 0 = true) (hb : s.badChans = 0) (h1 : 1000000000 ≤ s.image.twlo.getD 0 0)
    (h2 : 1000000000 ≤ s.image.cpbase.getD 0 0) : s.mappable part pa = true := by
  have hd : paDie pa = 0 := by unfold paDie bits; omega
  have hch : paChan pa = 0 := by unfold paChan bits; omega
  have hh : ((s.part part).desc.homeSlice pa).isSome = true :=
    homeSlice_isSome (i := 0) (by rw [hd]; exact List.mem_filter.2 ⟨by simp, hs⟩)
  unfold State.mappable State.served PartDesc.serves paPopulated State.inTwinWindow State.inCountPlane
  rw [hd, hch, hb, hh]
  rw [List.getD_eq_getElem?_getD] at h1 h2
  simp [hc]
  omega

end Sys2Proof.Laws
end

