-- ==== Sys2Proof/Tests/Slice0.lean ====
section
/-! SUPPORT. Tests: ill-formed instructions are refused, words written out from the spec's encodings decode, single instructions and events
give the values worked out by hand from the spec, and every statement's hypotheses are met by a concrete state. -/

namespace Sys2Proof.Tests
set_option Elab.async false

open Sys2Proof Sys2Proof.Machine Sys2Proof.Claim

/-! ### Small states -/

/-- One workgroup of one flight, which has the issue and stands at a NOP. -/
def W : State := State.reset.withFetchWord 64 0x0170000000000000
def R : FlightRef := .wg 1 0
def F : Flight := (W.flight? R).getD default
def G : Wg := (look W.wgs 1).getD default
def L : Launch := (look W.launches 1).getD default
def C : Clause := oneWord 0 0x0170000000000000

/-- W with its flight, workgroup, launch, partition or context changed. -/
def withF (h : Flight → Flight) : State := W.modFlight R h
def withG (h : Wg → Wg) : State := W.modWg 1 h
def withL (h : Launch → Launch) : State := W.modLaunch 1 h
def withP (h : Part → Part) : State := W.modPart 0 h
def withC (h : Ctx → Ctx) : State := W.modCtx 0 0 h

/-- W with a second flight of its workgroup, changed. -/
def two (h : Flight → Flight) : State := withG (fun g => { g with flights := [F, h F] })

/-- W with a control program on die 0 that has the issue. -/
def K : State := { withP (fun p => { p with ctls := [(0, { ctx := 0, cmdSeq := 0, flight := F, halted := false, entryAt := none })] }) with
  cur := some (.ctl 0 0) }

/-- The flight after an instruction on W, changed first. -/
def after (h : Flight → Flight) (i : Instr) : Flight :=
  match exec i (withF h) with
  | .next t => (t.flight? R).getD default
  | _ => default

/-- Registers of lane 0 and uniform registers set. -/
def setV0 (ps : List (Nat × Word)) (f : Flight) : Flight := ps.foldl (fun f p => f.setV 0 p.1 p.2) f
def setS (ps : List (Nat × Word)) (f : Flight) : Flight := ps.foldl (fun f p => f.setS p.1 p.2) f

/-- A V-format instruction of lane registers with guard p7. -/
def vop (d a b c : Byte) (f : BitVec 5 := 0) : VFmt := ⟨7, d, a, b, c, 0, false, false, false, f⟩


/-! ### Well-formedness: one ill-formed term for each check, refused (R42) -/

def mix : DecodeCtx := { cls := .mix, alloc := 32 }
def uni : DecodeCtx := { cls := .uni, alloc := 32 }

theorem test_wellformed_iadd : WellFormed mix (.iadd (vop 3 1 2 0)) = true := by decide +kernel
theorem test_ill_unused_field : illegal mix (.iadd (vop 3 1 2 9)) = some 2 := by decide +kernel
theorem test_ill_flag_bits : illegal mix (.iadd (vop 3 1 2 0 0x10)) = some 2 := by decide +kernel
theorem test_ill_predicate_field : illegal mix (.icmp (vop 9 1 2 0)) = some 2 := by decide +kernel
theorem test_ill_k_on_code : illegal mix (.sel { vop 3 1 2 1 with kc := true }) = some 2 := by decide +kernel
theorem test_ill_modifier_unused : illegal mix (.not { vop 3 1 0 0 with m := 4 }) = some 2 := by decide +kernel
theorem test_ill_table_low_bits : illegal mix (.trio { vop 3 1 2 4 with m := 1 }) = some 2 := by decide +kernel
theorem test_ill_vreg_range : illegal mix (.iadd (vop 32 1 2 0)) = some 3 := by decide +kernel
theorem test_ill_sreg_range : illegal mix (.iadd { vop 3 160 2 0 with ka := true }) = some 3 := by decide +kernel
theorem test_ill_odd_pair : illegal mix (.iadd64 (vop 3 2 4 0)) = some 3 := by decide +kernel
theorem test_ill_k_in_uni : illegal uni (.iadd { vop 3 1 2 0 with ka := true }) = some 3 := by decide +kernel
theorem test_ill_rng_in_uni : illegal uni (.rng (vop 4 0 0 0)) = some 3 := by decide +kernel
theorem test_ill_rounding : illegal mix (.fadd (vop 3 1 2 0 5)) = some 4 := by decide +kernel
theorem test_ill_condition : illegal mix (.icmp (vop 1 1 2 0 6)) = some 4 := by decide +kernel
theorem test_ill_modifier : illegal mix (.iadd { vop 3 1 2 0 with m := 1 }) = some 4 := by decide +kernel
theorem test_ill_format_pair : illegal mix (.cvtff (vop 3 1 0 0xB0)) = some 4 := by decide +kernel
theorem test_ill_saturating_format : illegal mix (.cvtff (vop 3 1 0 0x30 8)) = some 4 := by decide +kernel
theorem test_ill_reduction : illegal mix (.redux (vop 3 1 0 0 0x18)) = some 4 := by decide +kernel
theorem test_ill_imm_width : illegal mix (.shi ⟨7, 3, 1, false, 0, 32⟩) = some 2 := by decide +kernel
theorem test_ill_f3 : illegal mix (.iaddi ⟨7, 3, 1, false, 4, 0⟩) = some 2 := by decide +kernel
theorem test_ill_selector : illegal mix (.gets ⟨7, 3, 0, false, 0, 17⟩) = some 4 := by decide +kernel
theorem test_ill_mem_reserved : illegal mix (.ld ⟨7, 3, 1, 32, 0, 0, 2, 0, 1, 0⟩) = some 2 := by decide +kernel
theorem test_ill_mem_s_in_scratch : illegal mix (.ld ⟨7, 3, 1, 32, 0, 1, 2, 0, 0, 0⟩) = some 2 := by decide +kernel
theorem test_ill_mem_record_align : illegal mix (.ld ⟨7, 3, 1, 36, 0, 0, 2, 0, 0, 0⟩) = some 3 := by decide +kernel
theorem test_ill_mem_span : illegal mix (.ld ⟨7, 30, 1, 32, 0, 0, 4, 0, 0, 0⟩) = some 3 := by decide +kernel
theorem test_ill_mem_space : illegal mix (.ld ⟨7, 3, 1, 0, 0, 5, 2, 0, 0, 0⟩) = some 4 := by decide +kernel
theorem test_ill_mem_policy : illegal mix (.ld ⟨7, 3, 1, 0, 0, 1, 2, 1, 0, 0⟩) = some 4 := by decide +kernel
theorem test_ill_sign_extended_word : illegal mix (.ld ⟨7, 3, 1, 32, 0, 0, 2, 0, 0, 2⟩) = some 4 := by decide +kernel
theorem test_ill_atom : illegal mix (.atom ⟨7, 3, 1, 32, 0, 0, 2, 0, 0, 7⟩) = some 4 := by decide +kernel
theorem test_ill_eng_field : illegal mix (.cpy ⟨7, 4, 64, 8, 1, 9, 0, false, 0⟩) = some 2 := by decide +kernel
theorem test_ill_eng_span : illegal mix (.cpy ⟨7, 4, 140, 8, 0, 9, 0, false, 0⟩) = some 3 := by decide +kernel
theorem test_ill_eng_ru : illegal mix (.accz ⟨7, 0, 0, 0, 0, 0, 0, true, 0⟩) = some 2 := by decide +kernel
theorem test_ill_interval : illegal mix (.mxchk ⟨7, 0, 0, false, 0, 65536⟩) = some 4 := by decide +kernel
theorem test_ill_branch_link : illegal mix (.call ⟨7, 3, 0, 0⟩) = some 3 := by decide +kernel
theorem test_ill_branch_offset : illegal mix (.ret ⟨7, 4, 0, 1⟩) = some 2 := by decide +kernel
theorem test_ill_sortk_guard : illegal mix (.sortk { vop 0 1 2 0 with g := 3, kb := true }) = some 4 := by decide +kernel
theorem test_ill_codebook_in_lanes : illegal mix (.cbld (vop 0 8 0 0)) = some 2 := by decide +kernel
theorem test_ill_csig_bits : illegal mix (.csig ⟨7, 4, 0, 0, 0, 5, 4, false, 0⟩) = some 2 := by decide +kernel

/-! ### Words written out from the encodings of R36–R50 -/

theorem test_decode_movi : decodeTableWord 64 0x037080005F5F5F5F = some (.movi ⟨7, 8, 0, false, 0, 0x5F5F5F5F⟩) := by decide +kernel
theorem test_decode_lea64 : decodeTableWord 64 0x1171A00730000000 = some (.lea64 ⟨7, 0x1A, 0, 0x73, 0, 0, false, false, false, 0⟩) := by decide +kernel
theorem test_decode_shf : decodeTableWord 64 0x1C72D1A1B1100001 = some (.shf ⟨7, 0x2D, 0x1A, 0x1B, 0x11, 0, false, false, false, 1⟩) := by decide +kernel
theorem test_decode_sclq : decodeTableWord 64 0x5571408007100000 = some (.sclq ⟨7, 0x14, 8, 0, 0x71, 0, false, false, false, 0⟩) := by decide +kernel
theorem test_decode_packn : decodeTableWord 64 0x5371808147000000 = some (.packn ⟨7, 0x18, 8, 0x14, 0x70, 0, false, false, false, 0⟩) := by decide +kernel
theorem test_decode_unpkn : decodeTableWord 64 0x5472018140700000 = some (.unpkn ⟨7, 0x20, 0x18, 0x14, 7, 0, false, false, false, 0⟩) := by decide +kernel
theorem test_decode_vote : decodeTableWord 64 0x6170501000000002 = some (.vote ⟨7, 5, 1, 0, 0, 0, false, false, false, 2⟩) := by decide +kernel
theorem test_decode_meet : decodeTableWord 64 0x677060000000000C = some (.meet ⟨7, 6, 0, 12⟩) := by decide +kernel
theorem test_decode_setmr : decodeTableWord 64 0x6870006000000000 = some (.setmr ⟨7, 0, 6, 0, 0, 0, false, false, false, 0⟩) := by decide +kernel
theorem test_decode_bra : decodeTableWord 64 0xC010000000000009 = some (.bra ⟨1, 0, 0, 9⟩) := by decide +kernel
theorem test_decode_st : decodeTableWord 64 0x7170401000001000 = some (.st ⟨7, 4, 1, 0, 0, 0, 4, 0, 0, 0⟩) := by decide +kernel
theorem test_decode_twctl : decodeTableWord 64 0x7570001100000800 = some (.twctlReset ⟨7, 0, 1, 0x10, 0, 0, 2, 0, 0, 0⟩) := by decide +kernel
theorem test_decode_seal : decodeTableWord 64 0x7B72830000000000 = some (.seal ⟨7, 0x28, 0x30, 0, 0, 0, 0, false, 0⟩) := by decide +kernel
theorem test_decode_fencex : decodeTableWord 64 0x8170000000000042 = some (.fencex ⟨7, 0, 0, false, 0, 0x42⟩) := by decide +kernel
theorem test_decode_fencep : decodeTableWord 64 0x8271800000000000 = some (.fencep ⟨7, 0x18, 0, false, 0, 0⟩) := by decide +kernel
theorem test_decode_npbegin : decodeTableWord 64 0x8670000000000000 = some (.npbegin ⟨7, 0, 0, 0, 0, 0, false, false, false, 0⟩) := by decide +kernel
theorem test_decode_cpy : decodeTableWord 64 0x9071440280029000 = some (.cpy ⟨7, 0x14, 0x40, 0x28, 0, 0x29, 0, false, 0⟩) := by decide +kernel
theorem test_decode_mma_ru : decodeTableWord 64 0xA070040282000008 = some (.mma ⟨7, 0, 0x40, 0x28, 0x20, 0, 0, true, 0⟩) := by decide +kernel
theorem test_decode_mmas : decodeTableWord 64 0xA170040282008040 = some (.mmas ⟨7, 0, 0x40, 0x28, 0x20, 8, 4, false, 0⟩) := by decide +kernel
theorem test_decode_accz : decodeTableWord 64 0xA270000000000020 = some (.accz ⟨7, 0, 0, 0, 0, 0, 2, false, 0⟩) := by decide +kernel
theorem test_decode_accst : decodeTableWord 64 0xA370044290000001 = some (.accst ⟨7, 0, 0x44, 0x29, 0, 0, 0, false, 1⟩) := by decide +kernel
theorem test_decode_draw : decodeTableWord 64 0xB071400001002010 = some (.draw ⟨7, 0x14, 0, 0, 0x10, 2, 1, false, 0⟩) := by decide +kernel
theorem test_decode_esmp : decodeTableWord 64 0xB171500001014030 = some (.esmp ⟨7, 0x15, 0, 0, 0x10, 0x14, 3, false, 0⟩) := by decide +kernel
theorem test_decode_esmp_post : decodeTableWord 64 0xB170000001014100 = some (.esmpPost ⟨7, 0, 0, 0, 0x10, 0x14, 0x10, false, 0⟩) := by decide +kernel
theorem test_decode_estat : decodeTableWord 64 0xB272000000000010 = some (.estat ⟨7, 0x20, 0, 0, 0, 0, 1, false, 0⟩) := by decide +kernel
theorem test_decode_trap : decodeTableWord 64 0xE070000000001234 = some (.trap ⟨7, 0, 0, false, 0, 0x1234⟩) := by decide +kernel
theorem test_decode_mxchk : decodeTableWord 64 0xE870000000000040 = some (.mxchk ⟨7, 0, 0, false, 0, 64⟩) := by decide +kernel
theorem test_decode_reserved : decodeTableWord 64 0xFF70000000000000 = none := by decide +kernel

/-! ### Single instructions on lane 0, by hand from their rules -/

theorem test_iadd_wraps : (after (setV0 [(1, 0xFFFFFFFF), (2, 2)]) (.iadd (vop 3 1 2 0))).v 0 3 = 1 := by decide +kernel
theorem test_iadd_sat : (after (setV0 [(1, 0x7FFFFFFF), (2, 1)]) (.iadd (vop 3 1 2 0 3))).v 0 3 = 0x7FFFFFFF ∧
    (after (setV0 [(1, 0x7FFFFFFF), (2, 1)]) (.iadd (vop 3 1 2 0 3))).fsr = 0x20 := by decide +kernel
theorem test_isub_sat_unsigned : (after (setV0 [(1, 1), (2, 2)]) (.isub (vop 3 1 2 0 2))).v 0 3 = 0 := by decide +kernel
theorem test_iaddi_own_source : (after (setV0 [(1, 5)]) (.iaddi ⟨7, 1, 1, false, 0, 0xFFFFFFFE⟩)).v 0 1 = 3 := by decide +kernel
theorem test_iadd64_carry : (after (setV0 [(2, 0xFFFFFFFF), (4, 1)]) (.iadd64 (vop 6 2 4 0))).v 0 7 = 1 := by decide +kernel
theorem test_isub64_borrow : (after (setV0 [(4, 1)]) (.isub64 (vop 6 2 4 0))).v 0 7 = 0xFFFFFFFF := by decide +kernel
theorem test_iaddc_carry : (after (setV0 [(1, 0xFFFFFFFF), (2, 0), (3, 1)]) (.iaddc (vop 6 1 2 3))).v 0 7 = 1 := by decide +kernel
theorem test_iaddc_borrow : (after (setV0 [(1, 0), (2, 1), (3, 0)]) (.iaddc (vop 6 1 2 3 1))).v 0 6 = 0xFFFFFFFF := by decide +kernel
theorem test_imul_low : (after (setV0 [(1, 0x10000), (2, 0x10001)]) (.imul (vop 3 1 2 0))).v 0 3 = 0x10000 := by decide +kernel
theorem test_imulh_signed : (after (setV0 [(1, 0xFFFFFFFF), (2, 2)]) (.imulh (vop 3 1 2 0 1))).v 0 3 = 0xFFFFFFFF := by decide +kernel
theorem test_imad : (after (setV0 [(1, 3), (2, 4), (3, 5)]) (.imad (vop 6 1 2 3))).v 0 6 = 17 := by decide +kernel
theorem test_imadw_high : (after (setV0 [(1, 0x80000000), (2, 2), (4, 7)]) (.imadw (vop 6 1 2 4))).v 0 7 = 1 := by decide +kernel
theorem test_idot4_mixed : (after (setV0 [(1, 0x000000FF), (2, 0x000000FF), (3, 10)]) (.idot4 (vop 6 1 2 3 1))).v 0 6 = 0xFFFFFF0B := by decide +kernel
theorem test_iminmax_signed : (after (setV0 [(1, 0xFFFFFFFF), (2, 1)]) (.iminmax (vop 3 1 2 0 1))).v 0 3 = 0xFFFFFFFF := by decide +kernel
theorem test_iabs_min : (after (setV0 [(1, 0x80000000)]) (.iabsneg (vop 3 1 0 0 2))).v 0 3 = 0x7FFFFFFF := by decide +kernel
theorem test_lea64_sign : (after (setV0 [(2, 0x100), (1, 0xFFFFFFFF)]) (.lea64 (vop 6 2 1 0 0xA))).v 0 6 = 0xFC := by decide +kernel
theorem test_andn : (after (setV0 [(1, 0xFF), (2, 0x0F)]) (.andn (vop 3 1 2 0))).v 0 3 = 0xF0 := by decide +kernel
theorem test_trio_majority : (after (setV0 [(1, 0b0011), (2, 0b0101), (3, 0b0110)]) (.trio { vop 6 1 2 3 with m := 0xE80 })).v 0 6 = 0b0111 := by decide +kernel
theorem test_shl_modulo : (after (setV0 [(1, 1), (2, 33)]) (.shl (vop 3 1 2 0))).v 0 3 = 2 := by decide +kernel
theorem test_shl_clamp : (after (setV0 [(1, 1), (2, 33)]) (.shl (vop 3 1 2 0 1))).v 0 3 = 0 := by decide +kernel
theorem test_shra_clamp : (after (setV0 [(1, 0x80000000), (2, 40)]) (.shra (vop 3 1 2 0 1))).v 0 3 = 0xFFFFFFFF := by decide +kernel
theorem test_rotl : (after (setV0 [(1, 0x80000001), (2, 1)]) (.rotl (vop 3 1 2 0))).v 0 3 = 3 := by decide +kernel
theorem test_shf_right : (after (setV0 [(1, 0x00000000), (2, 1), (3, 4)]) (.shf (vop 6 1 2 3 1))).v 0 6 = 0x10000000 := by decide +kernel
theorem test_bfx_signed : (after (setV0 [(1, 0xF0), (2, 0x404)]) (.bfx (vop 3 1 2 0 1))).v 0 3 = 0xFFFFFFFF := by decide +kernel
theorem test_bfi : (after (setV0 [(1, 0xFFFFFFFF), (2, 0), (3, 0x404)]) (.bfi (vop 6 1 2 3))).v 0 6 = 0xFFFFFF0F := by decide +kernel
theorem test_popc : (after (setV0 [(1, 0xF0F)]) (.popc (vop 3 1 0 0))).v 0 3 = 8 := by decide +kernel
theorem test_clz_zero : (after id (.clz (vop 3 1 0 0))).v 0 3 = 32 := by decide +kernel
theorem test_brev : (after (setV0 [(1, 1)]) (.brev (vop 3 1 0 0))).v 0 3 = 0x80000000 := by decide +kernel
theorem test_ffs_zero : (after id (.ffs (vop 3 1 0 0))).v 0 3 = 0xFFFFFFFF := by decide +kernel
theorem test_icmp_signed : (after (setV0 [(1, 0xFFFFFFFF), (2, 0)]) (.icmp (vop 1 1 2 0 0xA))).p 0 1 = true := by decide +kernel
theorem test_icmp_p7 : (after (setV0 [(1, 1)]) (.icmp (vop 7 1 2 0 0))).p 0 7 = true := by decide +kernel
theorem test_icmpi : (after (setV0 [(1, 4)]) (.icmpi ⟨7, 2, 1, false, 2, 5⟩)).p 0 2 = true := by decide +kernel
theorem test_sel : (after (fun f => (setV0 [(1, 5), (2, 6)] f).setP 0 3 true) (.sel (vop 3 1 2 3))).v 0 3 = 5 := by decide +kernel
theorem test_pmov_reads_p7 : (after (fun f => f.setP 0 2 true) (.pmov (vop 3 0 0 0))).v 0 3 = 4 := by decide +kernel
theorem test_guard_off : (after (setV0 [(1, 5), (2, 7)]) (.iadd { vop 3 1 2 0 with g := 0 })).v 0 3 = 0 := by decide +kernel
theorem test_guard_negated : (after (setV0 [(1, 5), (2, 7)]) (.iadd { vop 3 1 2 0 with g := 8 })).v 0 3 = 12 := by decide +kernel
theorem test_uniform_operand : (after (fun f => setV0 [(2, 1)] (setS [(20, 9)] f)) (.iadd { vop 3 20 2 0 with ka := true })).v 0 3 = 10 := by decide +kernel
theorem test_movi_pair : (after id (.movi ⟨7, 4, 0, false, 1, 0x80000000⟩)).v 0 5 = 0xFFFFFFFF := by decide +kernel
theorem test_mov_lift : (after (fun f => f.setV 31 1 3) (.movLift { vop 20 1 0 0 with g := 7, c := 2 })).s 20 = 0 := by decide +kernel
theorem test_retired : (after id (.nop (vop 0 0 0 0))).retired = 1 := by decide +kernel

theorem test_fadd_tie_even : (after (setV0 [(1, 0x3F800000), (2, 0x33800000)]) (.fadd (vop 3 1 2 0))).v 0 3 = 0x3F800000 := by decide +kernel
theorem test_fadd_up : (after (setV0 [(1, 0x3F800000), (2, 0x33800000)]) (.fadd (vop 3 1 2 0 2))).v 0 3 = 0x3F800001 := by decide +kernel
theorem test_fsub_inf_inf : (after (setV0 [(1, 0x7F800000), (2, 0x7F800000)]) (.fsub (vop 3 1 2 0))).v 0 3 = 0x7FC00000 ∧
    (after (setV0 [(1, 0x7F800000), (2, 0x7F800000)]) (.fsub (vop 3 1 2 0))).fsr = 1 := by decide +kernel
theorem test_fmul_subnormal : (after (setV0 [(1, 0x00800000), (2, 0x3F000000)]) (.fmul (vop 3 1 2 0))).v 0 3 = 0x00400000 := by decide +kernel
theorem test_fmul_overflow : (after (setV0 [(1, 0x7F7FFFFF), (2, 0x40000000)]) (.fmul (vop 3 1 2 0))).v 0 3 = 0x7F800000 ∧
    (after (setV0 [(1, 0x7F7FFFFF), (2, 0x40000000)]) (.fmul (vop 3 1 2 0))).fsr = 0x14 := by decide +kernel
theorem test_ffma_once : (after (setV0 [(1, 0x3F800001), (2, 0x3F800001), (3, 0xBF800002)]) (.ffma (vop 6 1 2 3))).v 0 6 = 0x28800000 := by decide +kernel
theorem test_fneg_nan : (after (setV0 [(1, 0xFF800001)]) (.fneg (vop 3 1 0 0))).v 0 3 = 0x7FC00000 := by decide +kernel
theorem test_fclass_subnormal : (after (setV0 [(1, 0x80000001)]) (.fclass (vop 3 1 0 0))).v 0 3 = 4 := by decide +kernel
theorem test_fcmp_nan : (after (setV0 [(1, 0x7FC00000), (2, 0)]) (.fcmp (vop 1 1 2 0 2))).p 0 1 = false := by decide +kernel
theorem test_hadd2 : (after (setV0 [(1, 0x3C003C00), (2, 0x40003C00)]) (.hadd2 (vop 3 1 2 0))).v 0 3 = 0x42004000 := by decide +kernel
theorem test_fdot2 : (after (setV0 [(1, 0x3C004000), (2, 0x40004200), (3, 0x3F800000)]) (.fdot2 (vop 6 1 2 3))).v 0 6 = 0x41100000 := by decide +kernel
theorem test_dadd : (after (setV0 [(3, 0x3FF00000), (5, 0x3FF00000)]) (.dadd (vop 6 2 4 0))).v 0 7 = 0x40000000 := by decide +kernel
theorem test_sqrt : (after (setV0 [(1, 0x40800000)]) (.sqrt (vop 3 1 0 0))).v 0 3 = 0x40000000 := by decide +kernel
theorem test_frnd_tie : (after (setV0 [(1, 0x40200000)]) (.frnd (vop 3 1 0 0))).v 0 3 = 0x40000000 := by decide +kernel
theorem test_cvtff_e4m3_max : (after (setV0 [(1, 0x447A0000)]) (.cvtff (vop 3 1 0 0x30))).v 0 3 = 0x7E ∧
    (after (setV0 [(1, 0x447A0000)]) (.cvtff (vop 3 1 0 0x30))).fsr = 0x34 := by decide +kernel
theorem test_cvtfi_int32 : (after (setV0 [(1, 0xC0200000)]) (.cvtfi (vop 3 1 0 0xA0 1))).v 0 3 = 0xFFFFFFFE := by decide +kernel
theorem test_cvtif_double : (after (setV0 [(1, 3)]) (.cvtif (vop 4 1 0 0x9A))).v 0 5 = 0x40080000 := by decide +kernel

/-! Rounding in the small formats: the tie table of R94 (E2M1), and the E3M2 group that R92 packs. -/
theorem test_tie_quarter : (Fmt.q4e2m1.round 0 false 0 ⟨false, 1, -2, false⟩).1 = 0 := by decide +kernel
theorem test_tie_three_quarters : (Fmt.q4e2m1.round 0 false 0 ⟨false, 3, -2, false⟩).1 = 2 := by decide +kernel
theorem test_tie_five : (Fmt.q4e2m1.round 0 false 0 ⟨false, 5, 0, false⟩).1 = 6 := by decide +kernel
theorem test_power_tie : (Fmt.q4pow.round 0 false 0 ⟨false, 1, -7, false⟩).1 = 0 := by decide +kernel
theorem test_e3m2_code : Fmt.e3m2.decode 0x3F = .fin ⟨true, 7, 2, false⟩ := by decide +kernel

theorem test_shuffle_exited : (after (fun f => { f with exited := 2 }) (.shfli (vop 3 1 2 0 3))).v 0 3 = 0 := by decide +kernel
theorem test_vote_mask : (after (fun f => (f.setP 0 1 true).setP 5 1 true) (.vote (vop 3 1 0 0 2))).v 9 3 = 0x21 := by decide +kernel
theorem test_redux_add : (after (fun f => (f.setV 0 1 3).setV 31 1 4) (.redux (vop 3 1 0 0))).v 7 3 = 7 := by decide +kernel
theorem test_scan_exclusive : (after (fun f => (f.setV 0 1 3).setV 1 1 4) (.scanx (vop 3 1 0 1))).v 1 3 = 3 := by decide +kernel
theorem test_elect : (after id (.elect (vop 1 0 0 0))).p 0 1 = true ∧ (after id (.elect (vop 1 0 0 0))).p 1 1 = false := by decide +kernel
theorem test_match : (after (fun f => f.setV 3 1 9) (.matchLanes (vop 3 1 0 0))).v 3 3 = 8 := by decide +kernel

theorem test_loop_last : (after (setS [(20, 1)]) (.loop ⟨7, 20, 0, 0xFFFFFFFFFE⟩)).s 20 = 0 ∧
    (after (setS [(20, 1)]) (.loop ⟨7, 20, 0, 0xFFFFFFFFFE⟩)).brMask = 0 := by decide +kernel
theorem test_call_link : (after id (.call ⟨7, 20, 0, 4⟩)).s64 20 = 16 ∧ (after id (.call ⟨7, 20, 0, 4⟩)).brTarget = 32 := by decide +kernel
theorem test_brax_misaligned : (after (setS [(20, 4)]) (.brax ⟨7, 20, 0, 0⟩)).cause = 3 := by decide +kernel
theorem test_meet : (after id (.meet ⟨7, 6, 0, 2⟩)).mr.getD 4 0 = 16 ∧ (after id (.meet ⟨7, 6, 0, 2⟩)).v64 4 6 = 0xFFFFFFFFFFFFFFFF := by decide +kernel
theorem test_exit_guarded : (after (fun f => f.setP 2 1 true) (.exit ⟨1, 0, 0, 0⟩)).exited = 4 := by decide +kernel

theorem test_gets_tid : (after id (.gets ⟨7, 3, 0, false, 0, 12⟩)).v 5 3 = 5 := by decide +kernel
theorem test_getsclr : (after (fun f => { f with fsr := 0x11 }) (.getsClr ⟨7, 3, 0, false, 1, 13⟩)).fsr = 0 := by decide +kernel
theorem test_trap_info : (after id (.trap ⟨7, 0, 0, false, 0, 0x1234⟩)).info = 0x1234 ∧ (after id (.trap ⟨7, 0, 0, false, 0, 0x1234⟩)).cause = 0x16 := by
  decide
theorem test_timer_zero : (after id (.timerArm ⟨7, 30, 0, false, 0, 0⟩)).tpend = true := by decide +kernel
theorem test_mxchk_priv : (after id (.mxchk ⟨0, 0, 0, false, 0, 4⟩)).cause = 4 := by decide +kernel
theorem test_mxchk_control : (match exec (.mxchk ⟨7, 0, 0, false, 0, 4⟩) K with
    | .next t => (t.die 0).mxchk
    | _ => 0) = 4 := by decide +kernel
theorem test_fencex_holds : (after (fun f => { f with nCopies := 1 }) (.fencex ⟨7, 0, 0, false, 0, 0x12⟩)).retired = 0 := by decide +kernel
theorem test_fencex_empty_late : (after (fun f => { f with nCopies := 1 }) (.fencex ⟨7, 0, 0, false, 0, 0x02⟩)).retired = 1 := by decide +kernel
theorem test_wait_all : (after (fun f => { f with nStores := 63 }) (.wait ⟨7, 0, 0, false, 0, 0xFFFFF⟩)).retired = 1 := by decide +kernel
theorem test_scratch_bounds : (after id (.ld ⟨7, 3, 0, 0, 0, 1, 2, 0, 0, 0⟩)).cause = 5 := by decide +kernel
theorem test_private_load : (after (setV0 [(1, 8)]) (.ld ⟨7, 3, 1, 0, 0, 4, 2, 0, 0, 0⟩)).nLoads = 1 := by decide +kernel
theorem test_spool_name_far : (after (setS [(20, 4), (21, 0)]) (.spwait ⟨7, 4, 0, 0, 0, 20, 0, false, 0⟩)).cause = 1 := by decide +kernel
theorem test_tokchk_without_buffer : (after id (.tokchk ⟨7, 4, 0, 0, 0, 0, 0, false, 0⟩)).cause = 0x1C := by decide +kernel
theorem test_draw_outside : (after id (.draw ⟨7, 4, 0, 0, 8, 1, 1, false, 0⟩)).cause = 0x1B := by decide +kernel
theorem test_accrel_unbound : (after id (.accrel ⟨7, 0, 0, 0, 0, 0, 2, false, 0⟩)).cause = 0x1A := by decide +kernel

/-! ### Witnesses: states and operands that meet the hypotheses of the statements -/

def isOk {ε α : Type} [DecidableEq α] (x : Except ε α) (a : α) : Bool := match x with
  | .ok b => decide (b = a)
  | .error _ => false
def isErr {ε α : Type} [DecidableEq ε] (x : Except ε α) (e : ε) : Bool := match x with
  | .error b => decide (b = e)
  | .ok _ => false
theorem ok_of {ε α : Type} [DecidableEq α] {x : Except ε α} {a : α} (h : isOk x a = true) : x = .ok a := by
  unfold isOk at h; split at h <;> simp_all
theorem err_of {ε α : Type} [DecidableEq ε] {x : Except ε α} {e : ε} (h : isErr x e = true) : x = .error e := by
  unfold isErr at h; split at h <;> simp_all
theorem idx_of {α : Type} {l : List α} {P : Nat → α → Prop} (h : ∀ p ∈ l.zipIdx, P p.2 p.1) : ∀ k x, l[k]? = some x → P k x :=
  fun k x hk => h (x, k) (by rw [List.mem_zipIdx_iff_getElem?]; exact hk)

/-- What every lane-by-lane, flight-wide and branch statement asks. -/
theorem witness_issue : W.issuer = some (R, F) ∧ F.clause = some C ∧ F.wait = .ready ∧ F.stopped = false ∧ look W.wgs 1 = some G ∧
    W.cur = some R ∧ G.flights[0]? = some F ∧ G.st = .running ∧ W.launchOf R = some L ∧ W.wgOf R = some G := by decide +kernel
theorem witness_control : K.issuer = some (.ctl 0 0, F) ∧ F.acting 7 ≠ [] ∧ F.acting 15 = [] ∧ 0 < K.dies.length := by decide +kernel
theorem witness_acting : F.acting 7 ≠ [] ∧ F.acting 15 = [] ∧ 31 ∈ F.acting 7 ∧ F.acting 7 = 0 :: (List.range 32).drop 1 := by decide +kernel
theorem witness_pairs : (0 : Byte).toNat % 2 = 0 ∧ (254 : Byte).toNat % 2 = 0 ∧ (252 : Byte).toNat + 4 ≤ 256 ∧ (248 : Byte).toNat + 8 ≤ 256 ∧ (254 : Byte).toNat + 1 < 256 := by
  decide
theorem witness_rounding : Fmt.fp32.isFloat = true ∧ magLe 1 0 (Fmt.fp32.maxMag false).1 (Fmt.fp32.maxMag false).2 = true ∧
    magLe (2 ^ 24 - 1) 104 (Fmt.fp32.maxMag true).1 (Fmt.fp32.maxMag true).2 = true ∧
    magLe (2 ^ 25 - 1) 103 (Fmt.fp32.maxMag true).1 (Fmt.fp32.maxMag true).2 = false ∧
    (Fmt.fp32.round 0 false 0 ⟨false, 3, -150, false⟩).1 = 2 ∧ Fmt.fp32.decode 2 = .fin ⟨false, 2, -149, false⟩ := by decide +kernel

/-- An instruction word that decodes to nothing, in the place of W's. -/
def Wx : State := State.reset.withFetchWord 64 0xFF70000000000000
def Fx : Flight := (Wx.flight? R).getD default

theorem witness_step : W.agenda = [] ∧ W.det R = false ∧ W.mayIssue R F = true ∧ W.seated R = true ∧ W.chooses R = true ∧ C.words[F.ix]? = some 0x0170000000000000 ∧
    decode F.dctx 0x0170000000000000 = .ok (.nop (vop 0 0 0 0 0)) := by
  refine ⟨?_, ?_, ?_, ?_, ?_, ?_, ok_of ?_⟩ <;> decide +kernel
theorem witness_step_illegal : Wx.agenda = [] ∧ Wx.issuer = some (R, Fx) ∧ Wx.det R = false ∧ Wx.mayIssue R Fx = true ∧ Wx.seated R = true ∧ Wx.chooses R = true ∧
    Fx.wait = .ready ∧ (Fx.clause.bind (fun c => c.words[Fx.ix]?)) = some 0xFF70000000000000 ∧
    decode Fx.dctx 0xFF70000000000000 = .error 1 := by
  refine ⟨?_, ?_, ?_, ?_, ?_, ?_, ?_, ?_, err_of ?_⟩ <;> decide +kernel
theorem witness_encoding : hasEncoding (.iadd (vop 31 1 2 0 3)) = true ∧ WellFormed mix (.iadd (vop 31 1 2 0 3)) = true ∧
    decode mix (encode (.iadd (vop 31 1 2 0 3))) = .ok (.iadd (vop 31 1 2 0 3)) := by
  refine ⟨?_, ?_, ok_of ?_⟩ <;> decide +kernel
theorem witness_memory_form : Memory.wf W.mem = true ∧ (match step W with | .next _ => true | _ => false) = true := by decide +kernel

/-! A partition with the first GiB of memory mapped to itself, readable, writable and executable, with twins 192 GiB above; two clauses
of code, at 0x4000 a NOP, at 0x4040 one whose CRC is wrong. -/

def header1 (crc : Half) : Dword := (0xF000000000000000 : Dword) ||| crc.setWidth 64
def paged (s : State) : State :=
  let s1 := s.modPart 0 (fun p => { p with desc := { p.desc with slices := 1, pchan := 1 + 2 ^ 96, strms := 1, quads := 1, ctl := 1 } })
  let s2 := s1.modCtx 0 0 (fun c => { c with trans := { c.trans with root1 := 0x1000, twd := 192, ctrbase := 0x100000 } })
  let s3 := ((({ s2 with mem := [(0x1000, 1), (0x1001, 0x20), (0x2000, 0x1F), (0x2007, 0x80)] }).putNat 0x4000 8
    (header1 (clauseCrc [0x0170000000000000])).toNat).putNat 0x4008 8 0x0170000000000000).putNat 0x4040 8 (header1 0).toNat
  s3

/-- W paged, with a buffer record in s20–s27: base 0x8000 (as its own twin where `tw`), extent 4,096, strides 4 and 1, and flags. -/
def recS (tw : Bool) (flags : Word) : Flight → Flight :=
  setS [(20, 0x8000), (21, (if tw then 0x800000 else 0) ||| flags), (22, 0x1000), (24, 4), (25, 1)]
def WP (tw : Bool) (flags : Word) (h : Flight → Flight) : State := paged (withF (fun f => h (recS tw flags f)))
def fl (s : State) : Flight := (s.flight? R).getD default
def wgp (s : State) : Wg := (look s.wgs 1).getD default

/-- A flight at a clause start. -/
def atStart (pc : Dword) (f : Flight) : Flight := { f with clause := none, sg := 0, pc := List.replicate 32 pc, retired := 1 }
theorem witness_fetch : (match (WP false 0 id).fetchClause R 0x4000 with | .ok c => c.clause.words == [0x0170000000000000] | _ => false) = true ∧
    (match (WP false 0 id).fetchClause R 0x4040 with | .error (.trap c _ _) => c == 2 | _ => false) = true ∧
    (match (WP false 0 id).fetchClause R 0x4004 with | .error (.trap c _ _) => c == 3 | _ => false) = true := by decide +kernel

def startHyps (s : State) (pc : Dword) : Prop := (fl s).clause = none ∧ (fl s).sg = 0 ∧ s.live R (fl s) = true ∧ (fl s).wait = .ready ∧
  s.det R = false ∧ (fl s).owes = false ∧ (fl s).late = 0 ∧ (fl s).retired ≠ 0 ∧ (fl s).pick = some (pc, 0xFFFFFFFF) ∧
  (s.dispatch R).seated R = true

theorem witness_clause_start : startHyps (WP false 0 (atStart 0x4000)) 0x4000 ∧ ((WP false 0 (atStart 0x4000)).dispatch R).chooses R = true ∧
    ((({ WP false 0 (atStart 0x4000) with cores := [(0, { Core.reset with issued := [5, 5, 5, 5] })] } : State).dispatch R).chooses R = false) ∧
    (match ((WP false 0 (atStart 0x4000)).dispatch R).fetchClause R 0x4000 with
      | .ok c => (fl (WP false 0 (atStart 0x4000))).headerOk c.header 31
      | _ => false) = true := by
  unfold startHyps; decide +kernel
theorem witness_clause_start_trap : startHyps (WP false 0 (atStart 0x4040)) 0x4040 ∧ ((WP false 0 (atStart 0x4040)).dispatch R).chooses R = true ∧
    (match ((WP false 0 (atStart 0x4040)).dispatch R).fetchClause R 0x4040 with | .error (.trap _ _ _) => true | _ => false) = true := by
  unfold startHyps; decide +kernel
theorem witness_clause_start_waits : startHyps (WP false 0 (fun f => { atStart 0x4000 f with nStores := 1 })) 0x4000 := by
  unfold startHyps; decide +kernel
theorem witness_clause_end : (after id (.nop (vop 0 0 0 0))).clause = some C ∧ C.words.length ≤ (after id (.nop (vop 0 0 0 0))).ix ∧
    (after id (.nop (vop 0 0 0 0))).owes = false ∧ (after id (.nop (vop 0 0 0 0))).yielded = false ∧ C.yieldHint = false ∧
    W.live R (after id (.nop (vop 0 0 0 0))) = true := by decide +kernel
/-- A pending flight of the dispatcher has been ready for 2,048 cycles. -/
def Wover : State := { paged (withG (fun g => { g with flights := [after id (.nop (vop 0 0 0 0)), { atStart 0x4000 F with slot := none, readySince := some 0 }] }))
  with mcyc := 2048000 }
theorem witness_clause_end_exchange : (fl Wover).slot = some 0 ∧ C.words.length ≤ (fl Wover).ix ∧ Wover.overdue (Wover.coreOf R) (fl Wover).disp = true ∧
    ({ Wover with mcyc := 2047000 } : State).overdue (Wover.coreOf R) (fl Wover).disp = false := by decide +kernel
theorem witness_pick : (atStart 8 F).pick = some (8, 0xFFFFFFFF) ∧
    ({ atStart 8 F with callTo := some 16, pc := (List.replicate 31 8) ++ [16] } : Flight).pick = some (16, 0x80000000) := by decide +kernel

theorem witness_trap : F.ended = false ∧ F.ix < C.words.length ∧ F.npOpen = false ∧ look (two id).wgs 1 = some { G with flights := [F, F] } ∧
    G.firstFlt = 0xFF ∧ (wgp (withG (fun g => { g with firstFlt := 3 }))).firstFlt ≠ 0xFF := by
  decide +kernel
theorem witness_branch_register : F.s64 20 = 0 ∧ ((setS [(20, 4)] F).s64 20).toNat % 8 ≠ 0 ∧ Takes F 15 0 ∧ Takes F 7 0xFFFFFFFF := by
  refine ⟨by decide +kernel, by decide +kernel, ?_, ?_⟩ <;> (unfold Takes; decide +kernel)
theorem witness_exit_last : (after id (.exit ⟨7, 0, 0, 0⟩)).exited = 0xFFFFFFFF ∧ (after id (.exit ⟨15, 0, 0, 0⟩)).exited = 0 ∧
    ((two (fun f => { f with wait := .sort })).flight? (.wg 1 1)).map (·.wait) = some .sort := by decide +kernel

/-- A second flight that has arrived at the SORTK. -/
def Wsort : State := withG (fun g => { g with flights := [F, { F with wait := .sort }], sortArr := 2, sortIn := [(1, (List.replicate 32 3, 0))] })
theorem witness_sort : Wsort.cur = some R ∧ look Wsort.wgs 1 = some (wgp Wsort) ∧ (wgp Wsort).st = .running ∧ (wgp Wsort).flights.length ≤ 32 ∧
    F.sg = 0xFFFFFFFF ∧ (∀ h ∈ (wgp Wsort).flights, h.exited = 0 ∧ h.stopped = false) ∧ F.nLoads = 0 ∧ F.nTiles = 0 ∧
    (∀ l, l < 32 → (F.src false l 1).toNat % 2 ^ 16 = 0) ∧ (wgp Wsort).sortArr.getLsbD 1 = true ∧
    look (wgp Wsort).sortIn 1 = some (List.replicate 32 3, F.s 20) ∧ ∀ l, l < 32 → ((List.replicate 32 (3 : Half)).getD l 0).toNat = 3 := by
  decide +kernel
theorem witness_sort_divergent : (withF (fun f => { f with sg := 1 })).issuer = some (R, { F with sg := 1 }) := by decide +kernel

/-! Accesses. p1 of lane 0 alone is true, so that guard 1 acts in one lane. -/

def one (f : Flight) : Flight := f.setP 0 1 true
def ldSpec : MemSpec := ⟨.load false false, { r := true }, 1, false, false, false, true⟩
def stSpec : MemSpec := ⟨.store, { w := true }, 1, false, true, true, false⟩
def atSpec : MemSpec := ⟨.atom 0 0, { r := true, w := true }, 4, false, true, true, true⟩
def mo (g : BitVec 4) (s sp : Byte) (f : Byte := 0) : MFmt := ⟨g, 3, 0, s, 0, sp.setWidth 3, 2, 0, 0, f.setWidth 5⟩
/-- The pieces a state's checks find. -/
def found (s : State) (o : MFmt) (m : MemSpec) (ls : List Nat) : List Piece := match s.memCheck R (wgp s) (fl s) o m ls with
  | .ok (ps, _) => ps
  | .error _ => []
def goes (s : State) (o : MFmt) (m : MemSpec) : Bool :=
  let ls := (fl s).acting o.g
  isOk (s.memCheck R (wgp s) (fl s) o m ls) (found s o m ls, []) && !(found s o m ls).isEmpty && (found s o m ls).all (fun p => p.dev.isNone)

theorem witness_load_private : goes W (mo 7 0 4) ldSpec = true ∧ (F.acting 7).length = 32 ∧ F.doneMask = 0 ∧ F.nLoads < 62 ∧ F.nStores < 62 := by
  decide +kernel
theorem witness_load_global : goes (WP false 0 id) (mo 7 20 0) ldSpec = true := by decide +kernel
/-- No piece of another device is still to be sent. -/
def local_ (s : State) : Bool := (s.flightsOf (s.partOf R)).all (fun q => match s.flight? q.1 with
  | some f => f.accs.all (fun a => a.pieces.all (fun p => p.dev.isNone))
  | none => true)
theorem sent_of {s : State} (h : local_ s = true) : AllSent s R := by
  intro q hq f b p hf hb hp
  simp only [local_, List.all_eq_true] at h
  have := h q hq
  rw [hf] at this
  simp only [List.all_eq_true, Option.isNone_iff_eq_none] at this
  exact .inl (this b hb p hp)

theorem witness_accesses_go_out : goes (WP false 0 one) (mo 1 20 0) ldSpec = true ∧ goes (WP false 0 one) (mo 1 20 0) stSpec = true ∧
    goes (WP false 0 one) (mo 1 20 0) atSpec = true ∧
    goes (WP false 0 one) (mo 1 20 0) ⟨.acas, { r := true, w := true }, 4, false, true, true, true⟩ = true ∧
    goes (WP false 0 (fun f => one (setS [(25, 4)] f))) (mo 1 20 0) ⟨.pstp, { w := true }, 4, false, true, true, false⟩ = true ∧
    goes (WP true 0 one) (mo 1 20 0) ⟨.twReset, { r := true }, 4, true, true, false, false⟩ = true ∧
    goes (WP true 0 one) (mo 1 20 0) ⟨.twQuery, { r := true }, 4, true, true, false, true⟩ = true ∧
    goes (WP false 0 one) (mo 1 20 0) ⟨.ldf false false, { r := true }, 1, false, false, false, true⟩ = true ∧
    goes (WP true 0 one) (mo 1 20 0) ⟨.lda, { r := true }, 1, true, true, false, true⟩ = true ∧
    local_ (WP true 0 one) = true ∧ (∀ p ∈ found (WP true 0 one) (mo 1 20 0) ⟨.lda, { r := true }, 1, true, true, false, true⟩ [0],
      ∀ k ∈ p.keys, (WP true 0 one).staged R (k / 64 * 64) = none) := by decide +kernel
theorem witness_access_traps : isErr ((WP false 0x4000000 id).memCheck R (wgp (WP false 0x4000000 id)) (fl (WP false 0x4000000 id))
      { mo 7 20 0 with imm := 0x800 } ldSpec [0]) (.trap 5 1 0) = false ∧
    isErr ((WP false 0 id).memCheck R (wgp (WP false 0 id)) (fl (WP false 0 id)) { mo 7 20 0 with imm := 0x800 } ldSpec [0])
      (.trap 5 1 0x7800) = true ∧
    isErr ((WP false 0 id).memCheck R (wgp (WP false 0 id)) (fl (WP false 0 id)) { mo 7 20 0 with imm := 0x800 } stSpec [0])
      (.trap 5 1 0x7800) = true := by decide +kernel
theorem witness_count_limit : 62 ≤ ({ F with nLoads := 62 } : Flight).nLoads ∧ (withF (fun f => { f with nLoads := 62, nStores := 62 })).issuer =
    some (R, { F with nLoads := 62, nStores := 62 }) := by decide +kernel
/-- Bounds, alignment and range of a lane's access, on both sides of each edge. -/
theorem witness_lane_addresses :
    globalEa (fl (WP false 0 id)) (mo 7 20 0) 0 = 0x8000 ∧
    globalEa (fl (WP false 0 id)) { mo 7 20 0 with imm := 0x7FC } 0 + 4 ≤ 0x8000 + 0x1000 ∧
    globalEa (fl (WP false 0 (setS [(22, 0x7FF)]))) { mo 7 20 0 with imm := 0x7FC } 0 + 4 = 0x8000 + 0x800 ∧
    globalEa (fl (WP false 0 id)) { mo 7 20 0 with imm := 0xFFF } 0 = 0x7FFF ∧ globalEa (fl (WP false 0 id)) { mo 7 20 0 with imm := 1 } 0 % 4 ≠ 0 ∧
    spaceEa F { mo 7 0 4 with imm := 0xFFF } 0 = -1 ∧ spaceEa (F.setV 0 1 65532) { mo 7 0 4 with a := 1 } 0 + 4 = 65536 ∧
    spaceEa (F.setV 0 1 65532) { mo 7 0 4 with a := 1, imm := 4 } 0 + 4 = 65540 := by decide +kernel

/-- A flight with one access of kind k outstanding, of one piece of n bytes at key a of lane 0. -/
def piece (a n : Nat) : Piece := { lane := 0, tid := 0, sent := false, back := false, first := 0, va := BitVec.ofNat 64 a, len := n, keys := List.range' a n, dev := none, span := false, locked := false, due := 0, done := false, refused := 0 }
def acc1 (k : AccKind) (a n : Nat) (out : List Byte) : Acc := ⟨9, k, n, 3, 1, [piece a n], [(0, out)], [], 0, [], false, 0, [], none⟩
def out1 (k : AccKind) (a n : Nat) (out : List Byte) (w : Wait := .ready) : State := withF (fun f => { f with
  accs := [acc1 k a n out], nLoads := if k.isLoad then 1 else 0, nStores := if k.isLoad then 0 else 1, wait := w })

theorem witness_effects : (out1 .store 0x5000 4 [1, 2, 3, 4]).canPlace R (acc1 .store 0x5000 4 [1, 2, 3, 4]) (piece 0x5000 4) = true ∧ (piece 0x5000 8).keys.Nodup ∧ (piece 0x5000 8).keys.length = 8 ∧
    (fl (out1 .store 0x5000 4 [1, 2, 3, 4])).acc? 9 = some (acc1 .store 0x5000 4 [1, 2, 3, 4]) := by decide +kernel
theorem witness_one_line : (fl (out1 (.load true false) 0x5000 1 [])).accs = [acc1 (.load true false) 0x5000 1 []] ∧
    (out1 (.load true false) 0x5000 1 []).accessible R = true ∧ local_ (out1 (.load true false) 0x5000 1 []) = true ∧
    (out1 (.load true false) 0x5000 1 []).canPlace R (acc1 (.load true false) 0x5000 1 []) (piece 0x5000 1) = true ∧ (0xFFFFFFFFFFFFFFFF : Dword).getLsbD 0 = true ∧
    (fl (out1 .acas 0x5000 8 (List.replicate 16 0))).accs = [acc1 .acas 0x5000 8 (List.replicate 16 0)] ∧
    (out1 .acas 0x5000 8 (List.replicate 16 0)).det R = false := by decide +kernel
theorem witness_early_landing : (fl (out1 (.load false false) 0x5000 8 [])).accs = [acc1 (.load false false) 0x5000 8 []] ∧
    (out1 (.load false false) 0x5000 8 []).accessible R = true ∧ (2 : Dword).getLsbD 1 = true ∧ (2 : Dword).getLsbD 0 = false ∧
    (acc1 (.load false false) 0x5000 8 []).landed = [] ∧
    (out1 (.load false false) 0x5000 8 []).canPlace R (acc1 (.load false false) 0x5000 8 []) (piece 0x5000 8) = true := by decide +kernel
/-- R29: a register that has its data already keeps what was written to it since; the other takes its data with the arrival. -/
theorem test_landed_register_stays :
    let g := after (fun f => { (f.setV 0 3 77).setV 0 4 78 with nLoads := 1, accs := [{ acc1 (.load false false) 0x5000 8 [] with
      pieces := [{ piece 0x5000 8 with done := true }], got := [(0, [1, 0, 0, 0, 2, 0, 0, 0])], landed := [3] }] }) (.loadDataArrival R 9 1)
    (g.v 0 3, g.v 0 4, g.nLoads, g.accs) = (77, 2, 0, []) := by decide +kernel
/-- An access of two lanes whose second line shares a byte with the first, behind an older one of lane 0. -/
def accs2 : List Acc := [{ acc1 .store 0x6000 4 [1, 2, 3, 4] with id := 5 }, { acc1 .store 0x5000 4 [1, 2, 3, 4] with
  pieces := [piece 0x5000 4, { piece 0x5010 4 with first := 4 }, { piece 0x5002 4 with lane := 31, tid := 31 }] }]
def Waccs : State := withF (fun f => { f with accs := accs2, nStores := 2 })
theorem witness_lane_order : (fl Waccs).acc? 9 = accs2[1]? ∧ 5 < 9 ∧ local_ Waccs = true ∧ Waccs.accessible R = true ∧
    (∀ p ∈ [piece 0x5000 4, { piece 0x5010 4 with first := 4 }, { piece 0x5002 4 with lane := 31, tid := 31 }], p.done = false ∧ p.dev = none ∧ p.lane < 32) ∧
    [piece 0x5000 4, { piece 0x5010 4 with first := 4 }, { piece 0x5002 4 with lane := 31, tid := 31 }].Pairwise (fun p q =>
      p.lane < q.lane ∨ p.lane = q.lane ∧ p.first < q.first) ∧ 0x5002 ∈ (piece 0x5000 4).keys ∧ 0x5002 ∈ (piece 0x5002 4).keys := by decide +kernel

/-! Twins: the first granule of die 0, its count record at the start of the count plane. -/

def gk : Nat := 0x3000000000
def twinAcc (k : AccKind) (st : Nat) (h : Acc → Acc := id) : State := ((out1 k gk 4 [] (if k = .lda then .remote 9 else .ready)).modFlight R
  (fun f => { f with accs := f.accs.map h })).putGranule gk st (if st = 1 then 5 else 0)

theorem witness_twin_reads : (∀ j ∈ (piece gk 4).keys, W.keyUp j = true ∧ j / 64 * 64 = gk) ∧ W.countAt gk = 0x3E00000000 ∧
    W.countAt (gk + 0xE00000000 - 64) + 4 = 0x3E00000000 + 0x38000000 * 4 ∧
    ((twinAcc .lda 2).granule gk).1 = 2 ∧ ((twinAcc .lda 0).granule gk).1 = 0 ∧ ((twinAcc .lda 1).granule gk).1 = 1 ∧ ((twinAcc .lda 3).granule gk).1 = 3 ∧
    (twinAcc .lda 2).halting R = false ∧ (fl (twinAcc .lda 2)).wait = .remote 9 ∧ (acc1 .lda gk 4 []).lanes.getLsbD 0 = true ∧
    (twinAcc .lda 2).canPlace R (acc1 .lda gk 4 []) (piece gk 4) = true ∧ (twinAcc .twReset 2).canPlace R (acc1 .twReset gk 4 []) (piece gk 4) = true ∧
    (twinAcc .twQuery 1).canPlace R (acc1 .twQuery gk 4 []) (piece gk 4) = true ∧ local_ (twinAcc .twQuery 1) = true ∧
    (fl (twinAcc .twReset 2)).wait = .ready ∧ (fl (twinAcc .twQuery 1)).doneMask = 0 ∧ (fl (twinAcc .twQuery 1)).ldaData = [] := by decide +kernel

def entry1 (i d : Nat) (sum : List (Nat × Nat)) : StageEntry := { i, d, fmt := some 1, sum, poison := false }
theorem witness_commits : (W.granule gk).1 = 0 ∧ ((twinAcc .lda 1).granule gk) = (1, 5) ∧
    (((twinAcc .lda 1).granule gk).2 : Int) + 0 - 5 = 0 ∧ (((twinAcc .lda 1).granule gk).2 : Int) + 65530 - 0 = 65535 ∧
    (((twinAcc .lda 1).granule gk).2 : Int) + 0 - 6 < 0 ∧ (((twinAcc .lda 1).granule gk).2 : Int) + 65531 - 0 > 65535 ∧
    (entry1 1 1 [(0, 0x3F80), (31, 0x4000)]).sum.map (·.1) = [0, 31] ∧ (∀ p ∈ (entry1 1 1 [(0, 0x3F80), (31, 0x4000)]).sum, (p.1 + 1) * 2 ≤ 64) := by
  decide +kernel

/-- W's tether, ended at time 0, with staging. -/
def staged1 (es : List (Nat × StageEntry)) (ended : Option Nat := none) : State :=
  withL (fun x => { x with tethers := x.tethers.map (fun t => (t.1, { t.2 with stage := es, ended })) })
theorem witness_commit_event : ((look (staged1 [(gk, entry1 1 0 [])] (some 0)).launches 1).bind (fun x => look x.tethers 0)).map (fun y => (y.ended, y.stage[0]?)) =
      some (some 0, some (gk, entry1 1 0 [])) ∧ W.dieUp 0 = true ∧ (W.modDie 0 (fun x => { x with st := 4 })).dieUp 0 = false ∧ W.isDet L = false ∧
    (W.part L.part).cur = some L.ctx ∧ ((withP (fun p => { p with cur := none, tick := 256 })).part L.part).cur ≠ some L.ctx ∧
    256 ≤ ((withP (fun p => { p with cur := none, tick := 256 })).part L.part).tick ∧ (W.part L.part).tick < 128 ∧
    (staged1 [(gk, entry1 1 0 [])] (some 0)).isDet { L with record := (List.replicate 21 0) ++ [1] ++ List.replicate 234 0 } = true := by decide +kernel

def staSpec (ty : Nat) (cnt : Bool) : MemSpec := ⟨.sta ty cnt, { r := true, w := true }, stageSize ty, true, true, true, false⟩
theorem witness_twin_store : ((WP true 0x1000000 one).tetherOf R).isSome = true ∧ (fl (WP true 0x1000000 one)).acting 1 = [0] ∧
    ((fl (WP true 0x1000000 one)).s64 20).getLsbD 56 = true ∧
    found (WP true 0x1000000 one) (mo 1 20 0) (staSpec 0 true) [0] = [{ piece (gk + 0x8000) 4 with va := 0x80000000008000, due := 128 }] ∧
    (WP true 0x1000000 one).stageRoom R [gk + 0x8000] = true ∧ ((WP true 0x1000000 one).tetherOf R).map (fun y => y.2.2.dying) = some none ∧
    (out1 (.sta 0 true) gk 4 [1, 2, 3, 4]).canPlace R (acc1 (.sta 0 true) gk 4 [1, 2, 3, 4]) (piece gk 4) = true ∧
    local_ (out1 (.sta 0 true) gk 4 [1, 2, 3, 4]) = true ∧ (∀ j ∈ (piece gk 4).keys, j / 64 = gk / 64) := by
  decide +kernel
def ldfSpec : MemSpec := ⟨.ldf true false, { r := true }, 1, false, true, false, true⟩
theorem witness_twin_load : goes (WP false 0x1000000 one) (mo 1 20 0) ldfSpec = true ∧ (fl (WP false 0x1000000 one)).acting 1 = [0] ∧
    (WP false 0x1000000 one).twinGranules R (found (WP false 0x1000000 one) (mo 1 20 0) ldfSpec [0]) 0 = [gk + 0x8000] ∧
    (WP false 0x1000000 one).stageRoom R (granulesOf [gk + 0x8000]) = true ∧ (WP false 0x1000000 one).staged R (gk + 0x8000) = none ∧
    (WP false 0x1000000 one).wgs.all (fun h => h.2.flights.all (fun x => x.accs.isEmpty)) = true := by decide +kernel
theorem witness_twin_arrival : (out1 (.ldf true false) 0x5000 4 []).canPlace R { acc1 (.ldf true false) 0x5000 4 [] with granules := [(0, [gk])] } (piece 0x5000 4) = true ∧
    local_ (out1 (.ldf true false) 0x5000 4 []) = true ∧ ((out1 (.ldf true false) 0x5000 4 []).tetherOf R).map (fun y => y.2.2.dying) = some none ∧
    ({ acc1 (.ldf true false) 0x5000 4 [] with granules := [(0, [gk])] } : Acc).granules = [((piece 0x5000 4).lane, [gk])] := by decide +kernel

theorem witness_wakeups : (withF (fun f => { f with wait := .twin [gk] })).flight? R = some { F with wait := .twin [gk] } ∧ gk < 2 ^ 60 ∧
    (W.granule gk).1 ≠ 1 ∧ ((twinAcc .lda 1).granule gk).1 = 1 ∧ 2 ^ 60 ≤ farGranule 0x40000000 ∧
    ({ F with twinPark := some 0 } : Flight).twinPark = some 0 ∧ 0 + 5 * 1000 ≤ ({ W with clk := 5000 } : State).now R ∧ W.now R < 5 * 1000 ∧
    W.accessible R = true ∧ ({ W with clk := 10000 }).clk.toNat = F.parkAt + 10000 ∧ ({ W with clk := 100000 }).clk.toNat = F.parkAt + 100000 ∧
    fieldAt L.record 0x8C 4 = 0 ∧ (withL (fun x => { x with record := (List.replicate 140 0) ++ [5] ++ List.replicate 115 0 })).launchOf R =
      some { L with record := (List.replicate 140 0) ++ [5] ++ List.replicate 115 0 } ∧
    fieldAt ((List.replicate 140 0) ++ [5] ++ List.replicate 115 0) 0x8C 4 = 5 := by decide +kernel

/-! Waits, barriers, traps, tokens, sealing, counters, launches. -/

/-- A clause of two NOPs. -/
def C2 : Clause := { C with words := C.words ++ C.words }
/-- W in a partition that runs in deterministic mode. -/
def Wdet (h : Flight → Flight := id) : State := (withP (fun p => { p with desc := { p.desc with ctl := 5 } })).modFlight R h
/-- A store of W's thread 0, not performed. -/
def Wpend : State := { out1 .store 0x5000 4 [] with uid := 20 }
/-- An operation's turn among the events of its thread: nothing before it; a store of the thread; another thread's store; its tick not yet known; known. -/
theorem witness_turn : Placed W R F 7 ∧ W.det R = false ∧
    Wpend.threadClear R ((fl Wpend).lowTid 7) Wpend.uid = false ∧ Wpend.threadClear R 1 Wpend.uid = true ∧ (fl Wpend).acting 7 ≠ [] ∧ Wpend.det R = false ∧
    (Wdet).det R = true ∧ (fl (Wdet)).opDue = none ∧ 0 < (Wdet).vaClass R 0x8000 ∧ 0 < (Wdet).ctrClass R (some 5) ∧ 0 < (Wdet).spoolClass R 0x8000 ∧
    Placed (Wdet (fun f => { f with opDue := some 128 })) R (fl (Wdet (fun f => { f with opDue := some 128 }))) 7 ∧
    K.threadClear (.ctl 0 0) (F.lowTid 7) K.uid = true := by unfold Placed; decide +kernel
theorem witness_waits : F.sg ≠ 0 ∧ ((0xFFFFF : Word).extractLsb' 8 6).toNat = 63 ∧ ((0 : Word).extractLsb' 14 6).toNat = 0 ∧ F.loadsL 31 ≤ 0 ∧
    ¬ ({ F with nLoads := 1 } : Flight).loadsL 0 ≤ 0 ∧ W.remoteOut R F = false ∧
    W.remoteOut R { F with accs := [{ acc1 .store 0x5000 4 [] with pieces := [{ piece 0x5000 4 with dev := some 2 }] }] } = true ∧
    (0x12 : Word).extractLsb' 0 4 ≠ 0 ∧ (0x12 : Word).extractLsb' 4 4 ≠ 0 ∧ (0x12 : Word).getLsbD 1 = true := by decide +kernel
theorem witness_sections : W.npBudget R = 0 ∧ (withL (fun x => { x with record := (List.replicate 136 0) ++ [9] ++ List.replicate 119 0 })).npBudget R = 9 ∧
    ((W.part (W.partOf R)).switch.map (·.deferred)).getD false = false := by decide +kernel
/-- A flight at the end of a clause with YIELD, and one that waits for a slot at a clause start. -/
def Wyield : State := (paged (two (fun f => { atStart 0x4000 f with slot := none }))).modFlight R (fun f => { f with ix := 1, yielded := true })
theorem witness_yield : (fl Wyield).clause = some C ∧ C.words.length ≤ (fl Wyield).ix ∧ (fl Wyield).owes = false ∧ Wyield.live R (fl Wyield) = true ∧
    (fl Wyield).slot = some 0 ∧ Wyield.det R = false ∧
    ({ Wyield.setFlight R (fl Wyield).completeClause with cur := none } : State).relief (Wyield.coreOf R) (fl Wyield).disp = some (.wg 1 1) ∧
    Wyield.cur = some R ∧ FlightRef.wg 1 1 ≠ R ∧ (fl Wyield).yielded = true ∧ (fl Wyield).stopped = false ∧ (Wyield.flight? (.wg 1 1)).isSome = true := by decide +kernel
theorem witness_bar_waits : (two id).cur = some R ∧ (wgp (two id)).flights[1]? = some F ∧ (wgp (two id)).barArr.getLsbD 1 = false ∧ F.ended = false ∧
    (∀ h ∈ (wgp (two id)).flights, h.stopped = false) ∧ (wgp (two id)).bartArr = 0 ∧ F.accessesDone = true ∧
    (fl (out1 .store 0x5000 4 [])).nStores ≠ 0 := by decide +kernel
theorem witness_bar_releases : ∀ k h, (wgp ((two (fun f => { f with wait := .bar })).modWg 1 (fun g => { g with barArr := 2 }))).flights[k]? = some h → k ≠ 0 →
    (wgp ((two (fun f => { f with wait := .bar })).modWg 1 (fun g => { g with barArr := 2 }))).barArr.getLsbD k = true ∨ h.ended = true :=
  idx_of (by decide +kernel)
theorem witness_bart : (W.tetherOf (.wg 1 0)).map (fun y => (y.1, y.2.1, y.2.2.wgs)) = some (1, 0, [1]) ∧
    G.barArr = 0 ∧ [1].Nodup ∧ ∀ k h, G.flights[k]? = some h → k ≠ 0 → G.bartArr.getLsbD k = true ∨ h.ended = true :=
  ⟨by decide +kernel, by decide +kernel, by decide, idx_of (by decide +kernel)⟩
theorem witness_gets : (16 : Word).toNat ≤ 16 ∧ EvenReg 4 ∧ ((5 : Word) = 5 → ∃ w fl, R = .wg w fl) := ⟨by decide, by unfold EvenReg; decide, fun _ => ⟨1, 0, rfl⟩⟩
theorem witness_software_trap : ({ F with clause := some C2 } : Flight).ix + 1 < C2.words.length ∧ F.npOpen = false := by decide +kernel
theorem witness_timer : (withF (fun f => { f with timerOn := true })).flight? R = some { F with timerOn := true } ∧ F.timerRem = 0 ∧
    (atStart 0 { F with tpend := true }).tpend = true ∧ (atStart 0 F).deferred = none ∧ (atStart 0 F).sg = 0 ∧
    (withF (fun f => atStart 0 { f with tpend := true })).live R (atStart 0 { F with tpend := true }) = true := by decide +kernel
theorem witness_token : ((W.part 0).ctx 0).desc.tokbuf = 0 ∧
    (((withC (fun c => { c with desc := { c.desc with tokbuf := 0x1000 } })).part 0).ctx 0).desc.tokbuf ≠ 0 ∧
    (BitVec.ofNat 256 (fieldAt L.record 0x90 32)) = 0 ∧ (0 : BitVec 256) ∈ ((withP (fun p => { p with nonces := [0] })).part 0).nonces := by
  decide +kernel

/-- A launch record from the values of some fields: offset, size, value. -/
def rec_ (fs : List (Nat × Nat × Nat)) : List Byte := (List.range 256).map (fun i =>
  ((fs.find? (fun f => decide (f.1 ≤ i) && decide (i < f.1 + f.2.1))).map (fun f => BitVec.ofNat 8 (f.2.2 / 256 ^ (i - f.1)))).getD 0)
/-- W paged, its launch with a handle table at 0x10000 and a tensor record of one FP32 element in s32–s47. -/
def Wseal : State := (WP false 0 (setS [(32, 0x8000), (33, 0x10000000), (34, 1)])).modLaunch 1 (fun x => { x with record := rec_ [(0x78, 8, 0x10000)] })
def Lseal : Launch := (look Wseal.launches 1).getD default
def tensor1 : TRec := TRec.ofNat (number ((List.range 64).map (fun j => ((fl Wseal).s (32 + j / 4)).extractLsb' (8 * (j % 4)) 8)))
theorem pchan_seal : (Wseal.part 0).desc.pchan.getLsbD 0 = true := by decide +kernel
theorem slice_seal : (Wseal.part 0).desc.slices.getLsbD 0 = true := by decide +kernel
theorem tw_seal : 1000000000 ≤ Image.default.twlo.getD 0 0 := by decide +kernel
theorem cp_seal : 1000000000 ≤ Image.default.cpbase.getD 0 0 := by decide +kernel
theorem read_low {s : State} {va n base : Nat} (h : s.leaf 0 0 (BitVec.ofNat 64 va) = .ok { base, r := true, w := true, x := true, span := false, lock := false, tw := true, lvl := 2 })
    (h1 : s.image = Image.default) (h3 : s.badChans = 0) (h4 : (s.part 0).desc = (Wseal.part 0).desc) (hn : va % 4096 + n ≤ 4096)
    (hb : base < 0x100000) (hv : va < 0x100000) : s.readVa 0 0 va n = some (readBytes s.mem (base + va % 4096) n) :=
  Laws.readVa_page hn (by omega) (by rw [h1]; rfl) h rfl rfl (fun i hi => Laws.mappable_low (by dsimp only; omega)
    (h4 ▸ pchan_seal) (h4 ▸ slice_seal) h3 (h1 ▸ tw_seal) (h1 ▸ cp_seal))
theorem leaf_seal {s : State} (h : s.leaf 0 0 0x10000 = .ok { base := 0x10000, r := true, w := true, x := true, span := false, lock := false, tw := true, lvl := 2 })
    (h1 : s.image = Image.default) (h3 : s.badChans = 0) (h4 : (s.part 0).desc = (Wseal.part 0).desc) :
    s.readVa 0 0 0x10000 1024 = some (readBytes s.mem 0x10000 1024) := by
  simpa using read_low (n := 1024) (va := 0x10000) h h1 h3 h4 (by decide) (by decide) (by decide)
theorem witness_seal : Wseal.validate 0 0 [] tensor1 = 0 ∧ Lseal.htable = 0x10000 ∧ Lseal.freeEntry (readBytes Wseal.mem 0x10000 1024) = true ∧
    Wseal.validate 0 0 [] default ≠ 0 ∧ L.htable = 0 ∧ Wseal.hEntry { Lseal with record := rec_ [(0x78, 8, 0x40000000)] } 0 = none := by decide +kernel
/-- The same tensor in device 2's memory, and a context that may send. -/
def tensorFar : TRec := { tensor1 with base := tensor1.base + 2 * 2 ^ 47 }
def Wreach : State := { Wseal.modCtx 0 0 (fun c => { c with dom := { c.dom with domen := true, peers := 4 } }) with planes := 1 }
theorem witness_seal_moves : (Wseal.sealReads Lseal (fl Wseal).known tensor1).findSome? (fun p => Wseal.pathStop 0 0 p.1 p.2 false) = none ∧ Wseal.halting R = false ∧
    (fl Wseal).opBuf = none ∧ (fl Wseal).known = [] ∧ Wseal.sealUnknown 0 0 [] tensor1 = [] ∧ Wseal.reaches 0 0 = false ∧ Wreach.reaches 0 0 = true ∧
    Wreach.sealUnknown 0 0 [] tensorFar ≠ [] ∧ (fl Wreach).opBuf = none ∧ Wseal.pathStop 0 0 0x10000 1024 true = none ∧ Wseal.threadClear R ((fl Wseal).lowTid 7) Wseal.uid = true ∧
    (fl (Wseal.modFlight R (fun f => { f with opBuf := some (sealBuf 0 (List.replicate 32 0) []) }))).opBuf = some (sealBuf 0 (List.replicate 32 0) []) ∧
    (fl (Wseal.modFlight R (fun f => { f with opBuf := some (sealBuf 4 (List.replicate 32 0) [7]) }))).opBuf = some (sealBuf 4 (List.replicate 32 0) [7]) := by
  decide +kernel
theorem witness_seal_entry : Wseal.hEntry Lseal 0 = some (readBytes Wseal.mem 0x10000 1024) := by
  unfold State.hEntry
  rw [if_neg (by decide +kernel), show Lseal.part = 0 from by decide +kernel, show Lseal.ctx = 0 from by decide +kernel,
    show Lseal.htable + 1024 * 0 = 0x10000 from by decide +kernel]
  exact leaf_seal (ok_of (by decide +kernel)) (by decide +kernel) (by decide +kernel) rfl

theorem witness_seal_search : (Wseal.searchedAt Lseal).findSome? (fun a => Wseal.pathStop 0 0 a 1024 false) = none := by
  have h : Lseal.freeEntry (readBytes Wseal.mem 0x10000 1024) = true := by decide +kernel
  have hs : Wseal.searched Lseal 256 0 = [0] := by
    rw [State.searched, witness_seal_entry]
    exact if_pos h
  have ha : Wseal.searchedAt Lseal = [0x10000] := by
    unfold State.searchedAt
    rw [if_neg (by decide +kernel), hs, List.map_singleton, show Lseal.htable + 1024 * 0 = 0x10000 from by decide +kernel]
  rw [ha]
  decide +kernel

/-- The CRC with its register forced at every byte, so that the kernel can run it. -/
def crcForce : List Byte → Nat → Nat
  | [], c => c
  | b :: bs, c => match crcByte c b with
    | 0 => crcForce bs 0
    | k + 1 => crcForce bs (k + 1)
theorem crcForce_eq (bs : List Byte) (c : Nat) : crcForce bs c = bs.foldl crcByte c := by
  induction bs generalizing c with
  | nil => rfl
  | cons b bs ih => simp only [crcForce, List.foldl_cons]; split <;> simp_all
/-- Wseal with a BF16 tensor of 64 rows of 128 elements at 0x8000 sealed in entry 0 under handle 0x10100, and its handle in s51. -/
def Wsealed : State := ([(0, 4, 0x8000), (4, 4, 0x21000000), (8, 4, 128), (12, 4, 64), (28, 4, 256), (992, 4, 0x10100), (996, 4, 1), (1012, 1, 1),
  (1016, 2, 59412)].foldl (fun (s : State) p => s.putNat (0x10000 + p.1) p.2.1 p.2.2) Wseal).modFlight R (fun f => f.setS 51 0x10100)
def sealed1 : List Byte := readBytes Wsealed.mem 0x10000 1024
theorem witness_sealed_entry : Wsealed.hEntry Lseal 0 = some sealed1 := by
  unfold State.hEntry
  rw [if_neg (by decide +kernel), show Lseal.part = 0 from by decide +kernel, show Lseal.ctx = 0 from by decide +kernel,
    show Lseal.htable + 1024 * 0 = 0x10000 from by decide +kernel]
  exact leaf_seal (ok_of (by decide +kernel)) (by decide +kernel) (by decide +kernel) (by decide +kernel)
theorem witness_sealed : Lseal.freeEntry sealed1 = false ∧ (fl Wsealed).s 51 = 0x10100 ∧
    fieldAt sealed1 992 4 = 0x10100 ∧ fieldAt sealed1 996 4 = Lseal.id.toNat ∧ ¬ fieldAt sealed1 1013 1 < Lseal.killsOf (fieldAt sealed1 1000 4) ∧
    crcForce (sealed1.take 1016) 0xFFFF = 59412 ∧ fieldAt sealed1 1016 2 = 59412 := by decide +kernel
theorem handle_of {s : State} {l : Launch} {h : Word} {e : List Byte} (h1 : s.hEntry l (bits h.toNat 7 0) = some e) (h2 : fieldAt e 992 4 = h.toNat)
    (h3 : h ≠ 0) (h4 : fieldAt e 996 4 = l.id.toNat) (h5 : ¬ fieldAt e 1013 1 < l.killsOf (fieldAt e 1000 4))
    (h6 : fieldAt e 1016 2 = (crc16 (e.take 1016)).toNat) {f : Flight} (h7 : f.accs = []) : s.handleCheck f l h = .ok e := by
  unfold State.handleCheck
  rw [h1]
  simp [h2, h4, h6, Launch.killedEntry, h5, Flight.unsealing, h7]
  exact h3
theorem crc_of {bs : List Byte} {n : Nat} (h : crcForce bs 0xFFFF = n) (hn : n < 65536) : n = (crc16 bs).toNat := by
  unfold crc16
  rw [← crcForce_eq, h, BitVec.toNat_ofNat, Nat.mod_eq_of_lt hn]
theorem handle_sealed {f : Flight} (h : f.accs = []) : Wsealed.handleCheck f Lseal 0x10100 = .ok sealed1 :=
  have ⟨_, _, a, b, c, d, e⟩ := witness_sealed
  have i : bits (0x10100 : Word).toNat 7 0 = 0 := by decide
  handle_of (i.symm ▸ witness_sealed_entry) a (by decide) b c (e.trans (crc_of d (by decide))) h
theorem accs_sealed : (fl Wsealed).accs = [] := by decide +kernel
theorem witness_handle : Wsealed.handleCheck (fl Wsealed) Lseal 0x10100 = .ok sealed1 := handle_sealed accs_sealed
theorem witness_unseal : (match (lineParts (0x10000 + 1024 * 0 + 992) 4).mapM
      (Wsealed.globPiece R ⟨.unseal 0x10100, { w := true }, 1, false, true, true, false⟩ false 0) with
    | .ok ps => !ps.isEmpty && ps.all (fun p => p.dev.isNone)
    | .error _ => false) = true ∧ ((fl Wsealed).acting 7).headD 0 = 0 ∧ Wsealed.threadClear R ((fl Wsealed).lowTid 7) Wsealed.uid = true ∧
    (fl Wsealed).stopped = false ∧ (fl Wsealed).accs = [] := by decide +kernel
/-- The same in deterministic mode. -/
def Wsealdet : State := Wsealed.modPart 0 (fun p => { p with desc := { p.desc with ctl := 5 } })
theorem witness_unseal_det : (match (lineParts (0x10000 + 1024 * 0 + 992) 4).mapM
      (Wsealdet.globPiece R ⟨.unseal 0x10100, { w := true }, 1, false, true, true, false⟩ false 0) with
    | .ok [p] => p.dev.isNone && !p.locked && !p.span && p.keys.all Wsealdet.keyUp && !Wsealdet.hasLost p.keys
    | _ => false) = true ∧ Wsealdet.det R = true ∧ Wsealdet.threadClear R ((fl Wsealdet).lowTid 7) Wsealdet.uid = true ∧
    (fl Wsealdet).lastE ≤ (Wsealdet.part 0).tick ∧ local_ Wsealdet = true ∧ (fl Wsealdet).accs = [] := by decide +kernel
/-- A counter pending at 1 of 2, without a parent. -/
def Wctr : State := (W.arm 0 0 5 2 0xFFF 0)
theorem witness_signal : (Wctr.ctr 0 0 5).state = 0 ∧ (Wctr.ctr 0 0 5).conf ≤ (Wctr.ctr 0 0 5).done ∧ min ((Wctr.ctr 0 0 5).done + 1) 2 ≠ 2 ∧
    min ((Wctr.ctr 0 0 5).done + 3) 2 = (Wctr.ctr 0 0 5).target ∧ Wctr.launchAt 0 0 5 = none ∧ ((W.arm 0 0 5 2 7 3).ctr 0 0 5).parent ≠ 0xFFF ∧ W.coreOf R ∈ [0] := by decide +kernel
/-- Counter 6 in a final state, as the child of a signal: confirmed, killed, done. -/
def Wchild (st : Nat) : State := Wctr.putCtr 0 0 6 { target := 1, done := 1, conf := 0, state := st, level := 0, reason := 0, parent := 5, firstBad := 0, tdone := 0, tconf := 0 }
theorem witness_child : ((Wchild 2).ctr 0 0 6).state = 2 ∧ ((Wchild 7).ctr 0 0 6).state = 7 ∧ ((Wchild 1).ctr 0 0 6).state = 1 ∧ ((Wchild 2).ctr 0 0 5).state = 0 := by
  decide +kernel
/-- With nothing in memory every counter is pending and has counter 0 as its parent. -/
def Wempty : State := { W with mem := [], launches := [], cancels := [] }
theorem empty_bytes (k n : Nat) : ofBytes (readBytes [] k n) = 0 := by
  have h : readBytes [] k n = List.replicate n 0 := by
    simp [readBytes, readByte, sget, look, unlistedByte, List.map_const']
  rw [h]
  clear h
  induction n with
  | zero => rfl
  | succ n ih =>
    show (0 : Byte).toNat + 256 * ofBytes (List.replicate n 0) = 0
    rw [ih]; rfl
theorem empty_ctr (j : Nat) : Wempty.ctr 0 0 j = Ctr.ofNat 0 := by
  unfold State.ctr State.getNat
  rw [show Wempty.mem = [] from rfl, empty_bytes]
theorem empty_chain (n i : Nat) (h : i ≠ 5) : Wempty.meets 0 0 5 n i = false := by
  induction n generalizing i with
  | zero => rfl
  | succ n ih =>
    unfold State.meets
    split
    · rfl
    · have := ih (Ctr.ofNat 0).parent (by decide)
      simp [empty_ctr, h, this]
theorem witness_cancel : (Wempty.ctr 0 0 5).state = 0 ∧ Wempty.cancels = [] ∧ Wempty.launches = [] ∧
    ∀ j, j < 0xFFF → j ≠ 5 → (Wempty.ctr 0 0 j).state ≠ 0 ∨ Wempty.chains 0 0 j 5 = false :=
  ⟨by rw [empty_ctr]; decide, rfl, rfl, fun j _ h => .inr (empty_chain 4096 j h)⟩
theorem witness_control_counters : (F.s 20).toNat % 4096 ≠ 0xFFF ∧ ((setS [(20, 0x1FFF)] F).s 20).toNat % 4096 = 0xFFF ∧ (K.ctr 0 0 0).state = 0 ∧
    K.threadClear (.ctl 0 0) (F.lowTid 7) K.uid = true ∧
    ({ K.modFlight (.ctl 0 0) (fun f => { f with accs := [acc1 .store 0x5000 4 []] }) with uid := 20 } : State).threadClear (.ctl 0 0) (F.lowTid 7) 20 = false ∧
    ((K.putCtr 0 0 0 { target := 0, done := 0, conf := 0, state := 9, level := 0, reason := 0, parent := 0, firstBad := 0, tdone := 0, tconf := 0 }).ctr 0 0 0).state ≠ 0 := by decide +kernel

/-- Memory with a launch record at 0x8000: one workgroup of one flight of 8 rows, counter 5, argument block at 0x8100. -/
def record1 : List Byte := rec_ [(0x08, 8, 0x8010100000001), (0x50, 2, 5), (0x52, 2, 0xFFF), (0x58, 4, 0xFFF0FFF), (0x80, 8, 0x8100)]
theorem witness_level : (withL (fun x => { x with record := record1 })).levelCounter R 0 = some 5 ∧ (withL (fun x => { x with record := rec_ [(0x50, 2, 0xFFF)] })).levelCounter R 0 = none := by
  decide +kernel
def Wlaunch (h : Part → Part := id) : State := ((((paged (withF (setS [(20, 0x8000)]))).putBytes 0x8000 record1).putCtr 0 0 5
  { target := 0, done := 0, conf := 0, state := 9, level := 0, reason := 0, parent := 0, firstBad := 0, tdone := 0, tconf := 0 })).modPart 0 h
def rings4 (p : Part) : Part := { p with rings := List.replicate 32 { base := 0x6000, size := 4, prod := 0, cons := 0 } }
theorem witness_accept_read : Wlaunch.readVa 0 0 0x8000 256 = some record1 ∧ Wlaunch.readVa 0 0 (fieldAt record1 0x80 8) 64 = some (List.replicate 64 0) := by
  rw [show fieldAt record1 0x80 8 = 0x8100 from by decide +kernel, read_low (n := 256) (va := 0x8000) (base := 0x8000) (ok_of (by decide +kernel)) (by decide +kernel)
    (by decide +kernel) (by decide +kernel) (by decide) (by decide) (by decide), read_low (n := 64) (va := 0x8100) (base := 0x8000)
    (ok_of (by decide +kernel)) (by decide +kernel) (by decide +kernel) (by decide +kernel) (by decide) (by decide) (by decide)]
  decide +kernel
theorem witness_accept :
    Wlaunch.launchReason 0 0 (some record1) (some (List.replicate 64 0)) = none ∧ ((Wlaunch.part 0).ctx 0).desc.logbase = 0 ∧
    look Wlaunch.launches Wlaunch.uid = none ∧ 0 < Wlaunch.parts.length ∧ Wlaunch.launchReason 0 0 none none = some 6 := by decide +kernel
theorem witness_launch : (fl Wlaunch).s 23 = 0 ∧ ((fl Wlaunch).s64 20).toNat % 256 = 0 ∧ (Wlaunch.queueFull 0 0 0 = true) ∧
    ((Wlaunch rings4).queueFull 0 0 15 = false) ∧ ((fl (WP false 0 (setS [(20, 0x8000), (23, 1)]))).s 23 ≠ 0) := by decide +kernel

/-- A booted device whose queue 0 of partition 0, and the PF's, hold one command each, with this code. -/
def cmd (code : Nat) (ops : List (Nat × Nat)) (h : State → State := id) : State :=
  let s := (Wlaunch rings4).modPart 0 (fun p => { p with rings := modAt p.rings 0 (fun r => { r with base := 0x7000, prod := 1 }) })
  let s1 := { s with booted := true, pfRings := [(0, { base := 0x7000, size := 4, prod := 1, cons := 0 }), (16, { base := 0x6800, size := 4, prod := 0, cons := 0 })] }
  h (ops.foldl (fun s p => s.putNat (0x7008 + 8 * p.1) 8 p.2) (s1.putNat 0x7000 1 code))
def headOf (s : State) (src : CmdSrc) : List Byte := (s.headCmd src).getD []
theorem witness_launch_command : fieldAt (headOf (cmd 1 [(0, 0x8000)]) (.vf 0 0)) 0 1 = 1 ∧ ((cmd 1 [(0, 0x8000)]).headCmd (.vf 0 0)).isSome = true ∧
    ((cmd 1 [(0, 0x8000)]).popCmd (.vf 0 0)).cmdCtx 0 = some 0 ∧ ((cmd 1 [(0, 0x8000)]).popCmd (.vf 0 0)).logFull 0 0 11 = false := by decide +kernel

/-- A launch of one tether that is ready to be placed. -/
def Wplace : State := (Wlaunch.modWg 1 (fun g => { g with st := .switchedOut })).modLaunch 1 (fun x => { x with record := record1, next := 0, tethers := [] })
def Lplace : Launch := (look Wplace.launches 1).getD default
theorem witness_place : Wplace.placing Lplace = true ∧ Lplace.nextTether = some 0 ∧ Lplace.width = 1 ∧ Wplace.slotFor 1 Lplace = true ∧
    Wplace.takes Lplace 0 = true ∧ Wplace.isDet Lplace = false ∧ Wplace.servedFirst 1 Lplace = false ∧ Wplace.dep Lplace ≠ .never := by decide +kernel
/-- Its prerequisite is a cancelled counter. -/
def Wnever : State := (Wplace.putCtr 0 0 6 { target := 0, done := 0, conf := 0, state := 3, level := 0, reason := 0, parent := 0, firstBad := 0, tdone := 0, tconf := 0 }).modLaunch 1
  (fun x => { x with record := rec_ [(0x08, 8, 0x8010100000001), (0x50, 2, 5), (0x52, 2, 0xFFF), (0x58, 2, 6), (0x5A, 2, 0xFFF), (0x80, 8, 0x8100)] })
theorem witness_never : Wnever.dep ((look Wnever.launches 1).getD default) = .never ∧ ((look Wnever.launches 1).getD default).next = 0 ∧
    ((look Wnever.launches 1).getD default).ended = false := by decide +kernel
/-- A flight whose threads have all exited. -/
def gone1 (f : Flight) : Flight := { f with exited := 0xFFFFFFFF, clause := none, sg := 0 }
theorem witness_flight_end : G.flights.length = 1 ∧ look ({ W with launches := [] } : State).launches G.launch = none ∧ (gone1 F).deferred = none ∧
    (gone1 F).ended = false ∧ G.st ≠ .killed ∧ (wgp (two gone1)).flights[0]? = some F ∧ F.ended = false ∧ (wgp (two gone1)).flights[1]? = some (gone1 F) := by
  decide +kernel
/-- The last flight of a workgroup whose tether is in the table: the tether's staging, its other workgroups, its counter pending at 0 of 2. -/
def Wlast (es : List (Nat × StageEntry)) (more : Bool) : State :=
  let s := (((staged1 es).modFlight R gone1).modLaunch 1 (fun x => { x with record := record1 })).putCtr 0 0 5
    { target := 2, done := 0, conf := 0, state := 0, level := 0, reason := 0, parent := 0xFFF, firstBad := 0, tdone := 0, tconf := 0 }
  if more then { s.modTether 1 0 (fun y => { y with wgs := [1, 2] }) with wgs := s.wgs ++ [(2, { G with rank := 1, core := 1 })] } else s
def Llast (s : State) : Launch := (look s.launches 1).getD default
theorem witness_workgroup_end : (look (Llast (Wlast [] false)).tethers 0).map (fun y => (y.wgs, y.dying.isNone, y.ended.isNone, y.stage.isEmpty)) = some ([1], true, true, true) ∧
    (look (Llast (Wlast [(gk, entry1 1 0 [])] true)).tethers 0).map (fun y => (y.wgs, y.dying.isNone, y.ended.isNone, y.stage.isEmpty)) = some ([1, 2], true, true, false) ∧
    (look (Wlast [] true).wgs 2).isSome = true := by decide +kernel
theorem witness_workgroup_end_premises : (Llast (Wlast [] false)).cancelled = false ∧ (Llast (Wlast [] false)).ended = false ∧
    (Llast (Wlast [] false)).part = (wgp (Wlast [] false)).part ∧ ((Wlast [] false).part 0).cur = some 0 ∧ (((Wlast [] false).part 0).ctx 0).st = .running ∧
    (Wlast [] false).runs = [] ∧ (Wlast [] false).cancels = [] ∧ (Llast (Wlast [] false)).ctrl = 5 ∧ ((Wlast [] false).ctr 0 0 5).done + 1 < ((Wlast [] false).ctr 0 0 5).target ∧
    ((Wlast [] false).ctr 0 0 5).state = 0 ∧ (fl (Wlast [] false)).accessesDone = true := by decide +kernel
/-- A launch of one tether of two workgroups. -/
def Wplace2 : State := Wplace.modLaunch 1 (fun x => { x with record := rec_ [(0x08, 8, 0x8020100000002), (0x50, 2, 5), (0x52, 2, 0xFFF), (0x58, 4, 0xFFF0FFF), (0x80, 8, 0x8100)] })
theorem witness_place_two : Wplace2.placing (Llast Wplace2) = true ∧ (Llast Wplace2).nextTether = some 0 ∧ (Llast Wplace2).width = 2 ∧ Wplace2.slotFor 1 (Llast Wplace2) = true ∧
    (∀ c ∈ [0, 1], Wplace2.takes (Llast Wplace2) c = true) ∧ Wplace2.isDet (Llast Wplace2) = false ∧ Wplace2.servedFirst 1 (Llast Wplace2) = false ∧
    Wplace2.dep (Llast Wplace2) ≠ .never := by decide +kernel
/-- A second control program waits on die 1, which is down. -/
def Kwait : State := (K.modPart 0 (fun p => { p with ctls := p.ctls ++ [(1, { ctx := 0, cmdSeq := 0, flight := F, halted := false, entryAt := none })] })).modDie 1 (fun x => { x with st := 4 })
theorem witness_control_waits : (look (Kwait.part 0).ctls 1).isSome = true ∧ Kwait.dieUp 1 = false ∧ Kwait.dieUp 0 = true ∧ look (Kwait.part 0).ctls 2 = none ∧
    look (Kwait.part 0).ctls 3 = none := by decide +kernel
theorem witness_control_end : look (K.part 0).ctls 0 = some { ctx := 0, cmdSeq := 0, flight := F, halted := false, entryAt := none } ∧
    (gone1 F).clause = none ∧ 0 < K.parts.length := by decide +kernel

/-! Streamers and the matrix engine. -/

/-- Wsealed with a copy's block in s64–s87: one element from the tensor's origin to itself; the same tensor on both sides. -/
def block1 (ctl : Word := 0) (name : Dword := 0) : List Word := List.replicate 10 0 ++ [1, 1, 1, 1, 1, ctl, 0, 0, 0, 0, name.extractLsb' 0 32, name.extractLsb' 32 32, 0, 0]
def withBlock (b : List Word) (s : State) : State := s.modFlight R (fun f => setS ((List.range b.length).map (fun j => (64 + j, b.getD j 0))) f)
def oCopy : EFmt := ⟨7, 4, 64, 51, 0, 51, 0, false, 0⟩
theorem check_of {s : State} {f : Flight} {b : List Word} {l : Launch} {e : List Byte} (hl : s.launchOf R = some l) (h : s.handleCheck f l (f.s 51) = .ok e)
    (h1 : pairOk b (entryRec e) (entryRec e) = true ∧ (entryRec e).bt = false ∧ ctlSat b = false)
    (h4 : (regionSizes b).any (· == 0) = false ∧ regionOk b (entryRec e) 0 = true ∧ regionOk b (entryRec e) 5 = true)
    (h5 : ctlSrc b = 0) (h8 : ((dstSide b e 0).space != 0 && ((dstSide b e 0).touched (rawPair (entryRec e) (entryRec e))
      ((copyPairs 0x90 b []).map (·.2))).any (fun a => s.byteAt R (s.partOf R) (s.ctxOf R) (dstSide b e 0).space a true == .outside)) = false) (h6 : s.slotView R (BitVec.ofNat 64 (bw b 20 + bw b 21 * 2 ^ 32)) ≠ .bad) :
    s.copyCheck R f oCopy 0x90 b = .ok (e, e, []) := by
  obtain ⟨h1, h2, h3⟩ := h1
  have d0 : (srcSide b e).space = 0 := by unfold srcSide Side.ofEntry; simp [h5]
  unfold State.copyCheck
  rw [hl]; dsimp only
  rw [show oCopy.h.toNat = 51 from rfl, show oCopy.x.toNat = 51 from rfl, h]
  dsimp only
  rw [if_neg (by simp [h1, h2]), if_neg (by simp [h3]), if_neg (by simp [h4.1, h4.2.1, h4.2.2]), if_pos (rfl : (0x90 : Nat) = 0x90), if_neg (by rw [h8]; nofun)]
  rw [if_neg (by simp [d0])]
  split
  · exact absurd ‹_› h6
  · rfl
  · rfl
  · rw [if_neg (fun h => h.1 rfl)]

def Wcopy (b : List Word) : State := withBlock b Wsealed
theorem witness_copy_issue : ((fl (Wcopy (block1))).s 79).extractLsb' 8 24 = 0 ∧ (((fl (Wcopy (block1 0x40))).s 79).extractLsb' 4 3).toNat = 4 ∧
    ((Wcopy (block1)).part 0).desc.strms.getLsbD 0 = true ∧ (W.part 0).desc.strms.getLsbD 0 = false ∧ fieldAt Lseal.record 0x10 8 / 2 ^ 32 % 32 = 0 ∧
    fieldAt (rec_ [(0x14, 1, 1)]) 0x10 8 / 2 ^ 32 % 32 = 1 ∧ (fl (Wcopy block1)).nCopies < 14 ∧ (Wcopy block1).slotView R 0 = .none ∧
    (Wcopy (block1)).launchOf R = some Lseal ∧ pairOk (block1) (entryRec sealed1) (entryRec sealed1) = true := by decide +kernel
theorem handle_block (b : List Word) (s : State) (f : Flight) (l : Launch) (h : Word) : (withBlock b s).handleCheck f l h = s.handleCheck f l h := rfl
theorem copy_handle (b : List Word) (h : (fl (Wcopy b)).s 51 = 0x10100) (h1 : (fl (Wcopy b)).accs = []) : (Wcopy b).handleCheck (fl (Wcopy b)) Lseal ((fl (Wcopy b)).s 51) = .ok sealed1 := by
  rw [h]
  exact (handle_block b Wsealed _ Lseal 0x10100).trans (handle_sealed h1)
theorem witness_copy_check : (Wcopy block1).copyCheck R (fl (Wcopy block1)) oCopy 0x90 block1 = .ok (sealed1, sealed1, []) :=
  check_of (l := Lseal) (by decide +kernel) (copy_handle _ (by decide +kernel) (by decide +kernel)) (by decide +kernel)
    (by decide +kernel) (by decide +kernel) (by decide +kernel) (by decide +kernel)
theorem witness_bad_handle : isErr (Wsealed.handleCheck F L 0x101) 1 = true ∧ isErr (W.handleCheck F L 0) 1 = true ∧
    ({ F with accs := [acc1 (.unseal 0x10100) 0x5000 4 []] } : Flight).unsealing 0x10100 = true ∧ F.unsealing 0x10100 = false := by decide +kernel

/-- Spool 0x01000000_00000000 in the workgroup's scratchpad: four slots of 64 bytes at 0x100, with these counters. -/
def sname : Dword := 0x0100000000000000
def spooled (rd wr rsv : Nat) (s : State) : State := [(0, 8, 0x100), (8, 4, 64), (12, 1, 3), (15, 1, 1), (16, 4, 7), (20, 4, rd), (24, 4, wr), (28, 4, rsv)].foldl
  (fun (s : State) p => s.putNat (spKey 0 0 + p.1) p.2.1 p.2.2) (s.modWg 1 (fun g => { g with scratchBytes := 16384 }))
def Wspool (rd wr rsv : Nat) : State := spooled rd wr rsv (withF (setS [(21, 0x01000000)]))
def srec (s : State) : List Nat × List Byte := (s.spool R sname).getD ([], [])
theorem witness_spool : nameOk sname = true ∧ (fl (Wspool 1 3 4)).s64 20 = sname ∧ (Wspool 1 3 4).spoolFar sname = false ∧ ((Wspool 1 3 4).spool R sname).isSome = true ∧
    spRd (srec (Wspool 1 3 4)).2 = 1 ∧ spWr (srec (Wspool 1 3 4)).2 = 3 ∧ spSlots (srec (Wspool 1 3 4)).2 = 4 ∧
    spWr (srec (Wspool 3 3 4)).2 = spRd (srec (Wspool 3 3 4)).2 ∧ ((Wspool 1 3 4).spoolSt (srec (Wspool 1 3 4)).1).failed = [] ∧
    (spRsv (srec (Wspool 1 3 4)).2 - spRd (srec (Wspool 1 3 4)).2).toNat = 3 ∧ (spRsv (srec (Wspool 1 3 5)).2 - spRd (srec (Wspool 1 3 5)).2).toNat = 4 ∧
    (Wspool 1 3 5).slotView R sname = .full ∧ W.spool R sname = none ∧ nameOk 0x0200000000000000 = false ∧
    nameOk 0x0000800000000000 = true ∧ W.spoolFar 0x0000800000000000 = true ∧ W.reaches 0 0 = false := by decide +kernel
/-- The domain of W's context on and a plane up; a spool of device 1, in which its core has a shadow. -/
def reach (s : State) : State := { s.modCtx 0 0 (fun c => { c with dom := { c.dom with domen := true, domid := 4, peers := 2 } }) with planes := 1 }
def fname : Dword := 0x0000800000000000
def shadow1 (slots : Nat) : Shadow := { part := 0, name := fname, spoolRec := toBytes 8 0x100 ++ toBytes 4 64 ++ [BitVec.ofNat 8 slots, 0, 0, 1] ++ List.replicate 48 0, rd := 3, later := [], wr := 3, rsv := 4, st := .none, used := 0 }
theorem witness_far_spool : W.slotView R fname = .fetch ∧ ((W.modCore 0 (fun c => { c with shadows := [shadow1 3] })).slotView R fname = .claim 4 (shadow1 3).spoolRec) ∧
    (W.modCore 0 (fun c => { c with shadows := [shadow1 0] })).slotView R fname = .full ∧ (reach W).reaches 0 0 = true ∧ spState (shadow1 3).spoolRec = 1 ∧
    (fl (withF (fun f => { f with opBuf := some [] }))).opBuf = some [] ∧ spState (List.replicate 64 0) ≠ 1 ∧ vaDev fname = 1 ∧ W.spoolClass R fname = 2048 ∧
    (({ Wpend with uid := 20 } : State).modFlight R (fun f => { f with opDue := none, opBuf := none })).flight? R = some (fl Wpend) ∧ (fl Wpend).accessesDone = false := by decide +kernel
/-- Names of this device's global memory: their page is not mapped; locked pages and pages without the right are told apart by the same function. -/
theorem witness_spool_stops : (W.slotView R 0x8000 = .stop (.trap 8 0 0x8000)) ∧ (WP false 0 id).spaceStop R 0 0x8000 64 true = none ∧
    (Wspool 1 3 4).spaceStop R 1 0 64 true = none ∧ W.spaceStop R 1 0 64 true = none ∧ W.spaceStop R 0 0x8000 64 false = some (.trap 8 0 0x8000) := by decide +kernel
theorem witness_spool_failed : ((({ Wspool 1 3 4 with spools := [(spKey 0 0, ⟨[2, 3], [], []⟩)] } : State)).spoolSt (srec (Wspool 1 3 4)).1).failed = [2, 3] := by
  decide +kernel
theorem witness_spinit : (Wspool 3 3 3).spinitCode R sname 0x100 64 3 0 = 0 ∧ (Wspool 1 3 4).spinitCode R sname 0x100 64 3 0 = 4 ∧
    (Wspool 3 3 3).spinitCode R sname 0x100 64 2 0 = 2 ∧ (Wspool 3 3 3).spinitCode R sname 0x4000 64 0 0 = 3 ∧
    ((Wspool 3 3 3).spaceKeys R (spSpace sname) (spAddr sname) (64 + 8 * 4) true).isSome = true := by decide +kernel

/-- A copy into a slot of the spool. -/
def Wclaim : State := spooled 1 3 4 (Wcopy (block1 4 sname))
theorem handle_wg (s : State) (h : Wg → Wg) (f : Flight) (l : Launch) (x : Word) : (s.modWg 1 h).handleCheck f l x = s.handleCheck f l x := rfl
theorem witness_claim : Wclaim.slotView R sname = .claim 4 (srec Wclaim).2 ∧ (dstSide (block1 4 sname) sealed1 (4 % 4 * 64)).space = spSpace sname := by
  decide +kernel
theorem witness_claim_inside (b : List Word) (hb : b = (block1 4 sname).set 18 0x100) :
    ∀ a ∈ (dstSide b sealed1 (4 % 4 * 64)).touched (rawPair (entryRec sealed1) (entryRec sealed1)) ((copyPairs 0x90 b []).map (·.2)),
      (spBuf (srec Wclaim).2 : Int) ≤ a ∧ a < ((spBuf (srec Wclaim).2 + spSlots (srec Wclaim).2 * spSlotBytes (srec Wclaim).2 : Nat) : Int) := by
  subst hb; decide +kernel
theorem witness_claim_outside : ¬ ∀ a ∈ (dstSide (block1 4 sname) sealed1 (4 % 4 * 64)).touched (rawPair (entryRec sealed1) (entryRec sealed1))
      ((copyPairs 0x90 (block1 4 sname) []).map (·.2)),
      (spBuf (srec Wclaim).2 : Int) ≤ a ∧ a < ((spBuf (srec Wclaim).2 + spSlots (srec Wclaim).2 * spSlotBytes (srec Wclaim).2 : Nat) : Int) := by
  decide +kernel

/-- W's streamer with a copy of one element, as its owner's one copy. -/
def copy1 : Copy := ⟨R, 0, 0, 1, 0, 0, 0x90, block1, [], sealed1, sealed1, none, 0xFFFFFFFF, 0, 0, 0, false, [], 0, 0, none, none, 0, none, none, []⟩
def Wcopying (h : Copy → Copy := id) : State := (Wsealed.modCore 0 (fun c => { c with copies := [(5, h copy1)] })).modFlight R (fun f => { f with nCopies := 1 })
theorem witness_copy_complete : look ((Wcopying).core 0).copies 5 = some copy1 ∧ (Wcopying).det R = false ∧
    (let p := (Wcopying).copyPlan copy1
     copy1.brought (Wcopying) p.1 p.2.2.1 = true ∧ (Wcopying).copyBad copy1 p.1 p.2.1 p.2.2.1 p.2.2.2.1 = none ∧
     (∀ x ∈ p.2.2.2.1, (Wcopying).isFar x.1 = false)) ∧ (Wcopying).copyPeer copy1 = (Wcopying).image.devIdx.toNat := by decide +kernel
/-- Its moves: the snapshot; the words for other devices; words; the slot word, the write pointer, the record. -/
def snap1 (h : Copy → Copy := id) : Copy := h { copy1 with snap := some [(0x8000, 7), (0x8001, 9)] }
def left1 (c : Copy) : WriteTab := (c.rest ((Wcopying).copyPlan c).2.2.2.1).filter (fun q => ((Wcopying).copyPlan c).2.1.space != 0 || !(Wcopying).isFar q.1)
theorem witness_copy_moves : (let p := (Wcopying).copyPlan copy1
     (Wcopying).firstBad R 0 0 p.1.space false p.2.2.1 = none ∧ copy1.snap = none ∧ copy1.stage = 0) ∧
    (let p := (Wcopying).copyPlan (snap1)
     (Wcopying).copyBad (snap1) p.1 p.2.1 p.2.2.1 p.2.2.2.1 = none ∧ (∀ q ∈ p.2.2.2.1, (Wcopying).isFar q.1 = false)) ∧
    (left1 (snap1 (fun c => { c with stage := 1 }))).map (·.1) = [0x8000, 0x8001] ∧
    left1 (snap1 (fun c => { c with stage := 1, given := [0x2000] })) = [] ∧
    (snap1 (fun c => { c with stage := 1, given := [0x2000], left := 3 })).left ≠ 0 ∧ (snap1 (fun c => { c with stage := 1, given := [0x2000] })).left = 0 := by
  decide +kernel
def Wslot (dones : List Word) : State := { spooled 1 3 4 (Wcopying (fun _ => snap1 (fun c => { c with stage := 1, given := [0x2030], spool := some sname, count := 3, disp := 192, wordAt := 88 }))) with
  spools := [(spKey 0 0, ⟨[], dones, []⟩)] }
theorem witness_copy_slot : ((Wslot []).spoolRec R sname).isSome = true ∧ (Wslot []).spoolFar sname = false ∧
    ((Wslot []).spaceKeys R (spSpace sname) 88 8 true).isSome = true ∧
    ((Wslot [3, 4]).spoolSt (srec (Wslot [])).1).dones.contains (spWr (srec (Wslot [])).2) = true ∧
    ((Wslot [4]).spoolSt (srec (Wslot [])).1).dones.contains (spWr (srec (Wslot [])).2) = false ∧
    (let c := snap1 (fun c => { c with stage := 1, given := [0x2030], spool := some sname, count := 3, disp := 192, wordAt := 88 })
     let p := (Wslot []).copyPlan c
     (Wslot []).copyBad c p.1 p.2.1 p.2.2.1 p.2.2.2.1 = none ∧ c.rest p.2.2.2.1 = []) := by decide +kernel
/-- Its source unmapped; with a fault queue, and without. -/
def Wcopybad (q : Word) : State := (({ Wcopying with mem := [] } : State)).modCtx 0 0 (fun c => { c with trans := { c.trans with fqsize := q } })
theorem witness_copy_fault : look ((Wcopybad 0).core 0).copies 5 = some copy1 ∧
    (let p := (Wcopybad 0).copyPlan copy1
     (match (Wcopybad 0).copyBad copy1 p.1 p.2.1 p.2.2.1 p.2.2.2.1 with
      | some (_, .page e, false) => decide ((Wcopybad 0).engineCause 0 0 (.page e) = some 8)
      | _ => false) = true) ∧ ((Wcopybad 4).transOf 0 0).fqsize ≠ 0 ∧ (Wcopybad 4).faultRoom 0 0 8 = true ∧
    ((Wcopybad 4).modCtx 0 0 (fun c => { c with fqring := { c.fqring with prod := 4, cons := 0 } })).faultRoom 0 0 8 = false ∧ copy1.paused = none := by decide +kernel
/-- A copy from another device whose path is lost. -/
def far1 : Copy := { copy1 with src := sealed1.set 5 0x80, stage := 1, lost := some 1 }
theorem witness_copy_lost : look ((Wcopying (fun _ => far1)).core 0).copies 5 = some far1 ∧ (Wcopying (fun _ => far1)).copyPeer far1 = 1 ∧ far1.lost ≠ none ∧ (W.image.devIdx.toNat = 0) := by decide +kernel
/-- The mapped pages are SPAN pages, and no plane is live: a spool record there, and the destination of a copy. -/
def spanned (s : State) : State := { s.putNat 0x2007 1 0xC0 with planes := 0 }
def copied : Copy := snap1 (fun c => { c with stage := 1 })
theorem witness_cut : (spanned (WP false 0 id)).byteAt R 0 0 0 0x8000 true = .cut ∧ (spanned (WP false 0 id)).spoolAway R 0x8000 = true ∧ W.spoolAway R sname = false ∧ (spanned (WP false 0 id)).reaches 0 0 = false ∧
    (spanned (WP false 0 id)).spaceMapped R 0 0x8000 96 = true ∧ (spanned (WP false 0 id)).spaceStop R 0 0x8000 96 true = none ∧ (spanned (WP false 0 id)).spaceKeys R 0 0x8000 96 true = none ∧
    (let s := spanned (Wcopying (fun _ => copied))
     let p := s.copyPlan copied
     s.copyBad copied p.1 p.2.1 p.2.2.1 p.2.2.2.1 = some (0x8000, .cut, true)) := by decide +kernel
/-- A copy that feeds a slot of device 1's spool, of which its core has a shadow: each stage after its last word. -/
def farSlot (st : Nat) : Copy := snap1 (fun c => { c with stage := st, given := [0x2000], spool := some fname, count := 3 })
def Wfarslot (st : Nat) (dones : List Word) : State := (Wcopying (fun _ => farSlot st)).modCore 0 (fun c => { c with shadows := [{ shadow1 3 with st := ⟨[], dones, []⟩ }] })
theorem witness_copy_slot_far : (Wfarslot 1 []).spoolFar fname = true ∧ ((Wfarslot 1 []).core 0).shadow 0 fname = some (shadow1 3) ∧ (farSlot 3).rest ((Wfarslot 3 []).copyPlan (farSlot 3)).2.2.2.1 = [] ∧
    (Wfarslot 3 []).copyBad (farSlot 3) ((Wfarslot 3 []).copyPlan (farSlot 3)).1 ((Wfarslot 3 []).copyPlan (farSlot 3)).2.1 ((Wfarslot 3 []).copyPlan (farSlot 3)).2.2.1
      ((Wfarslot 3 []).copyPlan (farSlot 3)).2.2.2.1 = none ∧ [(3 : Word)].contains (shadow1 3).wr = true ∧ [(4 : Word)].contains (shadow1 3).wr = false ∧
    (farSlot 1).left = 0 ∧ (∀ p ∈ ((Wfarslot 3 [3]).core 0).copies, p.2.stage ≠ 4 ∨ p.2.spool ≠ some fname ∨ p.2.part ≠ (farSlot 3).part) := by decide +kernel
/-- A slot word that stands, on this device and on another; a failure before and after; data that is uncorrectable. -/
theorem witness_slot_stands : (Wslot []).slotStands (snap1 (fun c => { c with stage := 2, spool := some sname })) = true ∧ (Wslot []).slotStands (snap1 (fun c => { c with stage := 1, spool := some sname })) = false ∧
    (Wfarslot 3 []).slotStands (farSlot 3) = true ∧ (Wfarslot 2 []).slotStands (farSlot 2) = false ∧ (Wcopying).slotStands far1 = false ∧
    (Wcopying).poisonedSide R 0 0 0 ((Wcopying).copyPlan copy1).2.2.1 = false ∧
    ({ Wcopying with poison := [0x100] } : State).poisonedSide R 0 0 0 ((Wcopying).copyPlan copy1).2.2.1 = true := by decide +kernel
theorem witness_records : ((Wcopying).pfRing 48).full = true ∧ (({ Wcopying with pfRings := [(48, { base := 0x6000, size := 1, prod := 0, cons := 0 })] } : State).pfRing 48).full = false ∧
    (({ Wcopying with pfRings := [(48, { base := 0x6000, size := 4, prod := 4, cons := 0 })] } : State).pfRing 48).full = true ∧
    ({ ({ base := 0x6000, size := 4, prod := 4, cons := 0 } : Ring) with cons := 0 + BitVec.ofNat 32 (min 1 ((4 : Word) - 0).toNat) } : Ring).full = false ∧
    (((Wcopying).modDie 0 (fun d => { d with evWait := [(some R, List.replicate 32 1)] })).die 0).evWait = [(some R, List.replicate 32 1)] ∧ (Wcopying).dies.length = 4 ∧ ((Wcopying).die 0).evWait = [] := by decide +kernel
theorem witness_spool_timeout : ((Wspool 1 3 4).spoolLimit R sname = 7) ∧ W.spoolLimit R sname = 0 ∧ (Wspool 1 3 4).det R = false ∧
    0 + 7 * 1000 < ({ Wspool 1 3 4 with clk := 7001 } : State).now R ∧ ¬ 0 + 7 * 1000 < ({ Wspool 1 3 4 with clk := 7000 } : State).now R ∧
    (Wspool 1 3 4).accessible R = true ∧ ({ F with wait := .copySlot sname, copyHeld := some 0 } : Flight).copyHeld = some 0 := by decide +kernel
theorem witness_shadow : (W.core (W.coreOf R)).shadow 0 sname = none ∧
    (({ Core.reset with shadows := [{ part := 0, name := sname, spoolRec := [], rd := 0, later := [], wr := 0, rsv := 0, st := .none, used := 0 }] } : Core).shadow 0 sname).isSome = true ∧ (W.core 0).dropShadow.length < 64 ∧ spRd (shadow1 3).spoolRec = 0 ∧ (3 - (shadow1 3).newest).toNat ≤ spSlots (shadow1 3).spoolRec ∧ ¬ (1 - (shadow1 3).newest).toNat ≤ spSlots (shadow1 3).spoolRec ∧
    ((withF (fun f => { f with wait := .copySlot fname })).flight? R).map (·.wait) = some (.copySlot fname) ∧
    isOk (decode F.dctx (encode (.cpy oCopy))) (.cpy oCopy) = true := by
  decide +kernel

/-- Name 0 bound to tile 77, and the block of a pass of BF16 by BF16, or of a store or load of BF16, in s64–s67. -/
def tile1 : Tile := { wg := 1, name := 0, granted := true, bound := true, ops := 1, vals := List.replicate 8192 0, eff := 0, phys := 0 }
def mblock (w0 : Word) : List Word := [w0, 0, 0, 0]
def Wmat (w0 : Word) : State := withBlock (mblock w0) ((Wsealed.modWg 1 (fun g => { g with acc := some 77 :: g.acc.drop 1, scratchBytes := 16384 })).modMxe 0
  (fun m => { m with tiles := [(77, tile1)] }))
def oTile : EFmt := ⟨7, 0, 64, 51, 32, 0, 0, false, 0⟩
theorem handle_mxe (s : State) (q : Nat) (h : Mxe → Mxe) (f : Flight) (l : Launch) (x : Word) : (s.modMxe q h).handleCheck f l x = s.handleCheck f l x := rfl
theorem mat_handle (w0 : Word) (h : (fl (Wmat w0)).s 51 = 0x10100) (h1 : (fl (Wmat w0)).accs = []) : (Wmat w0).handleCheck (fl (Wmat w0)) Lseal ((fl (Wmat w0)).s 51) = .ok sealed1 := by
  rw [h]
  exact ((handle_block _ _ _ Lseal 0x10100).trans ((handle_mxe _ 0 _ _ Lseal 0x10100).trans (handle_wg _ _ _ Lseal 0x10100))).trans (handle_sealed h1)
theorem mma_of {s : State} {f : Flight} {b : List Word} {l : Launch} {e : List Byte} {tile : Nat} (h0 : mmaZeroBits b = false)
    (h1 : passPair (mmaA b) (mmaB b) = some (32, true, false)) (h2 : (s.wgOf R).bind (fun g => g.accTile (mmaAcc b)) = some tile)
    (hl : s.launchOf R = some l) (h : s.handleCheck f l (f.s 51) = .ok e) (h3 : mmaRecOk false b (entryRec e) = true) (h4 : mmaInside b (entryRec e) = true)
    (h5 : s.anyOutside R (matSide e (mmaSpace b) (mmaRoot b)) true false (mmaCoords b) = false) : s.mmaCheck R f oTile false b = .ok (tile, e) := by
  unfold State.mmaCheck
  rw [show oTile.h.toNat = 51 from rfl]
  simp [h0, h1, h2, hl, h, h3, h4, h5]
theorem acc_of {s : State} {f : Flight} {b : List Word} {l : Launch} {e : List Byte} {tile : Nat} (h0 : accZeroBits b = false)
    (h1 : ∀ st, accBad st false b = false) (h2 : (s.wgOf R).bind (fun g => g.accTile (accAcc b)) = some tile)
    (hl : s.launchOf R = some l) (h : s.handleCheck f l (f.s 51) = .ok e) (h3 : accRecOk false b (entryRec e) = true) (h4 : accInside false b (entryRec e) = true)
    (h5 : accSpace b = 0) (st : Bool) : s.accCheck R f oTile st false b = .ok (tile, e) := by
  have h6 : (accSide b e).space = 0 := by unfold accSide; rw [if_pos h5]; rfl
  unfold State.accCheck State.anyOutside
  rw [show oTile.h.toNat = 51 from rfl]
  simp [h0, h1, h2, hl, h, h3, h4, h6]
theorem witness_acc_check (st : Bool) : (Wmat 0x100000).accCheck R (fl (Wmat 0x100000)) oTile st false (mblock 0x100000) = .ok (77, sealed1) :=
  acc_of (l := Lseal) (by decide +kernel) (by decide +kernel) (by decide +kernel) (by decide +kernel) (mat_handle _ (by decide +kernel) (by decide +kernel)) (by decide +kernel)
    (by decide +kernel) (by decide +kernel) st
/-- Every address a side touches lies in the workgroup's 16 KiB of scratchpad. -/
def within (d : Side) (scales : Bool) (cs : List (List Nat)) : Bool := d.space == 1 && (d.touched scales cs).all (fun a => decide (0 ≤ a) && decide (a < 16384))
def byteKey (s : State) (a : Int) : Nat := spKey ((s.wgOf R).getD default).core (((s.wgOf R).getD default).scratchBase + a.toNat)
theorem scratch_byte {s : State} {g : Wg} {p c : Nat} {a : Int} {w : Bool} (hg : s.wgOf R = some g) (h : g.scratchBytes = 16384) (h0 : 0 ≤ a)
    (h1 : a < 16384) : s.byteAt R p c 1 a w = .here (spKey g.core (g.scratchBase + a.toNat)) := by
  have h2 : a.toNat + 1 ≤ 16384 := by omega
  simp [State.byteAt, hg, State.spaceAddr, h, h1, Int.not_lt.mpr h0]
theorem within_inside {s : State} {g : Wg} {d : Side} {scales w : Bool} {cs : List (List Nat)} (hg : s.wgOf R = some g) (h : g.scratchBytes = 16384)
    (hw : within d scales cs = true) : s.anyOutside R d scales w cs = false := by
  simp only [within, Bool.and_eq_true, beq_iff_eq, List.all_eq_true, decide_eq_true_eq] at hw
  obtain ⟨hd, ht⟩ := hw
  simp only [State.anyOutside, Bool.and_eq_false_imp]
  intro _
  rw [List.any_eq_false]
  intro a ha
  rw [hd, scratch_byte hg h (ht a ha).1 (ht a ha).2, beq_iff_eq]
  nofun
theorem within_good {s : State} {g : Wg} {e : MxeEntry} (hr : e.owner = R) (hg : s.wgOf R = some g) (h : g.scratchBytes = 16384)
    (hw : within (accSide e.block e.handle) e.quant (accCoords e.block) = true) : s.matBad e = [] := by
  simp only [within, Bool.and_eq_true, beq_iff_eq, List.all_eq_true, decide_eq_true_eq] at hw
  obtain ⟨hd, ht⟩ := hw
  unfold State.matBad
  rw [List.filter_eq_nil_iff]
  intro p hp
  obtain ⟨a, ha, rfl⟩ := List.mem_map.mp hp
  dsimp only
  have hs : (accSide e.block e.handle).space = accSpace e.block := by unfold accSide; split <;> simp_all [matSide, Side.ofEntry]
  have hb := ht a (List.mem_of_mem_filter ha)
  rw [hr, ← hs, hd, scratch_byte hg h hb.1 hb.2]
  exact Bool.false_ne_true
/-- The sealed record of Wsealed, field by field. -/
def rec1 : TRec := ⟨0x8000, 1, 2, false, [128, 64, 0, 0, 0], [0, 256, 0, 0, 0], 0, 0, 0, 0, 0, 0⟩
theorem rec1_eq : entryRec sealed1 = rec1 := by decide +kernel
theorem side_eq (root : Nat) (plane : Int) : Side.ofEntry sealed1 1 root plane 0 = ⟨1, rec1, [], entryCb sealed1, root, plane, 0⟩ := by
  unfold Side.ofEntry; rw [rec1_eq]; rfl
theorem elem1 (cb : List Half) (p : Int) (n k : Nat) : (Side.elem ⟨1, rec1, [], cb, 0, p, 0⟩ [n, k, 0, 0, 0]) = (256 * (k : Int) + 2 * (n : Int), 0) := by
  simp [Side.elem, TRec.elemAddr, TRec.rowAddr, rec1, co, elemOff, fmtBits, List.range_succ]
  omega
theorem within1 (cb : List Half) (p : Int) (sc : Bool) (cs : List (List Nat)) (h : ∀ c ∈ cs, ∃ n k, c = [n, k, 0, 0, 0] ∧ n < 128 ∧ k < 64) :
    within ⟨1, rec1, [], cb, 0, p, 0⟩ sc cs = true := by
  simp only [within, Side.touched, rec1, bne_self_eq_false, Bool.and_false, Bool.false_eq_true, if_false, List.append_nil, beq_self_eq_true, Bool.true_and,
    List.all_eq_true, List.mem_flatMap]
  rintro a ⟨c, hc, ha⟩
  obtain ⟨n, k, rfl, hn, hk⟩ := h c hc
  have he := elem1 cb p n k
  unfold rec1 at he
  rw [Side.elemBytes, he] at ha
  obtain ⟨i, hi, rfl⟩ := List.mem_map.mp ha
  have : i < 2 := by simpa [elemSpan, fmtBits] using hi
  simp; omega
theorem witness_mma_within : within (matSide sealed1 (mmaSpace (mblock 0x1100000)) (mmaRoot (mblock 0x1100000))) true (mmaCoords (mblock 0x1100000)) = true := by
  unfold matSide
  rw [show mmaSpace (mblock 0x1100000) = 1 from by decide +kernel, side_eq]
  refine within1 _ _ _ _ (fun c hc => ?_)
  simp only [mmaCoords, List.mem_flatMap, List.mem_map, List.mem_range] at hc
  obtain ⟨k, hk, j, hj, rfl⟩ := hc
  have : mmaK (mblock 0x1100000) = 32 := by decide +kernel
  refine ⟨j, k, ?_, hj, by omega⟩
  simp [mmaCoord, mblock, bw, mmaTr, bitAt]
theorem witness_mma_check : (Wmat 0x1100000).mmaCheck R (fl (Wmat 0x1100000)) oTile false (mblock 0x1100000) = .ok (77, sealed1) :=
  mma_of (l := Lseal) (by decide +kernel) (by decide +kernel) (by decide +kernel) (by decide +kernel) (mat_handle _ (by decide +kernel) (by decide +kernel)) (by decide +kernel)
    (by decide +kernel) (within_inside (g := wgp (Wmat 0x1100000)) (by decide +kernel) (by decide +kernel) witness_mma_within)

theorem witness_tile_room : TileRoom (Wmat 0) R (fl (Wmat 0)) ∧ (Wmat 0).latchesLive 0 < 16 ∧ ((Wmat 0).mxe (quadOfCore ((Wmat 0).coreOf R))).latch R = none ∧
    (wgp (Wmat 0)).accTile 0 = some 77 ∧ ((Wmat 0).mxe 0).tiles.map (·.1) = [77] ∧ (wgp (Wmat 0)).accTile 1 = none ∧
    (14 ≤ ({ fl (Wmat 0) with nTiles := 14 } : Flight).nTiles) := by unfold TileRoom; decide +kernel
/-- An entry of the matrix engine, and Wmat with it. -/
def entry (op : Nat) (b : List Word := mblock 0x1100000) : MxeEntry := ⟨R, 0, 0, 1, 0, 0, op, false, b, sealed1, [], [], [], 77, 0, 0, false, 0, 0, none, false, [], 0, none, [], none⟩
def Wq (e : MxeEntry) (h : Mxe → Mxe := id) : State := (Wmat 0).modMxe 0 (fun m => h { m with entries := [(90, e)] })
/-- The table with 32 waiting entries, and sixteen latches that other flights hold. -/
def full32 (m : Mxe) : Mxe := { m with entries := (List.range 32).map (fun i => (100 + i, entry 0xA0)) }
def latched (n : Nat) (m : Mxe) : Mxe := { m with latches := (List.range n).map (fun i => ⟨.wg 1 (i + 1), [], [], []⟩) }
theorem witness_tile_waits : 32 ≤ ((Wq (entry 0xA0) full32).mxe 0).waiting.length ∧ 16 ≤ (Wq (entry 0xA0) (latched 16)).latchesLive 0 ∧
    (((Wq (entry 0xA0) (fun m => { m with latches := [⟨R, [], [], []⟩] })).mxe 0).latch R).isSome = true := by decide +kernel
theorem witness_tile_checks : mmaZeroBits (mblock 0x10000000) = true ∧ mmaZeroBits (mblock 0x9100000) = false ∧ passPair 9 1 = none ∧
    passPair (mmaA (mblock 0x1100000)) (mmaB (mblock 0x1100000)) = some (32, true, false) ∧ accZeroBits (mblock 1) = true ∧ accZeroBits (mblock 0x170000) = false ∧
    3 < accRm (mblock 0x170000) ∧ accBad true false (mblock 0x100000) = false ∧ isErr (W.handleCheck F L 0) 1 = true := by decide +kernel

theorem grant_hyps (op : Nat) (h : Mxe → Mxe) (hh : ((Wq (entry op) h).mxe 0).fenced = false ∧ look ((Wq (entry op) h).mxe 0).entries 90 = some (entry op) ∧
    (Wq (entry op) h).arbiter 0 = some 90 ∧ (Wq (entry op) h).det R = false ∧ ((Wq (entry op) h).mxe 0).freeAt ≤ (Wq (entry op) h).clk.toNat) :
    look ((Wq (entry op) h).mxe 0).entries 90 = some (entry op) ∧ (Wq (entry op) h).arbiter 0 = some 90 ∧ ((Wq (entry op) h).mxe 0).fenced = false ∧
      ((Wq (entry op) h).det R = true ∨ ((Wq (entry op) h).mxe 0).freeAt ≤ (Wq (entry op) h).clk.toNat) :=
  ⟨hh.2.1, hh.2.2.1, hh.1, .inr hh.2.2.2.2⟩
theorem witness_grant_pass : (Wq (entry 0xA0)).arbiter 0 = some 90 ∧ ((Wq (entry 0xA0)).mxe 0).fenced = false ∧ ((Wq (entry 0xA0)).mxe 0).freeAt ≤ (Wq (entry 0xA0)).clk.toNat ∧
    ((Wq (entry 0xA0)).die 0).mxchk = 64 ∧ (((Wq (entry 0xA0)).mxe 0).passes + 1) % 64 ≠ 0 := by decide +kernel
theorem witness_grant_checked : (Wq (entry 0xA0) (fun m => { m with passes := 63 })).arbiter 0 = some 90 ∧
    (((Wq (entry 0xA0) (fun m => { m with passes := 63 })).mxe 0).passes + 1) % 64 = 0 := by decide +kernel
theorem witness_grant_accz : (Wq (entry 0xA2)).arbiter 0 = some 90 ∧ (((Wq (entry 0xA2)).mxe 0).tiles.filter (fun p => p.2.granted)).length < 32 := by decide +kernel
theorem witness_grant_accst : (Wq (entry 0xA3)).arbiter 0 = some 90 := by decide +kernel
/-- ACCLD, and a granted ACCST, of a region in the core's scratchpad. -/
def accIn (op : Nat) (g : Bool) : MxeEntry := { entry op (mblock 0x104000) with granted := g }
theorem wg_mxe (s : State) (q : Nat) (h : Mxe → Mxe) : (s.modMxe q h).wgOf R = s.wgOf R := rfl
theorem wg_mat : (Wmat 0).wgOf R = some (wgp (Wmat 0)) ∧ (wgp (Wmat 0)).scratchBytes = 16384 := by decide +kernel
theorem witness_acc_within (op : Nat) (g : Bool) : (Wq (accIn op g)).matBad (accIn op g) = [] := by
  refine within_good (g := wgp (Wmat 0)) rfl ((wg_mxe (Wmat 0) 0 _).trans wg_mat.1) wg_mat.2 ?_
  unfold accIn entry
  dsimp only
  unfold accSide
  rw [if_neg (by decide +kernel), show accSpace (mblock 0x104000) = 1 from by decide +kernel]
  unfold matSide
  rw [show bw (mblock 0x104000) 3 = 0 from by decide +kernel, side_eq]
  refine within1 _ _ _ _ (fun c hc => ?_)
  simp only [accCoords, List.mem_flatMap, List.mem_map, List.mem_range] at hc
  obtain ⟨k, hk, j, hj, rfl⟩ := hc
  refine ⟨j, k, ?_, hj, hk⟩
  simp [accCoord, mblock, bw]
theorem witness_grant_accld : (Wq (accIn 0xA4 false)).arbiter 0 = some 90 := by
  have h : (Wq (accIn 0xA4 false)).grantable 0 90 (accIn 0xA4 false) = true := by
    unfold State.grantable
    rw [witness_acc_within]
    decide +kernel
  unfold State.arbiter
  rw [show ((Wq (accIn 0xA4 false)).mxe 0).waiting = [(90, accIn 0xA4 false)] from by decide +kernel]
  simp [h]
theorem witness_not_granted : (Wq { entry 0xA0 with paused := some 1 }).arbiter 0 ≠ some 90 := by decide +kernel
theorem witness_tile_complete : look ((Wq (accIn 0xA3 true)).mxe 0).entries 90 = some (accIn 0xA3 true) ∧ sorted ((Wq (accIn 0xA3 true)).mxe 0).tiles = true ∧
    (Wq (accIn 0xA3 true)).det R = false := by decide +kernel
/-- The moves of an ACCST: it sends; it has words to write; it has written them; it waits for answers. -/
def storing : MxeEntry := { accIn 0xA3 true with sent := true }
theorem put_ne {α : Type} (m : List (Nat × α)) (k : Nat) (x : α) : put m k x ≠ [] := by
  cases m with
  | nil => nofun
  | cons p m => unfold put; split <;> (try split) <;> simp
theorem byte_ne (t : WriteTab) (a : Nat) (v m : Byte) : t.byte a v m ≠ [] := by unfold WriteTab.byte; split <;> exact put_ne _ _ _
theorem elem_ne (t : WriteTab) (a : Int) (c : Nat) : t.elem (a, 0) 2 16 c ≠ [] := by
  have h : (toBytes 2 ((2 ^ 16 - 1) * 2 ^ 0)).getD 1 0 ≠ 0 := by decide
  unfold WriteTab.elem
  rw [(List.range_succ : List.range 2 = List.range 1 ++ [1]), List.foldl_append]
  simp only [List.foldl_cons, List.foldl_nil]
  rw [if_neg h]
  exact byte_ne _ _ _ _
theorem bf16_side : elemSpan rec1.fmt = 2 ∧ fmtBits rec1.fmt = 16 := by decide
theorem last_row {α : Type} (f : α → Nat → α) (x : α) : (List.range 64).foldl f x = f ((List.range 63).foldl f x) 63 := by
  rw [(List.range_succ : List.range 64 = List.range 63 ++ [63]), List.foldl_append]; rfl
theorem last_column {α : Type} (f : α → Nat → α) (x : α) : (List.range 128).foldl f x = f ((List.range 127).foldl f x) 127 := by
  rw [(List.range_succ : List.range 128 = List.range 127 ++ [127]), List.foldl_append]; rfl
theorem stored_ne {e : MxeEntry} {cb : List Half} {p : Int} (hd : accSide e.block e.handle = ⟨1, rec1, [], cb, 0, p, 0⟩) (hq : e.quant = false)
    (hc : accCoord e.block 63 127 = [127, 63, 0, 0, 0]) : (storedTile e).1 ≠ [] := by
  unfold storedTile
  dsimp only
  rw [last_row, hd, hq, if_neg Bool.false_ne_true, last_column, hc, elem1]
  dsimp only
  rw [bf16_side.1, bf16_side.2]
  exact elem_ne _ _ _
theorem storing_handle : storing.handle = sealed1 := by simp only [storing, accIn, entry]
theorem storing_side : ∃ p, accSide storing.block storing.handle = ⟨1, rec1, [], entryCb sealed1, 0, p, 0⟩ := by
  unfold accSide
  rw [if_neg (by decide +kernel), show accSpace storing.block = 1 from by decide +kernel]
  unfold matSide
  rw [show bw storing.block 3 = 0 from by decide +kernel, storing_handle]
  exact ⟨_, side_eq 0 _⟩
theorem witness_tile_moves : (storedTile storing).1.filter (fun p => !(accSpace storing.block == 0 && (Wq storing).isFar p.1) && !storing.given.contains (p.1 / 4)) ≠ [] := by
  rw [List.filter_eq_self.2 (fun p _ => by rw [show accSpace storing.block = 1 from by decide +kernel]; rfl)]
  obtain ⟨_, h⟩ := storing_side
  exact stored_ne h (by decide +kernel) (by decide +kernel)
theorem left_given (e : MxeEntry) (b : WriteTab → Nat × (Byte × Byte) → Bool) : (storedTile { e with given := (storedTile e).1.map (fun p => p.1 / 4) }).1.filter
    (fun p => b (storedTile e).1 p && !({ e with given := (storedTile e).1.map (fun p => p.1 / 4) } : MxeEntry).given.contains (p.1 / 4)) = [] := by
  have h1 : storedTile { e with given := (storedTile e).1.map (fun p => p.1 / 4) } = storedTile e := rfl
  rw [h1, List.filter_eq_nil_iff]
  intro p hp
  have : p.1 / 4 ∈ (storedTile e).1.map (fun p => p.1 / 4) := List.mem_map_of_mem hp
  simp [this]
def stored1 : MxeEntry := { storing with given := (storedTile storing).1.map (fun p => p.1 / 4) }
theorem witness_tile_written : (storedTile stored1).1.filter (fun p => !(accSpace stored1.block == 0 && (Wq stored1).isFar p.1) && !stored1.given.contains (p.1 / 4)) = [] :=
  left_given storing (fun _ p => !(accSpace stored1.block == 0 && (Wq stored1).isFar p.1))
/-- A region of global space that is not mapped, with a fault queue and without. -/
def Wbad (op : Nat) (g : Bool) (q : Word) : State := ({ Wq { entry op (mblock 0x100000) with granted := g } with mem := [] } : State).modCtx 0 0
  (fun c => { c with trans := { c.trans with fqsize := q } })
theorem witness_tile_deterministic : (Wq (accIn 0xA3 true)).tileFar (accIn 0xA3 true) = [] ∧ (accIn 0xA3 true).left = 0 ∧ (accIn 0xA3 true).sent = false ∧
    accSpace (accIn 0xA3 true).block = 1 ∧ ((Wq (accIn 0xA3 true)).modPart 0 (fun p => { p with desc := { p.desc with ctl := 5 } })).det R = true ∧
    ((Wq (accIn 0xA3 true)).flight? R).isSome = true ∧ ({ accIn 0xA3 true with due := 1 } : MxeEntry).due > W.now R ∧
    (Wbad 0xA4 false 4).faultRoom 0 0 8 = true ∧
    ((Wbad 0xA4 false 4).modCtx 0 0 (fun c => { c with fqring := { c.fqring with prod := 4, cons := 0 } })).faultRoom 0 0 8 = false := by decide +kernel
theorem witness_matrix_fault (op : Nat) (g : Bool) (h : (op, g) = (0xA3, true) ∨ (op, g) = (0xA4, false)) :
    (match ((Wbad op g 0).matBad { entry op (mblock 0x100000) with granted := g }).find? (fun p => p.1 == 0x8000) with
      | some (_, .page e) => decide ((Wbad op g 0).engineCause 0 0 (.page e) = some 8)
      | _ => false) = true ∧ ((Wbad op g 0).mxe 0).first 90 { entry op (mblock 0x100000) with granted := g } = true := by
  obtain ⟨rfl, rfl⟩ | ⟨rfl, rfl⟩ : (op = 0xA3 ∧ g = true) ∨ (op = 0xA4 ∧ g = false) := by simpa using h
  · decide +kernel
  · decide +kernel
theorem witness_matrix_page : (match ((Wbad 0xA4 false 4).matBad (entry 0xA4 (mblock 0x100000))).find? (fun p => p.1 == 0x8000) with
      | some (_, .page _) => true
      | _ => false) = true ∧ ((Wbad 0xA4 false 4).transOf 0 0).fqsize ≠ 0 := by decide +kernel
theorem witness_matrix_poison : (Wq (accIn 0xA4 false)).poisonedSide R 0 0 1 (accIn 0xA4 false).addrs = false ∧
    ({ Wq (entry 0xA4 (mblock 0x100000)) with poison := [0x100] } : State).poisonedSide R 0 0 0 (entry 0xA4 (mblock 0x100000)).addrs = true := by decide +kernel
/-- The region lies on a SPAN page, and no plane is live. -/
theorem witness_matrix_cut : ((spanned (Wq (entry 0xA4 (mblock 0x100000)))).matBad (entry 0xA4 (mblock 0x100000))).find? (fun p => p.1 == 0x8000) = some (0x8000, .cut) := by decide +kernel
theorem witness_prio_raise : (Wq (entry 0xA0)).clk.toNat < (entry 0xA0).since + (256 * 1000 + W.mhz - 1) / W.mhz ∧
    (entry 0xA0).since + (256 * 1000 + W.mhz - 1) / W.mhz ≤ ({ Wq (entry 0xA0) with clk := 1000 } : State).clk.toNat := by decide +kernel
theorem witness_pass_value : ((List.replicate 32 (FVal.fin { neg := true, m := 0, e := 0 })).all (fun p => !p.isNan)) = true ∧ (FVal.inf true ∈ [FVal.inf true]) ∧
    FVal.inf false ∉ [FVal.inf true] ∧ FVal.isNan (.nan false false) = true := by decide +kernel
theorem witness_judge : judge 0 [1] [1] [] [] = ([1], .equal) ∧ judge 0 [1] [2] [1] [] = ([1], .transient [63]) ∧ judge 0 [1] [2] [2] [] = ([2], .transient [0]) ∧
    judge 0 [1] [2] [3] [4] = ([4], .uncorrectable) := by decide +kernel
theorem witness_lasting : (3, 7) ∈ ((Wq (entry 0xA0) (fun m => { m with blamed := [(3, 7)], checks := 100 })).mxe 0).blamed ∧
    ((Wq (entry 0xA0) (fun m => { m with blamed := [(3, 7)], checks := 100 })).mxe 0).checks < 3 + 256 := by decide +kernel

/-- An estimating launch with a deck of 20 items, rounds of 8, and its run in slot 0. -/
def deckRec : List Byte := rec_ [(0x08, 8, 0x8010100000001), (0x15, 1, 4), (0x20, 8, 20), (0x28, 8, 12345), (0x30, 8, 0x3F80000000000008), (0x38, 4, 0x3F800000),
  (0x40, 8, 2), (0x48, 8, 100), (0x50, 2, 0xFFF)]
def Wrun (h : Run → Run) (ops : List (Nat × EstOp) := []) : State := { withL (fun l => { l with record := deckRec }) with runs := [(0, h (Run.fresh 1))], estQ := ops }
def est (i : Instr) (ls : List (Nat × (Nat × Nat))) (posted : Bool := false) : EstOp := ⟨R, 0, 0, false, 0, 1, i, ls, posted, false, 0, 0, 0⟩
def oEst : EFmt := ⟨7, 40, 0, 0, 4, 1, 2, false, 0⟩
theorem witness_estimating : fieldAt deckRec 0x10 8 / 2 ^ 42 % 2 = 1 ∧ fieldAt L.record 0x10 8 / 2 ^ 42 % 2 ≠ 1 ∧ (Wrun id).launchOf R = some { L with record := deckRec } ∧
    (Wrun id).wgOf R = some G ∧ G.st = .running := by decide +kernel
theorem witness_deck : 1 ≤ (deckOf deckRec).n ∧ (deckOf deckRec).mode ≤ 1 ∧ (deckOf deckRec).n = 20 ∧ (deckOf deckRec).k = 8 := by decide +kernel
theorem witness_deal : (Run.fresh 1).reissue = [] ∧ (Run.fresh 1).cursor + [0, 1].length ≤ 20 ∧ 20 ≤ ({ Run.fresh 1 with cursor := 20 } : Run).cursor ∧
    (∀ j, j < (Run.fresh 1).cursor + [0, 1].length → j / 8 < (Run.fresh 1).merged + 64) ∧ 3 / 8 < ({ Run.fresh 1 with reissue := [3, 5] } : Run).merged + 64 ∧
    (0 + 64 ≤ 600 / 8) := by decide +kernel
theorem witness_sample : sampleVal 0x3F800000 = some (2 ^ 64, false) ∧ sampleVal 0x7FC00000 = none ∧ sampleVal 0x2B000000 = some (0, true) ∧
    sampleVal 0x54000000 = some (2 ^ 104, true) ∧ sampleVal 0xBF000000 = some (-2 ^ 63, false) := by decide +kernel
theorem witness_merge : ((look ({ Run.fresh 1 with rounds := [(0, ⟨0, 0, 0, true⟩)] } : Run).rounds 0).getD ⟨0, 0, 0, false⟩).bad = true ∧
    ((look ({ Run.fresh 1 with rounds := [(0, ⟨1, 2 ^ 64, 2 ^ 128, false⟩)] } : Run).rounds 0).getD ⟨0, 0, 0, false⟩).c ≠ 0 ∧ (deckOf deckRec).nmin = 2 ∧
    (Run.fresh 1).n < 2 := by decide +kernel
theorem witness_stop_test : 2 ≤ ({ Run.fresh 1 with n := 8 } : Run).n ∧ (({ Run.fresh 1 with n := 8 } : Run).stopTest (deckOf deckRec) 0 0).status = 1 ∧
    (({ Run.fresh 1 with n := 8, m2 := 0x4090000000000000 } : Run).stopTest (deckOf deckRec) 0 0).status = 0 ∧
    (({ Run.fresh 1 with n := 8, m2 := 0x4090000000000000 } : Run).stopTest (deckOf deckRec) 2 0).status = 3 := by decide +kernel
theorem witness_est : (Wrun id).runOf 1 = some (0, Run.fresh 1) ∧ look (Wrun id [(90, est (.draw oEst) [(0, (0, 0))])]).estQ 90 = some (est (.draw oEst) [(0, (0, 0))]) ∧
    look (Wrun id).launches 1 = some { L with record := deckRec } ∧ (Wrun id).det R = false ∧ (Wrun id).flight? R = some F := by decide +kernel
theorem witness_est_closed : (Wrun (fun r => { r with closed := true })).runOf 1 = some (0, { Run.fresh 1 with closed := true }) ∧ (Run.fresh 1).closed = false ∧
    ((withP (fun p => { p with tick := 256 })).part 0).cur = some 0 ∧ 256 ≤ ((withP (fun p => { p with tick := 256 })).part 0).tick ∧
    ({ est (.draw oEst) [] with det := true, due := 256 } : EstOp).det = true ∧ (W.part 0).tick < 256 ∧
    ({ Run.fresh 1 with status := 1, stopAt := 0 } : Run).stopAt + 2000 ≤ ({ W with clk := 2000 } : State).clk.toNat := by decide +kernel
theorem witness_draw : (dealOut (deckOf deckRec) true [0] 0 (Run.fresh 1) []).isSome = true ∧
    (dealOut (deckOf deckRec) true [0] 0 { Run.fresh 1 with cursor := 19, merged := 0 } []).isSome = true ∧
    dealOut { deckOf deckRec with n := 2000 } true [0] 0 { Run.fresh 1 with cursor := 600 } [] = none ∧
    (bits oEst.imm.toNat 2 0, bits oEst.x.toNat 2 0) = (2, 1) := by decide +kernel
theorem witness_esmp : esmpBad (deckOf deckRec) (Run.fresh 1) [3] = some 1 ∧ esmpBad (deckOf deckRec) { Run.fresh 1 with cursor := 8 } [3] = none ∧
    esmpBad (deckOf deckRec) { Run.fresh 1 with cursor := 8, resolved := [3] } [3] = some 2 ∧ ({ Run.fresh 1 with cursor := 8 } : Run).past 8 3 = false ∧
    oEst.imm.getLsbD 3 = false := by decide +kernel
theorem witness_estat : ({ oEst with imm := 1 } : EFmt).imm.getLsbD 0 = true ∧ oEst.imm.getLsbD 0 = false ∧ (Run.fresh 1).status = 0 := by decide +kernel
theorem witness_est_det : (Wrun id).runOf 1 ≠ none ∧ look (Wrun id).estQ 90 = none := by decide +kernel

/-- Wsealed with the sealed tensor in FP8 E4M3 format instead. -/
def Wscaled : State := [(4, 4, 0x23000000), (1016, 2, 55944)].foldl (fun (s : State) p => s.putNat (0x10000 + p.1) p.2.1 p.2.2) Wsealed
def sealed3 : List Byte := readBytes Wscaled.mem 0x10000 1024
theorem witness_scaled_entry : Wscaled.hEntry Lseal 0 = some sealed3 := by
  unfold State.hEntry
  rw [if_neg (by decide +kernel), show Lseal.part = 0 from by decide +kernel, show Lseal.ctx = 0 from by decide +kernel,
    show Lseal.htable + 1024 * 0 = 0x10000 from by decide +kernel]
  exact leaf_seal (ok_of (by decide +kernel)) (by decide +kernel) (by decide +kernel) (by decide +kernel)
theorem witness_scaled : fieldAt sealed3 992 4 = 0x10100 ∧ fieldAt sealed3 996 4 = Lseal.id.toNat ∧
    ¬ fieldAt sealed3 1013 1 < Lseal.killsOf (fieldAt sealed3 1000 4) ∧ crcForce (sealed3.take 1016) 0xFFFF = 55944 ∧ fieldAt sealed3 1016 2 = 55944 := by decide +kernel
theorem scaled_handle {f : Flight} (h : f.accs = []) : Wscaled.handleCheck f Lseal 0x10100 = .ok sealed3 :=
  have ⟨a, b, c, d, e⟩ := witness_scaled
  have i : bits (0x10100 : Word).toNat 7 0 = 0 := by decide
  handle_of (i.symm ▸ witness_scaled_entry) a (by decide) b c (e.trans (crc_of d (by decide))) h
def rec3 : TRec := ⟨0x8000, 3, 2, false, [128, 64, 0, 0, 0], [0, 256, 0, 0, 0], 0, 0, 0, 0, 0, 0⟩
theorem rec3_eq : entryRec sealed3 = rec3 := by decide +kernel
theorem side3 (root : Nat) (plane : Int) : Side.ofEntry sealed3 1 root plane 0 = ⟨1, rec3, [], entryCb sealed3, root, plane, 0⟩ := by
  unfold Side.ofEntry; rw [rec3_eq]; rfl
theorem elem3 (cb : List Half) (p : Int) (n k : Nat) : (Side.elem ⟨1, rec3, [], cb, 0, p, 0⟩ [n, k, 0, 0, 0]) = (256 * (k : Int) + (n : Int), 0) := by
  simp [Side.elem, TRec.elemAddr, TRec.rowAddr, rec3, co, elemOff, fmtBits, List.range_succ]
  omega
theorem within3 (cb : List Half) (p : Int) (sc : Bool) (cs : List (List Nat)) (h : ∀ c ∈ cs, ∃ n k, c = [n, k, 0, 0, 0] ∧ n < 128 ∧ k < 64) :
    within ⟨1, rec3, [], cb, 0, p, 0⟩ sc cs = true := by
  simp only [within, Side.touched, rec3, bne_self_eq_false, Bool.and_false, Bool.false_eq_true, if_false, List.append_nil, beq_self_eq_true, Bool.true_and,
    List.all_eq_true, List.mem_flatMap]
  rintro a ⟨c, hc, ha⟩
  obtain ⟨n, k, rfl, hn, hk⟩ := h c hc
  have he := elem3 cb p n k
  unfold rec3 at he
  rw [Side.elemBytes, he] at ha
  obtain ⟨i, hi, rfl⟩ := List.mem_map.mp ha
  have : i < 1 := by simpa [elemSpan, fmtBits] using hi
  simp; omega
def Wmas : State := withBlock (mblock 0x3300000) ((Wscaled.modWg 1 (fun g => { g with acc := some 77 :: g.acc.drop 1, scratchBytes := 16384 })).modMxe 0
  (fun m => { m with tiles := [(77, tile1)] }))
theorem mas_within : within (matSide sealed3 (mmaSpace (mblock 0x3300000)) (mmaRoot (mblock 0x3300000))) true (mmaCoords (mblock 0x3300000)) = true := by
  unfold matSide
  rw [show mmaSpace (mblock 0x3300000) = 1 from by decide +kernel, side3]
  refine within3 _ _ _ _ (fun c hc => ?_)
  simp only [mmaCoords, List.mem_flatMap, List.mem_map, List.mem_range] at hc
  obtain ⟨k, hk, j, hj, rfl⟩ := hc
  have : mmaK (mblock 0x3300000) = 64 := by decide +kernel
  refine ⟨j, k, ?_, hj, by omega⟩
  simp [mmaCoord, mblock, bw, mmaTr, bitAt]
theorem mmas_of {s : State} {f : Flight} {b : List Word} {l : Launch} {e : List Byte} {tile : Nat} (h0 : mmaZeroBits b = false)
    (h1 : passPair (mmaA b) (mmaB b) = some (64, true, true)) (h2 : (s.wgOf R).bind (fun g => g.accTile (mmaAcc b)) = some tile)
    (hl : s.launchOf R = some l) (h : s.handleCheck f l (f.s 51) = .ok e) (h3 : mmaRecOk true b (entryRec e) = true) (h4 : mmaInside b (entryRec e) = true)
    (h5 : s.anyOutside R (matSide e (mmaSpace b) (mmaRoot b)) true false (mmaCoords b) = false) : s.mmaCheck R f oTile true b = .ok (tile, e) := by
  unfold State.mmaCheck
  rw [show oTile.h.toNat = 51 from rfl]
  simp [h0, h1, h2, hl, h, h3, h4, h5]
theorem accs_mas : (fl Wmas).accs = [] := by decide +kernel
theorem witness_mmas_check : Wmas.mmaCheck R (fl Wmas) oTile true (mblock 0x3300000) = .ok (77, sealed3) :=
  mmas_of (l := Lseal) (by decide +kernel) (by decide +kernel) (by decide +kernel) (by decide +kernel)
    (((show (fl Wmas).s 51 = 0x10100 from by decide +kernel) ▸ ((handle_block _ _ _ Lseal 0x10100).trans ((handle_mxe _ 0 _ _ Lseal 0x10100).trans
      (handle_wg _ _ _ Lseal 0x10100))).trans (scaled_handle accs_mas))) (by decide +kernel)
    (by decide +kernel) (within_inside (g := wgp Wmas) (by decide +kernel) (by decide +kernel) mas_within)

/-! Halts, ticks, contexts. -/

theorem witness_halt : G.st = .running ∧ (withG (fun g => { g with cancelled := true })).mustHalt { G with cancelled := true } = true ∧ W.mustHalt G = false ∧
    (∀ f ∈ G.flights, f.npOpen = false ∧ f.stopped = false ∧ f.clause = some C ∧ f.wait = .ready) ∧ (atStart 8 F).clause = none ∧
    (∀ f ∈ G.flights, W.flightDrained f = false) := by decide +kernel
def trapped1 : Flight := { F with stopped := true, cause := 3 }
/-- A workgroup that halts with its flight stopped by a trap; the trap queue with room, and full. -/
def Whalt (size : Word) (h : Wg → Wg := id) : State := (withG (fun g => h { g with st := .halting, entryOwed := true, firstFlt := 0, trapped := true, flights := [trapped1] })).modCtx 0 0
  (fun c => { c with trapring := { base := 0x9000, size, prod := 0, cons := 0 } })
theorem witness_halted : (wgp (Whalt 4)).cancelled = false ∧ (wgp (Whalt 4)).st = .halting ∧ (∀ f ∈ (wgp (Whalt 4)).flights, (Whalt 4).flightDrained f = true) ∧
    (((Whalt 4).part 0).ctx 0).st = .running ∧ ((Whalt 4).part 0).cur = some 0 ∧ (wgp (Whalt 4)).flights[(wgp (Whalt 4)).firstFlt.toNat]? = some { F with stopped := true, cause := 3 } ∧
    (((Whalt 4).part 0).ctx 0).trapring.full = false ∧ (((Whalt 0).part 0).ctx 0).trapring.full = true ∧ F.org = none ∧ (Whalt 4).tilesDrained 1 (wgp (Whalt 4)) = true ∧ ((Whalt 4).part 0 |>.ctx 0).trapOwed = [] ∧ ((Whalt 4).mxe (quadOfCore (wgp (Whalt 4)).core)).fenced = false ∧
    (Whalt 4).tilesDrained 1 { G with flights := [{ F with nTiles := 1 }] } = false ∧ F.stopIx < 16 ∧
    0 < ((Whalt 4).part 0).ctxs.length := by decide +kernel
theorem witness_skip : F.clause = some C ∧ ({ F with clause := some C2 } : Flight).ix + 1 < C2.words.length ∧ F.wait.keeps = false ∧ Wait.bar.keeps = true ∧
    ({ F with stopped := true } : Flight).stopped = true := by decide +kernel
theorem witness_debugger : G.dbg = false ∧ W.det (.wg 1 0) = false ∧ (Wdet).det (.wg 1 0) = true ∧ (Wdet).inTick 0 = false ∧ (wgp (Wdet)).dbg = false ∧ (withG (fun g => { g with dbg := true })).mustHalt { G with dbg := true } = false ∧
    G.trapped = false ∧ G.resolve = none ∧ (wgp (withG (fun g => { g with dbg := true, trapped := true }))).trapped = true := by decide +kernel
/-- A halted workgroup whose trap queue entry has count 7, and a control program's. -/
def Wtrapres (n a : Nat) (h : Wg → Wg := id) : State := cmd 4 [(0, n), (1, a)] (fun s => s.modWg 1 (fun g => h { g with st := .halted, entryAt := some 7, firstFlt := 0, trapped := true, flights := [trapped1] }))
def Wctl (a : Nat) : State := cmd 4 [(0, 9), (1, a)] (fun s => s.modPart 0 (fun p => { p with ctls := [(0, { ctx := 0, cmdSeq := 0, flight := F, halted := true, entryAt := some 9 })] }))
theorem witness_trapres : fieldAt (headOf (Wtrapres 7 1) (.vf 0 0)) 0 1 = 4 ∧ opWord (headOf (Wtrapres 7 1) (.vf 0 0)) 0 = 7 ∧ opWord (headOf (Wtrapres 7 1) (.vf 0 0)) 1 = 1 ∧
    (((Wtrapres 7 1).popCmd (.vf 0 0)).halted? 0 7).map (·.1) = some 1 ∧ (((Wtrapres 7 1).popCmd (.vf 0 0)).halted? 0 8) = none ∧
    ((Wtrapres 7 1).popCmd (.vf 0 0)).mustHalt (wgp (Wtrapres 7 1)) = false ∧
    ({ F with stopped := true, cause := 3 } : Flight).kind = 0 ∧ ({ F with kind := 2 } : Flight).kind ≠ 0 ∧ (wgp (Wtrapres 7 0 (fun g => { g with dbg := true }))).dbg = true ∧
    2 < opWord (headOf (Wtrapres 7 3) (.vf 0 0)) 1 ∧ ((Wctl 0).popCmd (.vf 0 0)).halted? 0 9 = none ∧
    ((((Wctl 0).popCmd (.vf 0 0)).part 0).ctls.find? (fun p => p.2.halted && p.2.entryAt == some 9)).isSome = true ∧
    8 ∈ (((Wtrapres 8 1).modCtx 0 0 (fun c => { c with reports := [8] })).part 0 |>.ctx 0).reports ∧
    fieldAt (headOf (cmd 4 []) .pf) 1 1 < 16 ∧ fieldAt (headOf (cmd 4 []) .pf) 2 6 = 0 := by decide +kernel

theorem witness_time : F.ended = false ∧ G.st ≠ .switchedOut ∧ W.det (.wg 1 0) = false ∧ (Wdet).det (.wg 1 0) = true ∧ ({ F with timerOn := true, npOpen := true } : Flight).timerOn = true := by
  decide +kernel
theorem witness_tick : (Wdet).ticking 0 = true ∧ (Wdet).inTick 0 = false ∧ (Wdet).stuck 0 = false ∧ (Wdet).dueCopies 0 = [] ∧ W.ticking 1 = false ∧
    ({ Wdet with agenda := [.tickEnd 0] } : State).inTick 0 = true ∧
    (Wdet (fun f => { f with accs := [{ acc1 .store 0x5000 4 [] with pieces := [{ piece 0x5000 4 with dev := some 2, done := false }] }] })).stuck 0 = true := by decide +kernel
theorem witness_step_deterministic : (let s : State := { Wdet with agenda := [.issue R, .tickEnd 0], cur := none }
    s.flight? R = some F ∧ s.det R = true ∧ s.mayIssue R F = true ∧ s.partOf R = 0 ∧ (s.part 0).tick = 0) ∧ F.slot = some (0 % 8) ∧ F.busy = 0 ∧ F.opDue = none ∧
    F.clause.map (fun c => c.words[F.ix]?) = some (some 0x0170000000000000) := by decide +kernel
/-- A copy whose destination lies on device 1, at its tick; nothing is sent in Wdet's tick; what ends with a tick. -/
def Wsend : State := (Wcopying (fun _ => { copy1 with dst := sealed1.set 5 0x80, snap := some [] })).modPart 0 (fun p => { p with desc := { p.desc with ctl := 5 } })
/-- An operation of a tick whose home is down: it meets that, or has met it. -/
def Wstuck (r : Nat) : State := (Wdet (fun f => { f with accs := [{ acc1 .store 0x5000 4 [1, 2, 3, 4] with pieces := [{ piece 0x5000 4 with refused := r }] }] })).modDie 0 (fun x => { x with st := 4 })
theorem witness_tick_home : (Wstuck 0).ticking 0 = true ∧ (Wstuck 0).inTick 0 = false ∧ (Wstuck 0).stuck 0 = true ∧ (Wstuck 0).homeMoves 0 ≠ [] ∧
    (Wstuck 4).stuck 0 = true ∧ (Wstuck 4).homeMoves 0 = [] ∧ (fl (Wstuck 4)).homeParked = true ∧ F.homeParked = false := by decide +kernel
theorem witness_tick_sends : (Wdet).dueTileOps 0 = [] ∧ (Wsend.dueCopies 0).map (fun x => (x.1, x.2.1)) = [(0, 5)] ∧
    ((Wsend.dueCopies 0).filter (fun x => decide (x.2.2.due ≤ (Wsend.part 0).tick) && Wsend.copySends x.2.2)).length = 1 ∧
    Wsend.ticking 0 = true ∧ Wsend.inTick 0 = false ∧ Wsend.stuck 0 = false ∧ (Wdet).tickGrants 0 = [] ∧
    ((Wdet).tickFlights 0).filter (fun p => p.2.done) = [] ∧ ((Wdet (fun f => { gone1 f with accs := [] })).tickFlights 0).any (fun p => p.2.done) = true ∧
    ({ Wdet (fun f => { gone1 f with accs := [] }) with agenda := [.tickEnd 0] } : State).clauseOver = none := by decide +kernel
theorem witness_agenda : ({ W with agenda := [.tickEnd 0] } : State).clauseOver = none ∧ 0 < W.parts.length := by decide +kernel
/-- A flight at a clause boundary in slot 0, and a pending one of its dispatcher that has waited since 0. -/
def Wswap (cycles : Nat) (h : Flight → Flight) : State := { (paged (two (fun f => { atStart 0x4000 f with slot := none, readySince := some 0 }))).modFlight R h with mcyc := 1000 * cycles, cur := none }
theorem witness_exchange : Sys2Proof.Machine.least ((Wswap 2048 (atStart 0x4000)).readyPending 0 F.disp) = some (.wg 1 1, 0) ∧
    ((Wswap 2048 (atStart 0x4000)).flight? (.wg 1 1)).isSome = true ∧ (Wswap 2048 (atStart 0x4000)).flight? (.wg 1 0) = some (fl (Wswap 2048 (atStart 0x4000))) ∧
    ((Wswap 2048 (atStart 0x4000)).dispatched 0 F.disp).find? (fun p => p.2.slot == some 0) = some (.wg 1 0, fl (Wswap 2048 (atStart 0x4000))) ∧
    (fl (Wswap 2048 (atStart 0x4000))).clause = none ∧ (fl (Wswap 2048 (atStart 0x4000))).sg = 0 ∧ 0 + 2048 ≤ (Wswap 2048 (atStart 0x4000)).beat (.wg 1 1) ∧
    (Wswap 2047 (atStart 0x4000)).beat (.wg 1 1) < 0 + 2048 ∧ (fl (Wswap 2048 id)).clause ≠ none ∧ FlightRef.wg 1 1 ≠ .wg 1 0 := by decide +kernel
/-- A workgroup at a boundary whose core is closed, with another core free. -/
def Wmove (h : Core → Core := fun c => { c with closed := true }) : State := (((paged (withF (atStart 0x4000))).modLaunch 1 (fun x => { x with record := record1 })).modCore 0 h).modPart 0 (fun p => { p with desc := { p.desc with quads := 3, strms := 0x0F } })
theorem witness_migrate : (Wmove).eligible 1 (wgp Wmove) = true ∧ (Wmove).needsMove (wgp Wmove) = true ∧ (Wmove).canTake 1 (wgp Wmove) 1 = true ∧ (Wmove).canTake 1 (wgp Wmove) 0 = false ∧
    (Wmove id).needsMove (wgp (Wmove id)) = false ∧ W.eligible 1 G = false ∧ ((Wmove).mxe (quadOfCore (wgp Wmove).core)).fenced = false := by decide +kernel
/-- A workgroup halted on a fenced quad, with another quad to go to, and without. -/
def Wfenced (quads : BitVec 128) : State := ((paged (withG (fun g => { g with st := .halted }))).modMxe 0 (fun m => { m with fenced := true })).modPart 0
  (fun p => { p with desc := { p.desc with quads, strms := 0xFF } })
theorem witness_refuge : (Wfenced 3).refuge 1 (wgp (Wfenced 3)) 2 = true ∧ ((Wfenced 3).mxe (quadOfCore (wgp (Wfenced 3)).core)).fenced = true ∧
    (wgp (Wfenced 3)).st = .halted ∧ (Wfenced 3).det (.wg 1 0) = false ∧ ∀ c, c < 512 → (Wfenced 1).refuge 1 (wgp (Wfenced 1)) c = false := by decide +kernel
theorem witness_watchdog : ({ F with npOpen := true, npClk := 36 } : Flight).npOpen = true ∧
    (withL (fun x => { x with record := (List.replicate 136 0) ++ [9] ++ List.replicate 119 0 })).npBudget R = 9 ∧ 4 * 9 ≤ (36 : Dword).toNat ∧
    (35 : Dword).toNat < 4 * 9 := by decide +kernel

/-- W with context 1 of the run list as well. -/
def Wlist (h : Part → Part := id) : State := withP (fun p => h { p with slice := 1000, ctxs := modAt p.ctxs 1 (fun c => { c with st := .saved, onList := true, desc := { c.desc with tenant := 9 } }) })
theorem witness_leave : ((Wlist).part 0).cur = some 0 ∧ 0 < (Wlist).parts.length ∧ 0 < ((Wlist).part 0).ctxs.length ∧ (((Wlist).part 0).ctx 0).st = .running ∧ (Wlist).npHeld 0 0 = false ∧
    (Wlist).residents 0 0 ≠ [] ∧ (withF (fun f => { f with npOpen := true })).npHeld 0 0 = true ∧ (∀ p ∈ (Wlist).residents 0 0, (Wlist).det (.wg p.1 0) = false ∧ p.2.st = .running) := by
  decide +kernel
theorem witness_left : ((Wlist).part 0).vfOff = 0 ∧ ((Wlist).part 0).onLeave = [] := by decide +kernel
theorem witness_slice : (W.part 1).cur = none ∧ (Wlist).otherReady 0 = true ∧ W.otherReady 0 = false ∧ (Wlist).parkedShare 0 0 = false ∧ (Wlist).inTick 0 = false ∧
    ((Wlist).modFlight R (fun f => { f with wait := .fault 3 })).parkedShare 0 0 = true ∧ (((Wlist).part 0).switch.map (·.deferred)).getD false = false ∧
    ((Wlist).part 0).slice ≠ 0 ∧ ((Wlist).part 0).sliceEnd ≤ (Wlist).clk.toNat ∧ ¬ (((Wlist (fun p => { p with sliceEnd := 5 })).part 0).sliceEnd ≤ (Wlist).clk.toNat) ∧ (W.part 0).slice = 0 := by
  decide +kernel
/-- Context 0 drains. -/
def Wdrain (clk : Dword) : State := { (Wlist (fun p => { p with switch := some ⟨0, none, false, 0⟩ })).modCtx 0 0 (fun c => { c with st := .draining }) with clk }
theorem witness_slice_causes : ((Wlist (fun p => { p with spendDue := true, sliceEnd := 5 })).part 0).spendDue = true ∧ (Wlist).otherReady 0 = true ∧
    ((Wlist (fun p => { p with parkDue := true, sliceEnd := 5 })).part 0).parkDue = true ∧ (W.part 0).parkDue = false ∧ (W.part 0).spendDue = false ∧
    (((Wlist).part 0).ctx 0).st = .running ∧ ((Wlist (fun p => { p with switch := some ⟨0, none, true, 0⟩ })).part 0).switch = some ⟨0, none, true, 0⟩ ∧
    ({ Wlist with agenda := [.tickEnd 0] } : State).inTick 0 = true := by decide +kernel
theorem witness_ddead : ((Wdrain 0).part 0).switch = some ⟨0, none, false, 0⟩ ∧ (((Wdrain 0).part 0).ctx 0).st = .draining ∧
    0 + ((Wdrain 0).part 0).ddead.toNat * 1000 ≤ (Wdrain 1000000).clk.toNat ∧ (Wdrain 0).clk.toNat < 0 + ((Wdrain 0).part 0).ddead.toNat * 1000 := by decide +kernel
/-- Context 1 is LAZY, and the workgroup is its own, switched out with 16 bytes of scratchpad. -/
def Wlazy : State := ((Wlist).modCtx 0 1 (fun c => { c with st := .lazy })).modWg 1 (fun g => { g with ctx := 1, st := .switchedOut, scratchBytes := 16 })
theorem witness_spill : (((Wlazy).part 0).ctx 1).st = .lazy ∧ ((Wlazy).part 0).cur.isSome = true ∧ (wgp Wlazy).part = 0 ∧ (wgp Wlazy).ctx = 1 ∧ (wgp Wlazy).st = .switchedOut ∧
    (wgp Wlazy).away.scratch = none ∧ (wgp Wlazy).scratchBytes ≤ 2 ^ 19 ∧ (wgp Wlazy).core < 512 ∧ (wgp Wlazy).scratchBase + (wgp Wlazy).scratchBytes ≤ 2 ^ 30 ∧
    Memory.wf Wlazy.mem = true ∧ (((Wlist).part 0).ctx 1).st ≠ .lazy := by decide +kernel
theorem witness_spill_engine : (wgp Wlazy).away.rows = false ∧ (look ((Wlazy.modMxe 0 (fun m => { m with tiles := [(77, tile1)] })).mxe 0).tiles 77).map (·.wg) = some 1 ∧
    ((Wlazy.modMxe 0 (fun m => { m with latches := [⟨R, [], [], []⟩] })).mxe 0).latches[0]? = some ⟨.wg 1 0, [], [], []⟩ := by decide +kernel
/-- No context runs; context 1 is to enter. -/
def Wenter (h : Part → Part := id) : State := { Wlist (fun p => h { p with cur := none, formed := true, lastTenant := 9, desc := { p.desc with ctl := 1 } }) with wgs := [], cur := none }
theorem witness_restore : ((Wenter).part 0).admits 1 = true ∧ ((Wenter).part 0).admits 2 = false ∧ 1 < ((Wenter).part 0).ctxs.length ∧ ((Wenter).part 0).tenantSwitch 1 = false ∧
    ((Wenter (fun p => { p with lastTenant := 8 })).part 0).tenantSwitch 1 = true ∧ ((Wenter (fun p => { p with lastTenant := 8 })).part 0).admits 1 = true ∧
    ((Wenter).part 0).onEnter = [] ∧ Wenter.wgs = [] := by decide +kernel
/-- Its workgroup comes back. -/
def Wback : State := { Wenter with wgs := [(1, { G with ctx := 1, st := .switchedOut })] }
theorem witness_back : (Wback.part 0).admits 1 = true ∧ (Wback.part 0).tenantSwitch 1 = false ∧
    (Wback.wgs.filter (fun p => p.2.part == 0 && p.2.ctx == 1 && p.2.st == .switchedOut)).map (·.1) = [1] ∧ (wgp Wback).away = Away.none ∧
    Wback.rowsHeld 0 ≤ 512 ∧ Wback.scratchHeld 0 ≤ 524288 ∧ (wgp Wback).resolve = none ∧ (wgp Wback).dbg = false ∧ (wgp Wback).trapped = false ∧
    (wgp Wback).cancelled = false ∧ (Wback.mxe (quadOfCore 0)).fenced = false ∧ ∀ f ∈ (wgp Wback).flights, f.accs = [] := by decide +kernel
theorem witness_preempt : fieldAt (headOf (cmd 0x0B [(0, 1)]) (.vf 0 0)) 0 1 = 0x0B ∧ ((cmd 0x0B [(0, 1)]).inTick (cmdPart (.vf 0 0) (headOf (cmd 0x0B [(0, 1)]) (.vf 0 0)))) = false ∧
    opWord (headOf (cmd 0x0B [(0, 1)]) (.vf 0 0)) 0 ≤ 2 ∧ (((cmd 0x0B [(0, 1)]).popCmd (.vf 0 0)).part 0).cur ≠ none ∧
    (((cmd 0x0B [(0, 1)] (fun s => s.modPart 0 (fun p => { p with cur := none }))).popCmd (.vf 0 0)).part 0).cur = none := by decide +kernel
/-- CTXRUN of context 1. -/
def Wctxrun (h : Part → Part) : State := cmd 0x13 [(0, 1)] (fun s => s.modPart 0 (fun p => h { p with ctxs := modAt p.ctxs 1 (fun c => { c with st := .saved }) }))
theorem witness_ctxrun : fieldAt (headOf (Wctxrun id) (.vf 0 0)) 0 1 = 0x13 ∧ (((Wctxrun id).popCmd (.vf 0 0)).part 0).desc.valid = true ∧
    ((((Wctxrun id).popCmd (.vf 0 0)).part 0).ctx 1).st ≠ .absent ∧ (((Wctxrun id).popCmd (.vf 0 0)).part 0).cur = some 0 ∧
    (((Wctxrun (fun p => { p with cur := none })).popCmd (.vf 0 0)).part 0).cur = none ∧ ((((cmd 0x13 [(0, 2)]).popCmd (.vf 0 0)).part 0).ctx 2).st = .absent := by decide +kernel

/-- A tenant switch whose scrub is due; a token that is to be recorded; and one recorded. -/
def Wscrub : State := Wenter (fun p => { p with lastTenant := 8, scrubDue := some 0, switch := some ⟨0, some 1, false, 0⟩ })
theorem witness_scrub : ((Wscrub).part 0).scrubDue = some 0 ∧ ((Wscrub).part 0).switch = some ⟨0, some 1, false, 0⟩ ∧ ((Wscrub).part 0).cur = none ∧ 0 < Wscrub.parts.length ∧
    Memory.wf Wscrub.mem = true ∧ ((Wlist).part 0).scrubDue = none ∧ (Wmove.part 0).desc.hasCore 0 = true ∧ inRanges (Wscrub.heldScratch 0) 5 = false ∧
    Wscrub.fabricQuiet 0 = true ∧ (Wscrub.part 0).newTenant 1 = true ∧ ((Wenter).part 0).newTenant 1 = false ∧ (∀ x, x < 16 → ((Wscrub.part 0).ctx x).st ≠ .lazy) ∧ (Wscrub.part 0).tokenDue = [] ∧
    ({ Wscrub with srcCtx := [(2, { epoch := 5, seq := 8, waiting := [⟨7, .spool R, ⟨.load, 0, 0, 4, [], []⟩, 0, 0, 0, 0, 0⟩], queued := [], lastUse := 0 })] } : State).fabricQuiet 0 = false := by
  decide +kernel
/-- A token due for context 0 with its buffer at 0x8000, at 0x40000000, which is not mapped, on a SPAN page that no plane reaches, and with
another one behind it. -/
def Wdue (buf : Dword) (more : List (List Byte × Option Nat) := []) : State :=
  (Wseal.modPart 0 (fun p => { p with tokenDue := ([], some 0) :: more })).modCtx 0 0 (fun c => { c with desc := { c.desc with tokbuf := buf } })
theorem token_len (body scope : List Byte) (n : Nat) : (signedToken body scope n).length ≤ 4096 := by
  have h : deviceId.length ≤ 16 := by unfold deviceId; exact List.length_take_le _ _
  simp only [signedToken, slice, le, toBytes, List.length_append, List.length_map, List.length_range, List.length_take, List.length_replicate, List.length_cons, List.length_nil]
  omega
theorem witness_token_written (body scope : List Byte) (n : Nat) : let tok := signedToken body scope n
    (∃ ks, (Wdue 0x8000).vaKeys 0 0 0x8000 tok.length { w := true } = some ks) ∧ (Wdue 0x8000).spanCut 0 0 0x8000 tok.length = false := by
  have hl : (Wdue 0x8000).leaf 0 0 (BitVec.ofNat 64 0x8000) = .ok { base := 0x8000, r := true, w := true, x := true, span := false, lock := false, tw := true, lvl := 2 } :=
    ok_of (by decide +kernel)
  have hn := token_len body scope n
  exact ⟨⟨_, Laws.vaKeys_page (by omega) (by omega) (by decide +kernel) hl rfl (fun i hi => Laws.mappable_low (by dsimp only; omega)
    (by decide +kernel) (by decide +kernel) (by decide +kernel) (by decide +kernel) (by decide +kernel))⟩, Laws.spanCut_page (by omega) (by omega) hl rfl⟩
theorem witness_token_record : ((Wdue 0).part 0).tokenDue = [([], some 0)] ∧ (((Wdue 0).part 0).ctx 0).desc.tokbuf = 0 ∧ (W.part 0).tokenDue = [] ∧
    (Wdue 0x40000000).vaKey 0 0 0x40000000 { w := true } = none ∧ (spanned (Wdue 0x8000)).spanCut 0 0 0x8000 64 = true ∧
    ((Wdue 0x8000 [([], none)]).part 0).tokenDue = [([], some 0), ([], none)] := by decide +kernel
def Wtok (code : Nat) (h : Part → Part := id) : State := cmd code [(0, 0xA000)] (fun s => s.modPart 0 (fun p => h { p with token := List.replicate 4096 1 }))
theorem witness_token_commands : fieldAt (headOf (Wtok 6) (.vf 0 0)) 0 1 = 6 ∧ (((Wtok 6).popCmd (.vf 0 0)).part 0).cur = some 0 ∧ ((Wtok 6).popCmd (.vf 0 0)).parts.length = 16 ∧
    (((Wtok 6).popCmd (.vf 0 0)).part 0).token.isEmpty = false ∧ (((cmd 7 []).popCmd (.vf 0 0)).part 0).token = [] ∧ fieldAt (headOf (Wtok 7) (.vf 0 0)) 0 1 = 7 ∧
    (List.replicate 4096 (1 : Byte)).length = 4096 := by decide +kernel

/-! The host, errors, dies, the fabric. -/

theorem witness_completion : ((Wlaunch rings4).part 0).rings.length = 32 ∧ ((Wlaunch rings4).part 0).outs.length = 16 ∧ ((Wlaunch rings4).part 0).owed = [] ∧
    (((Wlaunch rings4).part 0).rings.getD 16 Ring.off).full = false ∧ ((Wlaunch.part 0).rings.getD 16 Ring.off).full = true ∧ 0 < (Wlaunch rings4).parts.length := by decide +kernel
theorem witness_code : cmdEvent (.vf 0 0) 1 = some (.launchCommand (.vf 0 0)) ∧ cmdEvent .pf 0x0D = none ∧ ((cmd 1 []).headCmd (.vf 0 0)).isSome = true := by decide +kernel
theorem witness_doorbell : (cmd 1 []).contained = false ∧ ((cmd 1 []).part 0).desc.valid = true ∧ (W.part 1).desc.valid = false ∧ (((cmd 1 []).part 0).rings.getD 0 Ring.off).size ≠ 0 ∧
    ((2 : Word) - (((cmd 1 []).part 0).rings.getD 0 Ring.off).cons).toNat ≤ (((cmd 1 []).part 0).rings.getD 0 Ring.off).size.toNat ∧
    ((cmd 1 []).pfRing 0).size ≠ 0 ∧ ((2 : Word) - ((cmd 1 []).pfRing 0).cons).toNat ≤ ((cmd 1 []).pfRing 0).size.toNat ∧
    (((cmd 1 []).part 0).rings.getD 0 Ring.off).size.toNat < ((9 : Word) - (((cmd 1 []).part 0).rings.getD 0 Ring.off).cons).toNat ∧
    ({ W with contained := true } : State).contained = true ∧ (W.part 0).cur = some 0 ∧ ((W.part 0).ctx 0).trapOwed = [] := by decide +kernel
theorem witness_register_write : ¬ (G.st = .halted ∨ G.st = .switchedOut) ∧ (wgp (withG (fun g => { g with st := .halted }))).st = .halted ∧ G.flights[0]? = some F := by decide +kernel
theorem witness_inval : fieldAt (headOf (cmd 2 [(0, 0x5000), (1, 64)]) (.vf 0 0)) 0 1 = 2 ∧ ((cmd 2 [(0, 0x5000), (1, 64)]).popCmd (.vf 0 0)).cmdCtx 0 = some 0 ∧
    ((cmd 2 [(0, 0x5000), (1, 64)]).popCmd (.vf 0 0)).outstandingIn 0 0x5000 64 = false ∧ 0 < (cmd 2 []).parts.length ∧
    ((cmd 2 [] (fun s => s.modFlight R (fun f => { f with accs := [{ acc1 .store 0x5000 4 [] with pieces := [{ piece 0x5000 4 with done := false }] }] }))).popCmd (.vf 0 0)).outstandingIn 0 0x5000 64 = true := by
  decide +kernel
/-- A cached translation inside the range of an INVAL, of a plain page and of a SPAN page; a launch on the PF's queue. -/
def cached (span : Bool) (s : State) : State := s.modPart 0 (fun p => { p with tlb := [⟨0, 5, ⟨0x5000, true, true, true, span, false, true, 2⟩⟩] })
theorem witness_inval_cached : (((cmd 2 [(0, 0x5000), (1, 64)] (cached false)).popCmd (.vf 0 0)).part 0).tlb.map (fun e => (e.vpage, e.leaf.span)) = [(5, false)] ∧
    (((cmd 2 [(0, 0x5000), (1, 64)] (cached true)).part 0).tlb.map (fun e => (e.vpage, e.leaf.span)) = [(5, true)]) ∧
    (look (((cmd 2 [(0, 0x5000), (1, 64)]).popCmd (.vf 0 0)).part 0).invals (cmdQueue (.vf 0 0)) = none) ∧
    (cmd 2 [(0, 0x5000), (1, 64)] (fun s => s.modFlight R (fun f => { f with accs := [acc1 .store 0x5000 4 []] }))).outstandingIn 0 0x5000 64 = true := by decide +kernel
theorem witness_pf_launch : fieldAt (headOf (cmd 1 [(0, 0x8000)]) .pf) 0 1 = 1 ∧ (((cmd 1 [(0, 0x8000)]).popCmd .pf).part 0).vfOff = 0 ∧
    ((cmd 1 [(0, 0x8000)]).popCmd .pf).cmdCtx 0 = some 0 ∧ ((cmd 1 [(0, 0x8000)]).popCmd .pf).logFull 0 0 11 = false ∧
    (((cmd 1 [] (fun s => s.modPart 0 (fun p => { p with vfOff := 1 }))).popCmd .pf).part 0).vfOff = 1 := by decide +kernel
theorem witness_fresume : fieldAt (headOf (cmd 3 [(0, 2)]) (.vf 0 0)) 0 1 = 3 ∧ ((((cmd 3 [(0, 2)]).popCmd (.vf 0 0)).part 0).ctx 0).faults = [] ∧
    ((((cmd 3 [(0, 2)] (fun s => s.modCtx 0 0 (fun c => { c with faults := [(2, 5)] }))).popCmd (.vf 0 0)).part 0).ctx 0).faults.find? (fun p => p.1 == 2) = some (2, 5) ∧
    ({ F with wait := .fault 5 } : Flight).wait = .fault 5 ∧ G.part = 0 ∧ G.ctx = 0 := by decide +kernel
theorem witness_arm : fieldAt (headOf (cmd 5 [(0, 5)]) (.vf 0 0)) 0 1 = 5 ∧ (((cmd 5 [(0, 5)]).popCmd (.vf 0 0)).ctr 0 0 5).state ≠ 0 ∧
    (((cmd 5 [(0, 7)]).popCmd (.vf 0 0)).ctr 0 0 7).state = 0 ∧ ((cmd 5 [] (fun s => s.modPart 0 (fun p => { p with cur := none, last := none }))).popCmd (.vf 0 0)).cmdCtx 0 = none := by decide +kernel
/-- A context with a log of four pages. -/
def Wlog (code : Nat) (full : Bool) : State := cmd code [(0, 77)] (fun s => { s with launches := [] }.modCtx 0 0 (fun c => { c with
  desc := { c.desc with logbase := 0xB000, logsize := 4 }, logring := { base := 0xB000, size := 512, prod := if full then 512 else 0, cons := 0 } }))
theorem witness_log : ((Wlog 9 true).popCmd (.vf 0 0)).logFull 0 0 1 = true ∧ ((Wlog 9 false).popCmd (.vf 0 0)).logFull 0 0 1 = false ∧ fieldAt (headOf (Wlog 9 false) (.vf 0 0)) 0 1 = 9 := by
  decide +kernel
theorem witness_capture : fieldAt (headOf (Wlog 0x0A false) (.vf 0 0)) 0 1 = 0x0A ∧ (Wlog 0x0A false).launches = [] ∧
    ((Wlog 0x0A false).popCmd (.vf 0 0)).logFull 0 0 (((Wlog 0x0A false).popCmd (.vf 0 0)).captureRecs 0 0).length = false ∧ L.ended = false ∧ L.part = 0 ∧ ((W.part 0).ctx 0).st ≠ .saved := by
  decide +kernel
theorem witness_pf_commands : fieldAt (headOf (cmd 8 [(0, 0x3000), (1, 256)]) .pf) 0 1 = 8 ∧ (cmd 8 []).redirect = [] ∧ Memory.wf (cmd 8 []).mem = true ∧
    fieldAt (headOf (cmd 0x0C [(0, 2)]) .pf) 0 1 = 0x0C ∧ (((cmd 0x0C [(0, 2)]).popCmd .pf).die 2).st = 0 ∧
    (((cmd 0x0C [(0, 2)] (fun s => s.modDie 2 (fun d => { d with st := 6 }))).popCmd .pf).die 2).st = 6 ∧
    (((cmd 0x0C [(0, 2)] (fun s => s.modDie 2 (fun d => { d with st := 7 }))).popCmd .pf).die 2).st = 7 ∧
    (((cmd 0x0C [(0, 2)] (fun s => s.modDie 2 (fun d => { d with st := 3 }))).popCmd .pf).die 2).st = 3 ∧ 2 < (cmd 0x0C []).dies.length := by decide +kernel
def Wctlrun : State := cmd 0x15 [(0, 1), (1, 0x4000), (2, 0x8100)]
theorem witness_ctlrun : fieldAt (headOf Wctlrun .pf) 0 1 = 0x15 ∧ (Wctlrun.popCmd .pf).cmdCtx 0 = some 0 ∧ opWord (headOf Wctlrun .pf) 0 < 4 ∧ opWord (headOf Wctlrun .pf) 2 = 0x8100 ∧
    look ((Wctlrun.popCmd .pf).part 0).ctls 1 = none ∧ (Wctlrun.popCmd .pf).readVa 0 0 0x80000000 64 = none := by decide +kernel
theorem witness_ctlrun_args : ((Wctlrun.popCmd .pf).readVa 0 0 0x8100 64).isSome = true := by
  rw [read_low (n := 64) (va := 0x8100) (base := 0x8000) (ok_of (by decide +kernel)) (by decide +kernel)
    (by decide +kernel) (by decide +kernel) (by decide) (by decide) (by decide)]
  rfl

/-- A descriptor that is accepted: VF 3, quad 5 with its streamers, slice and pseudo-channel of die 0. -/
def pdesc (vf : Byte) (quads : BitVec 128) : PartDesc := { quads, slices := 2, pchan := 2, strms := 0, ctl := 1, vf, cswin := 0, csoff := 0 }
def Wpart : State := ((Wenter).modCtx 0 0 (fun c => { c with st := .saved })).modPart 1 (fun p => { p with desc := { pdesc 2 4 with slices := 4, pchan := 4 } })
theorem witness_partcode : Wpart.partCode 0 (pdesc 3 8) = 0 ∧ Wpart.partCode 0 (pdesc 3 4) = 1 ∧ Wpart.partCode 0 (pdesc 2 8) = 3 ∧ W.partCode 0 (pdesc 3 8) = 7 := by decide +kernel
def Wpartset (q : Nat) : State := (cmd 0x10 [(0, 0xC000)] (fun s => ((s.putNat 0xC000 16 q).putNat 0xC010 1 2).putNat 0xC0D0 2 0x301)).modPart 0 (fun p => { p with cur := none, desc := { p.desc with ctl := 0 }, ctxs := Part.reset.ctxs })
theorem witness_partset : fieldAt (headOf (Wpartset 8) .pf) 0 1 = 0x10 ∧
    ((Wpartset 8).popCmd .pf).partCode 0 (PartDesc.ofBytes (readBytes ((Wpartset 8).popCmd .pf).mem 0xC000 256)) = 0 ∧
    (PartDesc.ofBytes (readBytes ((Wpartset 8).popCmd .pf).mem 0xC000 256)).valid = true ∧
    (((Wpartset 8).popCmd .pf).part 0).desc.valid = false := by decide +kernel
theorem witness_ctxset : fieldAt (headOf (cmd 0x11 [(0, 1), (1, 0xC000)] (fun s => s.putNat 0xC000 8 5)) .pf) 0 1 = 0x11 ∧
    (let b := readBytes (cmd 0x11 [(0, 1), (1, 0xC000)] (fun s => s.putNat 0xC000 8 5)).mem 0xC000 128
     fieldAt b 0 8 ≠ 0 ∧ fieldAt b 8 8 % 2 ^ 21 = 0 ∧ fieldAt b 16 8 % 4096 = 0 ∧ fieldAt b 56 8 = 0 ∧ fieldAt b 64 4 = 0) ∧
    ((((cmd 0x11 []).popCmd .pf).part 0).ctx 1).st.busy = false ∧ ((((cmd 0x11 []).popCmd .pf).part 0).ctx 0).st.busy = true ∧ 1 < (((cmd 0x11 []).popCmd .pf).part 0).ctxs.length := by
  decide +kernel
theorem witness_regset : fieldAt (headOf (cmd 0x12 [(0, 1), (1, 1)]) .pf) 0 1 = 0x12 ∧ opWord (headOf (cmd 0x12 [(0, 1), (1, 1)]) .pf) 1 = 1 ∧
    (((cmd 0x12 [] (fun s => s.modPart 0 (fun p => { p with slice := 5 }))).popCmd .pf).part 0).slice ≠ 0 := by decide +kernel
theorem witness_ringset : fieldAt (headOf (cmd 0x14 [(1, 2)]) .pf) 0 1 = 0x14 ∧ ({ base := 0xD000, size := 16, prod := 0, cons := 0 } : Ring).placed = true ∧
    ({ base := 0xD001, size := 16, prod := 0, cons := 0 } : Ring).placed = false ∧ (((cmd 0x14 []).popCmd .pf).part 0).rings.length = 32 ∧
    ((((cmd 0x14 []).popCmd .pf).part 0).rings.getD 2 Ring.off).prod = ((((cmd 0x14 []).popCmd .pf).part 0).rings.getD 2 Ring.off).cons ∧
    ((((cmd 0x14 []).popCmd (.vf 0 1)).part 0).rings.getD 0 Ring.off).prod ≠ ((((cmd 0x14 []).popCmd (.vf 0 1)).part 0).rings.getD 0 Ring.off).cons ∧
    ((cmd 0x14 []).popCmd .pf |>.pfRing 16).prod = ((cmd 0x14 []).popCmd .pf |>.pfRing 16).cons ∧ ((cmd 0x14 []).popCmd .pf).cmdCtx 0 = some 0 ∧
    ((((cmd 0x14 []).popCmd .pf).part 0).ctx 0).trapring.prod = ((((cmd 0x14 []).popCmd .pf).part 0).ctx 0).trapring.cons ∧
    (((cmd 0x10 [] (fun s => s.modPart 0 (fun p => { p with vfOff := 1 }))).popCmd .pf).part 0).vfOff = 1 ∧
    ∀ x, x < 16 → ((((Wpartset 8).popCmd .pf).part 0).ctx x).st ≠ .lazy := by decide +kernel

/-- W's tether, dying. -/
def tether1 : Tether := (look L.tethers 0).getD default
def Wdying (rec : List Byte) : State := withL (fun x => { x with record := rec, tethers := [(0, { tether1 with dying := some (1, (R, 0)) })] })
theorem witness_kill : look L.tethers 0 = some tether1 ∧ W.tetherOf R = some (1, 0, tether1) ∧ ({ W with launches := [] } : State).tetherOf R = none ∧ W.killDrained tether1 = true ∧
    (withF (fun f => { f with accs := [acc1 .store 0x5000 4 []] })).killDrained tether1 = false ∧ W.onFenced tether1 = false ∧
    (W.modMxe 0 (fun m => { m with fenced := true })).onFenced tether1 = true ∧ look (Wdying (rec_ [(0x15, 1, 2)])).launches 1 = some
      { L with record := rec_ [(0x15, 1, 2)], tethers := [(0, { tether1 with dying := some (1, (R, 0)) })] } ∧
    ({ L with record := rec_ [(0x15, 1, 2)] } : Launch).killOutcome 0 tether1 = 0 ∧ L.killOutcome 0 tether1 = 2 ∧ L.killed = none ∧ L.cancelled = false ∧ L.ended = false ∧ W.cancels = [] ∧
    G.flights ≠ [] := by decide +kernel
theorem witness_retire : ({ W with image := { W.image with spares := [0x40] } } : State).spareFor 0 0x40 = true ∧ W.spareFor 0 0x40 = false ∧ W.image.spares = [] ∧ ({ W with wgs := [] } : State).tetherOf R = none ∧
    (({ W with wgs := [] } : State).endedWg 1).map (fun y => (y.1, y.2.1)) = some (1, 0) ∧ ({ W with wgs := [], launches := [] } : State).endedWg 1 = none := by
  decide +kernel
/-- A device with nothing on its cores, whose core 0 is in some state of a scan turn. -/
def Wscan (closed scanning : Bool) (clk : Dword) : State := { State.reset.modCore 0 (fun c => { c with closed, scanning }) with clk }
theorem witness_scan : (State.reset.image.cores.getLsbD 0 = true ∧ (State.reset.core 0).fenced = false ∧ (State.reset.core 0).scanning = false ∧ (State.reset.core 0).closed = false) ∧
    State.reset.nextScan 0 = some 0 ∧ State.reset.nextScan 0 ≠ some 1 ∧ ((Wscan true false 100000).core 0).turnAt + 100000 ≤ (Wscan true false 100000).clk.toNat ∧
    (Wscan true false 0).clk.toNat < ((Wscan true false 0).core 0).turnAt + 100000 ∧ (Wscan true false 100000).onCore 0 = [] ∧
    (∀ i, i < 64 → ((Wscan true false 100000).core (boardOfCore 0 * 64 + i)).scanning = false) ∧ ((Wscan true true 0).core 0).scanning = true ∧
    (Wscan true true 0).clk.toNat < ((Wscan true true 0).core 0).turnAt + 250000 ∧ ((Wscan true true 0).core 0).turnAt + 250000 ≤ (Wscan true true 250000).clk.toNat ∧
    (Wscan true true 0).sigs = [] ∧ (let s := { W.modCore 0 (fun c => { c with closed := true }) with clk := 100000 }
     (s.vacate 0).onCore 0 ≠ [] ∧ (s.core 0).turnAt + 100000 ≤ s.clk.toNat ∧ ∀ i, i < 64 → (s.core (boardOfCore 0 * 64 + i)).scanning = false) := by decide +kernel
/-- Die 2 in a state. -/
def Wdie (st : Nat) (tries : Byte := 0) : State := State.reset.modDie 2 (fun d => { d with st, tries })
theorem witness_die : (State.reset.die 2).st = 0 ∧ State.reset.dies.length = 4 ∧ State.reset.tethersOn 2 = [] ∧ (∀ k, k < 16 → look (State.reset.part k).ctls 2 = none) ∧
    ((Wdie 1).die 2).st = 1 ∧ (Wdie 1).tethersOn 2 = [] ∧ W.tethersOn 0 ≠ [] ∧ ((Wdie 2).die 2).st = 2 ∧ ((Wdie 3).die 2).st = 3 ∧ ((Wdie 4).die 2).st = 4 ∧ ((Wdie 4).die 2).tries.toNat < 2 ∧
    ((Wdie 4 2).die 2).tries = 2 ∧ ((Wdie 5).die 2).st = 5 ∧ (Wdie 5).sigs = [] ∧ W.srcCtx = [] ∧ ({ F with wait := .homeDown (farHome 3 1) } : Flight).wait = .homeDown (farHome 3 1) := by decide +kernel
theorem look_mem {α : Type} {k : Nat} {x : α} : ∀ {m : List (Nat × α)}, look m k = some x → (k, x) ∈ m
  | [], h => nomatch h
  | (j, y) :: m, h => by
    unfold look at h
    split at h
    · simp_all
    · exact List.mem_cons_of_mem _ (look_mem h)
theorem witness_no_accesses (r : FlightRef) (f : Flight) (h : W.flight? r = some f) : f.accs = [] := by
  cases r with
  | wg w fl =>
    have hw : ∀ p ∈ W.wgs, ∀ x ∈ p.2.flights, x.accs = [] := by decide +kernel
    simp only [State.flight?, Option.bind_eq_some_iff] at h
    obtain ⟨g, hg, hf⟩ := h
    exact hw _ (look_mem hg) f (List.mem_of_getElem? hf)
  | ctl die part =>
    have hp : ∀ p ∈ W.parts, p.ctls = [] := by decide +kernel
    simp only [State.flight?, Option.bind_eq_some_iff, Option.map_eq_some_iff] at h
    obtain ⟨p, hp', c, hc, -⟩ := h
    rw [hp p (List.mem_of_getElem? hp')] at hc
    exact nomatch hc
theorem witness_vf_cancel : L.part = 0 ∧ L.queue < 16 ∧ W.fabricQuiet 0 = true ∧ ((W.arm 0 0 L.ctrl 2 7 0).ctr 0 0 L.ctrl).parent ≠ 0xFFF := by decide +kernel
/-- A report of a boot in which everything passes, but for the image of step 1 where `sig` is false. -/
def img (sig : Bool) : BootImage := ⟨true, sig, 0, State.reset.image⟩
def report (sig : Bool) (first : List Bool) (cut : Option Nat) : BootReport :=
  ⟨[img sig, img sig, img true, img true], first, List.replicate 8 true, List.replicate 4 true, List.replicate 16 true, [], cut⟩
theorem witness_boot : State.reset.journal = [] ∧ Memory.wf State.reset.mem = true ∧ imageOk State.reset.rollback ((report true [] none).images.getD 0 default) = true ∧
    imageOk State.reset.rollback ((report true [] none).images.getD 2 default) = true ∧ imageOk State.reset.rollback ((report false [] none).images.getD 0 default) = false ∧
    imageOk State.reset.rollback ((report false [] none).images.getD 1 default) = false ∧ (report true (List.replicate 8 false) none).first.getD 0 false = false ∧
    (report true [] none).cut ≠ some 1 ∧ (report true [] (some 1)).cut = some 1 ∧ ({ State.reset with journal := [4] } : State).journal = [4] := by decide +kernel

/-- Planes 0 and 1 are live; plane 1 left at 0, with a writer's line still held. -/
def Wplanes (cycles : Nat) : State := { W with planes := 3, spanHold := [(1, (3, 0))], mcyc := 1000 * cycles }
theorem witness_planes : (Wplanes 0).planes.getLsbD 1 = true ∧ (Wplanes 0).planes.getLsbD 2 = false ∧ (Wplanes 4096).dstCtx = [] ∧
    (∃ h ∈ (Wplanes 4096).spanHold, h.1 = 1 ∧ h.2.2 + 4096 ≤ (Wplanes 4096).cyc) ∧ (∀ h ∈ (Wplanes 4095).spanHold, h.1 = 1 → (Wplanes 4095).cyc < h.2.2 + 4096) ∧
    ({ W with planes := 2 } : State).planes.getLsbD 1 = true ∧ (Wplanes 0).spanHeld 0x5000 = false ∧ ({ Wplanes 0 with planes := 1 } : State).spanHeld 0x5000 = true := by decide +kernel
/-- The context of partition 0 with device 2 has sent one load of four bytes for lane 0. -/
def loadOp : RemOp := { kind := .load, va := 0x0002000000005000, va2 := 0, len := 4, data := [], parts := [] }
def packet (who : Waiter) : Packet := { seq := 7, who, op := loadOp, domid := 0, pts := 0, plane := 0, firstSent := 0, sentAt := 0 }
def pfar : Piece := { piece 0x0002000000005000 4 with dev := some 2, done := false }
def afar : Acc := { acc1 (.load false false) 0x5000 4 [] with pieces := [pfar], got := [], arrived := 0 }
def Wfar (who : Waiter) (clk : Dword := 0) : State := { withF (fun f => { f with accs := [afar], wait := .remote afar.id, nLoads := 1 }) with srcCtx := [(2, { epoch := 5, seq := 8, waiting := [packet who], queued := [], lastUse := 0 })], clk, planes := 3 }
theorem alone {s : State} (hw : ∀ p ∈ s.wgs, ∀ x ∈ p.2.flights.zipIdx, p.1 ≠ 1 ∨ x.2 ≠ 0 → x.1.accs = []) (hp : ∀ p ∈ s.parts, p.ctls = []) :
    ∀ r h, r ≠ FlightRef.wg 1 0 → s.flight? r = some h → h.accs = [] := by
  intro r f hr hf
  cases r with
  | wg w fl =>
    simp only [State.flight?, Option.bind_eq_some_iff] at hf
    obtain ⟨g, hg, hf⟩ := hf
    refine idx_of (P := fun k f => w ≠ 1 ∨ k ≠ 0 → f.accs = []) (hw _ (look_mem hg)) fl f hf ?_
    by_contra hc
    rw [not_or, not_not, not_not] at hc
    exact hr (by rw [hc.1, hc.2])
  | ctl die part =>
    simp only [State.flight?, Option.bind_eq_some_iff, Option.map_eq_some_iff] at hf
    obtain ⟨p, hp', c, hc, -⟩ := hf
    rw [hp p (List.mem_of_getElem? hp')] at hc
    exact nomatch hc
theorem far_alone : ∀ r h, r ≠ FlightRef.wg 1 0 → (Wfar (.access R afar.id 0)).flight? r = some h → h.accs = [] :=
  alone (by decide +kernel) (by decide +kernel)
theorem witness_far : FarAccess (Wfar (.access R afar.id 0)) 1 0 2 (fl (Wfar (.access R afar.id 0))) afar pfar := by
  unfold FarAccess
  and_intros <;> first | exact .inr ⟨false, false, rfl⟩ | exact far_alone | decide +kernel
theorem witness_delivery : look W.srcCtx 2 = none ∧ (look (Wfar (.spool R)).srcCtx 2).map (·.epoch) = some 5 ∧ [packet (.spool R)].find? (fun q => q.seq == 7) = some (packet (.spool R)) ∧
    [packet (.spool R)].length < 64 ∧ (List.replicate 64 (packet (.spool R))).length = 64 ∧ (packet (.access R afar.id 0)).who = .access (.wg 1 0) afar.id 0 ∧
    [1, 2, 3, 4].length = pfar.len ∧ (Wfar (.spool R)).planes.getLsbD 1 = true ∧ (packet (.spool R)).sentAt + 2000 ≤ (Wfar (.spool R) 2000).clk.toNat ∧
    (Wfar (.spool R)).clk.toNat < (packet (.spool R)).firstSent + 10000 ∧ (packet (.spool R)).firstSent + 10000 ≤ (Wfar (.spool R) 10000).clk.toNat ∧ W.cmdCtx 0 = some 0 ∧
    ({ epoch := 5, seq := 8, waiting := [], queued := [], lastUse := 0 } : SrcCtx).lastUse + W.quietNs 0 ≤ 20000 := by decide +kernel
/-- Lane 0 of plane 0 is stopped; then that of plane 1 too. -/
def Wlanes (l : List (Nat × Nat)) : State := { Wfar (.spool R) with stopped := l }
theorem witness_lanes : OpenOn (Wlanes [(0, 0)]) loadOp 1 ∧ (∀ i, ¬ OpenOn (Wlanes [(0, 0), (1, 0)]) loadOp i) ∧ OpenOn (Wlanes [(0, 0), (1, 0)]) { loadOp with kind := .spoolReturn } 0 ∧
    laneOf { loadOp with kind := .spoolReturn } ≠ laneOf loadOp := by
  refine ⟨?_, fun i hi => ?_, ?_, ?_⟩
  · unfold OpenOn laneOf; decide +kernel
  · have h : ∀ i < 64, (Wlanes [(0, 0), (1, 0)]).planes.getLsbD i = true → (i, laneOf loadOp) ∈ (Wlanes [(0, 0), (1, 0)]).stopped := by decide +kernel
    exact hi.2.2 (h i hi.1 hi.2.1)
  · unfold OpenOn laneOf; decide +kernel
  · unfold laneOf; decide +kernel
/-- Partition 0 accepts requests of device 3 in domain 4; a load and a store of four bytes at 0x8000. -/
def Wdom : State := { (WP false 0 id).modCtx 0 0 (fun c => { c with dom := { c.dom with domen := true, domid := 4, peers := 8 } }) with dstCtx := [(3 * 256, { epoch := 5, expect := 7, replies := [(6, .parked)], buffered := [], lastUse := 0 })], clk := 12000 }
def req (kind : RemKind) (data : List Byte) (seq : Word) : RemoteReq := { srcDev := 3, srcPart := 0, flight := 9, sent := 9000, domid := 4, epoch := 5, seq, create := false, pts := 0, op := { kind, va := 0x8000, va2 := 0, len := 4, data, parts := [] } }
theorem witness_spool_reply : (fl (withF (fun f => { f with wait := .far }))).wait = .far ∧ (packet (.spoolOp R)).who = .spoolOp (.wg 1 0) ∧
    [packet (.spoolOp R)].find? (fun q => q.seq == 7) = some (packet (.spoolOp R)) ∧ Wdom.acceptor (req (.atom 0 0) [1, 0, 0, 0] 7) = some (0, 0) ∧
    ([RemKind.atom 0 0, .acas].all (fun k => match Wdom.remPiece 0 0 k 0x8000 4 with
      | .ok (ks, sp) => ks == [0x8000, 0x8001, 0x8002, 0x8003] && !sp
      | _ => false)) = true ∧
    (match Wdom.remPiece 0 0 .load 0x8000 64 with
      | .ok (ks, _) => ks.length == 64
      | _ => false) = true := by decide +kernel
theorem witness_target : Wdom.acceptor (req .load [] 7) = some (0, 0) ∧ W.acceptor (req .load [] 7) = none ∧
    (match Wdom.remPiece 0 0 .load 0x8000 4 with
      | .ok (ks, _) => ks == [0x8000, 0x8001, 0x8002, 0x8003]
      | _ => false) = true ∧
    (match Wdom.remPiece 0 0 .store 0x8000 4 with
      | .ok (ks, sp) => ks == [0x8000, 0x8001, 0x8002, 0x8003] && !sp
      | _ => false) = true := by decide +kernel
theorem witness_request : (req .load [] 7).create = false ∧ (look Wdom.dstCtx (3 * 256)).map (·.expect) = some 7 ∧ ¬ (7 : Word) ≠ 7 ∧ ((9 : Word) - 7).toNat < 2 ^ 31 ∧ look W.dstCtx (3 * 256) = none ∧
    (State.performRemote { Wdom with dstCtx := put Wdom.dstCtx (3 * 256) { epoch := 5, expect := 7, replies := [(6, .parked)], buffered := [req .load [] 7], lastUse := 12000 } } (req .load [] 7)).isSome = true ∧
    0 + Wdom.targetQuiet 3 ≤ ({ Wdom with clk := 20000 } : State).clk.toNat ∧ W.targetQuiet 3 = 12000 := by decide +kernel

/-! The end of a partition, queues and rings, signals, kills and errors, clause by clause. -/

/-- VF_DISABLE of partition 0 has begun, or ended; the PF's ring for completions is full. -/
def Woff (off : Nat) (cur : Option Nat) : State := withP (fun p => { p with vfOff := off, cur })
theorem witness_vf_disable : W.parts.length = 16 ∧ (W.part 0).vfOff = 0 ∧ (W.part 0).cur = some 0 ∧ ((Woff 0 none).part 0).cur = none ∧ ((Woff 2 none).part 0).vfOff = 2 ∧
    ((Woff 1 (some 0)).part 0).cur ≠ none ∧ ((Woff 1 none).part 0).cur = none ∧ (Woff 1 none).fabricQuiet 0 = true ∧ (W.part 0).ctls = [] ∧
    0 < (W.part 0).ctxs.length ∧ (W.part 0).owed = [] := by decide +kernel
theorem witness_vf_busy : ({ Woff 1 none with srcCtx := [(2, { epoch := 5, seq := 8, waiting := [], queued := [(0, (.spool R, loadOp))], lastUse := 0 })] } : State).fabricQuiet 0 = false ∧
    (look (K.part 0).ctls 0).isSome = true ∧ (∀ d, 4 ≤ d → look (W.part 0).ctls d = none) := by
  refine ⟨by decide +kernel, by decide +kernel, fun d _ => ?_⟩
  rw [show (W.part 0).ctls = [] from by decide +kernel]; rfl
theorem witness_vf_launches : look W.launches 1 = some L ∧ L.part = 0 ∧ L.ended = false ∧ L.queue ≤ 16 ∧ L.origin < 2 ∧ (look L.tethers 0).isSome = true ∧
    (W.part 0).cur = some L.ctx ∧ tether1.dying = none ∧ sorted W.launches = true ∧ (W.pfRing 16).full = true ∧
    (List.range 17).flatMap (fun q => (W.launches.filter (fun p => p.2.part == 0 && !p.2.ended && p.2.queue == q)).map Prod.fst) = [1] := by decide +kernel
theorem witness_vf_token : ((withP (fun p => { p with tokenDue := [([], none)] })).part 0).tokenDue = [([], none)] ∧ W.pfTokens = [] ∧
    ((({ W with pfRings := [(32, { base := 0x6000, size := 4, prod := 0, cons := 0 })] } : State).pfRing 32).full = false) ∧
    (∀ p ∈ W.wgs, p.2.core = 0 → p.2.part = 0) := by decide +kernel

/-- A port whose PF rings hold `n` entries each. -/
def Wrings (n : Word) : State := { (Wlaunch rings4) with booted := true, pfRings := [0, 16, 32, 48, 49, 50, 51].map (fun i => (i, { base := 0x6800, size := 4, prod := n, cons := 0 })) }
theorem witness_pf_rings : (Wrings 0).contained = false ∧ (Wrings 0).pfOwed = [] ∧ (Wrings 0).pfDirect = [] ∧ ((Wrings 0).pfRing 16).full = false ∧ ((Wrings 4).pfRing 16).full = true ∧
    ((Wrings 0).pfRing 48).prod = ((Wrings 0).pfRing 48).cons ∧ ((Wrings 4).pfRing 51).prod ≠ ((Wrings 4).pfRing 51).cons ∧ (Wrings 0).cmdCtx 0 = some 0 ∧
    (((Wrings 0).part 0).rings.getD 3 Ring.off).prod = (((Wrings 0).part 0).rings.getD 3 Ring.off).cons ∧
    ({ base := 0xD000, size := 16, prod := 0, cons := 0 } : Ring).placed = true ∧ ({ base := 0xD008, size := 16, prod := 0, cons := 0 } : Ring).placed = false := by decide +kernel
theorem witness_consume : (({ base := 0xD000, size := 16, prod := 4, cons := 1 } : Ring).consume 3).cons = 3 ∧ (({ base := 0xD000, size := 16, prod := 4, cons := 1 } : Ring).consume 5).cons = 1 ∧
    ((W.part 1).desc.valid = false) ∧ (((cmd 1 []).part 0).desc.valid = true) ∧ (cmd 1 []).cmdCtx 0 = some 0 ∧ (((cmd 1 []).part 0).ctx 0).trapOwed = [] := by decide +kernel
theorem witness_inval_waits : look (((cmd 2 [] (fun s => s.modPart 0 (fun p => { p with invals := [(cmdQueue (.vf 0 0), 0)] }))).popCmd (.vf 0 0)).part 0).invals (cmdQueue (.vf 0 0)) = some 0 ∧
    0 + 4096 ≤ ({ cmd 2 [] with mcyc := 4096000 } : State).cyc := by decide +kernel
theorem witness_arm_bounds : 0xFFF ≤ opWord (headOf (cmd 5 [(0, 0xFFF)]) (.vf 0 0)) 0 ∧ 3 < opWord (headOf (cmd 5 [(0, 5), (3, 4)]) (.vf 0 0)) 3 ∧
    opWord (headOf (cmd 5 [(0, 0xFFE), (3, 3)]) (.vf 0 0)) 0 < 0xFFF ∧ opWord (headOf (cmd 5 [(0, 0xFFE), (3, 3)]) (.vf 0 0)) 3 ≤ 3 := by decide +kernel
/-- A translation context as REGSET block 0 gives it: a fault queue of 16 entries, and of 24, which is not legal. -/
def Wtrans (w3 : Nat) : State := (cmd 0x12 [(0, 1), (1, 0), (2, 0xC000)] (fun s => ((s.putNat 0xC000 8 0x1001).putNat 0xC018 8 w3).putNat 0xC020 8 0x100000))
theorem witness_translation_context : fieldAt (headOf (Wtrans 0x9010) .pf) 0 1 = 0x12 ∧ opWord (headOf (Wtrans 0x9010) .pf) 1 = 0 ∧ ((((Wtrans 0x9010).popCmd .pf).part 0).ctx 1).st.busy = false ∧
    fieldAt (readBytes ((Wtrans 0x9010).popCmd .pf).mem 0xC000 40) 24 8 % 2 ^ 12 = 2 ^ 4 ∧ fieldAt (readBytes ((Wtrans 0x9018).popCmd .pf).mem 0xC000 40) 24 8 % 2 ^ 12 = 24 ∧
    ((((Wtrans 0x9010).popCmd .pf).part 0).ctx 0).st.busy = true ∧ 16 ≤ opWord (headOf (cmd 0x12 [(0, 16)]) .pf) 0 ∧ 2 < opWord (headOf (cmd 0x12 [(1, 3)]) .pf) 1 := by decide +kernel
/-- RINGSET of the rings that a context's registers place. -/
def Wringset (n : Nat) (prod : Word) : State := cmd 0x14 [(1, n)] (fun s => s.modCtx 0 0 (fun c =>
  { c with fqring := { c.fqring with prod }, trapring := { c.trapring with prod }, logring := { c.logring with prod } }))
theorem witness_ringset_context : (let y := (((Wringset 32 0).popCmd .pf).part 0).ctx 0; y.fqring.prod = y.fqring.cons ∧ y.trapring.prod = y.trapring.cons ∧ y.logring.prod = y.logring.cons) ∧
    (let y := (((Wringset 32 1).popCmd .pf).part 0).ctx 0; y.fqring.prod ≠ y.fqring.cons ∧ y.trapring.prod ≠ y.trapring.cons ∧ y.logring.prod ≠ y.logring.cons) ∧
    opWord (headOf (Wringset 34 0) .pf) 1 = 34 ∧ 34 < opWord (headOf (Wringset 35 0) .pf) 1 ∧ 1 < opWord (headOf (cmd 0x14 [(0, 2)]) .pf) 0 ∧
    opWord (headOf (cmd 0x14 [(0, 1), (1, 16)]) .pf) 0 = 1 ∧ ((Wringset 33 0).popCmd .pf).cmdCtx 0 = some 0 := by decide +kernel

/-- W with counter 5 in state `st` of target 2, one confirmed, and its own signal, which core 3 holds; at the end of a scan turn of core 3. -/
def sig1 : Sig := { part := 0, ctx := 0, idx := 5, count := 1, child := none, need := [3], begun := [3], passed := [] }
def Wsig (st : Nat) : State := { ((W.putCtr 0 0 5 { target := 2, done := 2, conf := 1, state := st, level := 0, reason := 0, parent := 0xFFF, firstBad := 0, tdone := 0, tconf := 0 }).modCore 3
  (fun c => { c with scanning := true })) with sigs := [sig1], clk := 250000 }
theorem witness_confirm : (let c := (Wsig 1).ctr 0 0 5; c.state = 1 ∧ min (c.conf + sig1.count) c.target = c.target) ∧ ((Wsig 0).ctr 0 0 5).state = 0 ∧ ((Wsig 4).ctr 0 0 5).state = 4 ∧
    (let c := (Wctr.ctr 0 0 5); min (c.conf + 1) c.target ≠ c.target) := by decide +kernel
theorem witness_scan_signal : ((Wsig 1).core 3).scanning = true ∧ ((Wsig 1).core 3).turnAt + 250000 ≤ (Wsig 1).clk.toNat ∧ ((Wsig 1).sigs.map (Sig.passes 3)).filter Sig.ready = [Sig.passes 3 sig1] ∧
    ((Wsig 1).ctr 0 0 5).target ≤ ((Wsig 1).ctr 0 0 5).conf + (Sig.passes 3 sig1).count ∧ (∀ h ∈ (Wsig 1).sigs, h.part = 0 → h.ctx = 0 → h.child ≠ some 5) ∧
    (Wsig 1).sigs.filter (fun g => g.need.contains 3) = [sig1] ∧ sig1.ready = false ∧ (Sig.passes 3 sig1).passed = [3] := by decide +kernel

/-- W's launch with a tether that is dying for `reason`, with outcome `out` and flags of its record. -/
def Wdie1 (reason out : Nat) (rec : List Byte) (h : Launch → Launch := id) : State :=
  withL (fun x => h { x with record := rec, tethers := [(0, { tether1 with dying := some (reason, (R, out)) })] })
def relaunch : List Byte := rec_ [(0x15, 1, 2)]
def Ldie1 (reason out : Nat) (rec : List Byte) (h : Launch → Launch := id) : Launch := (look (Wdie1 reason out rec h).launches 1).getD default
theorem witness_judge_kill : look (Wdie1 1 0 []).launches 1 = some (Ldie1 1 0 []) ∧ look (Ldie1 1 0 []).tethers 0 = some { tether1 with dying := some (1, (R, 0)) } ∧ look (Wdie1 1 0 []).wgs 1 = some G ∧
    G.flights[0]? = some F ∧ G.launch = 1 ∧ (Ldie1 1 0 []).killed.getD 0 < 4 ∧ G.wgid < 2 ^ 32 ∧ G.core < 512 ∧ F.stopIx < 16 ∧ (Ldie1 1 0 []).killOutcome 0 tether1 = 2 ∧
    (Ldie1 1 0 relaunch).killOutcome 0 tether1 = 0 ∧ (Ldie1 1 0 relaunch).killOutcome 0 { tether1 with norelaunch := true } = 1 ∧
    (Ldie1 1 0 relaunch (fun x => { x with kills := [(0, 5)] })).killOutcome 0 tether1 = 3 := by decide +kernel
theorem witness_judge_others : (look (Ldie1 1 0 [] (fun x => { x with tethers := x.tethers ++ [(4, { tether1 with dying := none })] })).tethers 4).map (·.dying) = some none ∧
    (Ldie1 1 0 []).tethers.map (·.1) = [0] ∧ (Wdie1 1 0 []).cancels = [] ∧ (Ldie1 1 0 []).cancelled = false ∧ (Ldie1 1 0 []).ended = false ∧
    ((Wdie1 1 0 []).launchAt 0 0 (Ldie1 1 0 []).ctrl).map (·.1) = some 1 ∧ L.part = 0 ∧ L.queue < 16 ∧ ((Wdie1 1 0 []).part 0).owed = [] ∧
    (((Wdie1 1 0 []).part 0).rings.getD (16 + L.queue) Ring.off).full = true ∧ (((Wdie1 1 0 []).part 0).ctx 0).st = .running := by decide +kernel
theorem witness_kill_flight : F.stopped = false ∧ F.ended = false ∧ F.clause = some C ∧ F.ix < C.words.length ∧ tether1.dying = none ∧ tether1.wgs = [1] ∧ look W.wgs 1 = some G := by
  decide +kernel
theorem witness_kill_stands : (Wdet).det (.wg 1 0) = true ∧ ((Wdet).modPart 0 (fun p => { p with cur := none })).killDrained tether1 = true ∧
    (look (Wdying (rec_ [(0x15, 1, 2)])).launches 1).isSome = true := by decide +kernel
/-- Two uncorrectable errors at sector 7 of frame 64, or two corrected ones. -/
def Wails (bad good : Nat) (spares : List Nat) : State := { W with errAt := [(64 * 32 + 7, (good, bad))], image := { W.image with spares } }
theorem witness_page_retire : (∃ i, i < 32 ∧ 2 ≤ (sget (0, 0) (Wails 2 0 [0x40]).errAt (64 * 32 + i)).2) ∧ (∃ i, i < 32 ∧ 2 ≤ (sget (0, 0) (Wails 0 2 [0x40]).errAt (64 * 32 + i)).1) ∧
    (∀ i, i < 32 → (sget (0, 0) (Wails 1 1 [0x40]).errAt (64 * 32 + i)).1 < 2 ∧ (sget (0, 0) (Wails 1 1 [0x40]).errAt (64 * 32 + i)).2 < 2) ∧
    (Wails 2 0 [0x80041]).spareFor 64 0x80041 = false ∧ (Wails 2 0 [64]).spareFor 64 64 = true ∧ (∀ x ∈ (Wails 2 0 [0x80041]).image.spares, (Wails 2 0 [0x80041]).spareFor 64 x = false) ∧ 64 < 2 ^ 28 := by
  refine ⟨⟨7, by decide, by decide +kernel⟩, ⟨7, by decide, by decide +kernel⟩, ?_, ?_, ?_, ?_, by decide⟩ <;> decide +kernel
theorem witness_uncorrectable : W.tetherOf R = some (1, 0, tether1) ∧ look W.launches 1 = some L ∧ ({ W with wgs := [] } : State).tetherOf R = none ∧
    (({ W with wgs := [] } : State).endedWg 1).map (fun y => (y.1, y.2.1)) = some (1, 0) ∧ ({ W with wgs := [], launches := [] } : State).endedWg 1 = none ∧
    (K.issuer).map (·.1) = some (.ctl 0 0) ∧ ((withP (fun p => { p with desc := { p.desc with ctl := 1, pchan := 1 } })).part 0).desc.valid = true ∧ paDie (0 * 128) * 128 + paChan (0 * 128) = 0 := by
  decide +kernel
/-- A die that is to rejoin, with a flight that waits for it. -/
theorem witness_rejoin : ((Wdie 5).die 2).st = 5 ∧ ([true, true, true, true].getD 3 false = true) ∧ ([] : List Bool).getD 0 false = false ∧ (∀ c ∈ [300], c / 128 = 2 ∧ c < 512) ∧
    (∀ c ∈ [30], c / 128 ≠ 2) ∧ (∀ g ∈ (Wdie 5).sigs, ((coresOfDie 2).foldl (fun g c => Sig.passes c g) g).ready = false) := by decide +kernel

/-! Delivery contexts, requests of other devices and their answers, lane addresses, clause by clause. -/

/-- Delivery context 2 of partition 0 holds `waiting` packets and queued operations; lanes of planes are stopped. -/
def slotOp : RemOp := { loadOp with kind := .spoolReturn }
def Wctx (waiting : List Packet) (queued : List (Word × (Waiter × RemOp))) (stopped : List (Nat × Nat)) : State :=
  { W with srcCtx := [(2, { epoch := 5, seq := 8, waiting, queued, lastUse := 0 })], planes := 3, booted := true, stopped }
theorem openOn_of {s : State} {op : RemOp} {i : Nat} (h : (i < 64 ∧ s.planes.getLsbD i = true) ∧ (i, if op.kind = .spoolReturn then 2 else 0) ∉ s.stopped) : OpenOn s op i :=
  ⟨h.1.1, h.1.2, h.2⟩
theorem closed_of {s : State} {op : RemOp} (h : ∀ i, i < 64 → s.planes.getLsbD i = true → (i, if op.kind = .spoolReturn then 2 else 0) ∈ s.stopped) (i : Nat) : ¬ OpenOn s op i :=
  fun ho => ho.2.2 (h i ho.1 ho.2.1)
/-- SEND: no context yet, one with room, one that is full; an operation of lane 0 waits while the slot return behind it can go. -/
theorem witness_send : look W.srcCtx 2 = none ∧ (look (Wctx [] [] []).srcCtx 2).map (·.waiting.length) = some 0 ∧
    (look (Wctx (List.replicate 64 (packet (.spool R))) [] []).srcCtx 2).map (·.waiting.length) = some 64 := by decide +kernel
theorem witness_goes : OpenOn (Wctx [] [] []) loadOp 1 ∧ (∀ i, ¬ OpenOn (Wctx [] [] [(0, 0), (1, 0)]) loadOp i) ∧ OpenOn (Wctx [] [] [(0, 0), (1, 0)]) slotOp 0 ∧
    (∀ i, ¬ OpenOn { Wctx [] [] [] with planes := 0 } loadOp i) ∧
    (∀ y ∈ [(6, ((Waiter.spool R), loadOp))] ++ ([] : List (Word × (Waiter × RemOp))), y.1 ≠ (7 : Word)) ∧
    (Wctx [] [(6, (.spool R, loadOp)), (7, (.spool R, slotOp))] [(0, 0), (1, 0)]).booted = true ∧ ({ Wctx [] [] [] with planes := 1 } : State).planes.getLsbD 1 = false := by
  refine ⟨openOn_of (by decide +kernel), closed_of (by decide +kernel), openOn_of (by decide +kernel), closed_of (by decide +kernel), ?_, ?_, ?_⟩ <;> decide +kernel
theorem witness_resend_again : OpenOn (Wctx [packet (.spool R)] [] []) loadOp 1 ∧ (1 : Nat) ≠ (packet (.spool R)).plane ∧ OpenOn (Wctx [packet (.spool R)] [] [(1, 0)]) loadOp 0 ∧
    (∀ i, OpenOn (Wctx [packet (.spool R)] [] [(1, 0)]) loadOp i → i = 0) ∧ ({ Wctx [] [] [] with planes := 2 } : State).planes.getLsbD (packet (.spool R)).plane = false := by
  refine ⟨openOn_of (by decide +kernel), by decide, openOn_of (by decide +kernel), fun i hi => ?_, by decide +kernel⟩
  have h : ∀ i, i < 64 → (Wctx [packet (.spool R)] [] [(1, 0)]).planes.getLsbD i = true → (i, if loadOp.kind = .spoolReturn then 2 else 0) ∉ (Wctx [packet (.spool R)] [] [(1, 0)]).stopped → i = 0 := by
    decide +kernel
  exact h i hi.1 hi.2.1 hi.2.2
/-- A probe of a spool's record. -/
theorem witness_probe : ({ packet (.spoolOp R) with op := { loadOp with kind := .probe, parts := [(0x8000, (3, []))] } } : Packet).op.parts = [(0x8000, (3, []))] ∧
    (packet (.spoolOp R)).op.kind ≠ .probe ∧ (F.wait = .far) = False ∧ ({ F with wait := .far } : Flight).stopped = false := by decide +kernel

/-- A partition that accepts, with a page of kind SPAN, and with twins. -/
def Wtarget (tw span : Bool) (planes : Dword) : State := let s := (WP tw 0 id).modCtx 0 0 (fun c => { c with dom := { c.dom with domen := true, domid := 4, peers := 8 } })
  { (if span then s.putNat 0x2007 1 0xC0 else s) with planes }
def reaches (s : State) (k : RemKind) (va n : Nat) (span : Bool) : Bool := match s.remPiece 0 0 k va n with
  | .ok (ks, sp) => ks == (List.range' va n) && sp == span
  | _ => false
theorem witness_target_span : reaches (Wtarget false true 1) .load 0x8000 4 true = true ∧ reaches (Wtarget false true 0) .store 0x8000 4 true = true ∧
    (Wtarget false true 0).acceptor (req .store [1, 2, 3, 4] 7) = some (0, 0) ∧ (Wtarget false true 0).planes = 0 ∧
    ({ Wtarget false true 1 with spanHold := [(1, (3, 0))], planes := 1 } : State).spanHeld 0x5000 = true := by decide +kernel
theorem witness_target_forms : reaches (Wtarget false false 0) (.atom 0 0) 0x8000 4 false = true ∧ reaches (Wtarget false false 0) .acas 0x8000 4 false = true ∧
    reaches (Wtarget false false 0) .load 0x8000 64 false = true ∧ (List.range' 0x8000 4).Nodup ∧ (req .store [1, 2, 3, 4] 7).op.data.length = (req .store [1, 2, 3, 4] 7).op.len := by
  decide +kernel
/-- The granule of an LDA of another device, OPEN. -/
def Wopen : State := (Wtarget true false 0).putGranule (gk + 0x8000) 1 5
theorem witness_target_lda : (match Wopen.remPiece 0 0 (.lda false) 0x8000 4 with
      | .ok (ks, sp) => granulesOf ks == [gk + 0x8000] && !sp
      | _ => false) = true ∧ (Wopen.granule (gk + 0x8000)).1 = 1 ∧ Wopen.acceptor (req (.lda false) [] 7) = some (0, 0) ∧
    (Wopen.ldaWaiters.filter (fun p => paDie (p.2.headD 0) == paDie (gk + 0x8000))).length < 1024 ∧
    ¬ (({ Wopen with ldaWaiters := List.replicate 1024 ((3, 9), [gk]) } : State).ldaWaiters.filter (fun p => paDie (p.2.headD 0) == paDie (gk + 0x8000))).length < 1024 := by
  decide +kernel
theorem witness_create : look Wdom.dstCtx (3 * 256) = some { epoch := 5, expect := 7, replies := [(6, .parked)], buffered := [], lastUse := 0 } ∧ (5 : Word) ≠ 6 ∧ look W.dstCtx (3 * 256) = none := by
  decide +kernel
theorem witness_request_age : (req .load [] 7).sent + 10000 ≤ ({ Wdom with clk := 19000 } : State).clk.toNat ∧ Wdom.clk.toNat < (req .load [] 7).sent + 10000 ∧ (6 : Word) ≠ 7 ∧
    2 ^ 31 ≤ ((6 : Word) - 7).toNat ∧ ((8 : Word) - 7).toNat < 2 ^ 31 ∧ ¬ ({ Wdom with clk := 18999 } : State).clk.toNat ≥ (req .load [] 8).sent + 10000 := by decide +kernel
theorem witness_request_waits : (State.performRemote { Wtarget false true 0 with dstCtx := [(3 * 256, { epoch := 5, expect := 7, replies := [], buffered := [req .load [] 7], lastUse := 0 })] }
    (req .load [] 7)).isNone = true := by decide +kernel
theorem witness_admits : Wdom.cmdCtx 0 = some 0 ∧ ((Wdom.part 0).ctx 0).dom.domen = true ∧ ((Wdom.part 0).ctx 0).dom.peers.getLsbD 3 = true ∧ (Wdom.part 0).desc.valid = true ∧
    (Wdom.part 0).cur.isSome = true ∧ ((Wdom.part 0).ctx 0).dom.domid = (req .load [] 7).domid := by decide +kernel

/-! Lane addresses in the board's memory and on a die's chip scratchpads, and the two positions of a PSTP. -/

def Wboard : State := ((withG (fun g => { g with scratchBytes := 4096 })).modLaunch 1 (fun x => { x with tethers := [(0, { tether1 with wgs := [1, 9], pads := [(0, (0, 4096)), (3, (64, 1024))] })] })).modPart 0
  (fun p => { p with desc := { p.desc with cswin := 0x0101, csoff := 0x0200 } })
theorem witness_board : (∃ x, look Wboard.launches G.launch = some x ∧ ∃ y, look x.tethers G.tether = some y ∧ y.wgs = [1, 9] ∧ y.pads[1]? = some (3, (64, 1024)) ∧ y.pads[2]? = none) ∧
    (look Wboard.wgs 1).map (·.scratchBytes) = some 4096 ∧ look Wboard.wgs 9 = none :=
  ⟨⟨_, rfl, _, rfl, rfl, rfl, rfl⟩, by decide +kernel, by decide +kernel⟩
/-- Rank 0 at its last word and past it, rank 1, the first address past the boards; die 0's window, die 1's, and the last address. -/
theorem witness_board_addresses : spaceEa (F.setV 0 1 4092) (mo 7 0 2) 0 = 0 ∧ spaceEa (F.setV 0 1 4092) { mo 7 0 2 with a := 1 } 0 + 4 = 4096 ∧
    spaceEa (F.setV 0 1 4096) { mo 7 0 2 with a := 1 } 0 + 4 = 4100 ∧ spaceEa (F.setV 0 1 0x80000) { mo 7 0 2 with a := 1 } 0 = 2 ^ 19 ∧
    spaceEa (F.setV 0 1 0x2000000) { mo 7 0 2 with a := 1 } 0 = 2 ^ 25 ∧ spaceEa (F.setV 0 1 0xFFFFFFC) { mo 7 0 3 with a := 1 } 0 + 4 = 2 ^ 28 ∧
    spaceEa (F.setV 0 1 0xFFFFC) { mo 7 0 3 with a := 1 } 0 + 4 = 2 ^ 20 ∧ spaceEa F { mo 7 0 3 with imm := 0xFFE } 0 % 4 ≠ 0 := by decide +kernel
def pos (x y : Word) : Flight → Flight := fun f => (setS [(25, 4)] f).setV 0 1 x |>.setV 0 2 y
def pstpP (f : Flight) : Int := ((f.s64 20).toNat % 2 ^ 56 : Nat) + ((f.v 0 1).toNat : Nat) * (f.s 24).toInt + ((f.v 0 2).toNat : Nat) * 4
def pstpQ (f : Flight) : Int := ((f.s64 20).toNat % 2 ^ 56 : Nat) + (f.s 25).toInt + ((f.v 0 2).toNat : Nat) * (f.s 24).toInt + ((f.v 0 1).toNat : Nat) * 4
theorem witness_pstp_positions : pstpP (fl (WP false 0 (pos 1 2))) = 0x800C ∧ pstpQ (fl (WP false 0 (pos 1 2))) = 0x8010 ∧
    pstpP (fl (WP false 0 (pos 1023 0))) = 0x8FFC ∧ pstpQ (fl (WP false 0 (pos 1023 0))) = 0x9000 ∧ pstpP (fl (WP false 0 (pos 1024 0))) = 0x9000 ∧
    pstpQ (fl (WP false 0 (fun f => setS [(25, 2)] (pos 1 2 f)))) % 4 ≠ 0 := by decide +kernel

/-! A piece that was issued under a lock; what the places of several lines ask. -/

theorem witness_locked : ({ piece 0x8000 4 with locked := true } : Piece).locked = true ∧
    (match (WP false 0 id).walk 0 ((WP false 0 id).transOf 0 0) 0x8000 with | .ok l => !l.lock | _ => false) = true ∧
    (match ((WP false 0 id).putNat 0x2007 1 0xA0).walk 0 (((WP false 0 id).putNat 0x2007 1 0xA0).transOf 0 0) 0x8000 with | .ok l => l.lock | _ => false) = true ∧
    ({ piece 0x8000 4 with span := true } : Piece).span = true ∧ W.planes = 0 := by decide +kernel
theorem witness_lines : (∀ p ∈ (accs2.getD 1 default).pieces, p.lane < 32 ∧ p.first < 256 ∧ p.locked = false ∧ Waccs.hasLost p.keys = false ∧ Waccs.poisoned p.keys = false ∧
    ∀ k ∈ p.keys, Waccs.keyUp k = true) := by decide +kernel

/-! Values of every order, in every format that a statement speaks of. -/

theorem witness_values : Fmt.fp32.decode 0x7F800001 = .nan false true ∧ Fmt.fp32.decode 0xFFC00000 = .nan true false ∧ Fmt.fp32.decode 0xFF800000 = .inf true ∧
    Fmt.fp32.decode 0x80000000 = .fin ⟨true, 0, -149, false⟩ ∧ Fmt.fp32.decode 0 = .fin ⟨false, 0, -149, false⟩ ∧ Fmt.fp64.ieee = true ∧ Fmt.bf16.ieee = true := by decide +kernel
theorem witness_order : below (.inf true) (.fin ⟨false, 1, 0, false⟩) ∧ below (.fin ⟨true, 1, 0, false⟩) (.fin ⟨false, 1, -3, false⟩) ∧
    below (.fin ⟨false, 1, 3, false⟩) (.inf false) ∧ ¬ below (.fin ⟨true, 0, 0, false⟩) (.fin ⟨false, 0, 0, false⟩) := by
  simp only [below]; decide
/-- The largest magnitude of e4m3, and what is above it; the scale 2^3 under which 9 fits 1.5 × 2^0. -/
theorem witness_scale_bounds : AtMost 448 0 448 0 ∧ ¬ AtMost 449 0 448 0 ∧ AtMost 9 0 3 2 ∧ ¬ AtMost 9 0 3 1 :=
  ⟨fun _ _ _ => le_refl _, fun h => absurd (h 0 (le_refl _) (le_refl _)) (by decide),
    fun k h _ => by
      have e : (2 - k).toNat = (0 - k).toNat + 2 := by omega
      rw [e, pow_add]
      calc 9 * 2 ^ (0 - k).toNat ≤ 12 * 2 ^ (0 - k).toNat := Nat.mul_le_mul_right _ (by decide)
        _ = 3 * (2 ^ (0 - k).toNat * 2 ^ 2) := by ring,
    fun h => absurd (h 0 (le_refl _) (by decide)) (by decide)⟩
theorem witness_codebook : Sys2Proof.Claim.entry [0x3F80, 0x7F80] 0 0 ⟨false, 128, -7, false⟩ ∧ ¬ (∃ w, Sys2Proof.Claim.entry [0x3F80, 0x7F80] 0 1 w) :=
  ⟨⟨⟨false, 128, -7, false⟩, by decide +kernel, rfl⟩, fun ⟨_, v, hv, _⟩ => by
    have h : Fmt.bf16.decode (([0x3F80, 0x7F80] : List Half).getD 1 0).toNat = .inf false := by decide +kernel
    rw [h] at hv; exact nomatch hv⟩

/-! The estimation worked out in R329. -/

def deck329 : Deck := { n := 64, mode := 0, seed := 0x0000000300000005, k := 8, z := 0x40000000, tol := 0x3F800000, nmin := 16, nmax := 64 }
theorem test_deck_items : (List.range 16).map deck329.perm = [3, 9, 12, 16, 21, 31, 37, 34, 46, 54, 51, 61, 56, 4, 8, 15] := by decide +kernel
def run329 (n : Nat) : Run := (List.range n).foldl (fun r _ => r.merge deck329 0) { Run.fresh 1 with rounds := [(0, ⟨8, 27 * 2 ^ 64, 129 * 2 ^ 128, false⟩),
  (1, ⟨8, 31 * 2 ^ 64, 171 * 2 ^ 128, false⟩), (2, ⟨8, 27 * 2 ^ 64, 141 * 2 ^ 128, false⟩), (3, ⟨8, 31 * 2 ^ 64, 151 * 2 ^ 128, false⟩)] }
theorem test_merge_third : (run329 3).mean = 0x400C555555555555 ∧ (run329 3).status = 0 ∧ (run329 1).h = 0x7FF0000000000000 := by decide +kernel
theorem test_merge_converges : (run329 4).mean = 0x400D000000000000 ∧ (run329 4).m2 = 0x4065700000000000 ∧ (run329 4).status = 1 ∧ (run329 4).n = 32 := by decide +kernel
theorem witness_deck_rule : (64 ≤ 2 ^ 6 ∧ 2 ^ 5 < deck329.n ∧ deck329.seed < 2 ^ 64 ∧ deck329.mode ≤ 1) ∧
    ({ deck329 with n := 1, mode := 1, seed := 0 } : Deck).n ≤ 2 ^ 0 ∧ ({ deck329 with n := 1, mode := 1 } : Deck).perm 0 = 0 := by decide +kernel
theorem test_deck_five : (List.range 5).map { deck329 with n := 5, seed := 0x200000003 }.perm = [2, 4, 0, 3, 1] := by decide +kernel

end Sys2Proof.Tests
end

