-- ==== Sys2Proof/Proofs/Control.lean ====
section
/-! SUPPORT. Branches, calls, loops and exits: masks of lanes, the threads that take a branch, what a trap of one flight leaves in each
flight of its workgroup, and the obligation on them. -/

namespace Sys2Proof.Machine

open Sys2Proof.Claim

/-! ### Masks of lanes -/

/-- Setting lanes one by one in a mask: a lane is set if it was, or if it is one of them. -/
theorem getLsbD_foldl_lane (ls : List Nat) (m : Word) {l : Nat} (hl : l < 32) :
    (ls.foldl (fun m k => m ||| (1#32 <<< k)) m).getLsbD l = (m.getLsbD l || decide (l ∈ ls)) := by
  induction ls generalizing m with
  | nil => simp
  | cons k ls ih =>
    have hbit : (1#32 <<< k).getLsbD l = decide (l = k) := by
      rw [Bool.eq_iff_iff]
      simp [hl]
      omega
    rw [List.foldl_cons, ih, BitVec.getLsbD_or, hbit, Bool.or_assoc, Bool.eq_iff_iff]
    simp

theorem getLsbD_laneMask (ls : List Nat) {l : Nat} (hl : l < 32) : (laneMask ls).getLsbD l = decide (l ∈ ls) := by
  rw [laneMask, getLsbD_foldl_lane ls 0#32 hl, BitVec.getLsbD_zero, Bool.false_or]

theorem mem_maskLanes (m : Word) {l : Nat} (hl : l < 32) : l ∈ maskLanes m ↔ m.getLsbD l = true := by
  simp [maskLanes, lanes, hl]

theorem getLsbD_maskOf (p : Nat → Bool) {l : Nat} (hl : l < 32) : (maskOf p).getLsbD l = p l := by
  rw [maskOf, getLsbD_laneMask _ hl]
  simp [lanes, hl]

/-! ### Branch takers and addresses -/

/-- The guard of the model reads predicate G[2:0] of the class's file, negated by G[3] (R34). -/
theorem guard_eq_holds (f : Flight) (g : BitVec 4) (l : Nat) : f.guard (guardsP f.cls) g l = holds f g l := by
  have hi : bits g.toNat 2 0 = (g.extractLsb' 0 3).toNat := by simp [bits]
  unfold Flight.guard holds
  rw [hi]
  cases f.cls <;> simp [guardsP]

/-- On the uniform path one q guard stands for every lane (R34, R74). -/
theorem guard_uni_eq_holds (f : Flight) (g : BitVec 4) (l : Nat) (h : f.uniPath = true) : f.guard false g 0 = holds f g l := by
  rw [← guard_eq_holds]
  have hp : guardsP f.cls = false := by
    unfold Flight.uniPath at h
    revert h
    cases f.cls <;> simp [uniformClass, guardsP]
  rw [hp]
  rfl

theorem takes_takers (f : Flight) (g : BitVec 4) : Takes f g (f.takers g) := by
  intro l hl
  unfold Flight.takers
  by_cases hu : f.uniPath = true
  · rw [if_pos hu, ← guard_uni_eq_holds f g l hu]
    by_cases hg : f.guard false g 0 = true <;> simp [hg]
  · rw [if_neg hu, getLsbD_laneMask _ hl, Flight.acting, if_neg hu, Bool.eq_iff_iff]
    simp [mem_maskLanes _ hl, guard_eq_holds]

theorem nextHeader_eq_nextOf {f : Flight} {c : Clause} (h : f.clause = some c) : f.nextHeader = nextOf c := by
  simp [Flight.nextHeader, Flight.header, nextOf, h, BitVec.ofNat_mul]

theorem relTarget_eq_relOf {f : Flight} {c : Clause} (h : f.clause = some c) (off : BitVec 40) : f.relTarget off = relOf c off := by
  have hshift : off.signExtend 64 <<< 3 = 8 * off.signExtend 64 := by
    rw [BitVec.shiftLeft_eq_mul_twoPow, BitVec.mul_comm]
    rfl
  simp [Flight.relTarget, Flight.header, relOf, h, hshift]

/-! ### Branches -/

/-- An instruction that branches to a target of its clause marks its takers and the target (R73, R74). -/
theorem branch_of_branchTo {i : Instr} {gd : BitVec 4} {target : Flight → Dword} {once : Flight → Flight}
    {target' : Clause → Flight → Dword} {once' : Clause → Flight → Flight} (hx : ∀ s, exec i s = branchTo gd target once s)
    (ht : ∀ f c, f.clause = some c → target f = target' c f) (ho : ∀ f c, f.clause = some c → once f = once' c f) :
    Branch i gd target' once' := by
  intro s r f c hi hc
  refine ⟨_, ?_, f.takers gd, takes_takers f gd, rfl⟩
  rw [hx, branchTo, withIssuer_next hi, ht f c hc, ho f c hc]

/-- An instruction that branches to a register completes, or traps where some thread takes a misaligned target (R75). -/
theorem branchReg_of_branchReg {i : Instr} {gd : BitVec 4} {sreg : Nat} {once : Flight → Flight} {once' : Clause → Flight → Flight}
    (hx : ∀ s, exec i s = branchReg gd sreg once s) (ho : ∀ f c, f.clause = some c → once f = once' c f) :
    BranchReg i gd sreg once' := by
  intro s r f c hi hc
  have hlow : bits (f.s64 sreg).toNat 2 0 = (f.s64 sreg).toNat % 8 := by simp [bits]
  refine ⟨f.takers gd, takes_takers f gd, fun hok => ?_, fun hm ha => ?_⟩
  · have hn : ¬ (f.takers gd ≠ 0 ∧ bits (f.s64 sreg).toNat 2 0 ≠ 0) := by
      rw [hlow]
      tauto
    rw [hx, branchReg, withIssuer_next hi, if_neg hn, ho f c hc]
  · rw [hx, branchReg, withIssuer_next hi, if_pos ⟨hm, hlow ▸ ha⟩]
    rfl

theorem exec_loop (o : BFmt) (s : State) : exec (.loop o) s = execLoop o s := rfl

/-- LOOP decrements its counter where some thread acts, and no thread takes it when that leaves 0 (R74, R77). -/
theorem loop_retires (o : BFmt) : Retires (.loop o) (fun _ _ c f g => ∃ m, Takes f o.g m ∧
    (m = 0 → g = { f with brMask := 0, brTarget := relOf c o.off }) ∧
    (m ≠ 0 → g = { f.setS o.s.toNat (f.s o.s.toNat - 1) with
      brMask := if f.s o.s.toNat = 1 then 0 else m, brTarget := relOf c o.off })) := by
  intro s r f c hi hc
  have hz : (f.s o.s.toNat - 1 = 0) = (f.s o.s.toNat = 1) := propext (by bv_omega)
  refine ⟨_, by rw [exec_loop, execLoop, withIssuer_next hi], f.takers o.g, takes_takers f o.g, fun hm => ?_, fun hm => ?_⟩
  · simp [hm, relTarget_eq_relOf hc]
  · simp only [hm, hz, if_false, relTarget_eq_relOf hc]

theorem branches_hold : Branches := by
  refine ⟨fun o => ?_, fun o => ?_, fun o => ?_, fun o => ?_, fun o => ?_, loop_retires⟩
  · exact branch_of_branchTo (fun _ => rfl) (fun _ _ hc => relTarget_eq_relOf hc o.off) (fun _ _ _ => rfl)
  · refine branch_of_branchTo (fun _ => rfl) (fun _ _ hc => relTarget_eq_relOf hc o.off) (fun f c hc => ?_)
    rw [nextHeader_eq_nextOf hc, relTarget_eq_relOf hc]
    rfl
  · exact branchReg_of_branchReg (fun _ => rfl) (fun _ _ _ => rfl)
  · exact branchReg_of_branchReg (fun _ => rfl) (fun _ _ _ => rfl)
  · refine branchReg_of_branchReg (fun _ => rfl) (fun f c hc => ?_)
    rw [nextHeader_eq_nextOf hc]
    rfl

/-! ### What a trap leaves in the flights of its workgroup -/

/-- Two flights agree in the cause they hold and in what they wait for. -/
def Flight.SameWait (f g : Flight) : Prop := g.cause = f.cause ∧ g.wait = f.wait

theorem Flight.SameWait.trans {f g h : Flight} (a : f.SameWait g) (b : g.SameWait h) : f.SameWait h :=
  ⟨b.1.trans a.1, b.2.trans a.2⟩

theorem Flight.stopHere_sameWait (f : Flight) : f.SameWait f.stopHere := by
  unfold Flight.stopHere
  split
  · split <;> exact ⟨rfl, rfl⟩
  · split <;> exact ⟨rfl, rfl⟩

/-- A flight that retires waits for nothing. -/
theorem State.retired_wait (s : State) (r : FlightRef) (f : Flight) : (s.retired r f).wait = .ready := by
  have hretire : f.retire.wait = .ready := by
    unfold Flight.retire
    dsimp only
    split
    · rw [(Flight.stopHere_sameWait _).2]
    · rfl
  have htick : ∀ g : Flight, g.tickTimer.wait = g.wait := by
    intro g
    unfold Flight.tickTimer
    split
    · rfl
    · split <;> rfl
  unfold State.retired
  dsimp only
  split
  · rw [htick, hretire]
  · exact hretire

/-- The halt of a workgroup stops its flights; none gets a cause by it, and each waits as before (R333 step 2). -/
theorem Wg.halt_flight {g : Wg} {k : Nat} {f : Flight} (h : g.flights[k]? = some f) :
    ∃ f', g.halt.flights[k]? = some f' ∧ f.SameWait f' := by
  unfold Wg.halt
  dsimp only
  split
  · exact ⟨f, h, rfl, rfl⟩
  · rw [List.getElem?_map, h]
    refine ⟨_, rfl, ?_⟩
    beta_reduce
    split
    · exact ⟨rfl, rfl⟩
    · split
      · exact f.stopHere_sameWait
      · exact ⟨rfl, rfl⟩

/-- In a workgroup where one flight traps, that flight has the cause and waits no more; the others are as a halt leaves them (R333). -/
theorem Wg.takeTrap_flight {g : Wg} {k : Nat} {f : Flight} (h : g.flights[k]? = some f) (j now clk : Nat) (t : TrapInfo) :
    ∃ f', (g.takeTrap j now clk t).flights[k]? = some f' ∧
      ((k = j → f'.cause = t.cause) ∧ (k ≠ j → f.SameWait f')) := by
  obtain ⟨x, hx, hsame⟩ := Wg.halt_flight h
  unfold Wg.takeTrap
  dsimp only
  rw [getElem?_modAt]
  by_cases hk : k = j
  · subst hk
    rw [if_pos rfl, hx]
    exact ⟨_, rfl, fun _ => rfl, fun hne => absurd rfl hne⟩
  · rw [if_neg hk]
    exact ⟨x, hx, fun he => absurd he hk, fun _ => hsame⟩

@[simp] theorem State.closeNp_wgs (s : State) (r : FlightRef) (f : Flight) : (s.closeNp r f).wgs = s.wgs := by
  unfold State.closeNp
  split
  · rfl
  · dsimp only
    split <;> rfl

theorem State.foldl_wgs {α : Type} (h : State → α → State) (hh : ∀ s a, (h s a).wgs = s.wgs) (l : List α) (s : State) :
    (l.foldl h s).wgs = s.wgs := by
  induction l generalizing s with
  | nil => rfl
  | cons a l ih => exact (ih (h s a)).trans (hh s a)

/-- Closing a workgroup's sections changes no more of the workgroups than that its flights have none open (R224, R345). -/
theorem State.closeSections_wgs (s : State) (w : Nat) : (s.closeSections w).wgs =
    alter s.wgs w (fun g => { g with flights := g.flights.map (fun f => { f with npOpen := false }) }) := by
  unfold State.closeSections
  split
  · rw [State.modWg_wgs, State.foldl_wgs]
    intro t j
    split
    · exact State.closeNp_wgs _ _ _
    · rfl
  · next hnone => simp [alter, hnone]

theorem State.closeSections_flight {s : State} {w k : Nat} {f : Flight} (h : s.flight? (.wg w k) = some f) :
    ∃ f', (s.closeSections w).flight? (.wg w k) = some f' ∧ f.SameWait f' := by
  obtain ⟨g, hg, hf⟩ := Option.bind_eq_some_iff.1 h
  refine ⟨{ f with npOpen := false }, ?_, rfl, rfl⟩
  simp [State.flight?, State.closeSections_wgs, hg, hf]

/-- A trap of one flight of a workgroup gives that flight its cause, and leaves the cause and the wait of the others. -/
theorem State.trap_flight {s : State} {w k : Nat} {f : Flight} (h : s.flight? (.wg w k) = some f) (j : Nat) (t : TrapInfo) :
    ∃ f', (s.trap (.wg w j) t).flight? (.wg w k) = some f' ∧ (k = j → f'.cause = t.cause) ∧ (k ≠ j → f.SameWait f') := by
  obtain ⟨x, hx, hclose⟩ :=
    State.closeSections_flight (s := { s with cur := if s.cur = some (.wg w j) then none else s.cur }) h
  obtain ⟨g, hg, hgx⟩ := Option.bind_eq_some_iff.1 hx
  obtain ⟨y, hy, hself, hother⟩ := Wg.takeTrap_flight hgx j
    (max (s.beat (.wg w j)) (((s.flight? (.wg w j)).map (·.lastIssue)).getD 0)) s.clk.toNat t
  refine ⟨y, ?_, hself, fun hk => hclose.trans (hother hk)⟩
  simp only [State.trap, State.flight?, State.modWg_wgs, look_alter, if_true, hg, Option.map_some, Option.bind_some]
  exact hy

/-! ### SORTK_DIVERGENT of the flights that wait (R143) -/

/-- One flight traps SORTK_DIVERGENT if it waits at a SORTK. -/
def State.trapSorter (w : Nat) (s : State) (j : Nat) : State :=
  match s.flight? (.wg w j) with
  | some f => if f.wait = .sort then s.fault (.wg w j) cSortk 0 0 else s
  | none => s

theorem State.trapSorters_eq (s : State) (w : Nat) : s.trapSorters w = (List.range 32).foldl (State.trapSorter w) s := rfl

theorem State.trapSorter_same {s : State} {w j : Nat} (h : ∀ f, s.flight? (.wg w j) = some f → f.wait ≠ .sort) :
    s.trapSorter w j = s := by
  unfold State.trapSorter
  split
  · next f hf => exact if_neg (h f hf)
  · rfl

theorem State.trapSorter_sort {s : State} {w j : Nat} {f : Flight} (hf : s.flight? (.wg w j) = some f) (hw : f.wait = .sort) :
    s.trapSorter w j = s.fault (.wg w j) cSortk 0 0 := by
  simp [State.trapSorter, hf, hw]

/-- A flight after the turn of one flight of its workgroup: it has trapped, if it was its own turn and it waited; else it has its cause
and its wait still. -/
theorem State.trapSorter_flight {s : State} {w k : Nat} {f : Flight} (h : s.flight? (.wg w k) = some f) (j : Nat) :
    ∃ f', (s.trapSorter w j).flight? (.wg w k) = some f' ∧
      (f'.cause = cSortk ∨ f.SameWait f') ∧ (k = j → f.wait = .sort → f'.cause = cSortk) := by
  by_cases hw : ∃ x, s.flight? (.wg w j) = some x ∧ x.wait = .sort
  · obtain ⟨x, hx, hsort⟩ := hw
    obtain ⟨f', hf', hself, hother⟩ := State.trap_flight h j (.fault cSortk 0 0)
    rw [State.trapSorter_sort hx hsort]
    refine ⟨f', hf', ?_, fun hk _ => hself hk⟩
    by_cases hk : k = j
    · exact .inl (hself hk)
    · exact .inr (hother hk)
  · rw [State.trapSorter_same (fun x hx hsort => hw ⟨x, hx, hsort⟩)]
    exact ⟨f, h, .inr ⟨rfl, rfl⟩, fun hk hsort => absurd ⟨f, hk ▸ h, hsort⟩ hw⟩

/-- Over the turns of some flights, a flight that waits at a SORTK and whose turn is among them has trapped, and one that has trapped
keeps its cause. -/
theorem State.foldl_trapSorter_cause {w k : Nat} (js : List Nat) {s : State} {f : Flight} (h : s.flight? (.wg w k) = some f)
    (hd : f.cause = cSortk ∨ (f.wait = .sort ∧ k ∈ js)) :
    ∃ f', (js.foldl (State.trapSorter w) s).flight? (.wg w k) = some f' ∧ f'.cause = cSortk := by
  induction js generalizing s f with
  | nil => exact ⟨f, h, by simpa using hd⟩
  | cons j js ih =>
    obtain ⟨f', hf', hor, hturn⟩ := State.trapSorter_flight h j
    refine ih hf' ?_
    rcases hor with hc | ⟨hcause, hwait⟩
    · exact .inl hc
    · rcases hd with hc | ⟨hsort, hmem⟩
      · exact .inl (hcause.trans hc)
      · rcases List.mem_cons.1 hmem with hk | hk
        · exact .inl (hturn hk hsort)
        · exact .inr ⟨hwait.trans hsort, hk⟩

theorem State.trapSorters_flight {s : State} {w k : Nat} {f : Flight} (h : s.flight? (.wg w k) = some f) (hk : k < 32)
    (hw : f.wait = .sort) : ∃ f', (s.trapSorters w).flight? (.wg w k) = some f' ∧ f'.cause = cSortk := by
  rw [State.trapSorters_eq]
  exact State.foldl_trapSorter_cause _ h (.inr ⟨hw, List.mem_range.2 hk⟩)

theorem State.trapSorters_same {s : State} {w : Nat} (h : ∀ k f, s.flight? (.wg w k) = some f → f.wait ≠ .sort) :
    s.trapSorters w = s := by
  rw [State.trapSorters_eq]
  exact List.foldl_fixed' (fun j => State.trapSorter_same (h j)) _

/-- A flight that retires joins no SORTK: where no flight of its workgroup waited at one, none does after. -/
theorem State.retire_no_sort {s : State} {w fl : Nat} {x : Flight} (hx : s.flight? (.wg w fl) = some x)
    (h : ∀ k f, s.flight? (.wg w k) = some f → f.wait ≠ .sort) (g : Flight) :
    ∀ k f, (s.retire (.wg w fl) g).flight? (.wg w k) = some f → f.wait ≠ .sort := by
  intro k f hf
  by_cases hk : k = fl
  · subst hk
    rw [State.retire_flight? s _ g x hx, Option.some.injEq] at hf
    simp [← hf, State.retired_wait]
  · rw [State.retire_flight?_ne s g (by simpa using hk)] at hf
    exact h k f hf

/-! ### EXIT -/

/-- Some threads finish: the exited and the held threads change, and nothing else of the flight (R78). -/
theorem exitThreads_eq (f : Flight) (m : Word) :
    f.exitThreads m = { f with exited := f.exited ||| m, held := (f.exitThreads m).held } := rfl

/-- A held thread stays held while some thread of its mr is neither held nor finished (R130). -/
theorem exitThreads_held (f : Flight) (m : Word) {l : Nat} (hl : l < 32) : (f.exitThreads m).held.getLsbD l =
    (f.held.getLsbD l && !(List.range 32).all (fun k =>
      decide (f.mr.getD k 0 ≠ f.mr.getD l 0) || f.held.getLsbD k || (f.exitThreads m).exited.getLsbD k)) := by
  have hheld : (f.exitThreads m).held = f.held &&& ~~~ ({ f with exited := f.exited ||| m } : Flight).met := rfl
  have hall : ∀ k, (f.mr.getD k 0 != f.mr.getD l 0) = decide (f.mr.getD k 0 ≠ f.mr.getD l 0) := fun k => by
    rw [Bool.eq_iff_iff]
    simp
  rw [hheld, BitVec.getLsbD_and, BitVec.getLsbD_not, Flight.met, getLsbD_maskOf _ hl]
  simp only [hl, decide_true, Bool.true_and, lanes, hall]
  cases f.held.getLsbD l <;> rfl

theorem exec_exit (o : BFmt) (s : State) : exec (.exit o) s = execExit o s := rfl

theorem exec_exit_ctl {s : State} {die part : Nat} {f : Flight} (o : BFmt) (hi : s.issuer = some (.ctl die part, f)) :
    exec (.exit o) s = .next (s.retire (.ctl die part) (f.exitThreads (f.takers o.g))) := by
  rw [exec_exit, execExit, withIssuer_next hi]

theorem exec_exit_wg {s : State} {w fl : Nat} {f : Flight} (o : BFmt) (hi : s.issuer = some (.wg w fl, f)) :
    exec (.exit o) s = .next (if (f.exitThreads (f.takers o.g)).allExited then
      (s.retire (.wg w fl) (f.exitThreads (f.takers o.g))).trapSorters w else s.retire (.wg w fl) (f.exitThreads (f.takers o.g))) := by
  rw [exec_exit, execExit, withIssuer_next hi]

theorem allExited_iff (f : Flight) : f.allExited = true ↔ f.exited = 0xFFFFFFFF := by
  have hones : BitVec.allOnes 32 = (0xFFFFFFFF : Word) := by decide
  simp [Flight.allExited, hones]

theorem exits_hold : Exits := by
  intro o s r f hi
  refine ⟨f.exitThreads (f.takers o.g), f.takers o.g, takes_takers f o.g, exitThreads_eq f _,
    fun l hl => exitThreads_held f _ hl, fun hmore => ?_, ?_, ?_, ?_⟩
  · cases r with
    | wg w fl => rw [exec_exit_wg o hi, if_neg (mt (allExited_iff _).1 hmore)]
    | ctl die part => exact exec_exit_ctl o hi
  · rintro die part rfl
    exact exec_exit_ctl o hi
  · rintro w fl rfl hno
    have hcur := (State.issuer_some hi).2
    rw [exec_exit_wg o hi, State.trapSorters_same (State.retire_no_sort hcur hno _), ite_self]
  · rintro w fl k h rfl hall hk hne hh hsort
    rw [← State.retire_flight?_ne s (f.exitThreads (f.takers o.g)) (r := .wg w fl) (by simpa using hne)] at hh
    obtain ⟨h', hh', hcause⟩ := State.trapSorters_flight hh hk hsort
    exact ⟨_, h', by rw [exec_exit_wg o hi, if_pos ((allExited_iff _).2 hall)], hh', hcause⟩

/-- Settles O20: each branch form by the law of its shared frame; EXIT by following a flight that waits at a SORTK through the turns of its
siblings. -/
theorem branchesAndExits : Obligations.BranchesAndExits := ⟨branches_hold, exits_hold⟩

end Sys2Proof.Machine
end

section
/-! SUPPORT. Number formats: exact values as rational numbers, rounding as the choice between neighbouring codes, encoding under block
scales and into codebooks, the instructions that convert, pack and unpack, and the obligation on them (R80–R100, R112, R118–R125). -/

namespace Sys2Proof.Machine

open Sys2Proof.Claim

/-! ### Exact values as rational numbers -/

/-- The magnitude m × 2^e. -/
def dyadic (m : Nat) (e : Int) : ℚ := m * 2 ^ e

/-- The number of a sign and a magnitude. -/
def withSign (neg : Bool) (a : ℚ) : ℚ := if neg then -a else a

/-- The number that an exact value without a sticky bit stands for. -/
def Xr.val (x : Xr) : ℚ := withSign x.neg (dyadic x.m x.e)

@[simp] theorem withSign_true (a : ℚ) : withSign true a = -a := rfl

@[simp] theorem withSign_false (a : ℚ) : withSign false a = a := rfl

theorem dyadic_nonneg (m : Nat) (e : Int) : 0 ≤ dyadic m e := by
  unfold dyadic
  positivity

theorem dyadic_eq_zero {m : Nat} {e : Int} : dyadic m e = 0 ↔ m = 0 := by
  unfold dyadic
  simp [zpow_ne_zero]

@[simp] theorem dyadic_zero_left (e : Int) : dyadic 0 e = 0 := by simp [dyadic]

theorem dyadic_zero_right (m : Nat) : dyadic m 0 = m := by simp [dyadic]

@[simp] theorem abs_withSign (neg : Bool) (a : ℚ) : |withSign neg a| = |a| := by
  cases neg <;> simp

theorem Xr.abs_val (x : Xr) : |x.val| = dyadic x.m x.e := by
  rw [Xr.val, abs_withSign, abs_of_nonneg (dyadic_nonneg _ _)]

theorem Xr.val_eq_zero {x : Xr} : x.val = 0 ↔ x.m = 0 := by
  rw [← abs_eq_zero, x.abs_val, dyadic_eq_zero]

/-- Moving a value's last place down by whole places. -/
theorem dyadic_scale (m : Nat) {e i : Int} (h : e ≤ i) : dyadic m i = (m * 2 ^ (i - e).toNat : Nat) * 2 ^ e := by
  have hi : i = ((i - e).toNat : Int) + e := by omega
  unfold dyadic
  conv_lhs => rw [hi, zpow_add₀ two_ne_zero, zpow_natCast]
  push_cast
  ring

theorem dyadic_add (m : Nat) (e k : Int) : dyadic m (e + k) = dyadic m e * 2 ^ k := by
  rw [dyadic, dyadic, zpow_add₀ two_ne_zero, mul_assoc]

/-- A magnitude lies between the power of two of its first bit and the next one. -/
theorem two_pow_le_dyadic {m : Nat} (h : m ≠ 0) (e : Int) : (2 : ℚ) ^ ((Nat.log2 m : Int) + e) ≤ dyadic m e := by
  rw [dyadic, zpow_add₀ two_ne_zero, zpow_natCast]
  gcongr
  exact_mod_cast Nat.log2_self_le h

theorem dyadic_lt_two_pow (m : Nat) (e : Int) : dyadic m e < (2 : ℚ) ^ ((Nat.log2 m : Int) + 1 + e) := by
  rw [dyadic, zpow_add₀ two_ne_zero]
  gcongr
  exact_mod_cast Nat.lt_log2_self

theorem scaled_le_scaled_iff_dyadic {a b : Nat} {i j k : Int} (hi : k ≤ i) (hj : k ≤ j) :
    a * 2 ^ (i - k).toNat ≤ b * 2 ^ (j - k).toNat ↔ dyadic a i ≤ dyadic b j := by
  rw [dyadic_scale a hi, dyadic_scale b hj, mul_le_mul_iff_left₀ (by positivity), Nat.cast_le]

theorem magLe_iff {a b : Nat} {i j : Int} : magLe a i b j = true ↔ dyadic a i ≤ dyadic b j := by
  rw [magLe, decide_eq_true_iff, scaled_le_scaled_iff_dyadic (min_le_left i j) (min_le_right i j)]

theorem atMost_iff {a b : Nat} {i j : Int} : AtMost a i b j ↔ dyadic a i ≤ dyadic b j :=
  ⟨fun h => (scaled_le_scaled_iff_dyadic (min_le_left i j) (min_le_right i j)).1 (h _ (min_le_left i j) (min_le_right i j)),
    fun h _ hi hj => (scaled_le_scaled_iff_dyadic hi hj).2 h⟩

/-! ### Exact values in units of a last place -/

theorem Xr.val_eq_scaled (x : Xr) {e : Int} (h : e ≤ x.e) : x.val = x.scaled e * 2 ^ e := by
  rw [Xr.val, dyadic_scale _ h, Xr.scaled]
  cases x.neg <;> simp

/-- Integers in one unit compare as the numbers they stand for. -/
theorem int_le_iff_of_unit {a b : ℤ} {x y : ℚ} {e : Int} (hx : x = a * 2 ^ e) (hy : y = b * 2 ^ e) : a ≤ b ↔ x ≤ y := by
  rw [hx, hy, mul_le_mul_iff_left₀ (by positivity), Int.cast_le]

theorem int_eq_iff_of_unit {a b : ℤ} {x y : ℚ} {e : Int} (hx : x = a * 2 ^ e) (hy : y = b * 2 ^ e) : a = b ↔ x = y := by
  rw [hx, hy, mul_left_inj' (by positivity), Int.cast_inj]

theorem natAbs_of_unit {a : ℤ} {x : ℚ} {e : Int} (hx : x = a * 2 ^ e) : |x| = a.natAbs * 2 ^ e := by
  have hp : (0 : ℚ) < 2 ^ e := by positivity
  rw [hx, abs_mul, abs_of_pos hp, Nat.cast_natAbs, Int.cast_abs]

theorem natAbs_le_iff_of_unit {a b : ℤ} {x y : ℚ} {e : Int} (hx : x = a * 2 ^ e) (hy : y = b * 2 ^ e) :
    a.natAbs ≤ b.natAbs ↔ |x| ≤ |y| := by
  rw [natAbs_of_unit hx, natAbs_of_unit hy, mul_le_mul_iff_left₀ (by positivity), Nat.cast_le]

theorem natAbs_eq_iff_of_unit {a b : ℤ} {x y : ℚ} {e : Int} (hx : x = a * 2 ^ e) (hy : y = b * 2 ^ e) :
    a.natAbs = b.natAbs ↔ |x| = |y| := by
  rw [natAbs_of_unit hx, natAbs_of_unit hy, mul_left_inj' (by positivity), Nat.cast_inj]

theorem sub_of_unit {a b : ℤ} {x y : ℚ} {e : Int} (hx : x = a * 2 ^ e) (hy : y = b * 2 ^ e) : x - y = (a - b : ℤ) * 2 ^ e := by
  rw [hx, hy]
  push_cast
  ring

/-- An integer in units of a place below its own. -/
theorem intCast_of_unit (n : ℤ) {e : Int} (h : e ≤ 0) : (n : ℚ) = (n * (2 ^ (-e).toNat : Nat) : ℤ) * 2 ^ e := by
  have he : (2 : ℚ) ^ e = (2 ^ (-e).toNat)⁻¹ := by
    rw [← zpow_natCast, ← zpow_neg]
    congr 1
    omega
  rw [he]
  push_cast
  field_simp

/-! ### What rounding to a set of numbers is (R93, R94) -/

/-- z is what x rounds to among the numbers of a grid, under rn, rz, ru or rd; `even` says that z is even, as a tie wants it. -/
def RoundsTo (rm : Nat) (grid : ℚ → Prop) (even : Prop) (x z : ℚ) : Prop :=
  (rm = 0 → ∀ w, grid w → |z - x| ≤ |w - x| ∧ (|z - x| = |w - x| → w = z ∨ even)) ∧
  (rm = 1 → |z| ≤ |x| ∧ ∀ w, grid w → |w| ≤ |x| → |w| ≤ |z|) ∧
  (rm = 2 → x ≤ z ∧ ∀ w, grid w → x ≤ w → z ≤ w) ∧
  (rm = 3 → z ≤ x ∧ ∀ w, grid w → w ≤ x → w ≤ z)

/-- y is the neighbour, L below or H above, that a mode selects for a magnitude a of a sign; `lsb` says that L is odd. -/
structure Neighbour (rm : Nat) (neg lsb : Bool) (L H a y : ℚ) : Prop where
  low_nonneg : 0 ≤ L
  low_le : L ≤ a
  lt_high : a < H
  mem : y = L ∨ y = H
  eq_low : a = L → y = L
  near_low : rm = 0 → y = L → 2 * a ≤ L + H ∧ (2 * a = L + H → lsb = false)
  near_high : rm = 0 → y = H → L + H ≤ 2 * a ∧ (2 * a = L + H → lsb = true)
  toward : (rm = 1 ∨ (rm = 2 ∧ neg = true) ∨ (rm = 3 ∧ neg = false)) → y = L
  away : ((rm = 2 ∧ neg = false) ∨ (rm = 3 ∧ neg = true)) → a ≠ L → y = H

namespace Neighbour

variable {rm : Nat} {neg lsb : Bool} {L H a y : ℚ}

theorem nonneg (h : Neighbour rm neg lsb L H a y) : 0 ≤ y := by
  obtain hy | hy := h.mem
  · linarith [h.low_nonneg]
  · linarith [h.low_nonneg, h.low_le, h.lt_high]

theorem eq_iff (h : Neighbour rm neg lsb L H a y) : y = a ↔ a = L := by
  refine ⟨fun hya => ?_, fun ha => (h.eq_low ha).trans ha.symm⟩
  obtain hy | hy := h.mem
  · exact hya.symm.trans hy
  · linarith [h.lt_high]

/-- Under rn no number beyond the two neighbours is nearer; at a tie the neighbour selected is the even one. -/
theorem nearest (h : Neighbour 0 neg lsb L H a y) {even : Prop} (hlow : y = L → lsb = false → even)
    (hhigh : y = H → lsb = true → even) {w : ℚ} (hw : w ≤ L ∨ H ≤ w) :
    |y - a| ≤ |w - a| ∧ (|y - a| = |w - a| → w = y ∨ even) := by
  have h1 := h.low_le
  have h2 := h.lt_high
  obtain hy | hy := h.mem
  · obtain ⟨h3, h4⟩ := h.near_low rfl hy
    rw [hy, abs_sub_comm L a, abs_of_nonneg (by linarith : 0 ≤ a - L)]
    obtain hw | hw := hw
    · rw [abs_sub_comm w a, abs_of_nonneg (by linarith : 0 ≤ a - w)]
      exact ⟨by linarith, fun he => .inl (by linarith)⟩
    · rw [abs_of_nonneg (by linarith : 0 ≤ w - a)]
      exact ⟨by linarith, fun he => .inr (hlow hy (h4 (by linarith)))⟩
  · obtain ⟨h3, h4⟩ := h.near_high rfl hy
    rw [hy, abs_of_nonneg (by linarith : 0 ≤ H - a)]
    obtain hw | hw := hw
    · rw [abs_sub_comm w a, abs_of_nonneg (by linarith : 0 ≤ a - w)]
      exact ⟨by linarith, fun he => .inr (hhigh hy (h4 (by linarith)))⟩
    · rw [abs_of_nonneg (by linarith : 0 ≤ w - a)]
      exact ⟨by linarith, fun he => .inl (by linarith)⟩

/-- A neighbour that is not below its magnitude is the least number of the grid not below it. -/
theorem le_of_away (h : Neighbour rm neg lsb L H a y) (hr : (rm = 2 ∧ neg = false) ∨ (rm = 3 ∧ neg = true)) :
    a ≤ y ∧ ∀ w, (w ≤ L ∨ H ≤ w) → a ≤ w → y ≤ w := by
  have h1 := h.low_le
  by_cases ha : a = L
  · rw [h.eq_low ha]
    exact ⟨ha.le, fun w _ hw => ha ▸ hw⟩
  · have hlt : L < a := lt_of_le_of_ne h1 (Ne.symm ha)
    rw [h.away hr ha]
    exact ⟨h.lt_high.le, fun w hw haw => hw.resolve_left (by linarith)⟩

/-- The neighbour towards zero is the greatest number of the grid that is no larger. -/
theorem le_of_toward (h : Neighbour rm neg lsb L H a y)
    (hr : rm = 1 ∨ (rm = 2 ∧ neg = true) ∨ (rm = 3 ∧ neg = false)) :
    y ≤ a ∧ ∀ w, (w ≤ L ∨ H ≤ w) → w ≤ a → w ≤ y := by
  have h2 := h.lt_high
  rw [h.toward hr]
  exact ⟨h.low_le, fun w hw hwa => hw.resolve_right (by linarith)⟩

/-- A grid without members between the two neighbours of a number has none between the neighbours on that number's side of zero. -/
theorem outside_of_abs (h : Neighbour rm neg lsb L H a y) {w : ℚ} (hw : |w| ≤ L ∨ H ≤ |w|) :
    (w ≤ L ∨ H ≤ w) ∧ (-w ≤ L ∨ H ≤ -w) := by
  have h0 := h.low_nonneg
  have h1 := h.low_le
  have h2 := h.lt_high
  obtain hw | hw := hw
  · exact ⟨.inl ((le_abs_self w).trans hw), .inl ((neg_le_abs w).trans hw)⟩
  · obtain hp | hp := le_total 0 w
    · rw [abs_of_nonneg hp] at hw
      exact ⟨.inr hw, .inl (by linarith)⟩
    · rw [abs_of_nonpos hp] at hw
      exact ⟨.inl (by linarith), .inr hw⟩

/-- The neighbour a mode selects is what the signed number rounds to, in any grid that has no magnitude between the two. -/
theorem roundsTo (h : Neighbour rm neg lsb L H a y) {even : Prop} (hlow : y = L → lsb = false → even)
    (hhigh : y = H → lsb = true → even) {grid : ℚ → Prop} (hgrid : ∀ w, grid w → |w| ≤ L ∨ H ≤ |w|) :
    RoundsTo rm grid even (withSign neg a) (withSign neg y) := by
  have ha : |a| = a := abs_of_nonneg (h.low_nonneg.trans h.low_le)
  have hy : |y| = y := abs_of_nonneg h.nonneg
  have hout := fun w hw => h.outside_of_abs (hgrid w hw)
  refine ⟨?_, ?_, ?_, ?_⟩
  · rintro rfl w hw
    cases neg with
    | false => exact h.nearest hlow hhigh (hout w hw).1
    | true =>
      obtain ⟨h1, h2⟩ := h.nearest hlow hhigh (hout w hw).2
      have hswap : ∀ v : ℚ, |v - -a| = |-v - a| := fun v => by
        rw [← abs_neg (v - -a)]
        congr 1
        ring
      simp only [withSign_true, hswap, neg_neg]
      exact ⟨h1, fun he => (h2 he).imp_left neg_eq_iff_eq_neg.1⟩
  · rintro rfl
    obtain ⟨h1, h2⟩ := h.le_of_toward (.inl rfl)
    simp only [abs_withSign, ha, hy]
    exact ⟨h1, fun w hw => h2 |w| (hgrid w hw)⟩
  · rintro rfl
    cases neg with
    | false =>
      obtain ⟨h1, h2⟩ := h.le_of_away (.inl ⟨rfl, rfl⟩)
      exact ⟨h1, fun w hw => h2 w (hout w hw).1⟩
    | true =>
      obtain ⟨h1, h2⟩ := h.le_of_toward (.inr (.inl ⟨rfl, rfl⟩))
      exact ⟨neg_le_neg h1, fun w hw hwa => neg_le.1 (h2 (-w) (hout w hw).2 (neg_le.1 hwa))⟩
  · rintro rfl
    cases neg with
    | false =>
      obtain ⟨h1, h2⟩ := h.le_of_toward (.inr (.inr ⟨rfl, rfl⟩))
      exact ⟨h1, fun w hw => h2 w (hout w hw).1⟩
    | true =>
      obtain ⟨h1, h2⟩ := h.le_of_away (.inr ⟨rfl, rfl⟩)
      exact ⟨neg_le_neg h1, fun w hw hwa => le_neg.1 (h2 (-w) (hout w hw).2 (le_neg.1 hwa))⟩

end Neighbour

/-! ### The two neighbours on a grid of spacing 2^q, as the model computes them (R95) -/

/-- The neighbour below, in units of the spacing. -/
def Xr.low (x : Xr) (q : Int) : Nat := x.m * 2 ^ (x.e - q).toNat / 2 ^ (q - x.e).toNat

/-- What lies above it, in units of the value's last place. -/
def Xr.rest (x : Xr) (q : Int) : Nat := x.m * 2 ^ (x.e - q).toNat % 2 ^ (q - x.e).toNat

/-- The neighbour selected, in units of the spacing. -/
def Xr.select (x : Xr) (q : Int) (rm draw : Nat) (lsb : Bool) : Nat :=
  if x.rest q != 0 && roundsUp rm x.neg lsb (x.rest q) (q - x.e).toNat false draw then x.low q + 1 else x.low q

/-- A value is its lower neighbour and the rest, in units of the spacing. -/
theorem Xr.dyadic_eq_low_add_rest (x : Xr) (q : Int) :
    dyadic x.m x.e = x.low q * 2 ^ q + (x.rest q : ℚ) / 2 ^ (q - x.e).toNat * 2 ^ q := by
  have hdiv : ((x.m * 2 ^ (x.e - q).toNat : Nat) : ℚ) = 2 ^ (q - x.e).toNat * x.low q + x.rest q := by
    exact_mod_cast (Nat.div_add_mod _ _).symm
  have hval : dyadic x.m x.e = ((x.m * 2 ^ (x.e - q).toNat : Nat) : ℚ) / 2 ^ (q - x.e).toNat * 2 ^ q := by
    obtain h | h := le_total q x.e
    · rw [dyadic_scale x.m h, Int.toNat_of_nonpos (by omega : q - x.e ≤ 0)]
      simp
    · have hq : q = ((q - x.e).toNat : Int) + x.e := by omega
      have h2 : (2 : ℚ) ^ q = 2 ^ (q - x.e).toNat * 2 ^ x.e := by
        conv_lhs => rw [hq, zpow_add₀ two_ne_zero, zpow_natCast]
      rw [h2, Int.toNat_of_nonpos (by omega : x.e - q ≤ 0), dyadic]
      field_simp
      simp
  rw [hval, hdiv]
  field_simp

theorem Xr.rest_lt (x : Xr) (q : Int) : x.rest q < 2 ^ (q - x.e).toNat := Nat.mod_lt _ (by positivity)

/-- A neighbour in units of a spacing. -/
theorem Neighbour.scale {rm : Nat} {neg lsb : Bool} {L H a y u : ℚ} (h : Neighbour rm neg lsb L H a y) (hu : 0 < u) :
    Neighbour rm neg lsb (L * u) (H * u) (a * u) (y * u) where
  low_nonneg := mul_nonneg h.low_nonneg hu.le
  low_le := mul_le_mul_of_nonneg_right h.low_le hu.le
  lt_high := mul_lt_mul_of_pos_right h.lt_high hu
  mem := h.mem.imp (congrArg (· * u)) (congrArg (· * u))
  eq_low ha := congrArg (· * u) (h.eq_low (mul_right_cancel₀ hu.ne' ha))
  near_low hr hy := by
    rw [← mul_assoc, ← add_mul, mul_le_mul_iff_left₀ hu, mul_left_inj' hu.ne']
    exact h.near_low hr (mul_right_cancel₀ hu.ne' hy)
  near_high hr hy := by
    rw [← mul_assoc, ← add_mul, mul_le_mul_iff_left₀ hu, mul_left_inj' hu.ne']
    exact h.near_high hr (mul_right_cancel₀ hu.ne' hy)
  toward hr := congrArg (· * u) (h.toward hr)
  away hr ha := congrArg (· * u) (h.away hr (fun he => ha (congrArg (· * u) he)))

/-- The neighbour above is the right one of an integer and a fraction r just when the mode asks for it. -/
theorem neighbour_of_fraction {rm : Nat} {neg lsb up : Bool} {r : ℚ} (lo : Nat) (h0 : 0 ≤ r) (h1 : r < 1) (hz : r = 0 → up = false)
    (hnear : rm = 0 → r ≠ 0 → (up = true ↔ 1 < 2 * r ∨ (2 * r = 1 ∧ lsb = true)))
    (htoward : (rm = 1 ∨ (rm = 2 ∧ neg = true) ∨ (rm = 3 ∧ neg = false)) → up = false)
    (haway : ((rm = 2 ∧ neg = false) ∨ (rm = 3 ∧ neg = true)) → r ≠ 0 → up = true) :
    Neighbour rm neg lsb lo (lo + 1 : Nat) (lo + r) (if up then lo + 1 else lo : Nat) where
  low_nonneg := by positivity
  low_le := by linarith
  lt_high := by push_cast; linarith
  mem := by cases up <;> simp
  eq_low ha := by simp [hz (by linarith)]
  near_low hr hy := by
    have hup : up = false := by
      cases up
      · rfl
      · simp at hy
    by_cases hr0 : r = 0
    · subst hr0
      push_cast
      exact ⟨by linarith, fun h => by linarith⟩
    · have hn := mt (hnear hr hr0).2 (by simp [hup])
      push Not at hn
      push_cast
      exact ⟨by linarith [hn.1], fun h => by simpa using hn.2 (by linarith)⟩
  near_high hr hy := by
    have hup : up = true := by
      cases up
      · simp at hy
      · rfl
    have hr0 : r ≠ 0 := fun h => by simp [hz h] at hup
    push_cast
    obtain hgt | ⟨heq, hl⟩ := (hnear hr hr0).1 hup
    · exact ⟨by linarith, fun h => by linarith⟩
    · exact ⟨by linarith, fun _ => hl⟩
  toward hr := by simp [htoward hr]
  away hr ha := by simp [haway hr (fun h => ha (by simp [h]))]

/-- The neighbour the model selects is the one its mode asks for. -/
theorem Xr.select_neighbour (x : Xr) (q : Int) (rm draw : Nat) (lsb : Bool) :
    Neighbour rm x.neg lsb (x.low q * 2 ^ q) ((x.low q + 1 : Nat) * 2 ^ q) (dyadic x.m x.e) (x.select q rm draw lsb * 2 ^ q) := by
  have hlt := x.rest_lt q
  have hpos : (0 : ℚ) < 2 ^ (q - x.e).toNat := by positivity
  have hr0 : (x.rest q : ℚ) / 2 ^ (q - x.e).toNat = 0 ↔ x.rest q = 0 := by simp
  have hgt : 1 < 2 * ((x.rest q : ℚ) / 2 ^ (q - x.e).toNat) ↔ 2 ^ (q - x.e).toNat < 2 * x.rest q := by
    rw [← mul_div_assoc, lt_div_iff₀ hpos, one_mul]
    exact_mod_cast Iff.rfl
  have heq : 2 * ((x.rest q : ℚ) / 2 ^ (q - x.e).toNat) = 1 ↔ 2 * x.rest q = 2 ^ (q - x.e).toNat := by
    rw [← mul_div_assoc, div_eq_one_iff_eq hpos.ne']
    exact_mod_cast Iff.rfl
  have hk : x.rest q ≠ 0 → (q - x.e).toNat ≠ 0 := fun h hk => by
    rw [hk] at hlt
    omega
  rw [x.dyadic_eq_low_add_rest q, ← add_mul]
  refine (neighbour_of_fraction (x.low q) (by positivity) ?_ (fun h => ?_) (fun hm h => ?_) (fun hm => ?_) (fun hm h => ?_)).scale
    (by positivity)
  · rw [div_lt_one hpos]
    exact_mod_cast hlt
  · simp [hr0.1 h]
  · have h := mt hr0.2 h
    simp [hm, hgt, heq, h, roundsUp, hk h]
  · obtain rfl | ⟨rfl, hn⟩ | ⟨rfl, hn⟩ := hm <;> simp [roundsUp, *]
  · have h := mt hr0.2 h
    obtain ⟨rfl, hn⟩ | ⟨rfl, hn⟩ := hm <;> simp [roundsUp, *]

theorem Xr.select_mem (x : Xr) (q : Int) (rm draw : Nat) (lsb : Bool) :
    x.select q rm draw lsb = x.low q ∨ x.select q rm draw lsb = x.low q + 1 := by
  unfold Xr.select
  split
  · exact .inr rfl
  · exact .inl rfl

/-- Rounding leaves a value as it is just when nothing rests above its lower neighbour. -/
theorem Xr.dyadic_eq_low_iff (x : Xr) (q : Int) : dyadic x.m x.e = x.low q * 2 ^ q ↔ x.rest q = 0 := by
  rw [x.dyadic_eq_low_add_rest q, add_eq_left]
  simp [zpow_ne_zero]

/-! ### Rounding to integers (R112, R118) -/

/-- The signed integer of a sign and a magnitude. -/
def signedInt (neg : Bool) (y : Nat) : Int := if neg then -(y : Int) else y

theorem signedInt_cast (neg : Bool) (y : Nat) : (signedInt neg y : ℚ) = withSign neg y := by
  cases neg <;> simp [signedInt]

@[simp] theorem signedInt_natAbs (neg : Bool) (y : Nat) : (signedInt neg y).natAbs = y := by
  cases neg <;> simp [signedInt]

theorem signedInt_emod_two (neg : Bool) (y : Nat) : signedInt neg y % 2 = 0 ↔ y % 2 = 0 := by
  cases neg <;> simp [signedInt] <;> omega

/-- What rounding to the integers is, in units of any last place. -/
theorem integralOf_of_roundsTo {rm : Nat} {x : Xr} {n : Int} {exact : Bool} (hex : exact = true ↔ (n : ℚ) = x.val)
    (hr : RoundsTo rm (fun v => ∃ m : Int, (m : ℚ) = v) (n % 2 = 0) x.val n) (hsign : 0 ≤ n * x.val) :
    IntegralOf rm x n exact := by
  intro e hxe he u a
  have ha : x.val = a * 2 ^ e := x.val_eq_scaled hxe
  have hm : ∀ m : Int, (m : ℚ) = (m * u : Int) * 2 ^ e := fun m => intCast_of_unit m he
  obtain ⟨h0, h1, h2, h3⟩ := hr
  refine ⟨hex.trans (int_eq_iff_of_unit (hm n) ha).symm, fun hr m => ?_, fun hr => ⟨?_, fun hn => ?_, fun m hma => ?_⟩,
    fun hr => ⟨?_, fun m hma => ?_⟩, fun hr => ⟨?_, fun m hma => ?_⟩⟩
  · rw [natAbs_le_iff_of_unit (sub_of_unit (hm n) ha) (sub_of_unit (hm m) ha),
      natAbs_eq_iff_of_unit (sub_of_unit (hm n) ha) (sub_of_unit (hm m) ha)]
    obtain ⟨hle, htie⟩ := h0 hr m ⟨m, rfl⟩
    exact ⟨hle, fun he => (htie he).imp_left Int.cast_injective.eq_iff.1⟩
  · exact (natAbs_le_iff_of_unit (hm n) ha).2 (h1 hr).1
  · have hle : |(n : ℚ)| ≤ |x.val| := (h1 hr).1
    have hx : x.val ≠ 0 := fun h0 => hn (by simpa [h0] using hle)
    have hlt : a < 0 ↔ x.val < 0 := by rw [← not_le, ← not_le, not_iff_not, int_le_iff_of_unit (a := 0) (x := 0) (by simp) ha]
    rw [hlt, ← Int.cast_lt_zero (R := ℚ)]
    obtain hn' | hn' := lt_or_gt_of_ne (Int.cast_ne_zero (α := ℚ).2 hn)
    · exact iff_of_true hn' (lt_of_le_of_ne (nonpos_of_mul_nonneg_right hsign hn') hx)
    · exact iff_of_false hn'.not_gt (not_lt.2 (nonneg_of_mul_nonneg_right hsign hn'))
  · rw [natAbs_le_iff_of_unit (hm m) ha] at hma
    exact (natAbs_le_iff_of_unit (hm m) (hm n)).2 ((h1 hr).2 m ⟨m, rfl⟩ hma)
  · exact (int_le_iff_of_unit ha (hm n)).2 (h2 hr).1
  · rw [int_le_iff_of_unit ha (hm m)] at hma
    exact Int.cast_le.1 ((h2 hr).2 m ⟨m, rfl⟩ hma)
  · exact (int_le_iff_of_unit (hm n) ha).2 (h3 hr).1
  · rw [int_le_iff_of_unit (hm m) ha] at hma
    exact Int.cast_le.1 ((h3 hr).2 m ⟨m, rfl⟩ hma)

/-- The integer that an exact value rounds to. -/
def Xr.toIntegral (x : Xr) (rm draw : Nat) : Int := signedInt x.neg (x.select 0 rm draw (x.low 0 % 2 == 1))

theorem roundInt_eq (rm draw : Nat) (x : Xr) : roundInt rm draw x = (x.toIntegral rm draw, x.rest 0 != 0) := by
  simp [roundInt, Xr.toIntegral, Xr.select, Xr.low, Xr.rest, signedInt]

/-- Between two consecutive integers there is none. -/
theorem abs_intCast_outside (m : Int) (lo : Nat) : |(m : ℚ)| ≤ lo ∨ ((lo + 1 : Nat) : ℚ) ≤ |(m : ℚ)| := by
  rw [← Int.cast_abs, ← Nat.cast_natAbs, Nat.cast_le, Nat.cast_le]
  omega

theorem withSign_inj {neg : Bool} {a b : ℚ} : withSign neg a = withSign neg b ↔ a = b := by
  cases neg <;> simp

theorem withSign_mul_nonneg (neg : Bool) {a b : ℚ} (ha : 0 ≤ a) (hb : 0 ≤ b) : 0 ≤ withSign neg a * withSign neg b := by
  cases neg <;> simp [mul_nonneg ha hb]

/-- The neighbour selected is the value itself just when nothing rests above the lower one. -/
theorem Xr.select_eq_iff (x : Xr) (q : Int) (rm draw : Nat) (lsb : Bool) :
    x.select q rm draw lsb * 2 ^ q = dyadic x.m x.e ↔ x.rest q = 0 :=
  (x.select_neighbour q rm draw lsb).eq_iff.trans (x.dyadic_eq_low_iff q)

/-- The model's rounding to an integer is that of R95 on the grid of the integers. -/
theorem Xr.toIntegral_spec (x : Xr) (rm draw : Nat) : IntegralOf rm x (x.toIntegral rm draw) (x.rest 0 == 0) := by
  have h := x.select_neighbour 0 rm draw (x.low 0 % 2 == 1)
  have hexact := x.select_eq_iff 0 rm draw (x.low 0 % 2 == 1)
  have hcast : (x.toIntegral rm draw : ℚ) = withSign x.neg (x.select 0 rm draw (x.low 0 % 2 == 1)) := signedInt_cast _ _
  simp only [zpow_zero, mul_one] at h hexact
  refine integralOf_of_roundsTo ?_ ?_ ?_
  · rw [hcast, Xr.val, withSign_inj, hexact, beq_iff_eq]
  · rw [hcast]
    refine h.roundsTo (fun hy hl => ?_) (fun hy hl => ?_) ?_
    · rw [Xr.toIntegral, signedInt_emod_two, Nat.cast_injective hy]
      simpa using hl
    · rw [Xr.toIntegral, signedInt_emod_two, Nat.cast_injective hy]
      have : x.low 0 % 2 = 1 := by simpa using hl
      omega
    · rintro _ ⟨m, rfl⟩
      exact abs_intCast_outside m _
  · rw [hcast]
    exact withSign_mul_nonneg _ (Nat.cast_nonneg _) (dyadic_nonneg _ _)

/-! ### Conversion to an integer format (R118) -/

theorem Xr.flagIf_nx (x : Xr) : flagIf (x.rest 0 != 0) fNX = if x.rest 0 == 0 then 0 else 0x10 := by
  cases hr : x.rest 0 == 0 <;> simp [flagIf, bne, hr, fNX]

/-- The bounds of an integer format are those of the model's largest magnitudes (R86, R95). -/
theorem intRange_eq_maxMag {f : Fmt} (h : f.isInt = true) :
    intRange f = (-((f.maxMag true).1 : Int), ((f.maxMag false).1 : Int)) := by
  cases f <;> cases h <;> rfl

theorem toInt_nan (f : Fmt) (rm : Nat) (sat : Bool) (draw : Nat) (n s : Bool) : toInt f rm sat draw (.nan n s) = (0, 1) := rfl

/-- The code of the bound of a sign. -/
theorem toInt_inf {f : Fmt} (h : f.isInt = true) (rm : Nat) (sat : Bool) (draw : Nat) (n : Bool) :
    toInt f rm sat draw (.inf n) =
      ((((if n then (intRange f).1 else (intRange f).2) % 2 ^ 32).toNat), if sat then 0x20 else 1) := by
  rw [intRange_eq_maxMag h]
  cases n <;> rfl

theorem intRange_zero {f : Fmt} (h : f.isInt = true) : (intRange f).1 ≤ 0 ∧ 0 ≤ (intRange f).2 := by
  cases f <;> cases h <;> decide

theorem toInt_fin {f : Fmt} (h : f.isInt = true) (rm : Nat) (sat : Bool) (draw : Nat) (x : Xr) :
    toInt f rm sat draw (.fin x) =
      let n := x.toIntegral rm draw
      let code := fun n : Int => (n % 2 ^ 32).toNat
      let bad : Byte := if sat then 0x20 else 1
      if n < (intRange f).1 then (code (intRange f).1, bad) else if (intRange f).2 < n then (code (intRange f).2, bad)
        else (code n, if x.rest 0 == 0 then 0 else 0x10) := by
  obtain ⟨hlo, hhi⟩ := intRange_zero h
  rw [intRange_eq_maxMag h] at *
  simp only [toInt, roundInt_eq, x.flagIf_nx]
  dsimp only at hlo hhi
  generalize x.toIntegral rm draw = n at *
  by_cases h1 : n < -((f.maxMag true).1 : Int)
  · have hn : n < 0 := by omega
    rw [if_neg (by omega), if_pos h1, decide_eq_true hn]
    rfl
  · rw [if_neg h1]
    by_cases h2 : ((f.maxMag false).1 : Int) < n
    · have hn : ¬ n < 0 := by omega
      rw [if_neg (by omega), if_pos h2, decide_eq_false hn]
      rfl
    · rw [if_pos (by omega), if_neg h2]
      rfl

/-! ### Rounding into a format, where the result is not too large (R95) -/

/-- The lower neighbour's code is odd. -/
def Fmt.lowOdd (f : Fmt) (x : Xr) : Bool :=
  if f = .q4pow then x.low (f.quantum x) != 0 && (f.quantum x + 7) % 2 != 0 else x.low (f.quantum x) % 2 == 1

/-- The neighbour that rounding into a format selects, in units of the spacing. -/
def Fmt.select (f : Fmt) (x : Xr) (rm draw : Nat) : Nat := x.select (f.quantum x) rm draw (f.lowOdd x)

/-- The flags of rounding, overflow apart. -/
def Fmt.inexactFlags (f : Fmt) (x : Xr) : Byte :=
  if x.rest (f.quantum x) != 0 then
    (if f.isFloat && decide ((Nat.log2 x.m : Int) + x.e < f.emin) then fNX ||| fUF else fNX)
  else 0

theorem Fmt.round_of_le {f : Fmt} {x : Xr} (rm : Nat) (sat : Bool) (draw : Nat) (hst : x.st = false) (hm : x.m ≠ 0)
    (hle : dyadic (f.select x rm draw) (f.quantum x) ≤ dyadic (f.maxMag x.neg).1 (f.maxMag x.neg).2) :
    f.round rm sat draw x =
      (f.encode (x.neg && !(f.isInt && f.select x rm draw == 0)) (f.select x rm draw) (f.quantum x), f.inexactFlags x) := by
  rw [← magLe_iff] at hle
  rw [Fmt.round, if_neg hm, hst]
  simp only [Bool.or_false]
  exact if_pos hle

theorem Fmt.inexactFlags_int {f : Fmt} (h : f.isInt = true) (x : Xr) :
    f.inexactFlags x = if x.rest 0 == 0 then 0 else 0x10 := by
  have hq : f.quantum x = 0 := by simp [Fmt.quantum, h]
  have hf : f.isFloat = false := by simp [Fmt.isFloat, h]
  cases hr : x.rest 0 == 0 <;> simp [Fmt.inexactFlags, hq, hf, bne, hr, fNX]

theorem Fmt.select_int {f : Fmt} (h : f.isInt = true) (x : Xr) (rm draw : Nat) :
    signedInt x.neg (f.select x rm draw) = x.toIntegral rm draw := by
  have hq : f.quantum x = 0 := by simp [Fmt.quantum, h]
  have hp : f ≠ .q4pow := by rintro rfl; cases h
  simp [Fmt.select, Fmt.lowOdd, hq, hp, Xr.toIntegral]

/-- An integer format encodes an integer in two's complement. -/
theorem Fmt.encode_int {f : Fmt} (h : f.isInt = true) (neg : Bool) (y : Nat) (q : Int) :
    f.encode (neg && !(f.isInt && y == 0)) y q = (signedInt neg y % (2 ^ f.width : Nat)).toNat := by
  have hz : (if (neg && !(y == 0)) = true then -(y : Int) else y) = signedInt neg y := by
    by_cases hy : y = 0 <;> cases neg <;> simp [signedInt, hy]
  simp only [Fmt.encode, h, if_true, wrap, Bool.true_and, hz]

/-- Into an integer format a value rounds to an integer, which is encoded where the format holds it. -/
theorem Fmt.round_int {f : Fmt} (h : f.isInt = true) (rm : Nat) (sat : Bool) (draw : Nat) {x : Xr} (hst : x.st = false)
    (hm : x.m ≠ 0) (hlo : (intRange f).1 ≤ x.toIntegral rm draw) (hhi : x.toIntegral rm draw ≤ (intRange f).2) :
    f.round rm sat draw x = ((x.toIntegral rm draw % (2 ^ f.width : Nat)).toNat, if x.rest 0 == 0 then 0 else 0x10) := by
  have hq : f.quantum x = 0 := by simp [Fmt.quantum, h]
  have hexp : (f.maxMag x.neg).2 = 0 := by cases f <;> cases h <;> rfl
  have hmag : f.select x rm draw ≤ (f.maxMag x.neg).1 := by
    rw [intRange_eq_maxMag h, ← f.select_int h] at hlo hhi
    simp only [signedInt] at hlo hhi
    cases hn : x.neg <;> simp only [hn, Bool.false_eq_true, if_true, if_false] at hlo hhi ⊢ <;> omega
  rw [Fmt.round_of_le rm sat draw hst hm, Fmt.encode_int h, Fmt.select_int h, Fmt.inexactFlags_int h]
  rw [hq, hexp, dyadic_zero_right, dyadic_zero_right]
  exact_mod_cast hmag

/-! ### Codes in the order of their magnitudes (R81, R82, R88) -/

/-- The magnitude of a code with mb fraction bits, its sign apart, in units of the least one. -/
def codeMag (mb c : Nat) : Nat := if c / 2 ^ mb = 0 then c % 2 ^ mb else (2 ^ mb + c % 2 ^ mb) * 2 ^ (c / 2 ^ mb - 1)

/-- The code with a spacing of 2^t units and a magnitude of y spacings. -/
theorem codeMag_add {mb t y : Nat} (hy : y ≤ 2 ^ (mb + 1)) (hn : 2 ^ mb ≤ y ∨ t = 0) : codeMag mb (t * 2 ^ mb + y) = y * 2 ^ t := by
  have hp : 0 < 2 ^ mb := by positivity
  have h2 : 2 ^ (mb + 1) = 2 * 2 ^ mb := pow_succ' 2 mb
  obtain hlt | hle := lt_or_ge y (2 ^ mb)
  · obtain rfl : t = 0 := hn.resolve_left (by omega)
    simp [codeMag, Nat.div_eq_of_lt hlt, Nat.mod_eq_of_lt hlt]
  · obtain ⟨z, rfl⟩ := Nat.exists_eq_add_of_le hle
    obtain hz | hz := lt_or_ge z (2 ^ mb)
    · have hc : t * 2 ^ mb + (2 ^ mb + z) = z + 2 ^ mb * (t + 1) := by ring
      simp [codeMag, hc, Nat.add_mul_div_left, hp, Nat.div_eq_of_lt hz, Nat.mod_eq_of_lt hz]
    · obtain rfl : z = 2 ^ mb := by omega
      have hc : t * 2 ^ mb + (2 ^ mb + 2 ^ mb) = 0 + 2 ^ mb * (t + 2) := by ring
      simp only [codeMag, hc, Nat.add_mul_div_left, hp, Nat.zero_div, Nat.add_mul_mod_self_left, Nat.zero_mod]
      rw [if_neg (by omega), show 0 + (t + 2) - 1 = t + 1 by omega]
      ring

/-- Every code is one of a spacing and a number of spacings. -/
theorem exists_spacing (mb c : Nat) : ∃ t y, c = t * 2 ^ mb + y ∧ y < 2 ^ (mb + 1) ∧ (2 ^ mb ≤ y ∨ t = 0) := by
  have hp : 0 < 2 ^ mb := by positivity
  have hm := Nat.mod_lt c hp
  have hd : 2 ^ mb * (c / 2 ^ mb) + c % 2 ^ mb = c := Nat.div_add_mod c (2 ^ mb)
  have h2 : 2 ^ (mb + 1) = 2 * 2 ^ mb := pow_succ' 2 mb
  obtain h0 | h0 := eq_or_ne (c / 2 ^ mb) 0
  · rw [h0] at hd
    exact ⟨0, c, by simp, by omega, .inr rfl⟩
  · obtain ⟨t, ht⟩ := Nat.exists_eq_succ_of_ne_zero h0
    refine ⟨t, 2 ^ mb + c % 2 ^ mb, ?_, by omega, .inl (by omega)⟩
    calc c = 2 ^ mb * (t + 1) + c % 2 ^ mb := by rw [← Nat.succ_eq_add_one, ← ht, hd]
      _ = t * 2 ^ mb + (2 ^ mb + c % 2 ^ mb) := by ring

/-- Codes rise with their magnitudes. -/
theorem codeMag_strictMono (mb : Nat) : StrictMono (codeMag mb) := by
  refine strictMono_nat_of_lt_succ fun c => ?_
  obtain ⟨t, y, rfl, hy, hn⟩ := exists_spacing mb c
  rw [codeMag_add hy.le hn, add_assoc, codeMag_add hy (hn.imp_left (Nat.le_succ_of_le ·))]
  gcongr
  omega

/-! ### What a code of a floating or power-of-two format stands for -/

theorem Fmt.width_eq {f : Fmt} (h : f.isInt = false) : f.width - 1 = f.frac + f.params.1 := by cases f <;> cases h <;> rfl

theorem Fmt.emin_eq {f : Fmt} (h : f.isInt = false) : f.emin = 1 - f.params.2.2 := by cases f <;> cases h <;> rfl

theorem Fmt.params_pos {f : Fmt} (h : f.isInt = false) : 0 < f.params.1 := by cases f <;> cases h <;> decide

/-- The exponent of a format's least magnitude. -/
def Fmt.unit (f : Fmt) : Int := f.emin - f.frac

/-- A code without its sign bit. -/
def Fmt.unsigned (f : Fmt) (code : Nat) : Nat := code % 2 ^ (f.width - 1)

/-- The exponent and fraction fields of a code are those of the code without its sign. -/
theorem Fmt.fields_unsigned {f : Fmt} (h : f.isInt = false) (code : Nat) :
    bits code (f.frac + f.params.1 - 1) f.frac = f.unsigned code / 2 ^ f.frac ∧ code % 2 ^ f.frac = f.unsigned code % 2 ^ f.frac := by
  have hp := f.params_pos h
  rw [Fmt.unsigned, f.width_eq h, pow_add]
  refine ⟨?_, (Nat.mod_mul_right_mod _ _ _).symm⟩
  rw [Nat.mod_mul_right_div_self, bits]
  congr 2
  omega

/-- Decoding, by the fields of the code without its sign (R81, R83, R88). -/
theorem Fmt.decode_eq {f : Fmt} (h : f.isInt = false) (code : Nat) : f.decode code =
    let neg := bitAt code (f.width - 1)
    let E := f.unsigned code / 2 ^ f.frac
    let F := f.unsigned code % 2 ^ f.frac
    if f = .q4pow then .fin { neg, m := if E = 0 then 0 else 1, e := (E : Int) - 7 }
    else if (f.ieee || f = .e5m2) && E == 2 ^ f.params.1 - 1 then
      if F = 0 then .inf neg else .nan neg (f.ieee && !bitAt code (f.frac - 1))
    else if f = .e4m3 && E == 15 && F == 7 then .nan neg false
    else if E = 0 then .fin { neg, m := F, e := 1 - f.params.2.2 - f.frac }
    else .fin { neg, m := 2 ^ f.frac + F, e := (E : Int) - f.params.2.2 - f.frac } := by
  obtain ⟨hE, hF⟩ := f.fields_unsigned h code
  rw [Fmt.decode, if_neg (by simp [h]), ← hE, ← hF]
  rfl

/-- The value of a finite code (R81, R82, R88). -/
theorem Fmt.decode_fin {f : Fmt} (h : f.isInt = false) {code : Nat} {w : Xr} (hw : f.decode code = .fin w) :
    w.neg = bitAt code (f.width - 1) ∧ w.st = false ∧ dyadic w.m w.e = dyadic (codeMag f.frac (f.unsigned code)) f.unit := by
  have hunit : f.unit = 1 - f.params.2.2 - f.frac := by rw [Fmt.unit, f.emin_eq h]
  rw [f.decode_eq h] at hw
  dsimp only at hw
  generalize f.unsigned code = c at *
  have hnormal : ∀ E : Nat, E ≠ 0 → ∀ a : Nat, dyadic (a * 2 ^ (E - 1)) f.unit =
      dyadic a (E - f.params.2.2 - f.frac) := fun E hE a => by
    have he : (E : Int) - f.params.2.2 - f.frac = f.unit + (E - 1 : Nat) := by omega
    rw [he, dyadic_add, dyadic, dyadic, zpow_natCast]
    push_cast
    ring
  unfold codeMag
  by_cases hp : f = .q4pow
  · subst hp
    have hf : Fmt.q4pow.frac = 0 := rfl
    simp only [if_true, hf, pow_zero, Nat.div_one, Nat.mod_one] at hw ⊢
    cases hw
    refine ⟨rfl, rfl, ?_⟩
    by_cases hc : c = 0
    · simp [hc]
    · simp only [hc, if_false]
      have hb : Fmt.q4pow.params.2.2 = 7 := rfl
      rw [hnormal c hc, hb, hf]
      simp
  rw [if_neg hp] at hw
  split at hw
  · split at hw <;> cases hw
  · split at hw
    · cases hw
    · split at hw
      · next hE =>
        cases hw
        exact ⟨rfl, rfl, by rw [if_pos hE, hunit]⟩
      · next hE =>
        cases hw
        exact ⟨rfl, rfl, by rw [if_neg hE, hnormal _ hE]⟩

/-- No code up to that of the largest finite magnitude is an infinity or a NaN (R83). -/
theorem Fmt.decode_finite {f : Fmt} (h : f.isInt = false) {code : Nat} (hle : f.unsigned code ≤ f.maxCode) :
    ∃ w, f.decode code = .fin w := by
  have hp : 0 < 2 ^ f.frac := by positivity
  have hinf : (f.ieee || f = .e5m2) = true → f.unsigned code / 2 ^ f.frac < 2 ^ f.params.1 - 1 := by
    rw [Nat.div_lt_iff_lt_mul hp]
    refine fun hs => lt_of_le_of_lt hle ?_
    cases f <;> cases h <;> cases hs <;> decide
  have hnan : f = .e4m3 → ¬ (f.unsigned code / 2 ^ f.frac = 15 ∧ f.unsigned code % 2 ^ f.frac = 7) := by
    rintro rfl ⟨hE, hF⟩
    have hd := Nat.div_add_mod (Fmt.e4m3.unsigned code) (2 ^ Fmt.e4m3.frac)
    rw [hE, hF] at hd
    rw [← hd] at hle
    exact absurd hle (by decide)
  rw [f.decode_eq h]
  dsimp only
  split
  · exact ⟨_, rfl⟩
  · rw [if_neg, if_neg]
    · split <;> exact ⟨_, rfl⟩
    · simpa [and_assoc] using hnan
    · simp only [Bool.and_eq_true, beq_iff_eq, not_and]
      exact fun hs hE => absurd hE (hinf hs).ne

theorem Fmt.maxCode_lt {f : Fmt} (h : f.isInt = false) : f.maxCode < 2 ^ (f.width - 1) := by cases f <;> cases h <;> decide

theorem Fmt.unsigned_of_lt {f : Fmt} {c : Nat} (h : c < 2 ^ (f.width - 1)) : f.unsigned c = c := Nat.mod_eq_of_lt h

/-- The largest magnitude is that of its code. -/
theorem Fmt.dyadic_maxMag {f : Fmt} (h : f.isInt = false) (neg : Bool) :
    dyadic (f.maxMag neg).1 (f.maxMag neg).2 = dyadic (codeMag f.frac f.maxCode) f.unit := by
  have hu := f.unsigned_of_lt (f.maxCode_lt h)
  obtain ⟨w, hw⟩ := f.decode_finite h hu.le
  have hmax : f.maxMag neg = (w.m, w.e) := by
    cases f <;> cases h <;> simp only [Fmt.maxMag, hw]
  rw [hmax, (f.decode_fin h hw).2.2, hu]

/-! ### Signs of codes -/

theorem Fmt.two_dvd_two_pow_width {f : Fmt} (h : f.isInt = false) : 2 ∣ 2 ^ (f.width - 1) := by cases f <;> cases h <;> decide

theorem Fmt.unsigned_signed {f : Fmt} {c : Nat} (hc : c < 2 ^ (f.width - 1)) (neg : Bool) : f.unsigned (f.signed neg c) = c := by
  cases neg <;> simp [Fmt.signed, Fmt.unsigned, Nat.mod_eq_of_lt hc]

theorem Fmt.bitAt_signed {f : Fmt} {c : Nat} (hc : c < 2 ^ (f.width - 1)) (neg : Bool) : bitAt (f.signed neg c) (f.width - 1) = neg := by
  cases neg <;> simp [Fmt.signed, bitAt, Nat.add_div_right, Nat.div_eq_of_lt hc]

theorem Fmt.signed_mod_two {f : Fmt} (h : f.isInt = false) (neg : Bool) (c : Nat) : f.signed neg c % 2 = c % 2 := by
  have := f.two_dvd_two_pow_width h
  cases neg
  · rfl
  · simp only [Fmt.signed, if_true]
    omega

/-- A code with a sign stands for its magnitude with that sign. -/
theorem Fmt.decode_signed {f : Fmt} (h : f.isInt = false) {c : Nat} (hc : c ≤ f.maxCode) (neg : Bool) :
    ∃ w : Xr, f.decode (f.signed neg c) = .fin w ∧ w.neg = neg ∧ w.val = withSign neg (dyadic (codeMag f.frac c) f.unit) := by
  have hlt := hc.trans_lt (f.maxCode_lt h)
  obtain ⟨w, hw⟩ := f.decode_finite h ((f.unsigned_signed hlt neg).trans_le hc)
  obtain ⟨hneg, -, hmag⟩ := f.decode_fin h hw
  rw [f.bitAt_signed hlt] at hneg
  rw [f.unsigned_signed hlt] at hmag
  exact ⟨w, hw, hneg, by rw [Xr.val, hneg, hmag]⟩

/-! ### Encoding a number of spacings (R95) -/

/-- Encoding a magnitude that is not zero into a floating format, by the place of its first bit. -/
theorem Fmt.encode_float {f : Fmt} (h : f.isFloat = true) {y : Nat} (hy : y ≠ 0) (neg : Bool) (q : Int) :
    f.encode neg y q = if (Nat.log2 y : Int) + q < f.emin then f.signed neg y else f.signed neg
      (((Nat.log2 y : Int) + q + f.params.2.2).toNat * 2 ^ f.frac +
        ((if Nat.log2 y ≤ f.frac then y * 2 ^ (f.frac - Nat.log2 y) else y / 2 ^ (Nat.log2 y - f.frac)) - 2 ^ f.frac)) := by
  obtain ⟨hint, hpow⟩ : f.isInt = false ∧ f ≠ .q4pow := by simpa [Fmt.isFloat] using h
  rw [Fmt.encode, if_neg (by simp [hint]), if_neg hy, if_neg hpow]
  rfl

/-- A normal magnitude of no more bits than the fraction holds, in spacings of its own. -/
theorem Fmt.encode_normal {f : Fmt} (h : f.isFloat = true) {y : Nat} (hy : y ≠ 0) {q : Int} {t : Nat} (ht : Nat.log2 y + q = f.emin + t)
    (hlog : Nat.log2 y ≤ f.frac) (neg : Bool) :
    f.encode neg y q = f.signed neg (t * 2 ^ f.frac + y * 2 ^ (f.frac - Nat.log2 y)) ∧
      2 ^ f.frac ≤ y * 2 ^ (f.frac - Nat.log2 y) ∧ y * 2 ^ (f.frac - Nat.log2 y) < 2 ^ (f.frac + 1) := by
  have hint : f.isInt = false := by
    simp only [Fmt.isFloat, Bool.and_eq_true, Bool.not_eq_true'] at h
    exact h.1
  have hpow : ∀ k, 2 ^ Nat.log2 y * 2 ^ k * 2 ^ (f.frac - Nat.log2 y) = 2 ^ (f.frac + k) := fun k => by
    rw [← pow_add, ← pow_add]
    congr 1
    omega
  have hlow : 2 ^ f.frac ≤ y * 2 ^ (f.frac - Nat.log2 y) := by
    rw [← add_zero f.frac, ← hpow 0, pow_zero, mul_one, add_zero]
    exact Nat.mul_le_mul_right _ (Nat.log2_self_le hy)
  have hhigh : y * 2 ^ (f.frac - Nat.log2 y) < 2 ^ (f.frac + 1) := by
    rw [← hpow 1, ← pow_add]
    exact Nat.mul_lt_mul_of_pos_right Nat.lt_log2_self (by positivity)
  have hex : ((Nat.log2 y : Int) + q + f.params.2.2).toNat = t + 1 := by
    rw [f.emin_eq hint] at ht
    omega
  refine ⟨?_, hlow, hhigh⟩
  rw [f.encode_float h hy, if_neg (by omega), hex, if_pos hlog, add_mul, one_mul, add_assoc, Nat.add_sub_cancel' hlow]

/-- The code of y spacings of 2^t units. -/
theorem Fmt.encode_spacing {f : Fmt} (h : f.isInt = false) {t y : Nat} (hy : y ≤ 2 ^ (f.frac + 1)) (hn : 2 ^ f.frac ≤ y ∨ t = 0)
    (neg : Bool) : f.encode neg y (f.unit + t) = f.signed neg (t * 2 ^ f.frac + y) := by
  have hemin : f.emin = f.unit + f.frac := by simp [Fmt.unit]
  have hbias : f.emin + f.params.2.2 = 1 := by simp [f.emin_eq h]
  have h2 : 2 ^ (f.frac + 1) = 2 * 2 ^ f.frac := pow_succ' 2 _
  have hp : 0 < 2 ^ f.frac := by positivity
  by_cases hy0 : y = 0
  · obtain rfl : t = 0 := hn.resolve_left (by omega)
    simp [Fmt.encode, h, hy0]
  by_cases hq : f = .q4pow
  · subst hq
    have hunit : Fmt.q4pow.unit = -6 := rfl
    have hone : Fmt.q4pow.frac = 0 := rfl
    have hlog : Nat.log2 y + 1 = y := by
      obtain rfl | rfl : y = 1 ∨ y = 2 := by rw [hone] at hy; omega
      · rfl
      · rfl
    rw [Fmt.encode, if_neg (by simp [h]), if_neg hy0, if_pos rfl, hunit, hone]
    congr 1
    omega
  have hfloat : f.isFloat = true := by simp [Fmt.isFloat, h, hq]
  obtain rfl | hlt := hy.eq_or_lt
  · have hlog : Nat.log2 (2 ^ (f.frac + 1)) = f.frac + 1 := Nat.log2_two_pow
    have hex : (((f.frac + 1 : Nat) : Int) + (f.unit + t) + f.params.2.2).toNat = t + 2 := by omega
    have hd : 2 * 2 ^ f.frac / 2 ^ 1 = 2 ^ f.frac := by omega
    rw [f.encode_float hfloat hy0, hlog, if_neg (by omega), if_neg (by omega), hex, Nat.add_sub_cancel_left, h2, hd, Nat.sub_self]
    congr 1
    ring
  obtain hsub | hnorm := lt_or_ge y (2 ^ f.frac)
  · obtain rfl : t = 0 := hn.resolve_left (by omega)
    have hlog := (Nat.log2_lt hy0).2 hsub
    rw [f.encode_float hfloat hy0, if_pos (by omega), zero_mul, zero_add]
  · have hlog : Nat.log2 y = f.frac := (Nat.log2_eq_iff hy0).2 ⟨hnorm, hlt⟩
    obtain ⟨he, -⟩ := f.encode_normal hfloat hy0 (q := f.unit + t) (t := t) (by omega) hlog.le neg
    rw [he, hlog, Nat.sub_self, pow_zero, mul_one]

/-! ### Rounding into a floating or power-of-two format (R95) -/

/-- The magnitude of y spacings of 2^t units is that of their code. -/
theorem Fmt.dyadic_spacing (f : Fmt) {t y : Nat} (hy : y ≤ 2 ^ (f.frac + 1)) (hn : 2 ^ f.frac ≤ y ∨ t = 0) :
    dyadic (codeMag f.frac (t * 2 ^ f.frac + y)) f.unit = y * 2 ^ (f.unit + t) := by
  rw [codeMag_add hy hn, dyadic, zpow_add₀ two_ne_zero, zpow_natCast]
  push_cast
  ring

theorem Fmt.dyadic_codeMag_le_iff (f : Fmt) {c d : Nat} :
    dyadic (codeMag f.frac c) f.unit ≤ dyadic (codeMag f.frac d) f.unit ↔ c ≤ d := by
  rw [dyadic, dyadic, mul_le_mul_iff_left₀ (by positivity), Nat.cast_le, (codeMag_strictMono f.frac).le_iff_le]

/-- No code's magnitude lies between two neighbouring numbers of spacings. -/
theorem Fmt.codeMag_outside (f : Fmt) {t y : Nat} (hy : y < 2 ^ (f.frac + 1)) (hn : 2 ^ f.frac ≤ y ∨ t = 0) (c : Nat) :
    dyadic (codeMag f.frac c) f.unit ≤ y * 2 ^ (f.unit + t) ∨
      ((y + 1 : Nat) : ℚ) * 2 ^ (f.unit + t) ≤ dyadic (codeMag f.frac c) f.unit := by
  rw [← f.dyadic_spacing hy.le hn, ← f.dyadic_spacing hy (hn.imp_left (Nat.le_succ_of_le ·)), f.dyadic_codeMag_le_iff,
    f.dyadic_codeMag_le_iff]
  omega

/-- The spacing at a magnitude, and the number of spacings below it (R95). -/
theorem Fmt.quantum_spec {f : Fmt} (h : f.isInt = false) {x : Xr} (hm : x.m ≠ 0) :
    ∃ t : Nat, f.quantum x = f.unit + t ∧ x.low (f.quantum x) < 2 ^ (f.frac + 1) ∧ (2 ^ f.frac ≤ x.low (f.quantum x) ∨ t = 0) := by
  have hq : f.quantum x = max ((Nat.log2 x.m : Int) + x.e) f.emin - f.frac := by simp [Fmt.quantum, h]
  have hunit : f.unit = f.emin - f.frac := rfl
  have hnb := x.select_neighbour (f.quantum x) 0 0 false
  generalize f.quantum x = q at *
  have hqpos : (0 : ℚ) < 2 ^ q := by positivity
  have hlow := two_pow_le_dyadic hm x.e
  have hhigh := dyadic_lt_two_pow x.m x.e
  have hpow : ∀ k : Nat, (2 : ℚ) ^ ((k : Int) + q) = ((2 ^ k : Nat) : ℚ) * 2 ^ q := fun k => by
    rw [zpow_add₀ two_ne_zero, zpow_natCast]
    push_cast
    rfl
  refine ⟨(q - f.unit).toNat, by omega, ?_, ?_⟩
  · have hlt : (x.low q : ℚ) * 2 ^ q < ((2 ^ (f.frac + 1) : Nat) : ℚ) * 2 ^ q := by
      rw [← hpow]
      refine (hnb.low_le.trans_lt hhigh).trans_le (zpow_le_zpow_right₀ one_le_two ?_)
      omega
    exact_mod_cast lt_of_mul_lt_mul_right hlt hqpos.le
  · refine or_iff_not_imp_right.2 fun ht => Nat.lt_succ_iff.1 ?_
    have hlt : ((2 ^ f.frac : Nat) : ℚ) * 2 ^ q < ((x.low q + 1 : Nat) : ℚ) * 2 ^ q := by
      rw [← hpow]
      refine (le_trans (zpow_le_zpow_right₀ one_le_two ?_) hlow).trans_lt hnb.lt_high
      omega
    exact_mod_cast lt_of_mul_lt_mul_right hlt hqpos.le

/-- The lower neighbour's code is odd just when the model takes it to be (R94). -/
theorem Fmt.lowOdd_iff {f : Fmt} (h : f.isInt = false) {x : Xr} {t : Nat} (hq : f.quantum x = f.unit + t)
    (hy : x.low (f.quantum x) < 2 ^ (f.frac + 1)) (hn : 2 ^ f.frac ≤ x.low (f.quantum x) ∨ t = 0) :
    f.lowOdd x = true ↔ (t * 2 ^ f.frac + x.low (f.quantum x)) % 2 = 1 := by
  unfold Fmt.lowOdd
  generalize x.low (f.quantum x) = y at *
  by_cases hp : f = .q4pow
  · subst hp
    have hunit : Fmt.q4pow.unit = -6 := rfl
    have hone : Fmt.q4pow.frac = 0 := rfl
    rw [hone] at hy hn
    simp only [if_true, Bool.and_eq_true, bne_iff_ne, hone, pow_zero, mul_one, hq, hunit]
    omega
  · have hpos : f.frac ≠ 0 := by
      revert h hp
      cases f <;> decide
    have heven : 2 ∣ t * 2 ^ f.frac := (dvd_pow_self 2 hpos).mul_left t
    simp only [hp, if_false, beq_iff_eq]
    omega

theorem Fmt.inexactFlags_nx (f : Fmt) (x : Xr) : f.inexactFlags x &&& 0x10 ≠ 0 ↔ x.rest (f.quantum x) ≠ 0 := by
  unfold Fmt.inexactFlags
  by_cases hr : x.rest (f.quantum x) = 0
  · simp [hr]
  · simp only [bne_iff_ne, hr, not_false_eq_true, ne_eq, if_true, iff_true]
    split <;> decide

/-- The numbers a format holds. -/
def Fmt.Holds (f : Fmt) (v : ℚ) : Prop := ∃ code w, f.decode code = .fin w ∧ w.val = v

/-- The number of spacings selected fits the fraction, or carries into the next spacing. -/
theorem Fmt.select_bounds {f : Fmt} {x : Xr} {t : Nat} (hy : x.low (f.quantum x) < 2 ^ (f.frac + 1))
    (hn : 2 ^ f.frac ≤ x.low (f.quantum x) ∨ t = 0) (rm draw : Nat) :
    f.select x rm draw ≤ 2 ^ (f.frac + 1) ∧ (2 ^ f.frac ≤ f.select x rm draw ∨ t = 0) := by
  obtain he | he := x.select_mem (f.quantum x) rm draw (f.lowOdd x) <;> rw [Fmt.select, he] <;> omega

theorem Fmt.select_neighbour (f : Fmt) (x : Xr) (rm draw : Nat) :
    Neighbour rm x.neg (f.lowOdd x) (x.low (f.quantum x) * 2 ^ f.quantum x) ((x.low (f.quantum x) + 1 : Nat) * 2 ^ f.quantum x)
      (dyadic x.m x.e) (f.select x rm draw * 2 ^ f.quantum x) :=
  x.select_neighbour (f.quantum x) rm draw (f.lowOdd x)

/-- A magnitude that the format holds does not round past the largest one, for that is itself a code's. -/
theorem Fmt.select_le_maxMag {f : Fmt} (h : f.isInt = false) {x : Xr} (hm : x.m ≠ 0) (rm draw : Nat)
    (hle : dyadic x.m x.e ≤ dyadic (f.maxMag x.neg).1 (f.maxMag x.neg).2) :
    f.select x rm draw * 2 ^ f.quantum x ≤ dyadic (f.maxMag x.neg).1 (f.maxMag x.neg).2 := by
  obtain ⟨t, hq, hy, hn⟩ := f.quantum_spec h hm
  have hnb := f.select_neighbour x rm draw
  have hgrid := f.codeMag_outside hy hn f.maxCode
  rw [← hq] at hgrid
  obtain hy | hy := hnb.mem
  · exact hy.trans_le (hnb.low_le.trans hle)
  · rw [f.dyadic_maxMag h] at hle ⊢
    obtain hM | hM := hgrid
    · rw [hnb.eq_low (le_antisymm (hle.trans hM) hnb.low_le)]
      exact hnb.low_le.trans hle
    · exact hy.trans_le hM

/-- The neighbours of a value on the grid of a format's codes make what is selected the value's rounding, even codes standing for even
neighbours. -/
theorem Fmt.select_roundsTo {f : Fmt} (h : f.isInt = false) {x : Xr} {t : Nat} (hq : f.quantum x = f.unit + t)
    (hy : x.low (f.quantum x) < 2 ^ (f.frac + 1)) (hn : 2 ^ f.frac ≤ x.low (f.quantum x) ∨ t = 0) (rm draw : Nat) :
    RoundsTo rm f.Holds ((t * 2 ^ f.frac + f.select x rm draw) % 2 = 0) x.val
      (withSign x.neg (f.select x rm draw * 2 ^ f.quantum x)) := by
  have hodd := f.lowOdd_iff h hq hy hn
  refine (f.select_neighbour x rm draw).roundsTo (fun hy hl => ?_) (fun hy hl => ?_) ?_
  · have he : f.select x rm draw = x.low (f.quantum x) := by
      exact_mod_cast mul_right_cancel₀ (by positivity) hy
    have hn1 := mt hodd.2 (by simp [hl])
    omega
  · have he : f.select x rm draw = x.low (f.quantum x) + 1 := by
      exact_mod_cast mul_right_cancel₀ (by positivity) hy
    have h1 := hodd.1 hl
    omega
  · rintro _ ⟨code, w, hw, rfl⟩
    have hgrid := f.codeMag_outside hy hn (f.unsigned code)
    rwa [← hq, ← (f.decode_fin h hw).2.2, ← w.abs_val] at hgrid

/-- A value whose magnitude the format holds rounds to the neighbour its mode asks for, and NX tells whether that is another value. -/
theorem Fmt.round_spec {f : Fmt} (h : f.isInt = false) {x : Xr} (hst : x.st = false) (hm : x.m ≠ 0) (rm draw : Nat) (sat : Bool)
    (hle : dyadic x.m x.e ≤ dyadic (f.maxMag x.neg).1 (f.maxMag x.neg).2) :
    ∃ z : Xr, f.decode (f.round rm sat draw x).1 = .fin z ∧ z.neg = x.neg ∧
      ((f.round rm sat draw x).2 &&& 0x10 ≠ 0 ↔ z.val ≠ x.val) ∧
      RoundsTo rm f.Holds ((f.round rm sat draw x).1 % 2 = 0) x.val z.val := by
  obtain ⟨t, hq, hy, hn⟩ := f.quantum_spec h hm
  obtain ⟨hs, hsn⟩ := f.select_bounds hy hn rm draw
  have hmax := f.select_le_maxMag h hm rm draw hle
  have hspacing := f.dyadic_spacing hs hsn
  rw [← hq] at hspacing
  have hcode : t * 2 ^ f.frac + f.select x rm draw ≤ f.maxCode := by
    rwa [← f.dyadic_codeMag_le_iff, hspacing, ← f.dyadic_maxMag h x.neg]
  obtain ⟨z, hz, hneg, hval⟩ := f.decode_signed h hcode x.neg
  have hround := Fmt.round_of_le rm sat draw hst hm hmax
  rw [h, Bool.false_and, Bool.not_false, Bool.and_true, hq, f.encode_spacing h hs hsn] at hround
  rw [hspacing] at hval
  rw [hround]
  refine ⟨z, hz, hneg, ?_, ?_⟩
  · rw [f.inexactFlags_nx, hval, Xr.val, Ne, Ne, withSign_inj, Fmt.select, x.select_eq_iff]
  · rw [hval, f.signed_mod_two h]
    exact f.select_roundsTo h hq hy hn rm draw

/-- What rounding to the numbers of a format is, in units of any last place (R93–R95). -/
theorem rounding_of_roundsTo {f : Fmt} {rm code : Nat} {x z : Xr} (h : RoundsTo rm f.Holds (code % 2 = 0) x.val z.val) {e : Int}
    (hx : e ≤ x.e) (hz : e ≤ z.e) :
    let a := x.scaled e
    let b := z.scaled e
    (rm = 1 → b.natAbs ≤ a.natAbs) ∧ (rm = 2 → a ≤ b) ∧ (rm = 3 → b ≤ a) ∧
      ∀ (d : Nat) (w : Xr), f.decode d = .fin w → e ≤ w.e →
        let c := w.scaled e
        (rm = 0 → (b - a).natAbs ≤ (c - a).natAbs ∧ ((b - a).natAbs = (c - a).natAbs → c = b ∨ code % 2 = 0)) ∧
        (rm = 1 → c.natAbs ≤ a.natAbs → c.natAbs ≤ b.natAbs) ∧ (rm = 2 → a ≤ c → b ≤ c) ∧ (rm = 3 → c ≤ a → c ≤ b) := by
  intro a b
  have ha : x.val = a * 2 ^ e := x.val_eq_scaled hx
  have hb : z.val = b * 2 ^ e := z.val_eq_scaled hz
  obtain ⟨h0, h1, h2, h3⟩ := h
  refine ⟨fun hr => (natAbs_le_iff_of_unit hb ha).2 (h1 hr).1, fun hr => (int_le_iff_of_unit ha hb).2 (h2 hr).1,
    fun hr => (int_le_iff_of_unit hb ha).2 (h3 hr).1, fun d w hd hw => ?_⟩
  intro c
  have hc : w.val = c * 2 ^ e := w.val_eq_scaled hw
  have hmem : f.Holds w.val := ⟨d, w, hd, rfl⟩
  rw [natAbs_le_iff_of_unit (sub_of_unit hb ha) (sub_of_unit hc ha), natAbs_eq_iff_of_unit (sub_of_unit hb ha) (sub_of_unit hc ha),
    int_eq_iff_of_unit hc hb, natAbs_le_iff_of_unit hc ha, natAbs_le_iff_of_unit hc hb, int_le_iff_of_unit ha hc,
    int_le_iff_of_unit hb hc, int_le_iff_of_unit hc ha, int_le_iff_of_unit hc hb]
  exact ⟨fun hr => h0 hr _ hmem, fun hr => (h1 hr).2 _ hmem, fun hr => (h2 hr).2 _ hmem, fun hr => (h3 hr).2 _ hmem⟩

/-! ### Sums of exact products and addends (R101, R103) -/

/-! ### Sums of exact products and addends (R101, R103) -/

theorem foldl_min_le (xs : List Xr) (e0 : Int) :
    xs.foldl (fun e x => min e x.e) e0 ≤ e0 ∧ ∀ x ∈ xs, xs.foldl (fun e x => min e x.e) e0 ≤ x.e := by
  induction xs generalizing e0 with
  | nil => simp
  | cons y ys ih =>
    obtain ⟨h1, h2⟩ := ih (min e0 y.e)
    refine ⟨h1.trans (min_le_left _ _), fun x hx => ?_⟩
    obtain rfl | hx := List.mem_cons.1 hx
    · exact h1.trans (min_le_right _ _)
    · exact h2 x hx

/-- Terms in one unit add up to the sum of the numbers they stand for. -/
theorem sum_of_unit {xs : List Xr} {e : Int} (h : ∀ x ∈ xs, e ≤ x.e) :
    (xs.map Xr.val).sum = ((xs.map (fun x => x.scaled e)).sum : Int) * 2 ^ e := by
  induction xs with
  | nil => simp
  | cons x xs ih =>
    simp only [List.map_cons, List.sum_cons]
    rw [ih (fun y hy => h y (List.mem_cons_of_mem _ hy)), x.val_eq_scaled (h x List.mem_cons_self)]
    push_cast
    ring

theorem foldl_scaled (xs : List Xr) (e : Int) (v0 : Int) :
    xs.foldl (fun v x => v + x.scaled e) v0 = v0 + (xs.map (fun x => x.scaled e)).sum := by
  induction xs generalizing v0 with
  | nil => simp
  | cons x xs ih => rw [List.foldl_cons, ih, List.map_cons, List.sum_cons, add_assoc]

/-- The model's exact sum is the sum. -/
theorem xsum_val (rm : Nat) (xs : List Xr) : (xsum rm xs).st = false ∧ (xsum rm xs).val = (xs.map Xr.val).sum := by
  have hmin := (foldl_min_le xs ((xs.head?.map (·.e)).getD 0)).2
  rw [sum_of_unit hmin]
  unfold xsum
  simp only [foldl_scaled, zero_add]
  generalize xs.foldl (fun e x => min e x.e) ((xs.head?.map (·.e)).getD 0) = e
  generalize (xs.map (fun x => x.scaled e)).sum = v
  by_cases hv : v = 0
  · simp [hv, Xr.val_eq_zero]
  · rw [if_neg hv]
    refine ⟨rfl, ?_⟩
    have habs : ((v.natAbs : Nat) : ℚ) = if v < 0 then -(v : ℚ) else v := by
      rw [Nat.cast_natAbs]
      split
      · next h => rw [abs_of_neg h]; push_cast; rfl
      · next h => rw [abs_of_nonneg (not_lt.1 h)]
    simp only [Xr.val, dyadic, habs, withSign, decide_eq_true_eq]
    split <;> ring

@[simp] theorem FVal.isNan_fin (x : Xr) : (FVal.fin x).isNan = false := rfl

@[simp] theorem FVal.isSig_fin (x : Xr) : (FVal.fin x).isSig = false := rfl

@[simp] theorem FVal.isInf_fin (x : Xr) : (FVal.fin x).isInf = false := rfl

@[simp] theorem FVal.isInfOf_fin (neg : Bool) (x : Xr) : (FVal.fin x).isInfOf neg = false := rfl

@[simp] theorem finOf_map_fin (xs : List Xr) : finOf (xs.map FVal.fin) = xs := by simp [finOf, List.filterMap_map]

/-- The exact product of two finite values. -/
def Xr.prod (p : Xr × Xr) : Xr := ⟨p.1.neg != p.2.neg, p.1.m * p.2.m, p.1.e + p.2.e, false⟩

/-- A sum of products and addends of finite values rounds their exact sum. -/
theorem fused_fin (f : Fmt) (rm draw : Nat) (ps : List (Xr × Xr)) (xs : List Xr) :
    fused f rm draw (ps.map (fun p => (.fin p.1, .fin p.2))) (xs.map .fin) = f.round rm false draw (xsum rm (ps.map Xr.prod ++ xs)) := by
  have hterms : (ps.map (fun p => (FVal.fin p.1, FVal.fin p.2))).map (fun p => p.1.times p.2) ++ xs.map FVal.fin =
      (ps.map Xr.prod ++ xs).map FVal.fin := by
    simp [Xr.prod, FVal.times, Function.comp_def]
  unfold fused
  simp only [hterms]
  generalize ps.map Xr.prod ++ xs = ts
  simp [FVal.zeroTimesInf]

/-- The part of O6 on what rounding is (R93–R95, R101, R103). -/
theorem rounding_holds : Claim.Rounding := by
  refine ⟨fun f rm draw sat x hf hst hm hle _ => ?_, fun f rm draw sat x hf hst hm _ => ?_, fun f rm draw ps xs _ _ => ?_⟩
  · obtain ⟨z, hz, hneg, hnx, hround⟩ := f.round_spec hf hst hm rm draw sat (magLe_iff.1 hle)
    refine ⟨z, hz, hneg, fun e hx he => ⟨hnx.trans ?_, rounding_of_roundsTo hround hx he⟩⟩
    rw [Ne, Ne, int_eq_iff_of_unit (z.val_eq_scaled he) (x.val_eq_scaled hx)]
  · exact ⟨x.toIntegral rm draw, x.rest 0 == 0, x.toIntegral_spec rm draw, fun hlo hhi => f.round_int hf rm sat draw hst hm hlo hhi⟩
  · obtain ⟨hst, hval⟩ := xsum_val rm (ps.map Xr.prod ++ xs)
    refine ⟨xsum rm (ps.map Xr.prod ++ xs), hst, fused_fin f rm draw ps xs, fun e hz hps hxs => ?_⟩
    have hall : ∀ t ∈ ps.map Xr.prod ++ xs, e ≤ t.e := by
      intro t ht
      obtain ht | ht := List.mem_append.1 ht
      · obtain ⟨p, hp, rfl⟩ := List.mem_map.1 ht
        exact hps p hp
      · exact hxs t ht
    rw [sum_of_unit hall] at hval
    rw [(int_eq_iff_of_unit (Xr.val_eq_scaled _ hz) hval).2 rfl, List.map_append, List.map_map, List.sum_append]
    rfl

/-! ### Rounding to an integral FP32 value (R112) -/

/-- A finite code's digits are those of its fraction and the leading one (R81). -/
theorem Fmt.decode_digits {f : Fmt} (h : f.isInt = false) {code : Nat} {w : Xr} (hw : f.decode code = .fin w) :
    w.m < 2 ^ (f.frac + 1) := by
  have hF : f.unsigned code % 2 ^ f.frac < 2 ^ f.frac := Nat.mod_lt _ (by positivity)
  rw [f.decode_eq h] at hw
  dsimp only at hw
  rw [pow_succ]
  split at hw
  · cases hw
    dsimp only
    split <;> omega
  · split at hw
    · split at hw <;> cases hw
    · split at hw
      · cases hw
      · split at hw <;> (cases hw; dsimp only; omega)

/-- FP32 holds the integers of at most 24 bits, and encodes each by its value. -/
theorem decode_encode_fp32 {y : Nat} (hy : y < 2 ^ 24) (neg : Bool) :
    ∃ z : Xr, Fmt.fp32.decode (Fmt.fp32.encode neg y 0) = .fin z ∧ z.neg = neg ∧ z.val = withSign neg y := by
  have hint : Fmt.fp32.isInt = false := rfl
  have hfrac : Fmt.fp32.frac = 23 := rfl
  have hunit : Fmt.fp32.unit = -149 := rfl
  have hemin : Fmt.fp32.emin = -126 := rfl
  by_cases hy0 : y = 0
  · obtain ⟨z, hz, hneg, hval⟩ := Fmt.fp32.decode_signed hint (Nat.zero_le _) neg
    subst hy0
    exact ⟨z, hz, hneg, by simpa [codeMag] using hval⟩
  · have hlog : Nat.log2 y < 24 := (Nat.log2_lt hy0).2 hy
    obtain ⟨he, hlow, hhigh⟩ := Fmt.fp32.encode_normal rfl hy0 (q := 0) (t := Nat.log2 y + 126) (by rw [hemin]; omega)
      (by rw [hfrac]; omega) neg
    have hcode : (Nat.log2 y + 126) * 2 ^ Fmt.fp32.frac + y * 2 ^ (Fmt.fp32.frac - Nat.log2 y) ≤ Fmt.fp32.maxCode := by
      have hmax : Fmt.fp32.maxCode = 0x7F7FFFFF := rfl
      rw [hfrac] at hhigh ⊢
      omega
    obtain ⟨z, hz, hneg, hval⟩ := Fmt.fp32.decode_signed hint hcode neg
    refine ⟨z, by rw [he, hz], hneg, ?_⟩
    rw [hval, Fmt.fp32.dyadic_spacing hhigh.le (.inl hlow), withSign_inj, hfrac, hunit]
    have hexp : (-149 : Int) + (Nat.log2 y + 126 : Nat) = -((23 - Nat.log2 y : Nat) : Int) := by omega
    rw [hexp, zpow_neg, zpow_natCast]
    push_cast
    field_simp

/-- FRND of a finite operand gives the integer it rounds to, with the operand's sign. -/
theorem roundIntegral_fin (rm draw : Nat) {a : Nat} {x : Xr} (hx : Fmt.fp32.decode a = .fin x) :
    ∃ z : Xr, Fmt.fp32.decode (roundIntegral rm draw a).1 = .fin z ∧ z.neg = x.neg ∧ z.val = x.toIntegral rm draw ∧
      (roundIntegral rm draw a).2 = if x.rest 0 == 0 then 0 else 0x10 := by
  have hr : roundIntegral rm draw a = if 0 ≤ x.e then (a, 0) else
      (Fmt.fp32.encode x.neg (x.toIntegral rm draw).natAbs 0, flagIf (x.rest 0 != 0) fNX) := by
    rw [roundIntegral, v32, hx]
    simp only [roundInt_eq]
  rw [hr]
  by_cases he : 0 ≤ x.e
  · have hrest : x.rest 0 = 0 := by
      rw [Xr.rest, Int.toNat_of_nonpos (by omega : 0 - x.e ≤ 0), pow_zero, Nat.mod_one]
    rw [if_pos he]
    refine ⟨x, hx, rfl, ?_, by simp [hrest]⟩
    have hval := (x.select_eq_iff 0 rm draw (x.low 0 % 2 == 1)).2 hrest
    rw [zpow_zero, mul_one] at hval
    rw [Xr.toIntegral, signedInt_cast, hval, Xr.val]
  · have hlow : x.low 0 < 2 ^ 23 := by
      have hdig := Fmt.fp32.decode_digits rfl hx
      have hfrac : Fmt.fp32.frac = 23 := rfl
      have h2 : 2 ≤ 2 ^ (0 - x.e).toNat := Nat.le_self_pow (by omega) 2
      rw [hfrac] at hdig
      rw [Xr.low, Int.toNat_of_nonpos (by omega : x.e - 0 ≤ 0), pow_zero, mul_one, Nat.div_lt_iff_lt_mul (by positivity)]
      calc x.m < 2 ^ 23 * 2 := hdig
        _ ≤ 2 ^ 23 * 2 ^ (0 - x.e).toNat := Nat.mul_le_mul_left _ h2
    have hsel : x.select 0 rm draw (x.low 0 % 2 == 1) < 2 ^ 24 := by
      obtain h | h := x.select_mem 0 rm draw (x.low 0 % 2 == 1) <;> omega
    obtain ⟨z, hz, hneg, hval⟩ := decode_encode_fp32 hsel x.neg
    rw [if_neg he]
    refine ⟨z, ?_, hneg, hval.trans (signedInt_cast _ _).symm, x.flagIf_nx⟩
    rw [Xr.toIntegral, signedInt_natAbs, hz]

/-- The part of O6 on rounding to integers (R112, R118). -/
theorem integralRounding_holds : IntegralRounding := by
  refine ⟨fun rm draw a _ _ => ⟨fun n s h => ?_, fun n h => ?_, fun x hx => ?_⟩, fun f rm draw sat hf _ => ?_⟩
  · rw [roundIntegral, v32, h]
    rfl
  · rw [roundIntegral, v32, h]
  · obtain ⟨z, hz, hneg, hval, hflag⟩ := roundIntegral_fin rm draw hx
    refine ⟨z, x.toIntegral rm draw, x.rest 0 == 0, x.toIntegral_spec rm draw, hz, hneg, hflag, fun e hez he => ?_⟩
    rw [int_eq_iff_of_unit (z.val_eq_scaled hez) (intCast_of_unit _ he), hval]
  · have hint : f.isInt = true := by rcases hf with rfl | rfl | rfl <;> rfl
    exact ⟨fun n s => toInt_nan f rm sat draw n s, fun n => toInt_inf hint rm sat draw n,
      fun x _ => ⟨x.toIntegral rm draw, x.rest 0 == 0, x.toIntegral_spec rm draw, toInt_fin hint rm sat draw x⟩⟩

/-! ### The first best, and the first of a kind, in a list whose indices rise -/

/-- Where a list's indices rise, the first best element is one of the best, and better than all before it. -/
theorem firstBest_spec {α : Type} {better : α → α → Bool} {key : α → ℚ} (idx : α → Nat)
    (hb : ∀ x y, better x y = true ↔ key x < key y) (xs : List α) (hs : xs.Pairwise (fun x y => idx x < idx y)) :
    match firstBest better xs with
    | none => xs = []
    | some p => p ∈ xs ∧ ∀ q ∈ xs, key p ≤ key q ∧ (idx q < idx p → key p < key q) := by
  induction xs using List.reverseRecOn with
  | nil => rfl
  | append_singleton xs x ih =>
    obtain ⟨hs1, -, hlt⟩ := List.pairwise_append.1 hs
    have hx : ∀ q ∈ xs, idx q < idx x := fun q hq => hlt q hq x (List.mem_singleton_self x)
    have ih := ih hs1
    have hstep : firstBest better (xs ++ [x]) = match firstBest better xs with
        | none => some x
        | some y => if better x y then some x else some y := by
      rw [firstBest, List.foldl_append]
      rfl
    rw [hstep]
    cases hbest : firstBest better xs with
    | none =>
      rw [hbest] at ih
      simp [ih]
    | some y =>
      rw [hbest] at ih
      obtain ⟨hy, hys⟩ := ih
      by_cases hxy : key x < key y
      · simp only [(hb x y).2 hxy, if_true]
        refine ⟨by simp, fun q hq => ?_⟩
        obtain hq | hq := List.mem_append.1 hq
        · have h := hxy.trans_le (hys q hq).1
          exact ⟨h.le, fun _ => h⟩
        · rw [List.mem_singleton.1 hq]
          exact ⟨le_rfl, fun h => absurd h (lt_irrefl _)⟩
      · simp only [mt (hb x y).1 hxy, Bool.false_eq_true, if_false]
        refine ⟨List.mem_append_left _ hy, fun q hq => ?_⟩
        obtain hq | hq := List.mem_append.1 hq
        · exact hys q hq
        · rw [List.mem_singleton.1 hq]
          exact ⟨not_lt.1 hxy, fun h => absurd h (hx y hy).not_gt⟩

/-- Where a list's indices rise, the first element of a kind is the one of the lowest index. -/
theorem find?_lowest {α : Type} {P : α → Bool} (idx : α → Nat) {xs : List α} (hs : xs.Pairwise (fun x y => idx x < idx y)) {p : α}
    (h : xs.find? P = some p) : p ∈ xs ∧ P p = true ∧ ∀ q ∈ xs, P q = true → idx p ≤ idx q := by
  obtain ⟨hp, as, bs, rfl, has⟩ := List.find?_eq_some_iff_append.1 h
  obtain ⟨-, hbs, -⟩ := List.pairwise_append.1 hs
  refine ⟨by simp, hp, fun q hq hPq => ?_⟩
  obtain hq | hq := List.mem_append.1 hq
  · have := has q hq
    simp [hPq] at this
  · obtain rfl | hq := List.mem_cons.1 hq
    · exact le_rfl
    · exact ((List.pairwise_cons.1 hbs).1 q hq).le

/-! ### The entries of a codebook (R88, R98, R99) -/

/-- The value of entry c of a codebook. -/
def cbValue (cb : List Half) (c : Nat) : FVal := Fmt.bf16.decode (cb.getD c 0).toNat

theorem mem_cbEntries {cb : List Half} {p : Nat × FVal} : p ∈ cbEntries cb ↔ p.1 < 16 ∧ cbValue cb p.1 = p.2 := by
  obtain ⟨c, v⟩ := p
  simp [cbEntries, cbValue]

theorem cbEntries_sorted (cb : List Half) : (cbEntries cb).Pairwise (fun p q => p.1 < q.1) := by
  rw [cbEntries, List.pairwise_map]
  exact List.pairwise_lt_range

theorem mem_cbFinite {cb : List Half} {k : Int} {p : Nat × Xr} : p ∈ cbFinite cb k ↔ p.1 < 16 ∧ entry cb k p.1 p.2 := by
  simp only [cbFinite, List.mem_filterMap, mem_cbEntries, entry]
  constructor
  · rintro ⟨⟨c, v⟩, ⟨hc, hv⟩, h⟩
    cases v with
    | fin x =>
      cases h
      exact ⟨hc, x, hv, rfl⟩
    | _ => cases h
  · rintro ⟨hc, v, hv, hw⟩
    exact ⟨(p.1, .fin v), ⟨hc, hv⟩, by simp [← hw]⟩

theorem cbFinite_sorted (cb : List Half) (k : Int) : (cbFinite cb k).Pairwise (fun p q => p.1 < q.1) := by
  rw [cbFinite, List.pairwise_filterMap]
  refine (cbEntries_sorted cb).imp ?_
  rintro ⟨c, v⟩ ⟨d, w⟩ hcd p hp q hq
  cases v <;> cases w <;> cases hp <;> cases hq
  exact hcd

/-! ### The entry for a NaN (R99) -/

/-- Entry c is the first of the greatest magnitude among the finite entries of a kind. -/
def GreatestEntry (cb : List Half) (P : Xr → Prop) (c : Nat) : Prop :=
  ∃ w, entry cb 0 c w ∧ P w ∧ ∀ d v, d < 16 → entry cb 0 d v → P v → AtMost v.m v.e w.m w.e ∧ (d < c → ¬ AtMost w.m w.e v.m v.e)

/-- Entry c is an infinity of a kind of sign. -/
def InfEntry (cb : List Half) (P : Bool → Prop) (c : Nat) : Prop := ∃ n, cbValue cb c = .inf n ∧ P n

theorem either_pos {P A B : Prop} (hp : P) (ha : A) : Either P A B := ⟨fun _ => ha, fun h => absurd hp h⟩

theorem either_neg {P A B : Prop} (hp : ¬ P) (hb : B) : Either P A B := ⟨fun h => absurd h hp, fun _ => hb⟩

theorem firstBest_greatest {cb : List Half} {xs : List (Nat × Xr)} (hs : xs.Pairwise (fun p q => p.1 < q.1)) (P : Xr → Prop)
    (hmem : ∀ p, p ∈ xs ↔ (p.1 < 16 ∧ entry cb 0 p.1 p.2) ∧ P p.2) :
    match firstBest (fun x y => !magLe x.2.m x.2.e y.2.m y.2.e) xs with
    | none => ¬ ∃ d w, d < 16 ∧ entry cb 0 d w ∧ P w
    | some p => (∃ d w, d < 16 ∧ entry cb 0 d w ∧ P w) ∧ p.1 < 16 ∧ GreatestEntry cb P p.1 := by
  have hkey : ∀ x y : Nat × Xr, (!magLe x.2.m x.2.e y.2.m y.2.e) = true ↔ -dyadic x.2.m x.2.e < -dyadic y.2.m y.2.e := fun x y => by
    rw [Bool.not_eq_true', ← Bool.not_eq_true, magLe_iff, not_le, neg_lt_neg_iff]
  have h := firstBest_spec Prod.fst hkey xs hs
  split at h
  · next hb =>
    rw [hb]
    rintro ⟨d, w, hd, hw, hP⟩
    have := (hmem (d, w)).2 ⟨⟨hd, hw⟩, hP⟩
    simp [h] at this
  · next p hb =>
    rw [hb]
    obtain ⟨⟨hlt, hp⟩, hP⟩ := (hmem p).1 h.1
    refine ⟨⟨p.1, p.2, hlt, hp, hP⟩, hlt, p.2, hp, hP, fun d v hd hv hPv => ?_⟩
    obtain ⟨hle, hfirst⟩ := h.2 (d, v) ((hmem (d, v)).2 ⟨⟨hd, hv⟩, hPv⟩)
    rw [atMost_iff, atMost_iff, not_le]
    exact ⟨neg_le_neg_iff.1 hle, fun hd => neg_lt_neg_iff.1 (hfirst hd)⟩

/-- The first infinite entry of a kind of sign, where there is one. -/
theorem find?_inf (cb : List Half) (P : Bool → Bool) :
    match ((cbEntries cb).filter (fun p => p.2.isInf)).find? (fun p => P p.2.sign) with
    | none => ¬ ∃ d, d < 16 ∧ InfEntry cb (P · = true) d
    | some p => (∃ d, d < 16 ∧ InfEntry cb (P · = true) d) ∧ Lowest (InfEntry cb (P · = true)) p.1 := by
  have hinf : ∀ c v, cbValue cb c = v → ((v.isInf = true ∧ P v.sign = true) ↔ InfEntry cb (P · = true) c) := by
    rintro c v rfl
    cases hv : cbValue cb c <;> simp [FVal.isInf, FVal.sign, InfEntry, hv]
  have hmem : ∀ p, (p ∈ (cbEntries cb).filter (fun p => p.2.isInf) ∧ P p.2.sign = true) ↔
      p ∈ cbEntries cb ∧ InfEntry cb (P · = true) p.1 := fun p => by
    rw [List.mem_filter, and_assoc]
    exact and_congr_right fun hp => hinf _ _ (mem_cbEntries.1 hp).2
  split
  · next h =>
    rintro ⟨d, hd, hP⟩
    obtain ⟨hm, hPd⟩ := (hmem (d, cbValue cb d)).2 ⟨mem_cbEntries.2 ⟨hd, rfl⟩, hP⟩
    exact List.find?_eq_none.1 h _ hm hPd
  · next p h =>
    obtain ⟨hp, hPp, hlow⟩ := find?_lowest Prod.fst ((cbEntries_sorted cb).filter _) h
    obtain ⟨he, hP⟩ := (hmem p).1 ⟨hp, hPp⟩
    have hlt := (mem_cbEntries.1 he).1
    refine ⟨⟨p.1, hlt, hP⟩, hlt, hP, fun d hd hPd => ?_⟩
    obtain ⟨hm, hPm⟩ := (hmem (d, cbValue cb d)).2 ⟨mem_cbEntries.2 ⟨hd.trans hlt, rfl⟩, hPd⟩
    exact absurd (hlow _ hm hPm) (not_le.2 hd)

theorem head?_eq_find? {α : Type} (xs : List α) : xs.head? = xs.find? (fun _ => true) := by cases xs <;> rfl

/-- The model's choice for a NaN is that of R99. -/
theorem cbForNan_spec (cb : List Half) (neg : Bool) : nanEntry cb neg (cbForNan cb neg) := by
  have h1 := firstBest_greatest (cb := cb) (xs := (cbFinite cb 0).filter (fun p => p.2.neg == neg)) ((cbFinite_sorted cb 0).filter _)
    (fun w => w.neg = neg) (fun p => by rw [List.mem_filter, mem_cbFinite, beq_iff_eq])
  have h2 := firstBest_greatest (cbFinite_sorted cb 0) (fun _ => True) (fun p => by rw [mem_cbFinite, and_true])
  have h3 := find?_inf cb (fun n => n == neg)
  have h4 := find?_inf cb (fun _ => true)
  simp only [and_true, beq_iff_eq] at h2 h3 h4
  rw [← head?_eq_find?] at h4
  unfold nanEntry cbForNan
  dsimp only
  split at h1
  · next hb1 =>
    refine either_neg h1 ?_
    split at h2
    · next hb2 =>
      refine either_neg h2 ?_
      split at h3
      · next hb3 =>
        refine either_neg h3 ?_
        split at h4
        · next hb4 =>
          refine either_neg h4 ?_
          simp only [hb1, hb2, hb3, hb4]
        · next p hb4 =>
          refine either_pos h4.1 ?_
          simp only [hb1, hb2, hb3, hb4]
          exact h4.2
      · next p hb3 =>
        refine either_pos h3.1 ?_
        simp only [hb1, hb2, hb3]
        exact h3.2
    · next p hb2 =>
      refine either_pos h2.1 ?_
      simp only [hb1, hb2]
      exact h2.2
  · next p hb1 =>
    refine either_pos h1.1 ?_
    simp only [hb1]
    exact h1.2

/-! ### The nearest entry of a codebook (R98, R100) -/

theorem xdist_val (x y : Xr) : dyadic (xdist x y).1 (xdist x y).2 = |x.val - y.val| := by
  rw [natAbs_of_unit (sub_of_unit (x.val_eq_scaled (min_le_left x.e y.e)) (y.val_eq_scaled (min_le_right x.e y.e)))]
  rfl

/-- The distance of two values in units of a last place. -/
theorem gap_of_unit {x w : Xr} {e : Int} (hx : e ≤ x.e) (hw : e ≤ w.e) : |x.val - w.val| = gap e x w * 2 ^ e :=
  natAbs_of_unit (sub_of_unit (x.val_eq_scaled hx) (w.val_eq_scaled hw))

theorem gap_le_iff {x w v : Xr} {e : Int} (hx : e ≤ x.e) (hw : e ≤ w.e) (hv : e ≤ v.e) :
    gap e x w ≤ gap e x v ↔ |x.val - w.val| ≤ |x.val - v.val| := by
  rw [gap_of_unit hx hw, gap_of_unit hx hv, mul_le_mul_iff_left₀ (by positivity), Nat.cast_le]

theorem gap_lt_iff {x w v : Xr} {e : Int} (hx : e ≤ x.e) (hw : e ≤ w.e) (hv : e ≤ v.e) :
    gap e x w < gap e x v ↔ |x.val - w.val| < |x.val - v.val| := by
  rw [← not_le, gap_le_iff hx hv hw, not_le]

theorem gap_eq_zero_iff {x w : Xr} {e : Int} (hx : e ≤ x.e) (hw : e ≤ w.e) : gap e x w = 0 ↔ (xdist x w).1 = 0 := by
  have h := dyadic_eq_zero (m := (xdist x w).1) (e := (xdist x w).2)
  rw [xdist_val, gap_of_unit hx hw] at h
  rw [← h]
  simp [zpow_ne_zero]

/-- Of the entries that are zeros of a sign, those a codebook holds under a scale. -/
def ZeroEntry (cb : List Half) (k : Int) (neg : Bool) (d : Nat) : Prop := ∃ v, entry cb k d v ∧ v.m = 0 ∧ v.neg = neg

/-- A nearest entry that is a zero gives way to the first zero of the value's sign, where there is one; any other stays. -/
theorem cbSigned_spec (cb : List Half) (k : Int) (neg : Bool) (p : Nat × Xr) :
    (p.2.m ≠ 0 ∨ (∀ d v, d < 16 → entry cb k d v → v.m = 0 → v.neg ≠ neg) → cbSigned (cbFinite cb k) neg p = p.1) ∧
    (p.2.m = 0 → (∃ d v, d < 16 ∧ entry cb k d v ∧ v.m = 0 ∧ v.neg = neg) →
      Lowest (ZeroEntry cb k neg) (cbSigned (cbFinite cb k) neg p)) := by
  have hzero : ∀ q : Nat × Xr, (q.2.m == 0 && q.2.neg == neg) = true ↔ q.2.m = 0 ∧ q.2.neg = neg := fun q => by
    rw [Bool.and_eq_true, beq_iff_eq, beq_iff_eq]
  unfold cbSigned
  by_cases hm : p.2.m = 0
  · rw [if_neg (not_not.2 hm)]
    cases hf : (cbFinite cb k).find? (fun q => q.2.m == 0 && q.2.neg == neg) with
    | none =>
      refine ⟨fun _ => rfl, fun _ ⟨d, v, hd, hv, hvm, hvn⟩ => ?_⟩
      exact absurd ((hzero (d, v)).2 ⟨hvm, hvn⟩) (List.find?_eq_none.1 hf (d, v) (mem_cbFinite.2 ⟨hd, hv⟩))
    | some q =>
      obtain ⟨hq, hqz, hlow⟩ := find?_lowest Prod.fst (cbFinite_sorted cb k) hf
      obtain ⟨hlt, hentry⟩ := mem_cbFinite.1 hq
      obtain ⟨hqm, hqn⟩ := (hzero q).1 hqz
      refine ⟨fun h => ?_, fun _ _ => ⟨hlt, ⟨q.2, hentry, hqm, hqn⟩, fun d hd ⟨v, hv, hvm, hvn⟩ => ?_⟩⟩
      · obtain h | h := h
        · exact absurd hm h
        · exact absurd hqn (h q.1 q.2 hlt hentry hqm)
      · exact absurd (hlow (d, v) (mem_cbFinite.2 ⟨hd.trans hlt, hv⟩) ((hzero (d, v)).2 ⟨hvm, hvn⟩)) (not_le.2 hd)
  · rw [if_pos hm]
    exact ⟨fun _ => rfl, fun h => absurd h hm⟩

/-- The finite entry a finite value takes: the nearest, the first of several. -/
theorem firstBest_nearest (cb : List Half) (k : Int) (x : Xr) :
    match firstBest (fun p q : Nat × Xr => !magLe (xdist x q.2).1 (xdist x q.2).2 (xdist x p.2).1 (xdist x p.2).2) (cbFinite cb k) with
    | none => ¬ ∃ d w, d < 16 ∧ entry cb k d w
    | some p => (p.1 < 16 ∧ entry cb k p.1 p.2) ∧ ∀ d v e, d < 16 → entry cb k d v → e ≤ x.e → e ≤ p.2.e → e ≤ v.e →
        gap e x p.2 ≤ gap e x v ∧ (d < p.1 → gap e x p.2 < gap e x v) := by
  have hkey : ∀ p q : Nat × Xr, (!magLe (xdist x q.2).1 (xdist x q.2).2 (xdist x p.2).1 (xdist x p.2).2) = true ↔
      |x.val - p.2.val| < |x.val - q.2.val| := fun p q => by
    rw [Bool.not_eq_true', ← Bool.not_eq_true, magLe_iff, not_le, xdist_val, xdist_val]
  have h := firstBest_spec Prod.fst hkey (cbFinite cb k) (cbFinite_sorted cb k)
  split at h
  · next hb =>
    rw [hb]
    rintro ⟨d, w, hd, hw⟩
    have : (d, w) ∈ cbFinite cb k := mem_cbFinite.2 ⟨hd, hw⟩
    simp [h] at this
  · next p hb =>
    rw [hb]
    refine ⟨mem_cbFinite.1 h.1, fun d v e hd hv hex hew hev => ?_⟩
    obtain ⟨hle, hfirst⟩ := h.2 (d, v) (mem_cbFinite.2 ⟨hd, hv⟩)
    exact ⟨(gap_le_iff hex hew hev).2 hle, fun hd => (gap_lt_iff hex hew hev).2 (hfirst hd)⟩

/-- Where a codebook has no finite entry, a finite value takes the first infinite one, of its sign where there is one (R98). -/
theorem cbEncode_noFinite {cb : List Half} {k : Int} {x : Xr} (h : ¬ ∃ d w, d < 16 ∧ entry cb k d w) :
    (cbEncode cb k (.fin x)).2 = 0x10 ∧
      Either (∃ d, d < 16 ∧ InfEntry cb (· = x.neg) d) (Lowest (InfEntry cb (· = x.neg)) (cbEncode cb k (.fin x)).1)
        (Either (∃ d, d < 16 ∧ InfEntry cb (fun _ => True) d) (Lowest (InfEntry cb (fun _ => True)) (cbEncode cb k (.fin x)).1)
          ((cbEncode cb k (.fin x)).1 = 0)) := by
  have h1 := firstBest_nearest cb k x
  have h3 := find?_inf cb (fun n => n == x.neg)
  have h4 := find?_inf cb (fun _ => true)
  simp only [beq_iff_eq] at h3 h4
  rw [← head?_eq_find?] at h4
  unfold cbEncode
  dsimp only
  split at h1
  swap
  · next p hb => exact absurd ⟨p.1, p.2, h1.1⟩ h
  · next hb =>
    simp only [hb]
    split at h3
    · next hb3 =>
      split at h4
      · next hb4 =>
        simp only [hb3, hb4]
        exact ⟨rfl, either_neg h3 (either_neg h4 trivial)⟩
      · next p hb4 =>
        simp only [hb3, hb4]
        exact ⟨rfl, either_neg h3 (either_pos h4.1 h4.2)⟩
    · next p hb3 =>
      simp only [hb3]
      exact ⟨rfl, either_pos h3.1 h3.2⟩

/-- A finite value takes the nearest finite entry of a codebook, of zeros that of its sign, and NX tells whether it is another
value (R98). -/
theorem cbEncode_finite {cb : List Half} {k : Int} {x : Xr} (h : ∃ d w, d < 16 ∧ entry cb k d w) :
    ∃ p w, p < 16 ∧ entry cb k p w ∧
      (∀ d v e, d < 16 → entry cb k d v → e ≤ x.e → e ≤ w.e → e ≤ v.e → gap e x w ≤ gap e x v ∧ (d < p → gap e x w < gap e x v)) ∧
      (w.m ≠ 0 ∨ (∀ d v, d < 16 → entry cb k d v → v.m = 0 → v.neg ≠ x.neg) → (cbEncode cb k (.fin x)).1 = p) ∧
      (w.m = 0 → (∃ d v, d < 16 ∧ entry cb k d v ∧ v.m = 0 ∧ v.neg = x.neg) →
        Lowest (ZeroEntry cb k x.neg) (cbEncode cb k (.fin x)).1) ∧
      (∀ e, e ≤ x.e → e ≤ w.e → (cbEncode cb k (.fin x)).2 = if gap e x w = 0 then 0 else 0x10) := by
  have h1 := firstBest_nearest cb k x
  split at h1
  · exact absurd h h1
  · next p hb =>
    have henc : cbEncode cb k (.fin x) = (cbSigned (cbFinite cb k) x.neg p, flagIf ((xdist x p.2).1 != 0) fNX) := by
      simp only [cbEncode, hb]
    obtain ⟨hstay, hzero⟩ := cbSigned_spec cb k x.neg p
    rw [henc]
    refine ⟨p.1, p.2, h1.1.1, h1.1.2, h1.2, hstay, hzero, fun e hx hw => ?_⟩
    simp only [gap_eq_zero_iff hx hw]
    by_cases hz : (xdist x p.2).1 = 0 <;> simp [hz, flagIf, fNX]

theorem cbEncode_nan (cb : List Half) (k : Int) (neg sig : Bool) :
    nanEntry cb neg (cbEncode cb k (.nan neg sig)).1 ∧ (cbEncode cb k (.nan neg sig)).2 = if sig then 0x41 else 0x40 :=
  ⟨cbForNan_spec cb neg, by cases sig <;> rfl⟩

/-- An infinity takes the first entry of its kind, where there is one, else what stands for a NaN (R99). -/
theorem cbEncode_inf (cb : List Half) (k : Int) (neg : Bool) :
    Either (∃ d, d < 16 ∧ cbValue cb d = .inf neg)
      (Lowest (fun c => cbValue cb c = .inf neg) (cbEncode cb k (.inf neg)).1 ∧ (cbEncode cb k (.inf neg)).2 = 0)
      (nanEntry cb neg (cbEncode cb k (.inf neg)).1 ∧ (cbEncode cb k (.inf neg)).2 = 0x20) := by
  have h := find?_inf cb (fun n => n == neg)
  have hinf : InfEntry cb (fun n => (n == neg) = true) = fun c => cbValue cb c = .inf neg := by
    funext c
    simp [InfEntry]
  rw [hinf] at h
  unfold cbEncode
  dsimp only
  split at h
  · next hb =>
    simp only [hb]
    exact either_neg h ⟨cbForNan_spec cb neg, rfl⟩
  · next p hb =>
    simp only [hb]
    exact either_pos h.1 ⟨h.2, trivial⟩

/-! ### The scale of a block (R121) -/

/-- The model's search for a largest magnitude. -/
def largest (ps : List (Nat × Int)) (m0 : Nat × Int) : Nat × Int := ps.foldl (fun m p => if magLe m.1 m.2 p.1 p.2 then p else m) m0

theorem largest_spec (ps : List (Nat × Int)) (m0 : Nat × Int) :
    (largest ps m0 = m0 ∨ largest ps m0 ∈ ps) ∧ dyadic m0.1 m0.2 ≤ dyadic (largest ps m0).1 (largest ps m0).2 ∧
      ∀ p ∈ ps, dyadic p.1 p.2 ≤ dyadic (largest ps m0).1 (largest ps m0).2 := by
  induction ps generalizing m0 with
  | nil => simp [largest]
  | cons p ps ih =>
    by_cases hle : magLe m0.1 m0.2 p.1 p.2 = true
    · have hstep : largest (p :: ps) m0 = largest ps p := by rw [largest, List.foldl_cons, if_pos hle]; rfl
      obtain ⟨hmem, hge, hall⟩ := ih p
      rw [hstep]
      refine ⟨.inr (List.mem_cons.2 hmem), (magLe_iff.1 hle).trans hge, fun q hq => ?_⟩
      obtain rfl | hq := List.mem_cons.1 hq
      · exact hge
      · exact hall q hq
    · have hstep : largest (p :: ps) m0 = largest ps m0 := by rw [largest, List.foldl_cons, if_neg hle]; rfl
      obtain ⟨hmem, hge, hall⟩ := ih m0
      rw [hstep]
      refine ⟨hmem.imp_right (List.mem_cons_of_mem _), hge, fun q hq => ?_⟩
      obtain rfl | hq := List.mem_cons.1 hq
      · exact (le_of_not_ge (mt magLe_iff.2 hle)).trans hge
      · exact hall q hq

/-- A magnitude that is the largest of some, or zero of none larger, is the one the model finds. -/
theorem dyadic_eq_largest {ps : List (Nat × Int)} {m : Nat × Int} (hall : ∀ p ∈ ps, dyadic p.1 p.2 ≤ dyadic m.1 m.2)
    (hmem : m = (0, 0) ∨ m ∈ ps) : dyadic m.1 m.2 = dyadic (largest ps (0, 0)).1 (largest ps (0, 0)).2 := by
  obtain ⟨hl, h0, hle⟩ := largest_spec ps (0, 0)
  refine le_antisymm ?_ ?_
  · obtain rfl | hm := hmem
    · exact h0
    · exact hle m hm
  · obtain hl | hl := hl
    · rw [hl, dyadic_zero_left]
      exact dyadic_nonneg _ _
    · exact hall _ hl

/-- sclExp is the least power of two that brings one magnitude up to another. -/
theorem sclExp_spec {m mx : Nat × Int} (hm : m.1 ≠ 0) (hmx : mx.1 ≠ 0) (j : Int) :
    dyadic m.1 m.2 ≤ dyadic mx.1 (mx.2 + j) ↔ sclExp m mx ≤ j := by
  have hm1 := two_pow_le_dyadic hm m.2
  have hm2 := dyadic_lt_two_pow m.1 m.2
  have hx1 := two_pow_le_dyadic hmx (mx.2 + j)
  have hx2 := dyadic_lt_two_pow mx.1 (mx.2 + j)
  have hpow : ∀ a b : Int, a ≤ b → (2 : ℚ) ^ a ≤ 2 ^ b := fun a b h => zpow_le_zpow_right₀ one_le_two h
  obtain ⟨k, hk⟩ : ∃ k : Int, k = (Nat.log2 m.1 : Int) + m.2 - (Nat.log2 mx.1 + mx.2) := ⟨_, rfl⟩
  have hscl : sclExp m mx = if magLe m.1 m.2 mx.1 (mx.2 + k) then k else k + 1 := by rw [hk]; rfl
  obtain hj | rfl | hj := lt_trichotomy j k
  · have hno : ¬ dyadic m.1 m.2 ≤ dyadic mx.1 (mx.2 + j) := not_le.2 (hx2.trans_le ((hpow _ _ (by omega)).trans hm1))
    refine iff_of_false hno ?_
    rw [hscl]
    split <;> omega
  · clear hk
    rw [hscl, ← magLe_iff]
    split <;> simp [*]
  · have hyes : dyadic m.1 m.2 ≤ dyadic mx.1 (mx.2 + j) := hm2.le.trans ((hpow _ _ (by omega)).trans hx1)
    refine iff_of_true hyes ?_
    rw [hscl]
    split <;> omega

theorem sclMax_codebook (cb : List Half) :
    sclMax 7 3 cb = largest ((cbFinite cb 0).map (fun p => (p.2.m, p.2.e))) (0, 0) := by
  rw [largest, List.foldl_map]
  rfl

/-- The format's largest magnitude is the one the model takes. -/
theorem dyadic_sclMax {fmt ty : Nat} {cb : List Half} {M : Nat × Int} (h3 : 3 ≤ fmt) (h7 : fmt ≤ 7) (hty : ty < 4)
    (he4m3 : fmt = 3 → M = (448, 0)) (he5m2 : fmt = 4 → M = (57344, 0))
    (he2m3 : fmt = 5 → M = (15, -1)) (he3m2 : fmt = 6 → M = (28, 0))
    (hint : fmt = 7 → ty = 0 → M = (7, 0)) (he2m1 : fmt = 7 → ty = 1 → M = (6, 0)) (hpow : fmt = 7 → ty = 2 → M = (1, 0))
    (hcb : fmt = 7 → ty = 3 → (∀ c w, c < 16 → entry cb 0 c w → AtMost w.m w.e M.1 M.2) ∧
      (M = (0, 0) ∨ ∃ c w, c < 16 ∧ entry cb 0 c w ∧ M = (w.m, w.e))) :
    dyadic M.1 M.2 = dyadic (sclMax fmt ty cb).1 (sclMax fmt ty cb).2 := by
  obtain rfl | rfl | rfl | rfl | rfl : fmt = 3 ∨ fmt = 4 ∨ fmt = 5 ∨ fmt = 6 ∨ fmt = 7 := by omega
  · rw [he4m3 rfl, show sclMax 3 ty cb = (14, 5) from rfl]
    norm_num [dyadic]
  · rw [he5m2 rfl, show sclMax 4 ty cb = (7, 13) from rfl]
    norm_num [dyadic]
  · rw [he2m3 rfl, show sclMax 5 ty cb = (15, -1) from rfl]
  · rw [he3m2 rfl, show sclMax 6 ty cb = (7, 2) from rfl]
    norm_num [dyadic]
  · obtain rfl | rfl | rfl | rfl : ty = 0 ∨ ty = 1 ∨ ty = 2 ∨ ty = 3 := by omega
    · rw [hint rfl rfl, show sclMax 7 0 cb = (7, 0) from rfl]
    · rw [he2m1 rfl rfl, show sclMax 7 1 cb = (6, 0) from rfl]
    · rw [hpow rfl rfl, show sclMax 7 2 cb = (1, 0) from rfl]
    · obtain ⟨hall, hmem⟩ := hcb rfl rfl
      rw [sclMax_codebook]
      refine dyadic_eq_largest (fun p hp => ?_) (hmem.imp_right ?_)
      · obtain ⟨q, hq, rfl⟩ := List.mem_map.1 hp
        obtain ⟨hlt, he⟩ := mem_cbFinite.1 hq
        exact atMost_iff.1 (hall q.1 q.2 hlt he)
      · rintro ⟨c, w, hc, hw, rfl⟩
        exact List.mem_map.2 ⟨(c, w), mem_cbFinite.2 ⟨hc, hw⟩, rfl⟩

theorem mem_finOf {vs : List FVal} {x : Xr} : x ∈ finOf vs ↔ .fin x ∈ vs := by
  rw [finOf, List.mem_filterMap]
  constructor
  · rintro ⟨v, hv, h⟩
    cases v with
    | fin y =>
      cases h
      exact hv
    | _ => cases h
  · exact fun h => ⟨_, h, rfl⟩

/-- The largest magnitude of a block, as the model finds it (R121). -/
def blockMax (vs : List FVal) : Nat × Int := largest ((finOf vs).map (fun x => (x.m, x.e))) (0, 0)

/-- The largest magnitude of a block is the one the model takes. -/
theorem dyadic_largest_finOf {vs : List FVal} {m : Nat × Int} (hall : ∀ x : Xr, .fin x ∈ vs → AtMost x.m x.e m.1 m.2)
    (hmem : m = (0, 0) ∨ ∃ x : Xr, .fin x ∈ vs ∧ m = (x.m, x.e)) :
    dyadic m.1 m.2 = dyadic (blockMax vs).1 (blockMax vs).2 := by
  refine dyadic_eq_largest (fun p hp => ?_) (hmem.imp_right ?_)
  · obtain ⟨x, hx, rfl⟩ := List.mem_map.1 hp
    exact atMost_iff.1 (hall x (mem_finOf.1 hx))
  · rintro ⟨x, hx, rfl⟩
    exact List.mem_map.2 ⟨x, mem_finOf.2 hx, rfl⟩

theorem any_isSig {vs : List FVal} : vs.any (·.isSig) = true ↔ ∃ n, FVal.nan n true ∈ vs := by
  rw [List.any_eq_true]
  constructor
  · rintro ⟨v, hv, hs⟩
    cases v with
    | nan n g =>
      cases hs
      exact ⟨n, hv⟩
    | _ => cases hs
  · exact fun ⟨n, hn⟩ => ⟨_, hn, rfl⟩

theorem any_isInf {vs : List FVal} : vs.any (·.isInf) = true ↔ ∃ n, FVal.inf n ∈ vs := by
  rw [List.any_eq_true]
  constructor
  · rintro ⟨v, hv, hs⟩
    cases v with
    | inf n => exact ⟨n, hv⟩
    | _ => cases hs
  · exact fun ⟨n, hn⟩ => ⟨_, hn, rfl⟩

theorem sclOf_eq_blockMax (fmt ty : Nat) (cb : List Half) (vs : List FVal) : sclOf fmt ty cb vs =
    let iv := flagIf (vs.any (·.isSig)) fIV
    if (sclMax fmt ty cb).1 = 0 then (31, iv)
    else if vs.any (·.isInf) then (62, iv)
    else if (blockMax vs).1 = 0 then (31, iv)
    else
      let e := 31 + sclExp (blockMax vs) (sclMax fmt ty cb)
      if 62 < e then (62, iv ||| fSAT) else if e < 0 then (0, iv ||| fSAT) else (e.toNat, iv) := by
  rw [blockMax, largest, List.foldl_map]
  rfl

/-- The scale exponent by the largest magnitudes of the block and of its format, however these are written (R121). -/
theorem sclOf_spec {fmt ty : Nat} {cb : List Half} {vs : List FVal} {m M : Nat × Int}
    (hM : dyadic M.1 M.2 = dyadic (sclMax fmt ty cb).1 (sclMax fmt ty cb).2)
    (hm : dyadic m.1 m.2 = dyadic (blockMax vs).1 (blockMax vs).2) :
    let iv : Byte := if ∃ n, FVal.nan n true ∈ vs then 1 else 0
    if M.1 = 0 then sclOf fmt ty cb vs = (31, iv)
    else if ∃ n, FVal.inf n ∈ vs then sclOf fmt ty cb vs = (62, iv)
    else if m.1 = 0 then sclOf fmt ty cb vs = (31, iv)
    else ∃ k : Int, AtMost m.1 m.2 M.1 (M.2 + k) ∧ (∀ j : Int, AtMost m.1 m.2 M.1 (M.2 + j) → k ≤ j) ∧
      sclOf fmt ty cb vs = if 31 < k then (62, iv ||| 0x20) else if k < -31 then (0, iv ||| 0x20) else ((31 + k).toNat, iv) := by
  intro iv
  have hiv : flagIf (vs.any (·.isSig)) fIV = iv := if_congr any_isSig rfl rfl
  have hM0 : M.1 = 0 ↔ (sclMax fmt ty cb).1 = 0 := by rw [← dyadic_eq_zero, hM, dyadic_eq_zero]
  have hm0 : m.1 = 0 ↔ (blockMax vs).1 = 0 := by rw [← dyadic_eq_zero, hm, dyadic_eq_zero]
  rw [sclOf_eq_blockMax, hiv]
  simp only [← hM0, ← hm0, any_isInf]
  by_cases h1 : M.1 = 0
  · simp only [h1, if_true]
  by_cases h2 : ∃ n, FVal.inf n ∈ vs
  · simp only [h1, h2, if_true, if_false]
  by_cases h3 : m.1 = 0
  · simp only [h1, h2, h3, if_true, if_false]
  simp only [h1, h2, h3, if_false]
  have hscl : ∀ j, AtMost m.1 m.2 M.1 (M.2 + j) ↔ sclExp (blockMax vs) (sclMax fmt ty cb) ≤ j := fun j => by
    rw [atMost_iff, ← sclExp_spec (mt hm0.2 h3) (mt hM0.2 h1), dyadic_add, hM, hm, ← dyadic_add]
  generalize sclExp (blockMax vs) (sclMax fmt ty cb) = k at *
  refine ⟨k, (hscl k).2 le_rfl, fun j => (hscl j).1, ?_⟩
  have hhigh : 62 < 31 + k ↔ 31 < k := by omega
  have hlow : 31 + k < 0 ↔ k < -31 := by omega
  simp only [hhigh, hlow]
  rfl

/-! ### Encoding under a scale byte (R87, R89, R90, R99, R122) -/

theorem bits_type (sb : Byte) : bits sb.toNat 7 6 = (sb.extractLsb' 6 2).toNat := by simp [bits, Nat.shiftRight_eq_div_pow]

theorem bits_exponent (sb : Byte) : bits sb.toNat 5 0 = (sb.extractLsb' 0 6).toNat := by simp [bits]

/-- The power of two of a scale byte for a format; there is none where the scale is a NaN (R87, R89, R90). -/
def scaleFor (fmt : Nat) (sb : Byte) : Option Int := if fmt ≠ 7 ∧ bits sb.toNat 7 6 ≠ 1 then none else scaleExp sb

/-- The quotient of a value by its scale (R89, R95). -/
def quotient (k : Option Int) (v : FVal) : FVal :=
  match k, v with
  | none, .nan n g => .nan n g
  | none, v => .nan v.sign false
  | some k, v => v.scale (-k)

theorem narrowEncode_float {fmt : Nat} (hf : fmt ≠ 7) (sb : Byte) (cb : List Half) (rm : Nat) (sat : Bool) (draw : Nat) (v : FVal) :
    narrowEncode fmt sb cb rm sat draw v = (fmtOfCode fmt).convert rm sat draw (quotient (scaleFor fmt sb) v) := by
  unfold narrowEncode
  exact if_neg hf

theorem narrowEncode_q4 (sb : Byte) (cb : List Half) (rm : Nat) (sat : Bool) (draw : Nat) (v : FVal) :
    narrowEncode 7 sb cb rm sat draw v =
      if bits sb.toNat 7 6 = 0 then Fmt.q4int.convert rm sat draw (quotient (scaleFor 7 sb) v)
      else if bits sb.toNat 7 6 = 1 then Fmt.q4e2m1.convert rm sat draw (quotient (scaleFor 7 sb) v)
      else if bits sb.toNat 7 6 = 2 then Fmt.q4pow.convert rm sat draw (quotient (scaleFor 7 sb) v)
      else match scaleFor 7 sb with
        | none => cbEncode cb 0 (quotient none v)
        | some k => cbEncode cb k v := by
  have hq : narrowEncode 7 sb cb rm sat draw v = match bits sb.toNat 7 6 with
      | 0 => Fmt.q4int.convert rm sat draw (quotient (scaleFor 7 sb) v)
      | 1 => Fmt.q4e2m1.convert rm sat draw (quotient (scaleFor 7 sb) v)
      | 2 => Fmt.q4pow.convert rm sat draw (quotient (scaleFor 7 sb) v)
      | _ => match scaleFor 7 sb with
        | none => cbEncode cb 0 (quotient (scaleFor 7 sb) v)
        | some k => cbEncode cb k v := by
    unfold narrowEncode
    exact if_pos rfl
  rw [hq]
  split
  · next h => rw [if_pos h]
  · next h => rw [if_neg (by omega), if_pos h]
  · next h => rw [if_neg (by omega), if_neg (by omega), if_pos h]
  · next h0 h1 h2 =>
    rw [if_neg h0, if_neg h1, if_neg h2]
    cases scaleFor 7 sb <;> rfl

theorem scaleFor_eq_none {fmt : Nat} {sb : Byte}
    (h : ((sb.extractLsb' 0 6).toNat : Int) - 31 = 32 ∨ (fmt ≠ 7 ∧ (sb.extractLsb' 6 2).toNat ≠ 1)) : scaleFor fmt sb = none := by
  rw [← bits_type, ← bits_exponent] at h
  unfold scaleFor scaleExp
  obtain h | h := h
  · rw [if_pos (by omega : bits sb.toNat 5 0 = 63), ite_self]
  · rw [if_pos h]

theorem scaleFor_eq_some {fmt : Nat} {sb : Byte}
    (h : ¬ (((sb.extractLsb' 0 6).toNat : Int) - 31 = 32 ∨ (fmt ≠ 7 ∧ (sb.extractLsb' 6 2).toNat ≠ 1))) :
    scaleFor fmt sb = some (((sb.extractLsb' 0 6).toNat : Int) - 31) := by
  rw [← bits_type, ← bits_exponent] at *
  obtain ⟨h1, h2⟩ := not_or.1 h
  rw [scaleFor, if_neg h2, scaleExp, if_neg (by omega)]

/-- An element is encoded as its quotient by the scale, into the format its code and its type name (R87–R90, R122). -/
theorem narrowEncode_spec (fmt : Nat) (sb : Byte) (cb : List Half) (rm : Nat) (sat : Bool) (draw : Nat) (v : FVal) (h3 : 3 ≤ fmt)
    (h7 : fmt ≤ 7) :
    let ty := (sb.extractLsb' 6 2).toNat
    let k : Int := ((sb.extractLsb' 0 6).toNat : Int) - 31
    let none_ := k = 32 ∨ (fmt ≠ 7 ∧ ty ≠ 1)
    let fm : Fmt := if fmt = 3 then .e4m3 else if fmt = 4 then .e5m2 else if fmt = 5 then .e2m3 else if fmt = 6 then .e3m2
      else if ty = 0 then .q4int else if ty = 1 then .q4e2m1 else .q4pow
    let q : FVal := match v with
      | .nan n g => .nan n g
      | .inf n => if none_ then .nan n false else .inf n
      | .fin x => if none_ then .nan x.neg false else .fin { x with e := x.e - k }
    (fmt ≠ 7 ∨ ty ≠ 3 → narrowEncode fmt sb cb rm sat draw v = fm.convert rm sat draw q) ∧
    (fmt = 7 → ty = 3 → narrowEncode fmt sb cb rm sat draw v = if none_ then cbEncode cb 0 q else cbEncode cb k v) := by
  intro ty k none_ fm q
  have hty : bits sb.toNat 7 6 = ty := bits_type sb
  have hlt : ty < 4 := (sb.extractLsb' 6 2).isLt
  have hq : quotient (scaleFor fmt sb) v = q := by
    by_cases hn : none_
    · rw [scaleFor_eq_none hn]
      cases v <;> simp only [q, hn, if_true] <;> rfl
    · rw [scaleFor_eq_some hn]
      cases v <;> simp only [q, hn, if_false] <;> rfl
  by_cases hf : fmt = 7
  · subst hf
    rw [narrowEncode_q4, hq, hty]
    refine ⟨fun h => ?_, fun _ h3 => ?_⟩
    · have hne : ty ≠ 3 := h.resolve_left (fun h => h rfl)
      by_cases h0 : ty = 0
      · rw [if_pos h0, show fm = Fmt.q4int from if_pos h0]
      by_cases h1 : ty = 1
      · rw [if_neg h0, if_pos h1, show fm = Fmt.q4e2m1 from (if_neg h0).trans (if_pos h1)]
      · rw [if_neg h0, if_neg h1, if_pos (by omega), show fm = Fmt.q4pow from (if_neg h0).trans (if_neg h1)]
    · rw [if_neg (by omega), if_neg (by omega), if_neg (by omega)]
      by_cases hn : none_
      · rw [if_pos hn, ← hq, scaleFor_eq_none hn]
      · rw [if_neg hn, scaleFor_eq_some hn]
  · have hfm : fmtOfCode fmt = fm := by
      obtain rfl | rfl | rfl | rfl : fmt = 3 ∨ fmt = 4 ∨ fmt = 5 ∨ fmt = 6 := by omega
      all_goals rfl
    exact ⟨fun _ => by rw [narrowEncode_float hf, hq, hfm], fun h => absurd h hf⟩

/-! ### NaNs and infinities into a format (R83, R99) -/

theorem convert_nan (f : Fmt) (rm : Nat) (sat : Bool) (draw : Nat) (neg sig : Bool) :
    f.convert rm sat draw (.nan neg sig) = ((f.special sat true neg).1, (f.special sat true neg).2 ||| if sig then 1 else 0) := rfl

theorem convert_inf (f : Fmt) (rm : Nat) (sat : Bool) (draw : Nat) (neg : Bool) :
    f.convert rm sat draw (.inf neg) = f.special sat false neg := rfl

/-- The codes of the NaN and of the infinities in the formats that have both. -/
theorem special_ieee : ∀ sat neg : Bool,
    ∀ p ∈ [(Fmt.fp64, 0x7FF8000000000000, 0x7FF0000000000000, 0xFFF0000000000000), (.fp32, 0x7FC00000, 0x7F800000, 0xFF800000),
      (.fp16, 0x7E00, 0x7C00, 0xFC00), (.bf16, 0x7FC0, 0x7F80, 0xFF80)],
    p.1.special sat true neg = (p.2.1, 0) ∧ p.1.special sat false neg = (if neg then p.2.2.2 else p.2.2.1, 0) := by decide

theorem special_fp8 : ∀ sat neg : Bool,
    Fmt.e5m2.special sat true neg = (0x7E, 0) ∧
    Fmt.e5m2.special sat false neg = (if sat then (if neg then 0xFB else 0x7B, 0x20) else (if neg then 0xFC else 0x7C, 0)) ∧
    Fmt.e4m3.special sat true neg = (0x7F, 0) ∧ Fmt.e4m3.special sat false neg = (if neg then 0xFE else 0x7E, 0x20) := by decide

/-- In the formats without either, both give the largest finite code of their sign. -/
theorem special_finite : ∀ sat neg : Bool,
    ∀ p ∈ [(Fmt.e2m3, 0x1F, 0x3F), (.e3m2, 0x1F, 0x3F), (.q4e2m1, 7, 0xF), (.q4pow, 7, 0xF), (.q4int, 7, 8)],
    p.1.special sat true neg = (if neg then p.2.2 else p.2.1, 0x40) ∧
      p.1.special sat false neg = (if neg then p.2.2 else p.2.1, 0x20) := by decide

/-- The part of O6 on encoding into the narrow formats and codebooks (R87–R90, R98, R99, R121, R122, R125). -/
theorem narrowEncoding_holds : NarrowEncoding := by
  refine ⟨fun fmt ty cb vs M m h3 h7 hty he4m3 he5m2 he2m3 he3m2 hint he2m1 hpow hcb hall hmem => ?_,
    fun fmt sb cb rm sat draw v h3 h7 => narrowEncode_spec fmt sb cb rm sat draw v h3 h7,
    fun cb k x _ => ⟨cbEncode_finite, cbEncode_noFinite⟩,
    fun cb k neg sig => ⟨cbEncode_nan cb k neg sig, cbEncode_inf cb k neg⟩,
    fun rm draw sat neg sig x => ⟨fun f => rfl, fun p hp => ?_, ?_⟩⟩
  · exact sclOf_spec (dyadic_sclMax h3 h7 hty he4m3 he5m2 he2m3 he3m2 hint he2m1 hpow hcb) (dyadic_largest_finOf hall hmem)
  · obtain ⟨hnan, hinf⟩ := special_ieee sat neg p hp
    rw [convert_nan, convert_inf, hnan, hinf]
    exact ⟨by simp, rfl⟩
  · obtain ⟨h1, h2, h3, h4⟩ := special_fp8 sat neg
    refine ⟨?_, h2, ?_, h4, fun p hp => ?_⟩
    · simp [convert_nan, h1]
    · simp [convert_nan, h3]
    obtain ⟨hnan, hinf⟩ := special_finite sat neg p hp
    rw [convert_nan, convert_inf, hnan, hinf]
    exact ⟨rfl, rfl⟩

/-! ### The shared frame of the floating instructions (R96) -/

theorem laneStep_rngctr (f : Flight) (g : BitVec 4) (out : Nat → LaneOut) : (f.laneStep g out).rngctr = f.rngctr := by
  have hlike : f.Like (f.laneStep g out) := applyAll_like _ f f.uniPath
  rw [hlike]

theorem actsOnce_iff (f : Flight) (g : BitVec 4) : f.actsOnce g = true ↔ f.acting g ≠ [] := by
  simp [Flight.actsOnce]

/-- The draws of a lane, which only rs looks at. -/
def State.draws (s : State) (r : FlightRef) (f : Flight) (rm l : Nat) : Nat → Nat := fun i => if rm = 4 then s.draw r f l i else 0

/-- RNGCTR advances by one under a condition, or not at all. -/
theorem advance_eq {f : Flight} {c : Dword} {b : Bool} {P : Prop} [Decidable P] (hc : f.rngctr = c) (hb : b = true ↔ P) :
    (if b = true then { f with rngctr := c + 1 } else f) = { f with rngctr := c + if P then 1 else 0 } := by
  by_cases hP : P
  · rw [if_pos (hb.2 hP), if_pos hP]
  · rw [if_neg (mt hb.1 hP), if_neg hP, with_rngctr]
    rw [hc]
    simp

/-- A floating instruction always completes: its lanes' results are written, and RNGCTR advances once when it acts under rs. -/
theorem floatwise_next {s : State} {r : FlightRef} {f : Flight} (h : s.issuer = some (r, f)) (g : BitVec 4) (rm : Nat)
    (body : Flight → (Nat → Nat) → Nat → LaneOut) : floatwise g rm body s =
      .next (s.retire r { f.laneStep g (fun l => body f (s.draws r f rm l) l) with
        rngctr := f.rngctr + if rm = 4 ∧ f.acting g ≠ [] then 1 else 0 }) := by
  have hcond : (decide (rm = 4) && f.actsOnce g) = true ↔ rm = 4 ∧ f.acting g ≠ [] := by
    rw [Bool.and_eq_true, decide_eq_true_iff, actsOnce_iff]
  rw [floatwise, withIssuer_next h]
  exact congrArg (fun x => Host.Outcome.next (s.retire r x))
    (advance_eq (laneStep_rngctr f g (fun l => body f (s.draws r f rm l) l)) hcond)

/-- Every floating instruction completes with the results of its body under each lane's draws, as long as they name registers that exist
and none of them twice. -/
theorem floatwise_completes {i : Instr} {g : BitVec 4} {rm : Nat} {body out : Flight → (Nat → Nat) → Nat → LaneOut}
    (hi : ∀ s, exec i s = floatwise g rm body s) (hb : ∀ f draw l, body f draw l = out f draw l)
    (hs : ∀ f draw l, (out f draw l).Sound) : LaneRound i g rm out := by
  obtain rfl : body = out := funext fun f => funext fun draw => funext fun l => hb f draw l
  intro s r f h
  exact ⟨_, by rw [hi, floatwise_next h, retire_eq],
    laneStep_effect s r f g _ (fun l => body f (s.draws r f rm l) l) (fun l _ => hs f _ l)⟩

/-! ### Results in registers -/

theorem pair_eq_n64 (d : Byte) (y : Nat × Byte) : LaneOut.pair d.toNat y.1 y.2 = n64 d y := by
  have hlow : (BitVec.ofNat 64 y.1).extractLsb' 0 32 = BitVec.ofNat 32 y.1 := by
    apply BitVec.eq_of_toNat_eq
    simp
  have hhigh : (BitVec.ofNat 64 y.1).extractLsb' 32 32 = BitVec.ofNat 32 (y.1 / 2 ^ 32) := by
    apply BitVec.eq_of_toNat_eq
    simp [Nat.shiftRight_eq_div_pow]
    omega
  rw [n64, w64, hlow, hhigh]
  rfl

theorem sound_n32 (d : Byte) (y : Nat × Byte) : (n32 d y).Sound := sound_w32 d _ _

theorem sound_n64 {d : Byte} (h : EvenReg d) (y : Nat × Byte) : (n64 d y).Sound := sound_w64 d _ _ h

/-- A span of registers that ends below 256 is sound. -/
theorem sound_span {d n : Nat} (h : d + n ≤ 256) (x : Nat → Word) (flags : Byte) :
    ({ regs := (List.range n).map (fun i => (d + i, x i)), flags } : LaneOut).Sound := by
  refine ⟨fun p hp => ?_, ?_, List.nodup_nil⟩
  · obtain ⟨i, hi, rfl⟩ := List.mem_map.1 hp
    have := List.mem_range.1 hi
    dsimp only
    omega
  · rw [List.map_map]
    exact List.nodup_range.map (fun a b hab => by simpa using hab)

theorem sound_n64_of_lt {d : Byte} (h : d.toNat + 1 < 256) (y : Nat × Byte) : (n64 d y).Sound :=
  sound_span (d := d.toNat) (n := 2) (by omega)
    (fun i => if i = 0 then (BitVec.ofNat 64 y.1).extractLsb' 0 32 else (BitVec.ofNat 64 y.1).extractLsb' 32 32) y.2

/-! ### Conversions (R112, R118–R120) -/

theorem convDst_eq (o : VFmt) (y : Nat × Byte) : convDst o y = if bits o.c.toNat 7 4 = 9 then n64 o.d y else n32 o.d y := by
  unfold convDst dstCode
  split
  · exact pair_eq_n64 o.d y
  · rfl

theorem sound_convDst {o : VFmt} (h : bits o.c.toNat 7 4 = 9 → EvenReg o.d) (y : Nat × Byte) :
    (if bits o.c.toNat 7 4 = 9 then n64 o.d y else n32 o.d y).Sound := by
  split
  · next hc => exact sound_n64 (h hc) y
  · exact sound_n32 o.d y

theorem exec_frnd (o : VFmt) (s : State) : exec (.frnd o) s = execFrnd o s := rfl

theorem exec_cvtfi (o : VFmt) (s : State) : exec (.cvtfi o) s = execCvtfi o s := rfl

theorem exec_cvtif (o : VFmt) (s : State) : exec (.cvtif o) s = execCvtif o s := rfl

theorem exec_cvtff (o : VFmt) (s : State) : exec (.cvtff o) s = execCvtff o s := rfl

/-- The part of O6 on the conversions (R112, R118–R120). -/
theorem conversions_hold : Conversions := by
  refine ⟨fun o => ?_, fun o => ?_, fun o ho => ?_, fun o ho => ?_⟩
  · exact floatwise_completes (exec_frnd o) (fun _ _ _ => rfl) (fun _ _ _ => sound_n32 _ _)
  · exact floatwise_completes (exec_cvtfi o) (fun _ _ _ => rfl) (fun _ _ _ => sound_n32 _ _)
  · exact floatwise_completes (exec_cvtif o) (fun _ _ _ => convDst_eq o _) (fun _ _ _ => sound_convDst ho _)
  · exact floatwise_completes (exec_cvtff o) (fun _ _ _ => convDst_eq o _) (fun _ _ _ => sound_convDst ho _)

/-! ### Shared-scale packing and codebooks (R121–R125) -/

theorem exec_sclq (o : VFmt) (s : State) : exec (.sclq o) s = execSclq o s := rfl

theorem exec_packn (o : VFmt) (s : State) : exec (.packn o) s = execPackn o s := rfl

theorem exec_unpkn (o : VFmt) (s : State) : exec (.unpkn o) s = execUnpkn o s := rfl

theorem exec_cblk (o : VFmt) (s : State) : exec (.cblk o) s = execCblk o s := rfl

theorem exec_cbnr (o : VFmt) (s : State) : exec (.cbnr o) s = execCbnr o s := rfl

theorem exec_cbld (o : VFmt) (s : State) : exec (.cbld o) s = execCbld o s := rfl

theorem Fmt.width_pos (f : Fmt) : 0 < f.width := by cases f <;> decide

theorem elemBits_pos (fmt : Nat) : 0 < elemBits fmt := by
  unfold elemBits
  split
  · decide
  · exact Fmt.width_pos _

/-- The bits of element i of a packed row. -/
theorem bits_elem {w : Nat} (hw : 0 < w) (x i : Nat) : bits x (w * i + w - 1) (w * i) = x / 2 ^ (w * i) % 2 ^ w := by
  rw [bits]
  congr 2
  omega

theorem extract_low (n : Nat) (x : Word) : x.extractLsb' 0 n = BitVec.ofNat n x.toNat := by
  apply BitVec.eq_of_toNat_eq
  simp

theorem spanVals_getD (f : Flight) (k : Bool) (l r : Nat) {i : Nat} (hi : i < 8) :
    (spanVals f k l r).getD i (.nan false false) = Fmt.fp32.decode (f.src k l (r + i)).toNat := by
  simp [spanVals, hi, v32]

theorem sclq_holds (o : VFmt) : LaneWise (.sclq o) o.g (fun f l =>
    let seg := (f.acting o.g).filter (fun k => k / 16 == l / 16)
    let y := sclOf (bits o.c.toNat 7 4) (bits o.c.toNat 1 0) f.cb (seg.flatMap (fun k =>
      (List.range 8).map (fun i => Fmt.fp32.decode (f.src o.ka k (o.a.toNat + i)).toNat)))
    n32 o.d (bits o.c.toNat 1 0 * 64 + y.1, y.2)) :=
  lanewise_completes (exec_sclq o) (fun _ _ => rfl) (fun _ _ => sound_n32 _ _)

theorem cblk_holds (o : VFmt) : LaneWise (.cblk o) o.g (fun f l =>
    w32 o.d ((f.cb.getD (bits (opA f o l).toNat 3 0) 0).setWidth 32)) := by
  refine lanewise_completes (exec_cblk o) (fun f l => ?_) (fun _ _ => sound_w32 _ _ _)
  have hi : bits (opA f o l).toNat 3 0 = f.opA o l % 16 := by
    simp [bits]
    rfl
  rw [hi, ← BitVec.ofNat_toNat]
  rfl

theorem cbnr_holds (o : VFmt) : LaneWise (.cbnr o) o.g (fun f l =>
    n32 o.d (cbEncode f.cb 0 (Fmt.bf16.decode ((opA f o l).extractLsb' 0 16).toNat))) := by
  refine lanewise_completes (exec_cbnr o) (fun f l => ?_) (fun _ _ => sound_n32 _ _)
  rw [extract_low, BitVec.toNat_ofNat]
  rfl

/-- Element i of a lane's row, encoded under its scale byte (R122). -/
def packElem (o : VFmt) (f : Flight) (draw : Nat → Nat) (l i : Nat) : Nat × Byte :=
  narrowEncode (bits o.c.toNat 7 4) ((opB f o l).extractLsb' 0 8) f.cb (bits o.f.toNat 2 0) (o.f.getLsbD 3) (draw i)
    (Fmt.fp32.decode (f.src o.ka l (o.a.toNat + i)).toNat)

/-- The packed row of eight elements with their flags. -/
def packRow (fmt : Nat) (y : Nat → Nat × Byte) : Nat × Byte :=
  ((List.range 8).foldl (fun x i => x + (y i).1 * 2 ^ (elemBits fmt * i)) 0, (List.range 8).foldl (fun g i => g ||| (y i).2) 0)

/-- The elements the model encodes are those of the lane's eight registers. -/
theorem packElems_eq (o : VFmt) (f : Flight) (draw : Nat → Nat) (l : Nat) :
    (List.range 8).map (fun i => narrowEncode (dstCode o) (BitVec.ofNat 8 (f.opB o l)) f.cb (rmOf o) (o.f.getLsbD 3) (draw i)
      ((spanVals f o.ka l o.a.toNat).getD i (.nan false false))) = (List.range 8).map (packElem o f draw l) := by
  refine List.map_congr_left fun i hi => ?_
  rw [spanVals_getD f o.ka l o.a.toNat (List.mem_range.1 hi), packElem, extract_low]
  rfl

theorem packn_holds (o : VFmt) (ho : bits o.c.toNat 7 4 ≠ 7 → o.d.toNat + 1 < 256) :
    LaneRound (.packn o) o.g (bits o.f.toNat 2 0) (fun f draw l =>
      if bits o.c.toNat 7 4 = 7 then n32 o.d (packRow (bits o.c.toNat 7 4) (packElem o f draw l))
      else n64 o.d (packRow (bits o.c.toNat 7 4) (packElem o f draw l))) := by
  refine floatwise_completes (exec_packn o) (fun f draw l => ?_) (fun f draw l => ?_)
  · dsimp only
    rw [packElems_eq, ← pair_eq_n64, List.foldl_map]
    rfl
  · split
    · exact sound_n32 _ _
    · next h => exact sound_n64_of_lt (ho h) _

/-- A packed row as one number: a register for Q4, else a pair (R123). -/
def rowBits (o : VFmt) (f : Flight) (l : Nat) : Nat :=
  if bits o.c.toNat 3 0 = 7 then (opA f o l).toNat else (opA f o l).toNat + (f.src o.ka l (o.a.toNat + 1)).toNat * 2 ^ 32

/-- The FP32 value of a narrow element; that of a NaN raises no flag (R123). -/
def unpackElem (v : FVal) : Nat × Byte :=
  match v with
  | .nan _ _ => (Fmt.fp32.nanCode, (0 : Byte))
  | v => Fmt.fp32.convert 0 false 0 v

/-- Element i of a packed row, decoded under its scale byte (R123). -/
def rowElem (o : VFmt) (f : Flight) (l i : Nat) : Nat × Byte :=
  unpackElem (scaledVal (bits o.c.toNat 3 0) ((opB f o l).extractLsb' 0 8) f.cb
    (rowBits o f l / 2 ^ (elemBits (bits o.c.toNat 3 0) * i) % 2 ^ elemBits (bits o.c.toNat 3 0)))

theorem unpkn_holds (o : VFmt) (ho : o.d.toNat + 8 ≤ 256) : LaneWise (.unpkn o) o.g (fun f l =>
    { regs := (List.range 8).map (fun i => (o.d.toNat + i, BitVec.ofNat 32 (rowElem o f l i).1))
      flags := (List.range 8).foldl (fun g i => g ||| (rowElem o f l i).2) 0 }) := by
  refine lanewise_completes (exec_unpkn o) (fun f l => ?_) (fun f l => sound_span ho _ _)
  have helem : rowElem o f l = fun i => unpackElem (scaledVal (srcCode o) (BitVec.ofNat 8 (f.opB o l)) f.cb
      (bits (if srcCode o = 7 then f.opA o l else f.opA o l + (f.src o.ka l (o.a.toNat + 1)).toNat * 2 ^ 32)
        (elemBits (srcCode o) * i + elemBits (srcCode o) - 1) (elemBits (srcCode o) * i))) := by
    funext i
    rw [rowElem, extract_low, bits_elem (elemBits_pos _)]
    rfl
  rw [helem]
  rfl

/-! ### Loading a codebook (R124) -/

/-- A flight that retires with another codebook keeps all else. -/
theorem retired_cb (s : State) (r : FlightRef) (f : Flight) (cb : List Half) :
    (s.retired r { f with cb }).cb = cb ∧ RegsKept f (s.retired r { f with cb }) ∧ PredsKept f (s.retired r { f with cb }) ∧
      (s.retired r { f with cb }).fsr = f.fsr ∧ (s.retired r { f with cb }).rngctr = f.rngctr ∧ Kept f (s.retired r { f with cb }) := by
  obtain ⟨hv, hs, hp, hq⟩ := retired_reads s r { f with cb }
  obtain ⟨-, -, -, -, hfsr, hmr, hexited, hcb, htids, hctr, hpeer, haccs, hretired⟩ := State.retired_kept s r { f with cb }
  obtain ⟨hloads, hstores, hcopies, htiles, hest⟩ := retired_counts s r { f with cb }
  exact ⟨hcb, ⟨hs, fun l q _ => hv l q⟩, ⟨hq, hp⟩, hfsr, hctr,
    hmr, hexited, htids, haccs, hpeer, hloads, hstores, hcopies, htiles, hest, hretired⟩

/-- The codebook that eight registers of the uniform file hold. -/
def loadedCb (f : Flight) (a : Nat) : List Half := (List.range 16).map (fun i =>
  let w := f.s (a + i / 2)
  if i % 2 = 0 then w.extractLsb' 0 16 else w.extractLsb' 16 16)

theorem loadedCb_getElem? (f : Flight) (a : Nat) {i : Nat} (hi : i < 8) :
    (loadedCb f a)[2 * i]? = some ((f.s (a + i)).extractLsb' 0 16) ∧ (loadedCb f a)[2 * i + 1]? = some ((f.s (a + i)).extractLsb' 16 16) := by
  have hodd : (2 * i + 1) / 2 = i := by omega
  have h0 : 2 * i < 16 := by omega
  have h1 : 2 * i + 1 < 16 := by omega
  simp [loadedCb, h0, h1, hodd, Nat.add_mod]

theorem cbld_holds (o : VFmt) : Completes (.cbld o) (fun _ _ f f' =>
    (f.acting o.g = [] → f'.cb = f.cb) ∧
    (f.acting o.g ≠ [] → f'.cb.length = 16 ∧ ∀ i, i < 8 →
      f'.cb[2 * i]? = some ((f.s (o.a.toNat + i)).extractLsb' 0 16) ∧ f'.cb[2 * i + 1]? = some ((f.s (o.a.toNat + i)).extractLsb' 16 16)) ∧
    RegsKept f f' ∧ PredsKept f f' ∧ f'.fsr = f.fsr ∧ f'.rngctr = f.rngctr ∧ Kept f f') := by
  intro s r f h
  have hnext : exec (.cbld o) s =
      .next (s.setFlight r (s.retired r { f with cb := if f.actsOnce o.g then loadedCb f o.a.toNat else f.cb })) := by
    rw [exec_cbld, execCbld, flightwise_next h, retire_eq]
    split <;> rfl
  obtain ⟨hcb, hrest⟩ := retired_cb s r f (if f.actsOnce o.g then loadedCb f o.a.toNat else f.cb)
  refine ⟨_, hnext, fun hno => ?_, fun hact => ?_, hrest⟩
  · rw [hcb, if_neg]
    rw [actsOnce_iff, hno]
    simp
  · rw [hcb, if_pos ((actsOnce_iff f o.g).2 hact)]
    exact ⟨by simp [loadedCb], fun i hi => loadedCb_getElem? f o.a.toNat hi⟩

/-- The part of O6 on shared-scale packing and codebooks (R121–R125). -/
theorem narrowFormats_hold : NarrowFormats :=
  ⟨sclq_holds, packn_holds, unpkn_holds, cblk_holds, cbnr_holds, cbld_holds⟩

/-- Settles O6: the instructions by the laws of their shared frames; rounding by the model's choice between two neighbouring numbers of
spacings, which in every format are the magnitudes of consecutive codes; codebooks and scales by the searches that the model makes. -/
theorem formatConversions : Obligations.FormatConversions :=
  ⟨conversions_hold, narrowFormats_hold, integralRounding_holds, narrowEncoding_holds, rounding_holds⟩

end Sys2Proof.Machine
end

section
/-! SUPPORT. The floating-point instructions of FP32, packed FP16 and BF16, and FP64, and the special functions: the fields of an FP32
code, the order of values, and the obligations on them (R101–R111, R113–R117). -/

namespace Sys2Proof.Machine

open Sys2Proof.Claim

/-! ### The fields of an FP32 code (R81, R83) -/

theorem bitAt_toNat (x : Word) (i : Nat) : bitAt x.toNat i = x.getLsbD i := by
  rw [bitAt, BitVec.getLsbD, Nat.testBit_eq_decide_div_mod_eq]
  rfl

theorem bits_exponent_fp32 (x : Word) : bits x.toNat 30 23 = (x.extractLsb' 23 8).toNat := by
  simp [bits, Nat.shiftRight_eq_div_pow]

/-- Decoding an FP32 register, by its sign bit, exponent field and fraction field. -/
theorem decode_fp32_word (x : Word) : Fmt.fp32.decode x.toNat =
    if x.extractLsb' 23 8 = 0xFF#8 then
      if x.extractLsb' 0 23 = 0#23 then .inf (x.getLsbD 31) else .nan (x.getLsbD 31) (!x.getLsbD 22)
    else if x.extractLsb' 23 8 = 0#8 then .fin ⟨x.getLsbD 31, (x.extractLsb' 0 23).toNat, -149, false⟩
    else .fin ⟨x.getLsbD 31, 2 ^ 23 + (x.extractLsb' 0 23).toNat, ((x.extractLsb' 23 8).toNat : Int) - 127 - 23, false⟩ := by
  have hfrac : x.toNat % 2 ^ 23 = (x.extractLsb' 0 23).toNat := by simp
  have hdecode : Fmt.fp32.decode x.toNat =
      if (x.extractLsb' 23 8).toNat == (0xFF#8).toNat then
        if (x.extractLsb' 0 23).toNat = (0#23).toNat then .inf (x.getLsbD 31) else .nan (x.getLsbD 31) (!x.getLsbD 22)
      else if (x.extractLsb' 23 8).toNat = (0#8).toNat then .fin ⟨x.getLsbD 31, (x.extractLsb' 0 23).toNat, -149, false⟩
      else .fin ⟨x.getLsbD 31, 2 ^ 23 + (x.extractLsb' 0 23).toNat, ((x.extractLsb' 23 8).toNat : Int) - 127 - 23, false⟩ := by
    rw [← bits_exponent_fp32, ← hfrac, ← bitAt_toNat, ← bitAt_toNat]
    rfl
  simp only [hdecode, beq_iff_eq, BitVec.toNat_inj]

/-- The codes of the NaNs, and of the signalling ones (R83). -/
theorem nan_fp32 (x : Word) :
    (Fmt.fp32.decode x.toNat).isNan = (x.extractLsb' 23 8 == 0xFF && x.extractLsb' 0 23 != 0) ∧
    (Fmt.fp32.decode x.toNat).isSig = ((Fmt.fp32.decode x.toNat).isNan && !x.getLsbD 22) := by
  rw [decode_fp32_word]
  by_cases he : x.extractLsb' 23 8 = 0xFF#8
  · by_cases hm : x.extractLsb' 0 23 = 0#23
    · simp [he, hm, FVal.isNan, FVal.isSig]
    · simp [he, hm, FVal.isNan, FVal.isSig]
  · by_cases h0 : x.extractLsb' 23 8 = 0#8
    · simp [h0, FVal.isNan, FVal.isSig]
    · simp [he, h0, FVal.isNan, FVal.isSig]

/-! ### The order of values (R107, R110) -/

theorem isNan_iff (v : FVal) : v.isNan = true ↔ ∃ n s, v = .nan n s := by
  cases v <;> simp [FVal.isNan]

theorem isSig_iff (v : FVal) : v.isSig = true ↔ ∃ n, v = .nan n true := by
  cases v <;> simp [FVal.isSig]

theorem isNan_of_below {x y : FVal} (h : below x y) : x.isNan = false ∧ y.isNan = false := by
  cases x <;> cases y <;> simp_all [below, FVal.isNan]

/-- Two numbers are in one order or the other or in none, and `cmp` tells which. -/
theorem order_cases : ∀ {x y : FVal}, x.isNan = false → y.isNan = false →
    (below x y ∧ ¬ below y x ∧ x.cmp y = -1) ∨ (below y x ∧ ¬ below x y ∧ x.cmp y = 1) ∨ (¬ below x y ∧ ¬ below y x ∧ x.cmp y = 0)
  | .inf n, .inf k, _, _ => by cases n <;> cases k <;> simp [below, FVal.cmp]
  | .inf n, .fin _, _, _ => by cases n <;> simp [below, FVal.cmp]
  | .fin _, .inf k, _, _ => by cases k <;> simp [below, FVal.cmp]
  | .fin x, .fin y, _, _ => by
    simp only [below, FVal.cmp, min_comm y.e x.e]
    rcases lt_trichotomy (x.scaled (min x.e y.e)) (y.scaled (min x.e y.e)) with h | h | h
    · exact .inl ⟨h, by omega, if_pos (by omega)⟩
    · exact .inr (.inr ⟨by omega, by omega, by rw [if_neg (by omega), if_pos (by omega)]⟩)
    · exact .inr (.inl ⟨h, by omega, by rw [if_neg (by omega), if_neg (by omega)]⟩)

theorem cmp_of_below {x y : FVal} (h : below x y) : x.cmp y = -1 ∧ y.cmp x = 1 := by
  obtain ⟨hx, hy⟩ := isNan_of_below h
  have h1 := order_cases hx hy
  have h2 := order_cases hy hx
  tauto

theorem cmp_of_not_below {x y : FVal} (hx : x.isNan = false) (hy : y.isNan = false) (h : ¬ below x y) (h' : ¬ below y x) :
    x.cmp y = 0 := by
  have := order_cases hx hy
  tauto

/-- Zeros of either sign are equal. -/
theorem cmp_zero {z w : Xr} (hz : z.m = 0) (hw : w.m = 0) : FVal.cmp (.fin z) (.fin w) = 0 := by
  simp [FVal.cmp, Xr.scaled, hz, hw]

/-! ### Minimum and maximum (R107) -/

theorem minMaxNum_flags (f : Fmt) (mx : Bool) (a b : Nat) :
    (minMaxNum f mx a b).2 = if (f.decode a).isSig || (f.decode b).isSig then 1 else 0 := rfl

theorem minMaxNum_nan_both {f : Fmt} {a b : Nat} (hx : (f.decode a).isNan = true) (hy : (f.decode b).isNan = true) (mx : Bool) :
    (minMaxNum f mx a b).1 = f.nanCode := by simp [minMaxNum, hx, hy]

theorem minMaxNum_nan_left {f : Fmt} {a b : Nat} (hx : (f.decode a).isNan = true) (hy : (f.decode b).isNan = false) (mx : Bool) :
    (minMaxNum f mx a b).1 = b := by simp [minMaxNum, hx, hy]

theorem minMaxNum_nan_right {f : Fmt} {a b : Nat} (hx : (f.decode a).isNan = false) (hy : (f.decode b).isNan = true) (mx : Bool) :
    (minMaxNum f mx a b).1 = a := by simp [minMaxNum, hx, hy]

/-- Of two numbers the lower one is the minimum; of two equal ones, A where its sign is negative. -/
theorem minMaxNum_numbers {f : Fmt} {a b : Nat} (hx : (f.decode a).isNan = false) (hy : (f.decode b).isNan = false) (mx : Bool) :
    (minMaxNum f mx a b).1 = if (decide ((f.decode a).cmp (f.decode b) < 0) ||
      ((f.decode a).cmp (f.decode b) == 0 && (f.decode a).sign)) != mx then a else b := by
  simp only [minMaxNum, hx, hy, Bool.false_and, Bool.false_eq_true, if_false]

theorem minMaxNum_below {f : Fmt} {a b : Nat} (h : below (f.decode a) (f.decode b)) (mx : Bool) :
    (minMaxNum f mx a b).1 = if mx then b else a := by
  obtain ⟨hx, hy⟩ := isNan_of_below h
  rw [minMaxNum_numbers hx hy, (cmp_of_below h).1]
  cases mx <;> simp

theorem minMaxNum_above {f : Fmt} {a b : Nat} (h : below (f.decode b) (f.decode a)) (mx : Bool) :
    (minMaxNum f mx a b).1 = if mx then a else b := by
  obtain ⟨hy, hx⟩ := isNan_of_below h
  rw [minMaxNum_numbers hx hy, (cmp_of_below h).2]
  cases mx <;> simp

theorem minMaxNum_zeros {f : Fmt} {a b : Nat} {z w : Xr} (ha : f.decode a = .fin z) (hb : f.decode b = .fin w) (hz : z.m = 0)
    (hw : w.m = 0) (mx : Bool) : (minMaxNum f mx a b).1 = if z.neg != mx then a else b := by
  rw [minMaxNum_numbers (by rw [ha]; rfl) (by rw [hb]; rfl), ha, hb, cmp_zero hz hw]
  simp [FVal.sign]

theorem nanCode_ieee {f : Fmt} (h : f.ieee = true) : f.nanCode =
    if f = .fp64 then 0x7FF8000000000000 else if f = .fp32 then 0x7FC00000 else if f = .fp16 then 0x7E00 else 0x7FC0 := by
  cases f <;> cases h <;> rfl

/-! ### Conditions (R110) -/

theorem floatCond_flags {c : Nat} {x y : FVal} : (floatCond c x y).2 =
    if (x.isSig || y.isSig) || (decide (2 ≤ c) && decide (c ≤ 5)) && (x.isNan || y.isNan) then 1 else 0 := rfl

theorem floatCond_nan {c : Nat} (hc : c < 8) {x y : FVal} (h : (x.isNan || y.isNan) = true) :
    (floatCond c x y).1 = true ↔ c = 1 ∨ c = 6 := by
  interval_cases c <;> simp [floatCond, h]

/-- A condition on two numbers, by the sign of their comparison. -/
theorem floatCond_numbers {c : Nat} (hc : c < 8) {x y : FVal} (h : (x.isNan || y.isNan) = false) : (floatCond c x y).1 = true ↔
    c = 7 ∨ (x.cmp y < 0 ∧ (c = 1 ∨ c = 2 ∨ c = 3)) ∨ (x.cmp y = 0 ∧ (c = 0 ∨ c = 3 ∨ c = 5)) ∨
      (0 < x.cmp y ∧ (c = 1 ∨ c = 4 ∨ c = 5)) := by
  interval_cases c <;> simp [floatCond, h] <;> omega

/-- The part of O4 on what a minimum, a maximum and a condition are (R107, R110). -/
theorem floatOrder_holds : FloatOrder := by
  refine ⟨fun f mx a b hf => ?_, fun c x y hc => ?_⟩
  · simp only [← isNan_iff, ← isSig_iff, Bool.not_eq_true]
    refine ⟨by simp [minMaxNum_flags], fun hx hy => (minMaxNum_nan_both hx hy mx).trans (nanCode_ieee hf),
      fun hx hy => minMaxNum_nan_left hx hy mx, fun hx hy => minMaxNum_nan_right hx hy mx,
      fun h => minMaxNum_below h mx, fun h => minMaxNum_above h mx, fun hx hy _ _ => ?_, fun z w hz hw hz0 hw0 _ => ?_⟩
    · rw [minMaxNum_numbers hx hy]
      exact ite_eq_or_eq _ _ _
    · rw [minMaxNum_zeros hz hw hz0 hw0, hz]
      by_cases hab : a = b
      · exact .inr hab
      · left
        cases hneg : z.neg <;> cases mx <;> simp [hneg, Ne.symm hab]
  · simp only [← isNan_iff, ← isSig_iff]
    refine ⟨?_, fun hn => floatCond_nan hc (by simpa using hn), fun h => ?_, fun h => ?_, fun hn h h' => ?_⟩
    · have hrange : (2 ≤ c ∧ c ≤ 5) ↔ (c = 2 ∨ c = 3 ∨ c = 4 ∨ c = 5) := by omega
      simp [floatCond_flags, ← hrange, and_comm, or_assoc]
    · obtain ⟨hx, hy⟩ := isNan_of_below h
      rw [floatCond_numbers hc (by simp [hx, hy]), (cmp_of_below h).1]
      omega
    · obtain ⟨hy, hx⟩ := isNan_of_below h
      rw [floatCond_numbers hc (by simp [hx, hy]), (cmp_of_below h).2]
      omega
    · obtain ⟨hx, hy⟩ : x.isNan = false ∧ y.isNan = false := by simpa using hn
      rw [floatCond_numbers hc (by simp [hx, hy]), cmp_of_not_below hx hy h h']
      omega

/-! ### The shared frames of the floating instructions (R101–R117) -/

/-- A rounding instruction that never rounds stochastically is a lane-by-lane one. -/
theorem laneWise_of_laneRound {i : Instr} {g : BitVec 4} {out : Flight → Nat → LaneOut} (h : LaneRound i g 0 (fun f _ l => out f l)) :
    LaneWise i g out := h

/-- An FP32 instruction on exact products and addends completes with their sum rounded once (R101, R106). -/
theorem fpOp_completes {i : Instr} {o : VFmt} {terms : Flight → Nat → List (FVal × FVal) × List FVal}
    (hi : ∀ s, exec i s = fpOp o terms s) : LaneRound i o.g (bits o.f.toNat 2 0) (fun f draw l =>
      n32 o.d (fused .fp32 (bits o.f.toNat 2 0) (draw 0) (terms f l).1 (terms f l).2)) :=
  floatwise_completes hi (fun _ _ _ => rfl) (fun _ _ _ => sound_n32 _ _)

/-- The same in FP64, into a pair (R116). -/
theorem fp64Op_completes {i : Instr} {o : VFmt} {terms : Flight → Nat → List (FVal × FVal) × List FVal} (ho : EvenReg o.d)
    (hi : ∀ s, exec i s = fp64Op o terms s) : LaneRound i o.g (bits o.f.toNat 2 0) (fun f draw l =>
      n64 o.d (fused .fp64 (bits o.f.toNat 2 0) (draw 0) (terms f l).1 (terms f l).2)) :=
  floatwise_completes hi (fun _ _ _ => pair_eq_n64 _ _) (fun _ _ _ => sound_n64 ho _)

theorem halfOf_eq (x : Word) (k : Nat) : halfOf x.toNat k = (x.extractLsb' (16 * k) 16).toNat := by
  have hw : 16 * k + 15 + 1 - 16 * k = 16 := by omega
  simp [halfOf, bits, hw, Nat.shiftRight_eq_div_pow]

theorem halfOf_opA (f : Flight) (o : VFmt) (l k : Nat) :
    halfOf (f.opA o l) k = ((opA f o l).extractLsb' (16 * k) 16).toNat := halfOf_eq _ k

theorem halfOf_opB (f : Flight) (o : VFmt) (l k : Nat) :
    halfOf (f.opB o l) k = ((opB f o l).extractLsb' (16 * k) 16).toNat := halfOf_eq _ k

theorem sound_packHalves (d : Byte) (lo hi : Nat × Byte) : (packHalves d.toNat lo hi).Sound := sound_w32 d _ _

/-- Half k of a register, as a value of the packed format. -/
def halfVal (o : VFmt) (x : Word) (k : Nat) : FVal := (halfFmt o).decode (x.extractLsb' (16 * k) 16).toNat

/-- A packed instruction on exact products and addends rounds their sum once in each half, with a draw of its own (R96, R113). -/
theorem packedOp_completes {i : Instr} {o : VFmt} {terms : FVal → FVal → FVal → List (FVal × FVal) × List FVal}
    (hi : ∀ s, exec i s = packedOp o terms s) : LaneRound i o.g (bits o.f.toNat 2 0) (fun f draw l =>
      let one := fun k =>
        let t := terms (halfVal o (opA f o l) k) (halfVal o (opB f o l) k) (halfVal o (opC f o l) k)
        fused (halfFmt o) (bits o.f.toNat 2 0) (draw k) t.1 t.2
      packHalves o.d.toNat (one 0) (one 1)) := by
  refine floatwise_completes hi (fun f draw l => ?_) (fun _ _ _ => sound_packHalves _ _ _)
  simp only [halfVal, ← halfOf_eq]
  rfl

theorem packedMinMax_completes {i : Instr} {o : VFmt} {mx : Bool} (hi : ∀ s, exec i s = packedMinMax o mx s) :
    LaneWise i o.g (fun f l =>
      let one := fun k => minMaxNum (halfFmt o) mx ((opA f o l).extractLsb' (16 * k) 16).toNat ((opB f o l).extractLsb' (16 * k) 16).toNat
      packHalves o.d.toNat (one 0) (one 1)) := by
  refine lanewise_completes hi (fun f l => ?_) (fun _ _ => sound_packHalves _ _ _)
  simp only [← halfOf_eq]
  rfl

/-! ### Selections and classes (R107, R108, R111) -/

/-- A change of the sign bit gives the changed word of a number and the canonical NaN of a NaN (R108). -/
theorem signOp_completes {i : Instr} {o : VFmt} {h : Nat → Nat} {y : Word → Word} (hi : ∀ s, exec i s = signOp o h s)
    (hy : ∀ x : Word, BitVec.ofNat 32 (h x.toNat) = y x) : LaneWise i o.g (fun f l =>
      let a := opA f o l
      let x := if a.extractLsb' 23 8 == 0xFF && a.extractLsb' 0 23 != 0 then n32 0 (0x7FC00000, if a.getLsbD 22 then 0 else 1)
        else n32 0 ((y a).toNat, 0)
      { x with regs := x.regs.map (fun p => (o.d.toNat, p.2)) }) := by
  refine lanewise_completes hi (fun f l => ?_) (fun f l => ?_)
  · change (if (Fmt.fp32.decode (opA f o l).toNat).isNan then
      LaneOut.word o.d.toNat Fmt.fp32.nanCode (flagIf (Fmt.fp32.decode (opA f o l).toNat).isSig fIV)
      else LaneOut.word o.d.toNat (h (opA f o l).toNat)) = _
    rw [(nan_fp32 _).2, (nan_fp32 _).1]
    dsimp only
    generalize ((opA f o l).extractLsb' 23 8 == 0xFF && (opA f o l).extractLsb' 0 23 != 0) = nan
    cases nan
    · simp [LaneOut.word, n32, w32, hy]
    · cases (opA f o l).getLsbD 22
      · rfl
      · rfl
  · dsimp only
    split <;> exact sound_w32 o.d _ _

theorem fabs_word (x : Word) : BitVec.ofNat 32 (x.toNat % 2 ^ 31) = x &&& 0x7FFFFFFF := by
  rw [← Nat.and_two_pow_sub_one_eq_mod, BitVec.ofNat_and, BitVec.ofNat_toNat, BitVec.setWidth_eq]
  rfl

theorem fneg_word (x : Word) : BitVec.ofNat 32 (Nat.xor x.toNat (2 ^ 31)) = x ^^^ 0x80000000 := by
  change BitVec.ofNat 32 (x.toNat ^^^ 2 ^ 31) = _
  rw [BitVec.ofNat_xor, BitVec.ofNat_toNat, BitVec.setWidth_eq]
  rfl

theorem ofNat_two_pow (k : Nat) : BitVec.ofNat 32 (2 ^ k) = (1 <<< k : Nat) := by
  apply BitVec.eq_of_toNat_eq
  simp [Nat.shiftLeft_eq]

/-- The class of a code, by its fields (R111). -/
theorem classBit_eq (x : Word) : classBit x.toNat =
    if x.extractLsb' 23 8 == 0xFF && x.extractLsb' 0 23 != 0 then (if x.getLsbD 22 then 9 else 8)
    else if x.extractLsb' 23 8 = 0xFF then (if x.getLsbD 31 then 0 else 7)
    else if x.extractLsb' 23 8 = 0 then (if x.extractLsb' 0 23 = 0 then (if x.getLsbD 31 then 3 else 4) else if x.getLsbD 31 then 2 else 5)
    else if x.getLsbD 31 then 1 else 6 := by
  rw [classBit, v32, decode_fp32_word, bits_exponent_fp32]
  generalize x.extractLsb' 23 8 = e, x.extractLsb' 0 23 = m, x.getLsbD 22 = quiet
  have hexp : e.toNat = 0 ↔ e = 0#8 := BitVec.toNat_inj (y := 0#8)
  have hfrac : m.toNat = 0 ↔ m = 0#23 := BitVec.toNat_inj (y := 0#23)
  by_cases he : e = 0xFF#8
  · by_cases hm : m = 0#23
    · simp [he, hm]
    · cases quiet <;> simp [he, hm]
  · by_cases h0 : e = 0#8
    · simp [h0, hfrac]
    · simp [he, h0, hexp]

theorem exec_fmin (o : VFmt) (s : State) : exec (.fmin o) s = execFmin o s := rfl

theorem exec_fmax (o : VFmt) (s : State) : exec (.fmax o) s = execFmax o s := rfl

theorem exec_fabs (o : VFmt) (s : State) : exec (.fabs o) s = execFabs o s := rfl

theorem exec_fneg (o : VFmt) (s : State) : exec (.fneg o) s = execFneg o s := rfl

theorem exec_fclass (o : VFmt) (s : State) : exec (.fclass o) s = execFclass o s := rfl

/-- The part of O4 on minimum, maximum, sign changes and classes (R107, R108, R111). -/
theorem floatSelections_hold : FloatSelections := by
  refine ⟨fun o => ?_, fun o => ?_, fun o => ?_, fun o => ?_, fun o => ?_⟩
  · exact lanewise_completes (exec_fmin o) (fun _ _ => rfl) (fun _ _ => sound_n32 _ _)
  · exact lanewise_completes (exec_fmax o) (fun _ _ => rfl) (fun _ _ => sound_n32 _ _)
  · exact (signOp_completes (exec_fabs o) fabs_word :)
  · exact (signOp_completes (exec_fneg o) fneg_word :)
  · refine lanewise_completes (exec_fclass o) (fun f l => ?_) (fun _ _ => sound_w32 _ _ _)
    change w32 o.d (BitVec.ofNat 32 (2 ^ classBit (opA f o l).toNat)) = _
    rw [classBit_eq, ofNat_two_pow]

/-! ### FP32 arithmetic and compares (R101–R106, R109, R110) -/

/-- The operation that FOPI's field names (R109). -/
theorem fopi_choice {α : Type} (c : BitVec 3) (a b x y : α) :
    (match c.toNat with | 0 => a | 1 => b | 2 => x | _ => y) = if c = 0 then a else if c = 1 then b else if c = 2 then x else y := by
  obtain ⟨n, hn⟩ := c
  interval_cases n <;> rfl

theorem exec_fadd (o : VFmt) (s : State) : exec (.fadd o) s = execFadd o s := rfl

theorem exec_fsub (o : VFmt) (s : State) : exec (.fsub o) s = execFsub o s := rfl

theorem exec_fmul (o : VFmt) (s : State) : exec (.fmul o) s = execFmul o s := rfl

theorem exec_ffma (o : VFmt) (s : State) : exec (.ffma o) s = execFfma o s := rfl

theorem exec_fopi (o : IFmt) (s : State) : exec (.fopi o) s = execFopi o s := rfl

/-- The part of O4 on FP32 arithmetic (R101–R106, R109). -/
theorem floatArithmetic_holds : FloatArithmetic := by
  refine ⟨fun o => ?_, fun o => ?_, fun o => ?_, fun o => ?_, fun o => ?_⟩
  · exact (fpOp_completes (exec_fadd o) :)
  · exact (fpOp_completes (exec_fsub o) :)
  · exact (fpOp_completes (exec_fmul o) :)
  · exact (fpOp_completes (exec_ffma o) :)
  · refine lanewise_completes (exec_fopi o) (fun f l => ?_) (fun _ _ => sound_n32 _ _)
    exact congrArg (n32 o.d) (fopi_choice o.f3 _ _ _ _)

theorem exec_fcmp (o : VFmt) (s : State) : exec (.fcmp o) s = execFcmp o s := rfl

theorem exec_dcmp (o : VFmt) (s : State) : exec (.dcmp o) s = execDcmp o s := rfl

theorem exec_hcmp2 (o : VFmt) (s : State) : exec (.hcmp2 o) s = execHcmp2 o s := rfl

/-- The part of O4 on compares (R110). -/
theorem floatCompares_hold : FloatCompares := by
  refine ⟨fun o => ?_, fun o => ?_, fun o => ?_⟩
  · exact lanewise_completes (exec_fcmp o) (fun _ _ => rfl) (fun _ _ => sound_w1 _ _ _)
  · exact lanewise_completes (exec_dcmp o) (fun _ _ => rfl) (fun _ _ => sound_w1 _ _ _)
  · refine lanewise_completes (exec_hcmp2 o) (fun f l => ?_) (fun _ _ => by simp [LaneOut.Sound])
    simp only [← halfOf_eq]
    rfl

/-- Settles O4: the instructions by the laws of their shared frames, sign changes and classes by the fields of an FP32 code, minimum,
maximum and conditions by the trichotomy of the order of values. -/
theorem float32 : Obligations.Float32 :=
  ⟨floatArithmetic_holds, floatSelections_hold, floatCompares_hold, floatOrder_holds⟩

/-! ### Packed and FP64 arithmetic (R113–R116) -/

theorem exec_hadd2 (o : VFmt) (s : State) : exec (.hadd2 o) s = execHadd2 o s := rfl

theorem exec_hsub2 (o : VFmt) (s : State) : exec (.hsub2 o) s = execHsub2 o s := rfl

theorem exec_hmul2 (o : VFmt) (s : State) : exec (.hmul2 o) s = execHmul2 o s := rfl

theorem exec_hfma2 (o : VFmt) (s : State) : exec (.hfma2 o) s = execHfma2 o s := rfl

theorem exec_hmin2 (o : VFmt) (s : State) : exec (.hmin2 o) s = execHmin2 o s := rfl

theorem exec_hmax2 (o : VFmt) (s : State) : exec (.hmax2 o) s = execHmax2 o s := rfl

theorem exec_fdot2 (o : VFmt) (s : State) : exec (.fdot2 o) s = execFdot2 o s := rfl

/-- The part of O5 on the packed instructions and FDOT2 (R113–R115). -/
theorem packedArithmetic_holds : PackedArithmetic := by
  refine ⟨fun o => ?_, fun o => ?_, fun o => ?_, fun o => ?_, fun o => ?_, fun o => ?_, fun o => ?_⟩
  · exact (packedOp_completes (exec_hadd2 o) :)
  · exact (packedOp_completes (exec_hsub2 o) :)
  · exact (packedOp_completes (exec_hmul2 o) :)
  · exact (packedOp_completes (exec_hfma2 o) :)
  · exact (packedMinMax_completes (exec_hmin2 o) :)
  · exact (packedMinMax_completes (exec_hmax2 o) :)
  · have h := fpOp_completes (exec_fdot2 o)
    simp only [halfOf_opA, halfOf_opB] at h
    exact h

theorem exec_dadd (o : VFmt) (s : State) : exec (.dadd o) s = execDadd o s := rfl

theorem exec_dmul (o : VFmt) (s : State) : exec (.dmul o) s = execDmul o s := rfl

theorem exec_dfma (o : VFmt) (s : State) : exec (.dfma o) s = execDfma o s := rfl

/-- The part of O5 on FP64 arithmetic (R116). -/
theorem doubleArithmetic_holds : DoubleArithmetic := by
  refine ⟨fun o ho => ?_, fun o ho => ?_, fun o ho => ?_⟩
  · exact (fp64Op_completes ho (exec_dadd o) :)
  · exact (fp64Op_completes ho (exec_dmul o) :)
  · exact (fp64Op_completes ho (exec_dfma o) :)

/-! ### Special functions (R117) -/

/-- Every special function but SQRT gives one result for each operand. -/
theorem specialOp_completes {i : Instr} {o : VFmt} {fn : Nat} (hfn : fn ≠ 2) (hi : ∀ s, exec i s = specialOp o fn s) :
    LaneWise i o.g (fun f l => n32 o.d (specialFn fn 0 (opA f o l).toNat)) := by
  have h : LaneRound i o.g (if fn = 2 then bits o.f.toNat 2 0 else 0) (fun f _ l => n32 o.d (specialFn fn 0 (opA f o l).toNat)) := by
    refine floatwise_completes hi (fun f draw l => ?_) (fun _ _ _ => sound_n32 _ _)
    dsimp only
    split
    · exact absurd rfl hfn
    · rfl
  rw [if_neg hfn] at h
  exact laneWise_of_laneRound h

theorem exec_sqrt (o : VFmt) (s : State) : exec (.sqrt o) s = specialOp o 2 s := rfl

theorem exec_rcp (o : VFmt) (s : State) : exec (.rcp o) s = specialOp o 0 s := rfl

theorem exec_rsq (o : VFmt) (s : State) : exec (.rsq o) s = specialOp o 1 s := rfl

theorem exec_exp2 (o : VFmt) (s : State) : exec (.exp2 o) s = specialOp o 3 s := rfl

theorem exec_log2 (o : VFmt) (s : State) : exec (.log2 o) s = specialOp o 4 s := rfl

theorem exec_sinpi (o : VFmt) (s : State) : exec (.sinpi o) s = specialOp o 5 s := rfl

theorem exec_cospi (o : VFmt) (s : State) : exec (.cospi o) s = specialOp o 6 s := rfl

theorem exec_tanh (o : VFmt) (s : State) : exec (.tanh o) s = specialOp o 7 s := rfl

/-- The part of O5 on the special functions (R117): SQRT of a finite value is the one that the rounding mode concerns. -/
theorem specialFunctions_hold : SpecialFunctions := by
  refine ⟨fun o => ?_, fun o => ?_, fun o => ?_, fun o => ?_, fun o => ?_, fun o => ?_, fun o => ?_, fun o => ?_⟩
  · refine floatwise_completes (rm := bits o.f.toNat 2 0) (exec_sqrt o) (fun f draw l => ?_) (fun _ _ _ => sound_n32 _ _)
    change LaneOut.word o.d.toNat _ _ = LaneOut.word o.d.toNat _ _
    have hval : v32 (f.opA o l) = Fmt.fp32.decode (opA f o l).toNat := rfl
    rw [hval]
    cases Fmt.fp32.decode (opA f o l).toNat with
    | fin x => rfl
    | inf n => rfl
    | nan n sig => rfl
  · exact specialOp_completes (by decide) (exec_rcp o)
  · exact specialOp_completes (by decide) (exec_rsq o)
  · exact specialOp_completes (by decide) (exec_exp2 o)
  · exact specialOp_completes (by decide) (exec_log2 o)
  · exact specialOp_completes (by decide) (exec_sinpi o)
  · exact specialOp_completes (by decide) (exec_cospi o)
  · exact specialOp_completes (by decide) (exec_tanh o)

/-- Settles O5: each instruction by the law of its shared frame, which states what one half, one pair or one operand gives. -/
theorem wideAndPackedFloat : Obligations.WideAndPackedFloat :=
  ⟨packedArithmetic_holds, doubleArithmetic_holds, specialFunctions_hold⟩

end Sys2Proof.Machine
end

section
/-! SUPPORT. Shuffles, matches, votes and elections: lane-by-lane instructions whose results are given for the acting lanes, and the
obligations on them (R136, R137, R140, R141). -/

namespace Sys2Proof.Machine

open Sys2Proof.Claim

/-! ### Lane-by-lane instructions whose results are stated for the acting lanes -/

/-- The effect of a lane-by-lane instruction speaks of the results of the acting lanes only. -/
theorem lanes_congr {f f' : Flight} {g : BitVec 4} {k : Dword} {out out' : Nat → LaneOut} (h : ∀ l ∈ f.acting g, out l = out' l)
    (hl : Lanes f f' g k out) : Lanes f f' g k out' := by
  obtain ⟨hreg, hv, hs, hprd, hp, hq, hfsr, hrest⟩ := hl
  have lane : ∀ {β : Type} (q : LaneOut → List β) (l : Nat) {P : β → Prop}, (l ∉ f.acting g ∨ ∀ x ∈ q (out' l), P x) →
      l ∉ f.acting g ∨ ∀ x ∈ q (out l), P x := by
    intro β q l P hor
    by_cases hm : l ∈ f.acting g
    · rwa [h l hm]
    · exact .inl hm
  have zero : ∀ {β : Type} (q : LaneOut → List β) {P : β → Prop}, (f.uniPath = false ∨ f.acting g = [] ∨ ∀ x ∈ q (out' 0), P x) →
      f.uniPath = false ∨ f.acting g = [] ∨ ∀ x ∈ q (out 0), P x := by
    intro β q P hor
    by_cases hu : f.uniPath = true
    · rcases acting_uni f g hu with he | he
      · exact .inr (.inl he)
      · rwa [h 0 (by simp [he])]
    · exact .inl (by simpa using hu)
  refine ⟨fun l hm => h l hm ▸ hreg l hm, fun l r hr hor => hv l r hr (hor.imp_right (lane (·.regs) l)),
    fun r hor => hs r (zero (·.regs) hor), fun l hm => h l hm ▸ hprd l hm,
    fun l i hi hor => hp l i hi (hor.imp_right (lane (·.preds) l)), fun i hor => hq i (zero (·.preds) hor), ?_, hrest⟩
  rw [hfsr]
  exact List.foldl_ext _ _ _ (fun x l hm => by rw [h l hm])

/-- A lane-by-lane instruction completes with any results that are those of its body in the acting lanes. -/
theorem lanewise_completes_acting {i : Instr} {g : BitVec 4} {body out : Flight → Nat → LaneOut}
    (hi : ∀ s, exec i s = lanewise g body s) (hb : ∀ f, ∀ l ∈ f.acting g, body f l = out f l) (hs : ∀ f l, (body f l).Sound) :
    LaneWise i g out := by
  intro s r f h
  obtain ⟨f', hx, hl⟩ := lanewise_completes hi (fun _ _ => rfl) hs s r f h
  exact ⟨f', hx, lanes_congr (hb f) hl⟩

/-! ### SHFLI and MATCH (R136, R140) -/

theorem exec_shfli (o : VFmt) (s : State) : exec (.shfli o) s = execShfli o s := rfl

theorem exec_matchLanes (o : VFmt) (s : State) : exec (.matchLanes o) s = execMatchLanes o s := rfl

theorem shfli_completes (o : VFmt) : LaneWise (.shfli o) o.g (fun f l =>
    let n := (opB f o l).toNat
    let k := bits o.f.toNat 1 0
    let src := if k = 0 then n % 32 else if k = 1 then (if n ≤ l then l - n else l) else if k = 2 then (if l + n ≤ 31 then l + n else l)
      else Nat.xor l (n % 32)
    w32 o.d (if f.uniPath then f.s o.a.toNat else if f.exited.getLsbD src then 0 else f.src o.ka src o.a.toNat)) := by
  refine lanewise_completes (exec_shfli o) (fun f l => ?_) (fun _ _ => sound_w32 _ _ _)
  dsimp only
  generalize bits o.f.toNat 1 0 = k
  match k with
  | 0 => rfl
  | 1 => rfl
  | 2 => rfl
  | _ + 3 => rfl

/-- Keys of one width are equal as numbers where they are equal as bit patterns (R140). -/
theorem matchKey_eq (o : VFmt) (f : Flight) (k l : Nat) :
    ((if o.f.getLsbD 1 then f.opA64 o k else f.opA o k) == if o.f.getLsbD 1 then f.opA64 o l else f.opA o l) =
      if o.f.getLsbD 1 then decide (opA64 f o k = opA64 f o l) else decide (opA f o k = opA f o l) := by
  split
  · exact decide_eq_decide.2 BitVec.toNat_inj
  · exact decide_eq_decide.2 BitVec.toNat_inj

theorem matchLanes_completes (o : VFmt) : LaneWise (.matchLanes o) o.g (fun f l =>
    let ls := f.acting o.g
    let eq := fun k => if o.f.getLsbD 1 then decide (opA64 f o k = opA64 f o l) else decide (opA f o k = opA f o l)
    w32 o.d (if o.f.getLsbD 0 then (if ∀ k ∈ ls, eq k = true then laneMask ls else 0) else laneMask (ls.filter eq))) := by
  refine lanewise_completes (exec_matchLanes o) (fun f l => ?_) (fun _ _ => sound_w32 _ _ _)
  simp only [matchKey_eq, List.length_filter_eq_length_iff]
  rfl

/-- Settles O7: both are lane-by-lane instructions; MATCH compares numbers, and numbers of one width are equal where the patterns are. -/
theorem shufflesAndMatches : Obligations.ShufflesAndMatches := ⟨shfli_completes, matchLanes_completes⟩

/-! ### VOTE and ELECT (R137, R141) -/

theorem exec_vote (o : VFmt) (s : State) : exec (.vote o) s = execVote o s := rfl

theorem exec_elect (o : VFmt) (s : State) : exec (.elect o) s = execElect o s := rfl

/-- All lanes have a predicate or none has it, where every two agree in it (R137). -/
theorem all_or_none_iff (ls : List Nat) (p : Nat → Bool) :
    (ls.all p || ls.all (fun k => !p k)) = decide (∀ l ∈ ls, ∀ m ∈ ls, p l = p m) := by
  rw [Bool.eq_iff_iff, Bool.or_eq_true, List.all_eq_true, List.all_eq_true, decide_eq_true_eq]
  constructor
  · rintro (h | h) l hl m hm
    · rw [h l hl, h m hm]
    · rw [← Bool.not_inj_iff, h l hl, h m hm]
  · intro h
    by_cases hx : ∃ m ∈ ls, p m = true
    · obtain ⟨m, hm, hp⟩ := hx
      exact .inl (fun l hl => (h l hl m hm).trans hp)
    · exact .inr (fun l hl => by simpa using fun hp => hx ⟨l, hl, hp⟩)

theorem vote_completes (o : VFmt) : LaneWise (.vote o) o.g (fun f _ =>
    let ls := f.acting o.g
    let k := bits o.f.toNat 1 0
    let p := fun l => prd f f.uniPath l o.a.toNat != o.f.getLsbD 2
    if k = 0 then w1 o.d.toNat (decide (∀ l ∈ ls, p l = true))
    else if k = 1 then w1 o.d.toNat (decide (∃ l ∈ ls, p l = true))
    else if k = 2 then w32 o.d (if o.f.getLsbD 3 then BitVec.ofNat 32 (ls.filter p).length else laneMask (ls.filter p))
    else w1 o.d.toNat (decide (∀ l ∈ ls, ∀ m ∈ ls, prd f f.uniPath l o.a.toNat = prd f f.uniPath m o.a.toNat))) := by
  refine lanewise_completes (exec_vote o) (fun f _ => ?_) (fun f _ => ?_)
  · have hall : ∀ (ls : List Nat) (p : Nat → Bool), ls.all p = decide (∀ l ∈ ls, p l = true) := fun ls p => by
      rw [Bool.eq_iff_iff, List.all_eq_true, decide_eq_true_eq]
    have hany : ∀ (ls : List Nat) (p : Nat → Bool), ls.any p = decide (∃ l ∈ ls, p l = true) := fun ls p => by
      rw [Bool.eq_iff_iff, List.any_eq_true, decide_eq_true_eq]
    have hmask : ∀ (n : Nat) (m : Word), BitVec.ofNat 32 (if o.f.getLsbD 3 then n else m.toNat) =
        if o.f.getLsbD 3 then BitVec.ofNat 32 n else m := fun n m => by
      split
      · rfl
      · exact (m.ofNat_toNat 32).trans m.setWidth_eq
    dsimp only
    generalize bits o.f.toNat 1 0 = k
    match k with
    | 0 => exact congrArg (w1 o.d.toNat) (hall _ _)
    | 1 => exact congrArg (w1 o.d.toNat) (hany _ _)
    | 2 => exact congrArg (w32 o.d) (hmask _ _)
    | _ + 3 => exact congrArg (w1 o.d.toNat) (all_or_none_iff _ _)
  · dsimp only
    split
    · exact sound_w1 _ _ _
    · split
      · exact sound_w1 _ _ _
      · split
        · exact sound_w32 _ _ _
        · exact sound_w1 _ _ _

theorem elect_completes (o : VFmt) :
    LaneWise (.elect o) o.g (fun f l => w1 o.d.toNat (decide ((f.acting o.g).head? = some l))) := by
  refine lanewise_completes (exec_elect o) (fun f l => ?_) (fun _ _ => sound_w1 _ _ _)
  exact congrArg (w1 o.d.toNat) (by rw [Bool.eq_iff_iff]; simp)

/-- Settles O8: both are lane-by-lane instructions over the same acting lanes. -/
theorem votesAndElections : Obligations.VotesAndElections := ⟨vote_completes, elect_completes⟩

end Sys2Proof.Machine
end

section
/-! SUPPORT. Reductions and scans: the combination of a run of lanes, by the fixed tree and left to right, over integers and over FP32
values, and the obligation on REDUX and SCANX (R138, R139). -/

namespace Sys2Proof.Machine

open Sys2Proof.Claim

/-! ### The fixed tree and the scan, by the runs of lanes they combine -/

/-- The place of a lane before a reduction: empty, or the lane's value as the reduction takes it (R138). -/
def redLeaf (ty : Nat) (value : Nat → Option Nat) (l : Nat) : Option Nat × Byte :=
  match value l with
  | some x => (some (redIn ty x).1, (redIn ty x).2)
  | none => (none, 0)

/-- The combination of the lanes i to i + 2^n − 1 by the fixed tree (R138). -/
def treePlace (red ty : Nat) (leaf : Nat → Option Nat × Byte) : Nat → Nat → Option Nat × Byte
  | 0, i => leaf i
  | n + 1, i => redPair red ty (treePlace red ty leaf n i) (treePlace red ty leaf n (i + 2 ^ n))

/-- The combination of the lanes before lane n, left to right (R139). -/
def runPlace (red ty : Nat) (leaf : Nat → Option Nat × Byte) : Nat → Option Nat × Byte
  | 0 => (none, 0)
  | n + 1 => redPair red ty (runPlace red ty leaf n) (leaf n)

section
variable (red ty : Nat)

/-- The pairs of adjacent places, as the places of the next level. -/
def levelUp (leaf : Nat → Option Nat × Byte) (i : Nat) : Option Nat × Byte := redPair red ty (leaf (2 * i)) (leaf (2 * i + 1))

theorem redLevel_range (m : Nat) (leaf : Nat → Option Nat × Byte) :
    redLevel red ty ((List.range (2 * m)).map leaf) = (List.range m).map (levelUp red ty leaf) := by
  induction m generalizing leaf with
  | zero => rfl
  | succ m ih =>
    have htwo : (List.range (2 * (m + 1))).map leaf = leaf 0 :: leaf 1 :: (List.range (2 * m)).map (fun i => leaf (i + 2)) := by
      rw [show 2 * (m + 1) = 2 * m + 1 + 1 by omega, List.range_succ_eq_map, List.range_succ_eq_map]
      simp [Function.comp_def]
    have hone : (List.range (m + 1)).map (levelUp red ty leaf) =
        redPair red ty (leaf 0) (leaf 1) :: (List.range m).map (levelUp red ty (fun i => leaf (i + 2))) := by
      rw [List.range_succ_eq_map, List.map_cons, List.map_map]
      rfl
    rw [htwo, redLevel, ih, hone]

/-- A tree over the places of the next level is the upper part of the tree over the places themselves. -/
theorem treePlace_levelUp (leaf : Nat → Option Nat × Byte) (n i : Nat) :
    treePlace red ty (levelUp red ty leaf) n i = treePlace red ty leaf (n + 1) (2 * i) := by
  induction n generalizing i with
  | zero => rfl
  | succ n ih =>
    have hdist : 2 * (i + 2 ^ n) = 2 * i + 2 ^ (n + 1) := by rw [Nat.mul_add, pow_succ']
    rw [treePlace, ih, ih, hdist]
    rfl

theorem redTree_range (n : Nat) (leaf : Nat → Option Nat × Byte) :
    redTree red ty n ((List.range (2 ^ n)).map leaf) = [treePlace red ty leaf n 0] := by
  induction n generalizing leaf with
  | zero => rfl
  | succ n ih => rw [redTree, pow_succ', redLevel_range, ih, treePlace_levelUp]

/-- A reduction gives what the place of all lanes holds, and 0 where no lane has a value. -/
theorem reduce_eq (value : Nat → Option Nat) : reduce red ty value =
    let p := treePlace red ty (redLeaf ty value) 5 0
    (p.1.map (fun x => (x, p.2))).getD (0, 0) := by
  have hleaves : lanes.map (redLeaf ty value) = (List.range (2 ^ 5)).map (redLeaf ty value) := rfl
  have hreduce : reduce red ty value = match redTree red ty 5 (lanes.map (redLeaf ty value)) with
      | (some x, g) :: _ => (x, g)
      | _ => (0, 0) := rfl
  rw [hreduce, hleaves, redTree_range]
  obtain ⟨x, g⟩ := treePlace red ty (redLeaf ty value) 5 0
  cases x <;> rfl

/-- One lane of a scan: the run takes in the lane's value, and the lane gets the run after it or, exclusive, before it. -/
theorem scanGo_cons (excl : Bool) (value : Nat → Nat) (l : Nat) (ls : List Nat) (run : Option Nat × Byte) :
    let next := redPair red ty run (some (redIn ty (value l)).1, (redIn ty (value l)).2)
    let rest := scanGo red ty excl value ls next.1
    ∃ flags : Byte, run.2 ||| flags = next.2 ∧ scanGo red ty excl value (l :: ls) run.1 =
      ((l, (if excl then run.1 else next.1).getD (scanIdentity red ty)) :: rest.1, flags ||| rest.2) := by
  obtain ⟨acc, g⟩ := run
  cases acc with
  | none => exact ⟨(redIn ty (value l)).2 ||| 0, by simp [redPair], by cases excl <;> rfl⟩
  | some a =>
    exact ⟨(redIn ty (value l)).2 ||| (redOp red ty a (redIn ty (value l)).1).2, by simp [redPair, BitVec.or_assoc],
      by cases excl <;> rfl⟩

/-- A scan from lane n on over the lanes that satisfy p, after the run of those before it: each lane gets the run that ends with it or,
exclusive, before it; its flags are what the run of all lanes adds. -/
theorem scanGo_run (excl : Bool) (value : Nat → Nat) (p : Nat → Bool) (k n : Nat) :
    let run := runPlace red ty (redLeaf ty (fun l => if p l then some (value l) else none))
    let y := scanGo red ty excl value ((List.range' n k).filter p) (run n).1
    (run n).2 ||| y.2 = (run (n + k)).2 ∧
      ∀ l, n ≤ l → l < n + k → p l = true →
        look y.1 l = some ((run (if excl then l else l + 1)).1.getD (scanIdentity red ty)) := by
  intro run
  induction k generalizing n with
  | zero => exact ⟨by simp [scanGo], fun l h1 h2 => by omega⟩
  | succ k ih =>
    obtain ⟨hflags, hlook⟩ := ih (n + 1)
    rw [show n + 1 + k = n + (k + 1) by omega] at hflags hlook
    rw [List.range'_succ]
    by_cases hp : p n = true
    · have hnext : run (n + 1) = redPair red ty (run n) (some (redIn ty (value n)).1, (redIn ty (value n)).2) := by
        simp [run, runPlace, redLeaf, hp]
      obtain ⟨flags, hadd, hgo⟩ := scanGo_cons red ty excl value n ((List.range' (n + 1) k).filter p) (run n)
      rw [← hnext] at hadd hgo
      rw [List.filter_cons_of_pos hp, hgo]
      refine ⟨by rw [← BitVec.or_assoc, hadd, hflags], fun l h1 h2 hl => ?_⟩
      by_cases he : l = n
      · subst he
        rw [look_cons, if_pos rfl]
        cases excl <;> rfl
      · rw [look_cons, if_neg he, hlook l (by omega) h2 hl]
    · have hnext : run (n + 1) = run n := by
        have hempty : ∀ x : Option Nat × Byte, redPair red ty x (none, 0) = x := by
          rintro ⟨x, g⟩
          cases x <;> simp [redPair]
        rw [show run (n + 1) = redPair red ty (run n) (none, 0) by simp [run, runPlace, redLeaf, hp], hempty]
      rw [hnext] at hflags hlook
      rw [List.filter_cons_of_neg hp]
      refine ⟨hflags, fun l h1 h2 hl => hlook l ?_ h2 hl⟩
      have : l ≠ n := fun he => hp (he ▸ hl)
      omega

end

/-! ### Integers: combinations of words (R138) -/

/-- The combination of two words under a reduction of integers. -/
def redWord (red : Nat) (sg : Bool) (x y : Word) : Word :=
  match red with
  | 0 => x + y
  | 1 => if val sg x ≤ val sg y then x else y
  | 2 => if val sg x ≤ val sg y then y else x
  | 3 => x &&& y
  | 4 => x ||| y
  | _ => x ^^^ y

/-- The word that a combination leaves as it is (R139). -/
def redUnit (red : Nat) (sg : Bool) : Word :=
  match red with
  | 1 => BitVec.ofInt 32 (greatest sg 32)
  | 2 => BitVec.ofInt 32 (Claim.least sg 32)
  | 3 => 0xFFFFFFFF
  | _ => 0

theorem val_inj {sg : Bool} {x y : Word} (h : val sg x = val sg y) : x = y := by
  cases sg with
  | true => exact BitVec.eq_of_toInt_eq h
  | false => exact BitVec.eq_of_toNat_eq (Int.ofNat.inj h)

theorem ofInt_val (sg : Bool) (x : Word) : BitVec.ofInt 32 (val sg x) = x := by
  cases sg with
  | true => exact BitVec.ofInt_toInt
  | false => exact (BitVec.ofInt_natCast ..).trans ((x.ofNat_toNat 32).trans x.setWidth_eq)

theorem val_bounds (sg : Bool) (x : Word) : Claim.least sg 32 ≤ val sg x ∧ val sg x ≤ greatest sg 32 := by
  cases sg with
  | true =>
    have h1 := x.le_toInt
    have h2 := x.toInt_lt
    simp [val, Claim.least, greatest] at *
    omega
  | false =>
    have := x.isLt
    simp [val, Claim.least, greatest] at *
    omega

theorem val_redUnit_min (sg : Bool) : val sg (redUnit 1 sg) = greatest sg 32 := by cases sg <;> decide

theorem val_redUnit_max (sg : Bool) : val sg (redUnit 2 sg) = Claim.least sg 32 := by cases sg <;> decide

theorem val_redWord_min (sg : Bool) (x y : Word) : val sg (redWord 1 sg x y) = min (val sg x) (val sg y) := by
  rw [redWord, apply_ite (val sg), min_def]

theorem val_redWord_max (sg : Bool) (x y : Word) : val sg (redWord 2 sg x y) = max (val sg x) (val sg y) := by
  rw [redWord, apply_ite (val sg), max_def]

theorem redWord_assoc (red : Nat) (sg : Bool) (x y z : Word) :
    redWord red sg (redWord red sg x y) z = redWord red sg x (redWord red sg y z) := by
  match red with
  | 0 => exact BitVec.add_assoc x y z
  | 1 => exact val_inj (sg := sg) (by simp only [val_redWord_min, min_assoc])
  | 2 => exact val_inj (sg := sg) (by simp only [val_redWord_max, max_assoc])
  | 3 => exact BitVec.and_assoc x y z
  | 4 => exact BitVec.or_assoc x y z
  | _ + 5 => exact BitVec.xor_assoc x y z

theorem redUnit_redWord (red : Nat) (sg : Bool) (x : Word) : redWord red sg (redUnit red sg) x = x := by
  match red with
  | 0 => exact BitVec.zero_add x
  | 1 => exact val_inj (sg := sg) (by rw [val_redWord_min, val_redUnit_min, min_eq_right (val_bounds sg x).2])
  | 2 => exact val_inj (sg := sg) (by rw [val_redWord_max, val_redUnit_max, max_eq_right (val_bounds sg x).1])
  | 3 => exact BitVec.allOnes_and
  | 4 => exact BitVec.zero_or
  | _ + 5 => exact BitVec.zero_xor

theorem redWord_redUnit (red : Nat) (sg : Bool) (x : Word) : redWord red sg x (redUnit red sg) = x := by
  match red with
  | 0 => exact BitVec.add_zero x
  | 1 => exact val_inj (sg := sg) (by rw [val_redWord_min, val_redUnit_min, min_eq_left (val_bounds sg x).2])
  | 2 => exact val_inj (sg := sg) (by rw [val_redWord_max, val_redUnit_max, max_eq_left (val_bounds sg x).1])
  | 3 => exact BitVec.and_allOnes
  | 4 => exact BitVec.or_zero
  | _ + 5 => exact BitVec.xor_zero

/-- The combination of words, from left to right, on the unit. -/
def foldWords (red : Nat) (sg : Bool) (xs : List Word) : Word := xs.foldl (redWord red sg) (redUnit red sg)

theorem foldWords_append (red : Nat) (sg : Bool) (xs ys : List Word) :
    foldWords red sg (xs ++ ys) = redWord red sg (foldWords red sg xs) (foldWords red sg ys) := by
  have hassoc : Std.Associative (redWord red sg) := ⟨redWord_assoc red sg⟩
  rw [foldWords, List.foldl_append, foldWords, foldWords, ← List.foldl_assoc (op := redWord red sg), redWord_redUnit]

/-- The combinations of the claim are those of words. -/
theorem foldRed_eq_foldWords (red : Nat) (sg : Bool) (xs : List Word) : foldRed red sg xs = foldWords red sg xs := by
  have hval : ∀ (r : Nat) (m : Int → Int → Int), (∀ x y, val sg (redWord r sg x y) = m (val sg x) (val sg y)) →
      ∀ (ys : List Word) (u : Word), BitVec.ofInt 32 (ys.foldl (fun a x => m a (val sg x)) (val sg u)) = ys.foldl (redWord r sg) u := by
    intro r m hm ys u
    induction ys generalizing u with
    | nil => exact ofInt_val sg u
    | cons y ys ih => rw [List.foldl_cons, List.foldl_cons, ← hm, ih]
  match red with
  | 0 => rfl
  | 1 =>
    have h := hval 1 min (val_redWord_min sg) xs (redUnit 1 sg)
    rw [val_redUnit_min] at h
    exact h
  | 2 =>
    have h := hval 2 max (val_redWord_max sg) xs (redUnit 2 sg)
    rw [val_redUnit_max] at h
    exact h
  | 3 => rfl
  | 4 => rfl
  | _ + 5 => rfl

theorem valOf_toNat (sg : Bool) (x : Word) : valOf sg 32 x.toNat = val sg x := by
  cases sg with
  | true =>
    have hsign : x.toNat < 2 ^ (32 - 1) ↔ 2 * x.toNat < 2 ^ 32 := by omega
    simp only [valOf, val, signed, BitVec.toInt_eq_toNat_cond, if_true, Nat.mod_eq_of_lt x.isLt, hsign]
  | false => simp only [valOf, val, Bool.false_eq_true, if_false]

/-- One step of an integer reduction on registers: their combination, and no flag. -/
theorem redOp_words {ty : Nat} (hty : ty < 2) (red : Nat) (x y : Word) :
    redOp red ty x.toNat y.toNat = ((redWord red (ty == 1) x y).toNat, 0) := by
  have hne : ty ≠ 2 := by omega
  have hchoice : ∀ a b : Word, (if valOf (ty == 1) 32 x.toNat ≤ valOf (ty == 1) 32 y.toNat then a.toNat else b.toNat) =
      (if val (ty == 1) x ≤ val (ty == 1) y then a else b).toNat := fun a b => by
    rw [valOf_toNat, valOf_toNat, apply_ite BitVec.toNat]
  unfold redOp
  rw [if_neg hne]
  match red with
  | 0 => exact congrArg (·, 0) (BitVec.toNat_add x y).symm
  | 1 => exact congrArg (·, 0) (hchoice x y)
  | 2 => exact congrArg (·, 0) (hchoice y x)
  | 3 => exact congrArg (·, 0) (BitVec.toNat_and x y).symm
  | 4 => exact congrArg (·, 0) (BitVec.toNat_or x y).symm
  | _ + 5 => exact congrArg (·, 0) (BitVec.toNat_xor x y).symm

/-- The place of some lanes' words: empty where there is none. -/
def wordsPlace (red : Nat) (sg : Bool) (xs : List Word) : Option Nat × Byte :=
  (if xs = [] then none else some (foldWords red sg xs).toNat, 0)

theorem redPair_words {ty : Nat} (hty : ty < 2) (red : Nat) (xs ys : List Word) :
    redPair red ty (wordsPlace red (ty == 1) xs) (wordsPlace red (ty == 1) ys) = wordsPlace red (ty == 1) (xs ++ ys) := by
  by_cases hx : xs = []
  · subst hx
    simp [wordsPlace, redPair]
  · by_cases hy : ys = []
    · subst hy
      simp [wordsPlace, hx, redPair]
    · simp [wordsPlace, hx, hy, redPair, redOp_words hty, foldWords_append]

section
variable {ty : Nat} (hty : ty < 2) (red : Nat) (words : Nat → Option Word)
include hty

theorem redLeaf_words (l : Nat) :
    redLeaf ty (fun l => (words l).map BitVec.toNat) l = wordsPlace red (ty == 1) ([l].filterMap words) := by
  have hin : ∀ x : Nat, redIn ty x = (x, 0) := fun x => if_neg (by omega)
  cases hw : words l with
  | none => simp [redLeaf, hw, wordsPlace]
  | some x => simp [redLeaf, hw, wordsPlace, hin, foldWords, redUnit_redWord]

/-- The tree combines the words of a run of lanes. -/
theorem treePlace_words (n i : Nat) : treePlace red ty (redLeaf ty (fun l => (words l).map BitVec.toNat)) n i =
    wordsPlace red (ty == 1) ((List.range' i (2 ^ n)).filterMap words) := by
  induction n generalizing i with
  | zero => exact redLeaf_words hty red words i
  | succ n ih =>
    have hrun : List.range' i (2 ^ (n + 1)) = List.range' i (2 ^ n) ++ List.range' (i + 2 ^ n) (2 ^ n) := by
      rw [List.range'_append_1, pow_succ', Nat.two_mul]
    rw [treePlace, ih, ih, redPair_words hty, hrun, List.filterMap_append]

/-- So does the scan. -/
theorem runPlace_words (n : Nat) : runPlace red ty (redLeaf ty (fun l => (words l).map BitVec.toNat)) n =
    wordsPlace red (ty == 1) ((List.range n).filterMap words) := by
  induction n with
  | zero => rfl
  | succ n ih => rw [runPlace, ih, redLeaf_words hty red, redPair_words hty, List.range_succ, List.filterMap_append]

end

/-- The identity of an exclusive scan of integers is the word that combinations leave as it is (R139). -/
theorem scanIdentity_words {red ty : Nat} (hty : ty < 2) (hred : red < 6) : scanIdentity red ty = (redUnit red (ty == 1)).toNat := by
  interval_cases ty <;> interval_cases red <;> decide

theorem wordsPlace_getD (red : Nat) (sg : Bool) (xs : List Word) {e : Nat} (h : xs = [] → e = (redUnit red sg).toNat) :
    BitVec.ofNat 32 ((wordsPlace red sg xs).1.getD e) = foldRed red sg xs := by
  have hword : ∀ x : Word, BitVec.ofNat 32 x.toNat = x := fun x => (x.ofNat_toNat 32).trans x.setWidth_eq
  rw [foldRed_eq_foldWords]
  by_cases hx : xs = []
  · simp [wordsPlace, hx, h hx, foldWords]
  · simp [wordsPlace, hx]

/-! ### FP32 values (R138, R139) -/

/-- The place of a value of FP32 with the flags raised on the way to it. -/
def floatPlace (x : Option (Nat × Byte)) : Option Nat × Byte := (x.map (·.1), (x.map (·.2)).getD 0)

theorem redOp_float {red : Nat} (hred : red < 3) (a b : Nat) : redOp red 2 a b = floatRed red a b := by
  interval_cases red <;> rfl

theorem redIn_float (x : Word) : redIn 2 x.toNat = floatIn x := by
  obtain ⟨hnan, hsig⟩ := nan_fp32 x
  have hcond : (x.extractLsb' 23 8 = 0xFF ∧ x.extractLsb' 0 23 ≠ 0) ↔ (v32 x.toNat).isNan = true := by
    rw [v32, hnan]
    simp
  unfold redIn floatIn
  simp only [hcond, true_and]
  by_cases h : (v32 x.toNat).isNan = true
  · have hquiet : (v32 x.toNat).isSig = !x.getLsbD 22 := by
      rw [v32] at h ⊢
      rw [hsig, h, Bool.true_and]
    rw [if_pos h, if_pos h, hquiet]
    cases x.getLsbD 22 <;> rfl
  · rw [if_neg h, if_neg h]

theorem redPair_float {red : Nat} (hred : red < 3) (x y : Option (Nat × Byte)) :
    redPair red 2 (floatPlace x) (floatPlace y) = floatPlace (joinRed red x y) := by
  cases x with
  | none => cases y <;> simp [floatPlace, redPair, joinRed]
  | some a =>
    cases y with
    | none => simp [floatPlace, redPair, joinRed]
    | some b => simp [floatPlace, redPair, joinRed, redOp_float hred]

theorem redLeaf_float (words : Nat → Option Word) (l : Nat) :
    redLeaf 2 (fun l => (words l).map BitVec.toNat) l = floatPlace ((words l).map floatIn) := by
  cases hw : words l with
  | none => simp [redLeaf, hw, floatPlace]
  | some x => simp [redLeaf, hw, floatPlace, redIn_float]

section
variable {red : Nat} (hred : red < 3) (words : Nat → Option Word)
include hred

theorem treePlace_float (n i : Nat) : treePlace red 2 (redLeaf 2 (fun l => (words l).map BitVec.toNat)) n i =
    floatPlace (treeAt red (fun l => (words l).map floatIn) n i) := by
  induction n generalizing i with
  | zero => exact redLeaf_float words i
  | succ n ih => rw [treePlace, ih, ih, redPair_float hred, treeAt]

theorem runPlace_float (n : Nat) : runPlace red 2 (redLeaf 2 (fun l => (words l).map BitVec.toNat)) n =
    floatPlace (accAt red (fun l => (words l).map floatIn) n) := by
  induction n with
  | zero => rfl
  | succ n ih => rw [runPlace, ih, redLeaf_float, redPair_float hred, accAt]

end

/-! ### REDUX and SCANX (R138, R139) -/

/-- A lane's word, if it participates. -/
def laneWord (o : VFmt) (f : Flight) (l : Nat) : Option Word := if l ∈ f.acting o.g then some (opA f o l) else none

theorem acting_sorted (f : Flight) (g : BitVec 4) : (f.acting g).Pairwise (· < ·) := by
  unfold Flight.acting
  split
  · split <;> simp
  · exact (List.pairwise_lt_range.filter _).filter _

/-- The acting lanes below lane n, in order. -/
theorem acting_below (f : Flight) (g : BitVec 4) (n : Nat) :
    (f.acting g).filter (fun k => decide (k < n)) = (List.range n).filter (fun k => decide (k ∈ f.acting g)) := by
  refine ((acting_sorted f g).filter _).eq_of_mem_iff (List.pairwise_lt_range.filter _) (fun k => ?_)
  simp [and_comm]

theorem acting_eq (f : Flight) (g : BitVec 4) : f.acting g = (List.range 32).filter (fun k => decide (k ∈ f.acting g)) := by
  rw [← acting_below f g 32, List.filter_eq_self.2]
  exact fun k hk => decide_eq_true (acting_lt f g k hk)

/-- The words of the lanes below lane n are those of the acting ones among them. -/
theorem filterMap_laneWord (o : VFmt) (f : Flight) (n : Nat) :
    (List.range n).filterMap (laneWord o f) = ((f.acting o.g).filter (fun k => decide (k < n))).map (opA f o) := by
  have hlist : ∀ ls : List Nat, ls.filterMap (laneWord o f) = (ls.filter (fun k => decide (k ∈ f.acting o.g))).map (opA f o) := by
    intro ls
    induction ls with
    | nil => rfl
    | cons l ls ih => by_cases hl : l ∈ f.acting o.g <;> simp [laneWord, hl, ih]
  rw [hlist, acting_below]

theorem filterMap_laneWord_all (o : VFmt) (f : Flight) :
    (List.range 32).filterMap (laneWord o f) = (f.acting o.g).map (opA f o) := by
  rw [filterMap_laneWord, acting_below, ← acting_eq]

theorem laneWord_toNat (o : VFmt) (f : Flight) (l : Nat) :
    (laneWord o f l).map BitVec.toNat = if l ∈ f.acting o.g then some (f.opA o l) else none := by
  unfold laneWord
  split <;> rfl

theorem laneWord_float (o : VFmt) (f : Flight) (l : Nat) :
    (laneWord o f l).map floatIn = if l ∈ f.acting o.g then some (floatIn (opA f o l)) else none := by
  unfold laneWord
  split <;> rfl

theorem exec_redux (o : VFmt) (s : State) : exec (.redux o) s = execRedux o s := rfl

theorem exec_scanx (o : VFmt) (s : State) : exec (.scanx o) s = execScanx o s := rfl

/-- REDUX completes with any result that is its tree's where some lane acts. -/
theorem redux_completes {o : VFmt} {out : Flight → Nat → LaneOut} (hout : ∀ f, f.acting o.g ≠ [] → ∀ l,
    n32 o.d (reduce (bits o.f.toNat 2 0) (bits o.f.toNat 4 3) (fun k => (laneWord o f k).map BitVec.toNat)) = out f l) :
    LaneWise (.redux o) o.g out := by
  refine lanewise_completes_acting (exec_redux o) (fun f l hl => ?_) (fun _ _ => sound_w32 _ _ _)
  simp only [← hout f (List.ne_nil_of_mem hl) l, laneWord_toNat, List.contains_eq_mem, decide_eq_true_eq]
  rfl

theorem reduce_words {ty : Nat} (hty : ty < 2) (red : Nat) (o : VFmt) {f : Flight} (h : f.acting o.g ≠ []) :
    reduce red ty (fun l => (laneWord o f l).map BitVec.toNat) =
      ((foldRed red (ty == 1) ((f.acting o.g).map (opA f o))).toNat, 0) := by
  have hall : (List.range' 0 (2 ^ 5)).filterMap (laneWord o f) = (f.acting o.g).map (opA f o) :=
    List.range_eq_range' ▸ filterMap_laneWord_all o f
  rw [reduce_eq, treePlace_words hty, hall, foldRed_eq_foldWords]
  simp [wordsPlace, h]

theorem reduce_float {red : Nat} (hred : red < 3) (o : VFmt) (f : Flight) :
    reduce red 2 (fun l => (laneWord o f l).map BitVec.toNat) =
      (treeAt red (fun l => (laneWord o f l).map floatIn) 5 0).getD (0, 0) := by
  rw [reduce_eq, treePlace_float hred]
  cases treeAt red (fun l => (laneWord o f l).map floatIn) 5 0 <;> rfl

/-- The run of the acting lanes before lane n, in order. -/
def scanRun (o : VFmt) (f : Flight) : Nat → Option Nat × Byte :=
  runPlace (bits o.f.toNat 2 0) (bits o.f.toNat 4 3) (redLeaf (bits o.f.toNat 4 3) (fun l => (laneWord o f l).map BitVec.toNat))

/-- What a scan gives a lane: the run that ends with it or, exclusive, before it, and the flags of the run of all lanes. -/
def scanned (o : VFmt) (f : Flight) (l : Nat) : Nat × Byte :=
  ((scanRun o f (if o.c.getLsbD 0 then l else l + 1)).1.getD (scanIdentity (bits o.f.toNat 2 0) (bits o.f.toNat 4 3)), (scanRun o f 32).2)

theorem scanx_completes {o : VFmt} {out : Flight → Nat → LaneOut} (hout : ∀ f l, n32 o.d (scanned o f l) = out f l) :
    LaneWise (.scanx o) o.g out := by
  refine lanewise_completes_acting (exec_scanx o) (fun f l hl => ?_) (fun _ _ => sound_w32 _ _ _)
  obtain ⟨hflags, hlook⟩ := scanGo_run (bits o.f.toNat 2 0) (bits o.f.toNat 4 3) (o.c.getLsbD 0) (f.opA o)
    (fun k => decide (k ∈ f.acting o.g)) 32 0
  simp only [decide_eq_true_eq, ← laneWord_toNat, ← List.range_eq_range', ← acting_eq, Nat.zero_add] at hflags hlook
  have hlane := congrArg (Option.getD · 0) (hlook l (Nat.zero_le l) (acting_lt f o.g l hl) hl)
  refine Eq.trans ?_ (hout f l)
  exact congrArg₂ (fun x flags => n32 o.d (x, flags)) hlane (BitVec.zero_or.symm.trans hflags)

theorem n32_word (d : Byte) (x : Word) : n32 d (x.toNat, 0) = w32 d x :=
  congrArg (w32 d) ((x.ofNat_toNat 32).trans x.setWidth_eq)

/-- A scan of integers gives each lane the combination of the words up to it or, exclusive, before it. -/
theorem scanned_words {o : VFmt} (hty : bits o.f.toNat 4 3 < 2) (hred : bits o.f.toNat 2 0 < 6) (f : Flight) (l : Nat) :
    n32 o.d (scanned o f l) = w32 o.d (foldRed (bits o.f.toNat 2 0) (bits o.f.toNat 4 3 == 1)
      (((f.acting o.g).filter (fun k => decide (k < l) || (decide (k = l) && !o.c.getLsbD 0))).map (opA f o))) := by
  have hlanes : (List.range (if o.c.getLsbD 0 then l else l + 1)).filterMap (laneWord o f) =
      ((f.acting o.g).filter (fun k => decide (k < l) || (decide (k = l) && !o.c.getLsbD 0))).map (opA f o) := by
    rw [filterMap_laneWord]
    congr 2
    funext k
    cases o.c.getLsbD 0
    · simp [Nat.le_iff_lt_or_eq]
    · simp
  rw [scanned, scanRun, runPlace_words hty, runPlace_words hty, hlanes, n32, wordsPlace_getD _ _ _ (fun _ => scanIdentity_words hty hred)]
  rfl

theorem scanIdentity_float {red : Nat} (hred : red < 3) :
    scanIdentity red 2 = if red = 0 then 0 else if red = 1 then 0x7F800000 else 0xFF800000 := by
  interval_cases red <;> rfl

/-- A scan of FP32 values gives each lane the accumulator after it or, exclusive, before it. -/
theorem scanned_float {o : VFmt} (hty : bits o.f.toNat 4 3 = 2) (hred : bits o.f.toNat 2 0 < 3) (f : Flight) (l : Nat) :
    let acc := accAt (bits o.f.toNat 2 0) (fun k => if k ∈ f.acting o.g then some (floatIn (opA f o k)) else none)
    scanned o f l = (((acc (if o.c.getLsbD 0 then l else l + 1)).map (·.1)).getD
      (if bits o.f.toNat 2 0 = 0 then 0 else if bits o.f.toNat 2 0 = 1 then 0x7F800000 else 0xFF800000),
      ((acc 32).map (·.2)).getD 0) := by
  simp only [← laneWord_float]
  rw [scanned, scanRun, hty, runPlace_float hred, runPlace_float hred, scanIdentity_float hred]
  rfl

/-- Settles O9: the tree and the scan by the runs of lanes they combine; integers by a unit and an associative combination of words, FP32
values by following the same places in the same order. -/
theorem reductionsAndScans : Obligations.ReductionsAndScans := by
  refine ⟨fun o hty hred => redux_completes (fun f hf l => ?_), fun o hty hred => redux_completes (fun f _ l => ?_),
    fun o hty hred => scanx_completes (scanned_words hty hred), fun o hty hred => scanx_completes (fun f l => ?_)⟩
  · rw [reduce_words hty _ o hf, n32_word]
    simp only [List.filter_true]
  · rw [show bits o.f.toNat 4 3 = 2 from hty, reduce_float hred]
    simp only [laneWord_float]
  · exact congrArg (n32 o.d) (scanned_float hty hred f l)

end Sys2Proof.Machine
end

section
/-! SUPPORT. Meeting points: pairs of registers written lane by lane, and the obligation on MEET and SETMR (R132, R133). -/

namespace Sys2Proof.Machine

open Sys2Proof.Claim

/-! ### MEET and SETMR (R132, R133) -/

/-- A per-lane value after those of some lanes are replaced. -/
theorem getD_setLanes (m : List Dword) (on : Nat → Bool) (x : Nat → Dword) {l : Nat} (hl : l < 32) :
    (setLanes m on x).getD l 0 = if on l then x l else m.getD l 0 := by
  simp [setLanes, lanes, hl]

theorem append_halves (x : Dword) : x.extractLsb' 32 32 ++ x.extractLsb' 0 32 = x := by
  rw [BitVec.extractLsb'_append_extractLsb'_eq_extractLsb' (show 32 = 0 + 32 from rfl)]
  exact BitVec.extractLsb'_eq_self

/-- A flight with a pair of v registers written in each of some lanes. -/
def Flight.setPairs (f : Flight) (ls : List Nat) (r : Nat) (x : Nat → Dword) : Flight := ls.foldl (fun g l => g.setV64 l r (x l)) f

theorem Flight.v_setV64 (f : Flight) {l r k q : Nat} (x : Dword) (hr : r + 1 < 256) (hq : q < 256) : (f.setV64 l r x).v k q =
    if k = l ∧ q = r + 1 then x.extractLsb' 32 32 else if k = l ∧ q = r then x.extractLsb' 0 32 else f.v k q := by
  rw [Flight.setV64, Flight.v_setV _ _ _ _ _ _ hr hq, Flight.v_setV _ _ _ _ _ _ (by omega) hq]

theorem Flight.setPairs_eq (ls : List Nat) (f : Flight) (r : Nat) (x : Nat → Dword) :
    f.setPairs ls r x = { f with vregs := (f.setPairs ls r x).vregs } := by
  induction ls generalizing f with
  | nil => rfl
  | cons l ls ih => exact (ih (f.setV64 l r (x l))).trans rfl

/-- A register outside the pairs written is as before. -/
theorem Flight.setPairs_v_ne (ls : List Nat) (f : Flight) {r k q : Nat} (x : Nat → Dword) (hr : r + 1 < 256) (hq : q < 256)
    (h : k ∉ ls ∨ (q ≠ r ∧ q ≠ r + 1)) : (f.setPairs ls r x).v k q = f.v k q := by
  induction ls generalizing f with
  | nil => rfl
  | cons l ls ih =>
    have hrest : k ∉ ls ∨ (q ≠ r ∧ q ≠ r + 1) := h.imp_left (fun hk hm => hk (List.mem_cons_of_mem _ hm))
    have hhead : ¬ (k = l ∧ q = r + 1) ∧ ¬ (k = l ∧ q = r) := by
      rcases h with hk | hq
      · simp [List.ne_of_not_mem_cons hk]
      · simp [hq]
    refine (ih (f.setV64 l r (x l)) hrest).trans ?_
    rw [Flight.v_setV64 f (x l) hr hq, if_neg hhead.1, if_neg hhead.2]

/-- Each pair reads as written. -/
theorem Flight.setPairs_v64 (ls : List Nat) (f : Flight) {r k : Nat} (x : Nat → Dword) (hr : r + 1 < 256) (hn : ls.Nodup) (hk : k ∈ ls) :
    (f.setPairs ls r x).v64 k r = x k := by
  induction ls generalizing f with
  | nil => simp at hk
  | cons l ls ih =>
    obtain ⟨hl, hn'⟩ := List.nodup_cons.1 hn
    rcases List.mem_cons.1 hk with rfl | hk
    · have hkeep : ∀ q, q < 256 → (f.setPairs (k :: ls) r x).v k q = (f.setV64 k r (x k)).v k q := fun q hq =>
        Flight.setPairs_v_ne ls (f.setV64 k r (x k)) x hr hq (.inl hl)
      rw [Flight.v64, hkeep _ hr, hkeep _ (by omega), Flight.v_setV64 f _ hr hr, Flight.v_setV64 f _ hr (by omega)]
      simpa using append_halves (x k)
    · exact ih (f.setV64 l r (x l)) hn' hk

theorem exec_meet (o : BFmt) (s : State) : exec (.meet o) s = execMeet o s := rfl

theorem exec_setmr (o : VFmt) (s : State) : exec (.setmr o) s = execSetmr o s := rfl

theorem meet_retires (o : BFmt) (ho : EvenReg o.s) : Retires (.meet o) (fun _ _ c f g =>
    (∀ l ∈ f.acting o.g, g.v64 l o.s.toNat = f.mr.getD l 0 ∧ g.mr.getD l 0 = relOf c o.off) ∧
    (∀ l, l < 32 → l ∉ f.acting o.g → g.mr.getD l 0 = f.mr.getD l 0) ∧
    (∀ l r, r < 256 → l ∉ f.acting o.g ∨ (r ≠ o.s.toNat ∧ r ≠ o.s.toNat + 1) → g.v l r = f.v l r) ∧
    g = { f with mr := g.mr, vregs := g.vregs }) := by
  intro s r f c hi hc
  have hpair : o.s.toNat + 1 < 256 := by
    have := o.s.isLt
    unfold EvenReg at ho
    omega
  refine ⟨_, by rw [exec_meet, execMeet, withIssuer_next hi], fun l hl => ⟨?_, ?_⟩, fun l hl hm => ?_, fun l q hq h => ?_, ?_⟩
  · exact Flight.setPairs_v64 _ f (fun l => f.mr.getD l 0) hpair (acting_nodup f o.g) hl
  · rw [getD_setLanes _ _ _ (acting_lt f o.g l hl), if_pos (by simpa using hl), relTarget_eq_relOf hc]
  · rw [getD_setLanes _ _ _ hl, if_neg (by simpa using hm)]
  · exact Flight.setPairs_v_ne _ f (fun l => f.mr.getD l 0) hpair hq h
  · exact congrArg (fun x : Flight => { x with mr := setLanes f.mr (fun l => (f.acting o.g).contains l) (fun _ => f.relTarget o.off) })
      (Flight.setPairs_eq (f.acting o.g) f o.s.toNat (fun l => f.mr.getD l 0))

theorem setmr_retires (o : VFmt) : Retires (.setmr o) (fun _ _ _ f g =>
    (∀ l, l < 32 → g.mr.getD l 0 = if l ∈ f.acting o.g then f.src64 o.ka l o.a.toNat else f.mr.getD l 0) ∧
    g = { f with mr := g.mr }) := by
  intro s r f c hi hc
  refine ⟨_, by rw [exec_setmr, execSetmr, withIssuer_next hi], fun l hl => ?_, rfl⟩
  rw [getD_setLanes _ _ _ hl, List.contains_eq_mem]
  simp only [decide_eq_true_eq]

/-- Settles O21: MEET writes one pair per acting lane and replaces the meeting points of those lanes; SETMR does the second only. -/
theorem meetingPoints : Obligations.MeetingPoints := ⟨meet_retires, setmr_retires⟩

end Sys2Proof.Machine
end

section
/-! SUPPORT. SORTK: the order of the threads, what one flight takes from the threads that come to it, the move of a workgroup, and the
obligation on it (R142–R144). -/

namespace Sys2Proof.Machine

open Sys2Proof.Claim

/-! ### The order of the threads (R144) -/

/-- A thread, given as its slot and its key, stands before another: by key, then by slot. -/
def sortBefore (t u : Nat × Nat) : Prop := t.2 < u.2 ∨ (t.2 = u.2 ∧ t.1 < u.1)

theorem sortBefore_trans {t u v : Nat × Nat} (h : sortBefore t u) (h' : sortBefore u v) : sortBefore t v := by
  unfold sortBefore at *
  omega

theorem sortInsert_perm (t : Nat × Nat) (us : List (Nat × Nat)) : (sortInsert t us).Perm (t :: us) := by
  induction us with
  | nil => exact .refl _
  | cons u us ih =>
    unfold sortInsert
    split
    · exact .refl _
    · exact (ih.cons u).trans (.swap t u us)

/-- A thread of a slot of its own goes where the order wants it. -/
theorem sortInsert_sorted {t : Nat × Nat} {us : List (Nat × Nat)} (hs : us.Pairwise sortBefore) (hne : ∀ u ∈ us, u.1 ≠ t.1) :
    (sortInsert t us).Pairwise sortBefore := by
  induction us with
  | nil => exact List.pairwise_singleton _ _
  | cons u us ih =>
    obtain ⟨hu, hus⟩ := List.pairwise_cons.1 hs
    unfold sortInsert
    split
    · next hlt =>
      refine List.pairwise_cons.2 ⟨fun v hv => ?_, hs⟩
      rcases List.mem_cons.1 hv with rfl | hv
      · exact hlt
      · exact sortBefore_trans hlt (hu v hv)
    · next hnot =>
      refine List.pairwise_cons.2 ⟨fun v hv => ?_, ih hus (fun v hv => hne v (List.mem_cons_of_mem _ hv))⟩
      rcases List.mem_cons.1 ((sortInsert_perm t us).mem_iff.1 hv) with rfl | hv
      · have := hne u List.mem_cons_self
        unfold sortBefore
        omega
      · exact hu v hv

theorem foldl_sortInsert (ts acc : List (Nat × Nat)) :
    (ts.foldl (fun acc t => sortInsert t acc) acc).Perm (ts ++ acc) ∧
      (((ts ++ acc).map Prod.fst).Nodup → acc.Pairwise sortBefore →
        (ts.foldl (fun acc t => sortInsert t acc) acc).Pairwise sortBefore) := by
  induction ts generalizing acc with
  | nil => exact ⟨.refl _, fun _ h => h⟩
  | cons t ts ih =>
    obtain ⟨hperm, hsorted⟩ := ih (sortInsert t acc)
    have hmove : (ts ++ sortInsert t acc).Perm (t :: ts ++ acc) :=
      ((sortInsert_perm t acc).append_left ts).trans List.perm_middle
    refine ⟨hperm.trans hmove, fun hn ha => hsorted ((hmove.map Prod.fst).nodup_iff.2 hn) (sortInsert_sorted ha (fun u hu he => ?_))⟩
    exact (List.nodup_cons.1 hn).1 (he ▸ List.mem_map_of_mem (List.mem_append_right ts hu))

theorem sortOrder_perm (ts : List (Nat × Nat)) : (sortOrder ts).Perm ts := by
  simpa [sortOrder] using (foldl_sortInsert ts []).1

theorem sortOrder_sorted {ts : List (Nat × Nat)} (h : (ts.map Prod.fst).Nodup) : (sortOrder ts).Pairwise sortBefore :=
  (foldl_sortInsert ts []).2 (by simpa using h) .nil

/-- The slots of a workgroup's flights, flight by flight. -/
theorem range_slots (n : Nat) : (List.range n).flatMap (fun k => lanes.map (fun l => 32 * k + l)) = List.range (32 * n) := by
  induction n with
  | zero => rfl
  | succ n ih => rw [List.range_succ, List.flatMap_append, ih, Nat.mul_succ, List.range_add]; simp [lanes]

/-- Every flight of a workgroup has arrived at the SORTK, and the keys and the mask that it has brought are as given. -/
def Wg.Brought (g : Wg) (keys : Nat → Nat) (mask : Nat → Word) : Prop := ∀ k, k < g.flights.length →
  ∃ ks : List Half, look g.sortIn k = some (ks, mask k) ∧ ∀ l, l < 32 → keys (32 * k + l) = (ks.getD l 0).toNat

theorem sortThreads_eq {g : Wg} {keys : Nat → Nat} {mask : Nat → Word} (h : g.Brought keys mask) :
    sortThreads g = (List.range (32 * g.flights.length)).map (fun i => (i, keys i)) := by
  rw [← range_slots, List.map_flatMap, sortThreads, List.flatMap_def, List.flatMap_def]
  refine congrArg List.flatten (List.map_congr_left (fun k hk => ?_))
  obtain ⟨ks, hin, hkeys⟩ := h k (List.mem_range.1 hk)
  rw [hin, List.map_map]
  exact List.map_congr_left (fun l hl => Prod.ext rfl (hkeys l (List.mem_range.1 hl)).symm)

/-- The old slots of a workgroup's threads, in the order in which they stand after the SORTK. -/
def Wg.sortSlots (g : Wg) : List Nat := (sortOrder (sortThreads g)).map Prod.fst

theorem Wg.sortSlots_perm {g : Wg} {keys : Nat → Nat} {mask : Nat → Word} (h : g.Brought keys mask) :
    g.sortSlots.Perm (List.range (32 * g.flights.length)) := by
  have hperm := (sortOrder_perm (sortThreads g)).map Prod.fst
  rw [sortThreads_eq h, List.map_map] at hperm
  simpa [Wg.sortSlots, sortThreads_eq h, Function.comp_def] using hperm

theorem Wg.sortSlots_sorted {g : Wg} {keys : Nat → Nat} {mask : Nat → Word} (h : g.Brought keys mask) :
    g.sortSlots.Pairwise (fun a b => keys a < keys b ∨ (keys a = keys b ∧ a < b)) := by
  have hkey : ∀ t ∈ sortOrder (sortThreads g), t.2 = keys t.1 := by
    intro t ht
    rw [(sortOrder_perm _).mem_iff, sortThreads_eq h] at ht
    obtain ⟨i, -, rfl⟩ := List.mem_map.1 ht
    rfl
  have hnodup : ((sortThreads g).map Prod.fst).Nodup := by
    rw [sortThreads_eq h, List.map_map]
    simpa [Function.comp_def] using List.nodup_range
  refine List.pairwise_map.2 ((sortOrder_sorted hnodup).imp_of_mem (fun {t u} ht hu hlt => ?_))
  rw [← hkey t ht, ← hkey u hu]
  exact hlt

/-! ### What a flight takes from the threads that come to it (R144) -/

/-- A flight with v registers written, each named by its lane and its number. -/
def Flight.setVs (f : Flight) (ps : List (Nat × Nat)) (x : Nat → Nat → Word) : Flight :=
  ps.foldl (fun g p => g.setV p.1 p.2 (x p.1 p.2)) f

theorem Flight.setVs_eq (ps : List (Nat × Nat)) (f : Flight) (x : Nat → Nat → Word) :
    f.setVs ps x = { f with vregs := (f.setVs ps x).vregs } := by
  induction ps generalizing f with
  | nil => rfl
  | cons p ps ih => exact (ih (f.setV p.1 p.2 (x p.1 p.2))).trans rfl

theorem Flight.v_setVs (ps : List (Nat × Nat)) (f : Flight) (x : Nat → Nat → Word) (hps : ∀ p ∈ ps, p.2 < 256) (k : Nat) {q : Nat}
    (hq : q < 256) : (f.setVs ps x).v k q = if (k, q) ∈ ps then x k q else f.v k q := by
  induction ps generalizing f with
  | nil => simp [Flight.setVs]
  | cons p ps ih =>
    refine (ih (f.setV p.1 p.2 (x p.1 p.2)) (fun a ha => hps a (List.mem_cons_of_mem _ ha))).trans ?_
    rw [Flight.v_setV _ _ _ _ _ _ (hps p List.mem_cons_self) hq]
    by_cases hm : (k, q) ∈ ps
    · simp [hm]
    · by_cases hp : k = p.1 ∧ q = p.2
      · obtain ⟨rfl, rfl⟩ := hp
        simp [hm]
      · have hne : (k, q) ≠ p := fun he => hp ⟨congrArg Prod.fst he, congrArg Prod.snd he⟩
        simp [hm, hp, hne]

/-- A table with default 0 after entries are set in turn. -/
theorem sget_foldl_sput (is : List Nat) (m : List (Nat × Word)) (x : Nat → Word) (j : Nat) :
    sget 0 (is.foldl (fun m i => sput 0 m i (x i)) m) j = if j ∈ is then x j else sget 0 m j := by
  induction is generalizing m with
  | nil => simp
  | cons i is ih =>
    rw [List.foldl_cons, ih, sget_sput]
    by_cases hm : j ∈ is
    · simp [hm]
    · by_cases hj : j = i
      · simp [hj]
      · simp [hm, hj]

/-- The registers of the rows that a mask names, of a flight that has some rows. -/
def maskRegs (mask : Word) (rows : Nat) : List Nat :=
  ((List.range rows).filter (fun i => mask.getLsbD i)).flatMap (fun i => (List.range 8).map (fun j => 8 * i + j))

theorem mem_maskRegs (mask : Word) (rows r : Nat) : r ∈ maskRegs mask rows ↔ mask.getLsbD (r / 8) = true ∧ r / 8 < rows := by
  simp only [maskRegs, List.mem_flatMap, List.mem_filter, List.mem_range, List.mem_map]
  constructor
  · rintro ⟨i, ⟨hi, hm⟩, j, hj, rfl⟩
    have hrow : (8 * i + j) / 8 = i := by omega
    exact hrow.symm ▸ ⟨hm, hi⟩
  · rintro ⟨hm, hrow⟩
    exact ⟨r / 8, ⟨hrow, hm⟩, r % 8, Nat.mod_lt _ (by decide), Nat.div_add_mod r 8⟩

theorem maskRegs_lt {mask : Word} {rows r : Nat} (h : r ∈ maskRegs mask rows) : r < 256 := by
  have hm := ((mem_maskRegs mask rows r).1 h).1
  have hlt : r / 8 < 32 := by
    by_contra hge
    rw [BitVec.getLsbD_of_ge _ _ (by omega)] at hm
    cases hm
  omega

/-- The registers that move, lane by lane. -/
def movedRegs (mask : Word) (rows : Nat) : List (Nat × Nat) := lanes.flatMap (fun l => (maskRegs mask rows).map (fun r => (l, r)))

theorem mem_movedRegs (mask : Word) (rows : Nat) {l : Nat} (hl : l < 32) (r : Nat) :
    (l, r) ∈ movedRegs mask rows ↔ mask.getLsbD (r / 8) = true ∧ r / 8 < rows := by
  simp [movedRegs, lanes, hl, ← mem_maskRegs]

/-- The thread that comes to a slot of a flight: its old flight and its old lane. -/
def comer (old : List Flight) (src : Nat → Nat) (fl : Nat) (f : Flight) (l : Nat) : Flight × Nat :=
  (old.getD (src (32 * fl + l) / 32) f, src (32 * fl + l) % 32)

/-- What moves into a flight: registers, predicates and thread identifiers. -/
theorem sortFlight_eq (old : List Flight) (src : Nat → Nat) (mask : Word) (fl : Nat) (f : Flight) :
    sortFlight old src mask fl f =
      { f.setVs (movedRegs mask f.vrows) (fun l r => (comer old src fl f l).1.v (comer old src fl f l).2 r) with
        preds := (List.range 7).foldl (fun m i => sput 0 m i (maskOf (fun l => (comer old src fl f l).1.p (comer old src fl f l).2 i))) []
        tids := lanes.map (fun l => (comer old src fl f l).1.tids.getD (comer old src fl f l).2 0) } := by
  rw [Flight.setVs, movedRegs, List.foldl_flatMap]
  simp only [List.foldl_map]
  rfl

theorem sortFlight_kept (old : List Flight) (src : Nat → Nat) (mask : Word) (fl : Nat) (f : Flight) :
    ∃ vs ps ts, sortFlight old src mask fl f = { f with vregs := vs, preds := ps, tids := ts } :=
  ⟨_, _, _, (sortFlight_eq old src mask fl f).trans (by rw [Flight.setVs_eq])⟩

section
variable (old : List Flight) (src : Nat → Nat) (mask : Word) (fl : Nat) (f : Flight) {l : Nat} (hl : l < 32)
include hl

theorem sortFlight_v {r : Nat} (hr : r < 256) : (sortFlight old src mask fl f).v l r =
    if mask.getLsbD (r / 8) = true ∧ r / 8 < f.vrows then (comer old src fl f l).1.v (comer old src fl f l).2 r else f.v l r := by
  rw [sortFlight_eq]
  refine (Flight.v_setVs (movedRegs mask f.vrows) f _ (fun p hp => ?_) l hr).trans (if_congr (mem_movedRegs mask f.vrows hl r) rfl rfl)
  obtain ⟨k, -, hk⟩ := List.mem_flatMap.1 hp
  obtain ⟨q, hq, rfl⟩ := List.mem_map.1 hk
  exact maskRegs_lt hq

theorem sortFlight_p {i : Nat} (hi : i < 8) : (sortFlight old src mask fl f).p l i = (comer old src fl f l).1.p (comer old src fl f l).2 i := by
  by_cases h7 : i = 7
  · rw [h7, Flight.p_seven, Flight.p_seven]
  · have hmem : i ∈ List.range 7 := List.mem_range.2 (by omega)
    rw [sortFlight_eq]
    conv_lhs => rw [Flight.p, if_neg h7, sget_foldl_sput, if_pos hmem, getLsbD_maskOf _ hl]

theorem sortFlight_tids : (sortFlight old src mask fl f).tids.getD l 0 = (comer old src fl f l).1.tids.getD (comer old src fl f l).2 0 := by
  rw [sortFlight_eq]
  simp [lanes, hl]

end

/-! ### The move of a workgroup (R144) -/

/-- In a workgroup that does not halt, a flight that a rendezvous releases is one that retires. -/
theorem released_eq_retired {s : State} {r : FlightRef} (h : s.halting r = false) (f : Flight) :
    f.released (s.det r) = s.retired r f := by
  have hskid : ∀ g : Flight, g.stopHere.skid = g.skid := by
    intro g
    unfold Flight.stopHere
    split
    · split <;> rfl
    · split <;> rfl
  have hretire : f.retire = { f.retire with skid := f.skid } := by
    have : f.retire.skid = f.skid := by
      unfold Flight.retire
      dsimp only
      split
      · exact hskid _
      · rfl
    rw [← this]
  unfold State.retired Flight.released
  rw [h, if_neg Bool.false_ne_true, ← hretire]

/-- A flight that is not stopped stays where its threads are when it retires: they move as its clause ends (R32). -/
theorem retired_pc (s : State) (r : FlightRef) {f : Flight} (h : f.stopped = false) : (s.retired r f).pc = f.pc := by
  have htick : ∀ g : Flight, g.tickTimer.pc = g.pc := by
    intro g
    unfold Flight.tickTimer
    split
    · rfl
    · split <;> rfl
  have hretire : f.retire.pc = f.pc := by
    unfold Flight.retire
    dsimp only
    rw [if_neg (by simp [h])]
  unfold State.retired
  dsimp only
  split
  · rw [htick, hretire]
  · exact hretire

/-- What the move gives a flight of the workgroup that stands at the SORTK: the threads that come to its slots, and the rest as before. -/
theorem sortMove_flight {s : State} {r : FlightRef} (hrun : s.halting r = false) {g : Wg} {k : Nat} {h : Flight} {ks : List Half}
    {mask : Word} (hk : g.flights[k]? = some h) (hstop : h.stopped = false) (hin : look g.sortIn k = some (ks, mask)) :
    ∃ h', (g.sortMove (s.det r)).flights[k]? = some h' ∧ h'.retired = h.retired + 1 ∧ h'.wait = .ready ∧
      (∀ r, h'.s r = h.s r) ∧ (∀ i, h'.q i = h.q i) ∧ h'.fsr = h.fsr ∧ h'.cb = h.cb ∧ h'.rngctr = h.rngctr ∧ h'.pc = h.pc ∧ h'.mr = h.mr ∧
      ∀ l n x, l < 32 → g.sortSlots[32 * k + l]? = some n → g.flights[n / 32]? = some x →
        (∀ r, r < 256 → h'.v l r = if mask.getLsbD (r / 8) = true ∧ r / 8 < h.vrows then x.v (n % 32) r else h.v l r) ∧
        (∀ i, i < 8 → h'.p l i = x.p (n % 32) i) ∧ h'.tids.getD l 0 = x.tids.getD (n % 32) 0 := by
  let src := fun j => ((sortOrder (sortThreads g)).getD j (j, 0)).1
  let moved := sortFlight g.flights src mask k h
  have hflight : ∃ e, (g.sortMove (s.det r)).flights[k]? = some { s.retired r moved with lastE := e } := by
    have hlt : k < g.flights.length := (List.getElem?_eq_some_iff.1 hk).1
    have hget : g.flights.getD k default = h := by rw [List.getD_eq_getElem?_getD, hk, Option.getD_some]
    have hmask : ((look g.sortIn k).map (·.2)).getD 0 = mask := by rw [hin, Option.map_some, Option.getD_some]
    refine ⟨g.flights.foldl (fun m f => max m f.lastE) 0, ?_⟩
    unfold Wg.sortMove
    dsimp only
    rw [List.getElem?_map, List.getElem?_range hlt, Option.map_some, hget, hmask, released_eq_retired hrun]
  obtain ⟨e, he⟩ := hflight
  obtain ⟨vs, ps, ts, hmoved⟩ := sortFlight_kept g.flights src mask k h
  obtain ⟨hv, hs, hp, hq⟩ := retired_reads s r moved
  obtain ⟨-, -, -, -, hfsr, hmr, -, hcb, htids, hrng, -, -, hcount⟩ := State.retired_kept s r moved
  have hpc : (s.retired r moved).pc = moved.pc := retired_pc s r (by simp only [moved, hmoved, hstop])
  refine ⟨_, he, hcount.trans ?_, State.retired_wait s r moved, fun q => (hs q).trans ?_, fun i => (hq i).trans ?_, hfsr.trans ?_,
    hcb.trans ?_, hrng.trans ?_, hpc.trans ?_, hmr.trans ?_, fun l n x hl hn hx => ?_⟩
  · simp only [moved, hmoved]
  · simp only [moved, hmoved, Flight.s]
  · simp only [moved, hmoved, Flight.q]
  · simp only [moved, hmoved]
  · simp only [moved, hmoved]
  · simp only [moved, hmoved]
  · simp only [moved, hmoved]
  · simp only [moved, hmoved]
  · have hsrc : src (32 * k + l) = n := by
      rw [Wg.sortSlots, List.getElem?_map] at hn
      obtain ⟨t, ht, rfl⟩ := Option.map_eq_some_iff.1 hn
      simp only [src, List.getD_eq_getElem?_getD, ht, Option.getD_some]
    have hcomer : comer g.flights src k h l = (x, n % 32) := by
      simp only [comer, hsrc, List.getD_eq_getElem?_getD, hx, Option.getD_some]
    refine ⟨fun q hq => (hv l q).trans ?_, fun i hi => (hp l i).trans ?_, (congrArg (·.getD l 0) htids).trans ?_⟩
    · rw [sortFlight_v _ _ _ _ _ hl hq, hcomer]
    · rw [sortFlight_p _ _ _ _ _ hl hi, hcomer]
    · rw [sortFlight_tids _ _ _ _ _ hl, hcomer]

/-! ### SORTK (R142, R143) -/

theorem exec_sortk (o : VFmt) (s : State) : exec (.sortk o) s = execSortk o s := rfl

/-- The keys that a flight brings to a SORTK. -/
def sortKeys (o : VFmt) (f : Flight) : List Half := lanes.map (fun l => (f.src o.ka l o.a.toNat).extractLsb' 0 16)

/-- A workgroup after one of its flights has arrived at a SORTK, with its keys and its mask of rows. -/
def Wg.arrive (g : Wg) (fl : Nat) (keys : List Half) (mask : Word) : Wg :=
  { g with sortArr := setBit g.sortArr fl true, sortIn := put g.sortIn fl (keys, mask) }

/-- The state in which a flight has arrived at a SORTK and waits there. -/
def State.atSortk (s : State) (o : VFmt) (w fl : Nat) (g : Wg) (f : Flight) : State :=
  (s.modWg w (fun _ => g.arrive fl (sortKeys o f) (f.s o.b.toNat))).stall (.wg w fl) .sort

section
variable {o : VFmt} {s : State} {w fl : Nat} {g : Wg} {f : Flight} (hi : s.issuer = some (.wg w fl, f)) (hg : look s.wgs w = some g)
  (hw : f.wait = .ready)
include hi hg hw

theorem exec_sortk_divergent (h : f.sg ≠ 0xFFFFFFFF ∨ ∃ x ∈ g.flights, x.exited ≠ 0) :
    exec (.sortk o) s = .next (s.fault (.wg w fl) cSortk 0 0) := by
  have hdiv : f.sg ≠ BitVec.allOnes 32 ∨ g.flights.any (fun x => x.exited != 0) = true := by
    refine h.imp id (fun ⟨x, hx, he⟩ => ?_)
    exact List.any_eq_true.2 ⟨x, hx, by simpa using he⟩
  rw [exec_sortk, execSortk, withIssuer_next hi]
  simp only [State.wgOf, hg]
  rw [if_neg (by simp [hw]), if_pos hdiv]

/-- The last flight of its workgroup to arrive completes the SORTK for all. -/
theorem exec_sortk_last (hsg : f.sg = 0xFFFFFFFF) (hex : ∀ x ∈ g.flights, x.exited = 0) (hl : f.nLoads = 0) (ht : f.nTiles = 0)
    (hall : ∀ k, k < g.flights.length → (setBit g.sortArr fl true).getLsbD k = true) :
    exec (.sortk o) s = .next ((s.atSortk o w fl g f).modWg w (Wg.sortMove (s.det (.wg w fl)))) := by
  have hdiv : ¬ (f.sg ≠ BitVec.allOnes 32 ∨ g.flights.any (fun x => x.exited != 0) = true) := by
    rintro (h | h)
    · exact h hsg
    · obtain ⟨x, hx, he⟩ := List.any_eq_true.1 h
      exact absurd (hex x hx) (by simpa using he)
  have harr : (List.range g.flights.length).all (fun k => (setBit g.sortArr fl true).getLsbD k) = true :=
    List.all_eq_true.2 (fun k hk => hall k (List.mem_range.1 hk))
  rw [exec_sortk, execSortk, withIssuer_next hi]
  simp only [State.wgOf, hg]
  rw [if_neg (by simp [hw]), if_neg hdiv, if_neg (by simp [hl, ht]), if_pos harr]
  rfl

end

/-- A flight of a running workgroup that stalls waits, and nothing else of it changes. -/
theorem stall_running {s : State} {r : FlightRef} (h : s.halting r = false) (w : Wait) : s.stall r w =
    { s.modFlight r (fun f => { f with wait := w, parkAt := s.clk.toNat }) with cur := if s.cur = some r then none else s.cur } := by
  unfold State.stall
  simp only [h, Bool.false_and, Bool.false_eq_true, if_false]

theorem halting_running {s : State} {r : FlightRef} {g : Wg} (hg : s.wgOf r = some g) (hst : g.st = .running) : s.halting r = false := by
  simp [State.halting, hg, hst]

/-- At the SORTK, a workgroup has the arrival noted, and its flights are as before but for what they wait for. -/
theorem atSortk_look {o : VFmt} {s : State} {w fl : Nat} {g : Wg} {f : Flight} (hg : look s.wgs w = some g) (hst : g.st = .running) :
    ∃ g1 : Wg, look (s.atSortk o w fl g f).wgs w = some g1 ∧ g1.flights.length = g.flights.length ∧
      g1.sortIn = put g.sortIn fl (sortKeys o f, f.s o.b.toNat) ∧
      ∀ (k : Nat) (h : Flight), g.flights[k]? = some h →
        ∃ wt since, g1.flights[k]? = some { h with wait := wt, parkAt := since } := by
  have hhalt : (s.modWg w (fun _ => g.arrive fl (sortKeys o f) (f.s o.b.toNat))).halting (.wg w fl) = false :=
    halting_running (g := g.arrive fl (sortKeys o f) (f.s o.b.toNat)) (by simp [State.wgOf, hg]) hst
  refine ⟨{ g.arrive fl (sortKeys o f) (f.s o.b.toNat) with
      flights := modAt g.flights fl (fun x => { x with wait := .sort, parkAt := s.clk.toNat }) }, ?_, length_modAt _ _ _, rfl, fun k h hk => ?_⟩
  · rw [State.atSortk, stall_running hhalt]
    simp [State.modFlight, hg, Wg.arrive]
  · by_cases hkf : k = fl
    · exact ⟨.sort, s.clk.toNat, by rw [getElem?_modAt, if_pos hkf, ← hkf, hk, Option.map_some]⟩
    · exact ⟨h.wait, h.parkAt, by rw [getElem?_modAt, if_neg hkf, hk]⟩

/-- What the flights of a workgroup have brought when the last one has arrived. -/
theorem brought_of_arrivals {o : VFmt} {fl : Nat} {f : Flight} {g g1 : Wg} {keys : Nat → Nat} {mask : Nat → Word}
    (hlen : g1.flights.length = g.flights.length) (hin : g1.sortIn = put g.sortIn fl (sortKeys o f, f.s o.b.toNat))
    (hown : ∀ l, l < 32 → keys (32 * fl + l) = (f.src o.ka l o.a.toNat).toNat % 2 ^ 16) (hmask : mask fl = f.s o.b.toNat)
    (hothers : ∀ k, k < g.flights.length → k ≠ fl → ∃ ks : List Half, look g.sortIn k = some (ks, mask k) ∧
      ∀ l, l < 32 → keys (32 * k + l) = (ks.getD l 0).toNat) :
    g1.Brought keys mask := by
  intro k hk
  by_cases hkf : k = fl
  · subst hkf
    exact ⟨sortKeys o f, by rw [hin, look_put_same, hmask], fun l hl => by simp [hown l hl, sortKeys, lanes, hl]⟩
  · obtain ⟨ks, hks, hkeys⟩ := hothers k (hlen ▸ hk) hkf
    exact ⟨ks, by rw [hin, look_put_ne _ _ hkf, hks], hkeys⟩

/-- Settles O23: the insertion sort gives the order; what comes to a slot is read off the move, and what stays is what neither the move
nor retiring touches. -/
theorem sorting : Obligations.Sorting := by
  refine ⟨?_, fun o s w fl g f hi hg hw hdiv => exec_sortk_divergent hi hg hw hdiv⟩
  intro o s w fl g f keys mask hcur hg hf hst hlen32 hw hsg hlive hloads htiles hown hmask hothers
  have hi : s.issuer = some (.wg w fl, f) := State.issuer_of hcur (by simp [State.flight?, hg, hf])
  have hrun : s.halting (.wg w fl) = false := halting_running hg hst
  have harrived : ∀ k, k < g.flights.length → (setBit g.sortArr fl true).getLsbD k = true := fun k hk => by
    rw [getLsbD_setBit _ _ _ _ (by omega)]
    by_cases hkf : k = fl
    · exact if_pos hkf
    · rw [if_neg hkf, (hothers k hk hkf).1]
  obtain ⟨g1, hg1, hlen, hin, hsame⟩ := atSortk_look (o := o) (fl := fl) (f := f) hg hst
  have hbrought := brought_of_arrivals hlen hin hown hmask (fun k hk hkf => (hothers k hk hkf).2)
  refine ⟨_, g1.sortMove (s.det (.wg w fl)), g1.sortSlots,
    exec_sortk_last hi hg hw hsg (fun x hx => (hlive x hx).1) hloads htiles harrived, ?_, ?_, ?_, ?_, Wg.sortSlots_sorted hbrought, ?_⟩
  · simp [State.atSortk]
  · simp [hg1]
  · simp [Wg.sortMove, hlen]
  · exact hlen ▸ Wg.sortSlots_perm hbrought
  intro k h hk
  obtain ⟨wt, since, hk1⟩ := hsame k h hk
  obtain ⟨ks, hks, -⟩ := hbrought k (List.getElem?_eq_some_iff.1 hk1).1
  obtain ⟨h', hk', hcount, hready, hs, hq, hfsr, hcb, hrng, hpc, hmr, hmove⟩ :=
    sortMove_flight hrun hk1 (hlive h (List.mem_of_getElem? hk)).2 hks
  refine ⟨h', hk', hcount, hready, hs, hq, hfsr, hcb, hrng, hpc, hmr, fun l n x hl hn hx => ?_⟩
  obtain ⟨wt', since', hx1⟩ := hsame (n / 32) x hx
  exact hmove l n { x with wait := wt', parkAt := since' } hl hn hx1

end Sys2Proof.Machine
end

section
/-! SUPPORT. GETS: the value of each selector for flights of workgroups and for control programs, and the obligation on it (R169, R170). -/

namespace Sys2Proof.Machine

open Sys2Proof.Claim

/-! ### GETS (R169, R170) -/

theorem exec_gets (o : IFmt) (s : State) : exec (.gets o) s = execGets o s := rfl

theorem exec_getsClr (o : IFmt) (s : State) : exec (.getsClr o) s = execGetsClr o s := rfl

/-- The selectors that fill a pair are those of the clocks and of the two counters (R170). -/
theorem getsPair_iff (x : Word) : getsPair x.toNat = true ↔ x = 8 ∨ x = 9 ∨ x = 10 ∨ x = 16 := by
  have key : ∀ n : Word, (x.toNat == n.toNat) = true ↔ x = n := fun n => by rw [beq_iff_eq, BitVec.toNat_inj]
  simp only [getsPair, Bool.or_eq_true, or_assoc]
  exact or_congr (key 8) (or_congr (key 9) (or_congr (key 10) (key 16)))

/-- What GETS writes in a lane: a pair or one register, without flags. -/
theorem gets_out (o : IFmt) (x : Nat) : (if getsPair o.imm.toNat then LaneOut.pair o.d.toNat x else LaneOut.word o.d.toNat x) =
    if o.imm = 8 ∨ o.imm = 9 ∨ o.imm = 10 ∨ o.imm = 16 then w64 o.d (BitVec.ofNat 64 x) else w32 o.d (BitVec.ofNat 32 x) :=
  if_congr (getsPair_iff o.imm) (pair_eq_n64 o.d (x, 0)) rfl

/-- The values of GETS for every flight. -/
theorem getsVal_common (s : State) (r : FlightRef) (f : Flight) (l : Nat) :
    s.getsVal r f 0 l = l ∧ s.getsVal r f 7 l = s.image.devIdx.toNat ∧ s.getsVal r f 10 l = f.retired.toNat ∧
      s.getsVal r f 8 l = (if s.det r then f.retired.toNat else s.clk.toNat) ∧
      s.getsVal r f 9 l = (if s.det r then f.retired.toNat else f.wtime.toNat) ∧
      s.getsVal r f 12 l = (f.tids.getD l 0).toNat ∧ s.getsVal r f 13 l = f.fsr.toNat ∧ s.getsVal r f 14 l = f.sg.toNat ∧
      s.getsVal r f 16 l = f.rngctr.toNat := ⟨rfl, rfl, rfl, rfl, rfl, rfl, rfl, rfl, rfl⟩

/-- The values of GETS that tell a flight of a workgroup where it stands. -/
theorem getsVal_wg {s : State} {w : Nat} {g : Wg} (hg : look s.wgs w = some g) (fl : Nat) (f : Flight) (l : Nat) :
    s.getsVal (.wg w fl) f 1 l = fl ∧ s.getsVal (.wg w fl) f 2 l = g.wgid ∧ s.getsVal (.wg w fl) f 3 l = g.rank ∧
      s.getsVal (.wg w fl) f 4 l = g.core ∧ s.getsVal (.wg w fl) f 5 l = g.core / 64 ∧ s.getsVal (.wg w fl) f 6 l = g.core / 128 ∧
      s.getsVal (.wg w fl) f 11 l = g.part ∧
      ∀ y, look s.launches g.launch = some y → s.getsVal (.wg w fl) f 15 l = y.id.toNat := by
  refine ⟨rfl, ?_, ?_, ?_, ?_, ?_, ?_, fun y hy => ?_⟩ <;>
    simp [State.getsVal, State.wgOf, State.coreOf, State.dieOf, State.partOf, State.launchOf, boardOfCore, dieOfCore, *]

/-- The values of GETS in a control program (R169). -/
theorem getsVal_ctl (s : State) (die part : Nat) (f : Flight) (l : Nat) :
    s.getsVal (.ctl die part) f 1 l = 0 ∧ s.getsVal (.ctl die part) f 2 l = 0 ∧ s.getsVal (.ctl die part) f 3 l = 0 ∧
      s.getsVal (.ctl die part) f 15 l = 0 ∧ s.getsVal (.ctl die part) f 4 l = 512 + die ∧ s.getsVal (.ctl die part) f 6 l = die ∧
      s.getsVal (.ctl die part) f 11 l = part := ⟨rfl, rfl, rfl, rfl, rfl, rfl, rfl⟩

theorem gets_completes {o : IFmt} {s : State} {r : FlightRef} {f : Flight} (hi : s.issuer = some (r, f))
    (hd : (o.imm = 8 ∨ o.imm = 9 ∨ o.imm = 10 ∨ o.imm = 16) → EvenReg o.d) :
    ∃ f', exec (.gets o) s = .next { s.setFlight r f' with free := s.free + 1 } ∧
      Lanes f f' o.g 0 (fun l => if o.imm = 8 ∨ o.imm = 9 ∨ o.imm = 10 ∨ o.imm = 16
        then w64 o.d (BitVec.ofNat 64 (s.getsVal r f o.imm.toNat l)) else w32 o.d (BitVec.ofNat 32 (s.getsVal r f o.imm.toNat l))) := by
  obtain ⟨out, hout⟩ : ∃ out : Nat → LaneOut, out = fun l => if o.imm = 8 ∨ o.imm = 9 ∨ o.imm = 10 ∨ o.imm = 16
        then w64 o.d (BitVec.ofNat 64 (s.getsVal r f o.imm.toNat l)) else w32 o.d (BitVec.ofNat 32 (s.getsVal r f o.imm.toNat l)) := ⟨_, rfl⟩
  have hsound : ∀ l, (out l).Sound := fun l => by
    rw [hout]
    dsimp only
    split
    · next h => exact sound_w64 _ _ _ (hd h)
    · exact sound_w32 _ _ _
  have heffect := laneStep_effect s r f o.g 0 out (fun l _ => hsound l)
  rw [with_rngctr _ _ (by rw [laneStep_rngctr]; simp)] at heffect
  refine ⟨_, ?_, hout ▸ heffect⟩
  rw [exec_gets, execGets, withIssuer_next hi]
  simp only [gets_out, ← hout]
  rfl

/-- A flight with its flags at zero. -/
def Flight.zeroFsr (f : Flight) : Flight := { f with fsr := 0 }

/-- A flight past the instruction it stood at, before a stop moves on with it (R170, R334). -/
def Flight.passed (f : Flight) : Flight :=
  { f with
    ix := f.ix + 1
    stopIx := if f.clause.isNone && f.sg != 0 then f.stopIx + 1 else f.stopIx
    retired := f.retired + 1
    wait := .ready
    doneMask := 0
    opFlags := 0
    ldaData := []
    twinPark := none
    copyHeld := none
    opDue := none
    opBuf := none
    known := [] }

theorem Flight.retire_eq_passed (f : Flight) : f.retire = if f.stopped then f.passed.stopHere else f.passed := rfl

/-- A stop of the flight does not look at its flags. -/
theorem Flight.stopHere_zeroFsr (f : Flight) : f.zeroFsr.stopHere = f.stopHere.zeroFsr := by
  unfold Flight.stopHere Flight.zeroFsr
  dsimp only
  split
  · split <;> rfl
  · split <;> rfl

theorem Flight.retire_zeroFsr (f : Flight) : f.zeroFsr.retire = f.retire.zeroFsr := by
  have hpassed : f.zeroFsr.passed = f.passed.zeroFsr := rfl
  have hstopped : f.zeroFsr.stopped = f.stopped := rfl
  rw [Flight.retire_eq_passed, Flight.retire_eq_passed, hpassed, hstopped, Flight.stopHere_zeroFsr]
  by_cases h : f.stopped = true
  · rw [if_pos h, if_pos h]
  · rw [if_neg h, if_neg h]

theorem Flight.tickTimer_zeroFsr (f : Flight) : f.zeroFsr.tickTimer = f.tickTimer.zeroFsr := by
  unfold Flight.tickTimer Flight.zeroFsr
  dsimp only
  split
  · rfl
  · split <;> rfl

/-- Retiring does not look at the flags of the flight. -/
theorem State.retired_zeroFsr (s : State) (r : FlightRef) (f : Flight) : s.retired r f.zeroFsr = (s.retired r f).zeroFsr := by
  unfold State.retired
  rw [Flight.retire_zeroFsr]
  dsimp only
  split
  · exact Flight.tickTimer_zeroFsr { f.retire with skid := if s.halting r then f.skid + 1 else f.skid }
  · rfl

/-- Settles O34: a lane-by-lane instruction whose value is read selector by selector; the clearing form zeroes fsr, which retiring does
not look at. -/
theorem getsValues : Obligations.GetsValues := by
  refine ⟨?_, ?_⟩
  · intro o s r f hsel pair hi hd
    obtain ⟨f', hx, hl⟩ := gets_completes hi hd
    refine ⟨f', fun l => s.getsVal r f o.imm.toNat l, hx, hl, fun l => ?_⟩
    have sel : ∀ {n : Word}, o.imm = n → s.getsVal r f o.imm.toNat l = s.getsVal r f n.toNat l := fun h => by rw [h]
    obtain ⟨h0, h7, h10, h8, h9, h12, h13, h14, h16⟩ := getsVal_common s r f l
    refine ⟨fun h => (sel h).trans h0, fun h => (sel h).trans h7, fun h => (sel h).trans h10, fun h => (sel h).trans h8,
      fun h => (sel h).trans h9, fun h => (sel h).trans h12, fun h => (sel h).trans h13, fun h => (sel h).trans h14,
      fun h => (sel h).trans h16, ?_, ?_⟩
    · rintro w fl g rfl hg
      obtain ⟨h1, h2, h3, h4, h5, h6, h11, h15⟩ := getsVal_wg hg fl f l
      exact ⟨fun h => (sel h).trans h1, fun h => (sel h).trans h2, fun h => (sel h).trans h3, fun h => (sel h).trans h4,
        fun h => (sel h).trans h5, fun h => (sel h).trans h6, fun h => (sel h).trans h11,
        fun y h hy => (sel h).trans (h15 y hy)⟩
    · rintro die part rfl
      obtain ⟨h1, h2, h3, h15, h4, h6, h11⟩ := getsVal_ctl s die part f l
      refine ⟨?_, fun h => (sel h).trans h4, fun h => (sel h).trans h6, fun h => (sel h).trans h11⟩
      rintro (h | h | h | h)
      · exact (sel h).trans h1
      · exact (sel h).trans h2
      · exact (sel h).trans h3
      · exact (sel h).trans h15
  · intro o s r f hi
    have heffect := laneStep_effect s r f o.g 0 (fun _ => w32 o.d f.fsr) (fun l _ => sound_w32 _ _ _)
    rw [with_rngctr _ _ (by rw [laneStep_rngctr]; simp)] at heffect
    have hword : (fun l => LaneOut.word o.d.toNat (s.getsVal r f 13 l)) = fun _ => w32 o.d f.fsr := by
      funext l
      simp [LaneOut.word, w32, State.getsVal]
    refine ⟨_, ?_, _, heffect, rfl⟩
    rw [exec_getsClr, execGetsClr, withIssuer_next hi]
    simp only [hword, retire_eq]
    by_cases ha : f.acting o.g = []
    · rw [if_neg (by simp [actsOnce_iff, ha]), if_pos ha]
    · rw [if_pos (by simp [actsOnce_iff, ha]), if_neg ha]
      exact congrArg (fun x => Host.Outcome.next (s.setFlight r x)) (State.retired_zeroFsr s r _)

end Sys2Proof.Machine
end

section
/-! SUPPORT. Barriers: the arrival of a flight, the release of a workgroup's and of a tether's flights, and the obligation on them (R163). -/

namespace Sys2Proof.Machine

open Sys2Proof.Claim

/-! ### Instructions that act once (R34) -/

/-- An instruction with a flight-wide effect has it where some active thread's guard holds. -/
theorem onceWith_acts {s : State} {r : FlightRef} {f : Flight} (hi : s.issuer = some (r, f)) {g : BitVec 4} (ha : f.acting g ≠ [])
    (body : FlightRef → Flight → State) : onceWith g body s = .next (body r f) := by
  rw [onceWith, withIssuer_next hi, if_pos ((actsOnce_iff f g).2 ha)]

/-- Where no active thread's guard holds, it only retires. -/
theorem onceWith_idle {s : State} {r : FlightRef} {f : Flight} (hi : s.issuer = some (r, f)) {g : BitVec 4} (ha : f.acting g = [])
    (body : FlightRef → Flight → State) : onceWith g body s = .next (s.retire r f) := by
  rw [onceWith, withIssuer_next hi, if_neg (by simp [actsOnce_iff, ha])]

/-- Accesses are outstanding where a count of R27 is not 0, or the store of an UNSEAL has still to take its place (R229). -/
theorem accessesDone_eq_false {f : Flight} : f.accessesDone = false ↔
    f.nLoads ≠ 0 ∨ f.nStores ≠ 0 ∨ ∃ a ∈ f.accs, ∃ n, a.kind = .unseal n := by
  have hkind : ∀ k : AccKind, k.isUnseal = true ↔ ∃ n, k = .unseal n := fun k => by cases k <;> simp [AccKind.isUnseal]
  have haccs : f.accs.all (fun a => !a.kind.isUnseal) = false ↔ ∃ a ∈ f.accs, ∃ n, a.kind = .unseal n := by
    simp [List.all_eq_false, hkind]
  unfold Flight.accessesDone
  rw [Bool.and_eq_false_iff, Bool.and_eq_false_iff, haccs, beq_eq_false_iff_ne, beq_eq_false_iff_ne, or_assoc]

/-! ### Lists of flights -/

/-- A list rebuilt index by index. -/
theorem getElem?_filterMap_range {α : Type} [Inhabited α] (l : List α) (F : Nat → α → α) (j : Nat) :
    ((List.range l.length).filterMap (fun k => (l[k]?).map (F k)))[j]? = (l[j]?).map (F j) := by
  have hsome : (List.range l.length).filterMap (fun k => (l[k]?).map (F k)) = (List.range l.length).map (fun k => F k (l.getD k default)) := by
    rw [← List.filterMap_eq_map]
    refine List.filterMap_congr (fun k hk => ?_)
    rw [List.getElem?_eq_getElem (List.mem_range.1 hk)]
    simp [List.mem_range.1 hk]
  rw [hsome, List.getElem?_map]
  by_cases hj : j < l.length
  · simp [hj]
  · simp [hj]

theorem length_filterMap_range {α : Type} [Inhabited α] (l : List α) (F : Nat → α → α) :
    ((List.range l.length).filterMap (fun k => (l[k]?).map (F k))).length = l.length := by
  refine Nat.le_antisymm ((List.length_filterMap_le _ _).trans (List.length_range ..).le) ?_
  by_contra h
  have hlt := Nat.not_le.1 h
  have := getElem?_filterMap_range l F ((List.range l.length).filterMap (fun k => (l[k]?).map (F k))).length
  rw [List.getElem?_eq_getElem hlt] at this
  simp at this

/-- A bit of a mask with one bit set. -/
theorem getLsbD_setBit_true {n : Nat} (m : BitVec n) {i : Nat} (hi : i < n) (k : Nat) :
    (setBit m i true).getLsbD k = true ↔ k = i ∨ m.getLsbD k = true := by
  by_cases hk : k < n
  · rw [getLsbD_setBit m i k true hk]
    by_cases h : k = i <;> simp [h]
  · have hne : k ≠ i := by omega
    simp [BitVec.getLsbD_of_ge _ _ (Nat.not_lt.1 hk), hne]

/-! ### What a release leaves of a flight -/

/-- The timer's tick changes the timer alone (R344). -/
theorem Flight.tickTimer_eq (f : Flight) : ∃ on rem pend, f.tickTimer = { f with timerOn := on, timerRem := rem, tpend := pend } := by
  unfold Flight.tickTimer
  split
  · exact ⟨f.timerOn, f.timerRem, f.tpend, rfl⟩
  · split
    · exact ⟨false, 0, true, rfl⟩
    · exact ⟨f.timerOn, f.timerRem - 1, f.tpend, rfl⟩

/-- A flight that is released is past its instruction, or, once it is stopped, stopped there. -/
theorem Flight.released_kept (det : Bool) (f : Flight) :
    RegsKept f (f.released det) ∧ PredsKept f (f.released det) ∧ (f.released det).fsr = f.fsr := by
  have hretire : RegsKept f f.retire ∧ PredsKept f f.retire ∧ f.retire.fsr = f.fsr := by
    rw [Flight.retire_eq_passed]
    split
    · obtain ⟨hv, hs, hp, hq, hfsr, -⟩ := f.passed.stopHere_kept
      obtain ⟨kv, ks⟩ := vs_congr hv hs
      obtain ⟨kp, kq⟩ := pq_congr hp hq
      exact ⟨⟨ks, fun l r _ => kv l r⟩, ⟨kq, kp⟩, hfsr⟩
    · exact ⟨⟨fun _ => rfl, fun _ _ _ => rfl⟩, ⟨fun _ => rfl, fun _ _ => rfl⟩, rfl⟩
  obtain ⟨on, rem, pend, htick⟩ := f.retire.tickTimer_eq
  unfold Flight.released
  split
  · rw [htick]
    exact hretire
  · exact hretire

/-- A released flight that is not stopped is ready at its next instruction (R163). -/
theorem Flight.released_ready (det : Bool) {f : Flight} (h : f.stopped = false) :
    (f.released det).wait = .ready ∧ (f.released det).ix = f.ix + 1 ∧ (f.released det).retired = f.retired + 1 := by
  have hretire : f.retire = f.passed := by rw [Flight.retire_eq_passed, if_neg (by simp [h])]
  obtain ⟨on, rem, pend, htick⟩ := f.passed.tickTimer_eq
  unfold Flight.released
  rw [hretire]
  split
  · rw [htick]
    exact ⟨rfl, rfl, rfl⟩
  · exact ⟨rfl, rfl, rfl⟩

/-! ### The release of a workgroup's flights -/

theorem Wg.allArrived_iff (g : Wg) (arr : Word) : g.allArrived arr = true ↔
    ∀ (k : Nat) h, g.flights[k]? = some h → arr.getLsbD k = true ∨ h.ended = true := by
  simp only [Wg.allArrived, List.all_eq_true, List.mem_range, Bool.or_eq_true]
  constructor
  · intro h k f hf
    simpa [hf] using h k (List.getElem?_eq_some_iff.1 hf).1
  · intro h k hk
    simpa [List.getElem?_eq_getElem hk] using h k _ (List.getElem?_eq_getElem hk)

theorem Wg.releaseBar_same {det : Bool} {g : Wg} (h : g.barArr = 0 ∨ g.allArrived g.barArr = false) : g.releaseBar det = g := by
  unfold Wg.releaseBar
  rw [if_neg]
  rcases h with h | h <;> simp [h]

/-- Whether or not a release at BAR takes place, the workgroup's work and its arrivals at BART stay. -/
theorem Wg.releaseBar_frame (det : Bool) (g : Wg) : (g.releaseBar det).bartArr = g.bartArr ∧ (g.releaseBar det).launch = g.launch ∧
    (g.releaseBar det).tether = g.tether := by
  unfold Wg.releaseBar
  split <;> exact ⟨rfl, rfl, rfl⟩

theorem Wg.releaseBar_length (det : Bool) (g : Wg) : (g.releaseBar det).flights.length = g.flights.length := by
  unfold Wg.releaseBar
  split
  · rw [length_filterMap_range]
  · rfl

theorem Wg.releaseBar_all (det : Bool) {g : Wg} (h0 : g.barArr ≠ 0) (hall : g.allArrived g.barArr = true) :
    (g.releaseBar det).barArr = 0 ∧ (g.releaseBar det).barK = g.barK + 1 ∧
      ∀ k : Nat, (g.releaseBar det).flights[k]? = (g.flights[k]?).map (fun f => if g.barArr.getLsbD k then f.released det else f) := by
  unfold Wg.releaseBar
  rw [if_pos ⟨h0, hall⟩]
  exact ⟨rfl, rfl, getElem?_filterMap_range g.flights (fun k f => if g.barArr.getLsbD k then f.released det else f)⟩

theorem Wg.releaseBart_flights (det : Bool) (g : Wg) (k : Nat) :
    (g.releaseBart det).flights[k]? = (g.flights[k]?).map (fun f => if g.bartArr.getLsbD k then f.released det else f) :=
  getElem?_filterMap_range g.flights (fun k f => if g.bartArr.getLsbD k then f.released det else f) k

/-! ### The barriers of a tether -/

/-- BARRIER_RELEASE at BART for the tether of a workgroup. -/
def State.bartCheck (s : State) (det : Bool) (w : Nat) : State :=
  match s.tetherOf (.wg w 0) with
  | none => s
  | some (_, _, t) =>
    let gs := t.wgs.filterMap (fun u => look s.wgs u)
    if gs.all (fun g => g.allArrived g.bartArr) && gs.any (fun g => g.bartArr != 0) then
      t.wgs.foldl (fun s u => s.modWg u (Wg.releaseBart det)) s
    else s

theorem State.barrierCheck_eq (s : State) (w : Nat) :
    s.barrierCheck w = (s.modWg w (Wg.releaseBar (s.det (.wg w 0)))).bartCheck (s.det (.wg w 0)) w := rfl

section
variable {s : State} {w L T : Nat} {y : Tether} (hy : s.tetherOf (.wg w 0) = some (L, T, y))
include hy

/-- Nothing is released where nobody has arrived at a BART, or somebody has still to. -/
theorem State.bartCheck_quiet (det : Bool) (h : (∀ u ∈ y.wgs, ∀ g, look s.wgs u = some g → g.bartArr = 0) ∨
    ∃ u ∈ y.wgs, ∃ g, look s.wgs u = some g ∧ g.allArrived g.bartArr = false) : s.bartCheck det w = s := by
  unfold State.bartCheck
  rw [hy]
  dsimp only
  rw [if_neg]
  rw [Bool.and_eq_true, List.all_eq_true, List.any_eq_true]
  rintro ⟨hall, g, hg, hne⟩
  obtain ⟨u, hu, hgu⟩ := List.mem_filterMap.1 hg
  rcases h with h | ⟨v, hv, x, hx, hxa⟩
  · simp [h u hu g hgu] at hne
  · rw [hall x (List.mem_filterMap.2 ⟨v, hv, hx⟩)] at hxa
    cases hxa

/-- With the last arrival at a BART every workgroup of the tether is released. -/
theorem State.bartCheck_release (det : Bool) (hall : ∀ u ∈ y.wgs, ∀ g, look s.wgs u = some g → g.allArrived g.bartArr = true)
    (hany : ∃ u ∈ y.wgs, ∃ g, look s.wgs u = some g ∧ g.bartArr ≠ 0) :
    s.bartCheck det w = y.wgs.foldl (fun s u => s.modWg u (Wg.releaseBart det)) s := by
  unfold State.bartCheck
  rw [hy]
  dsimp only
  rw [if_pos]
  rw [Bool.and_eq_true, List.all_eq_true, List.any_eq_true]
  refine ⟨fun g hg => ?_, ?_⟩
  · obtain ⟨u, hu, hgu⟩ := List.mem_filterMap.1 hg
    exact hall u hu g hgu
  · obtain ⟨u, hu, g, hg, hne⟩ := hany
    exact ⟨g, List.mem_filterMap.2 ⟨u, hu, hg⟩, by simpa using hne⟩

end

theorem State.bartCheck_alone {s : State} {w : Nat} (h : s.tetherOf (.wg w 0) = none) (det : Bool) : s.bartCheck det w = s := by
  unfold State.bartCheck
  rw [h]

theorem State.bartCheck_mem (s : State) (det : Bool) (w : Nat) : (s.bartCheck det w).mem = s.mem := by
  unfold State.bartCheck
  split
  · rfl
  · dsimp only
    split
    · exact State.foldl_mem (fun s u => s.modWg u (Wg.releaseBart det)) (fun _ _ => rfl) _ _
    · rfl

theorem State.barrierCheck_mem (s : State) (w : Nat) : (s.barrierCheck w).mem = s.mem := by
  rw [State.barrierCheck_eq, State.bartCheck_mem, State.modWg_mem]

/-- The same change of several workgroups, each named once. -/
theorem State.look_foldl_modWg (F : Wg → Wg) (ws : List Nat) (hn : ws.Nodup) (s : State) (u : Nat) :
    look (ws.foldl (fun s u => s.modWg u F) s).wgs u = if u ∈ ws then (look s.wgs u).map F else look s.wgs u := by
  induction ws generalizing s with
  | nil => simp
  | cons v ws ih =>
    obtain ⟨hv, hn⟩ := List.nodup_cons.1 hn
    rw [List.foldl_cons, ih hn, State.modWg_wgs, look_alter]
    by_cases hu : u = v
    · subst hu
      simp [hv]
    · simp [hu]

/-! ### An arrival -/

/-- A workgroup one of whose flights waits. -/
def Wg.waiting (g : Wg) (fl : Nat) (wt : Wait) (now : Nat) : Wg :=
  { g with flights := modAt g.flights fl (fun f => { f with wait := wt, parkAt := now }) }

theorem Wg.waiting_flight {g : Wg} {k : Nat} {h : Flight} (hk : g.flights[k]? = some h) (fl : Nat) (wt : Wait) (now : Nat) :
    (g.waiting fl wt now).flights[k]? = some (if k = fl then { h with wait := wt, parkAt := now } else h) := by
  rw [Wg.waiting, getElem?_modAt]
  by_cases hkf : k = fl
  · rw [if_pos hkf, if_pos hkf, ← hkf, hk, Option.map_some]
  · rw [if_neg hkf, if_neg hkf, hk]

/-- A flight of such a workgroup is as before but for what it waits for. -/
theorem Wg.waiting_flight_eq {g : Wg} {k : Nat} {h : Flight} (hk : g.flights[k]? = some h) (fl : Nat) (wt : Wait) (now : Nat) :
    ∃ x since, (g.waiting fl wt now).flights[k]? = some { h with wait := x, parkAt := since } ∧ (k = fl → x = wt) := by
  rw [Wg.waiting_flight hk]
  by_cases hkf : k = fl
  · exact ⟨wt, now, by rw [if_pos hkf], fun _ => rfl⟩
  · exact ⟨h.wait, h.parkAt, by rw [if_neg hkf], fun h => absurd h hkf⟩

/-- All have arrived by a mask where the one that waits now and all the others have. -/
theorem Wg.waiting_allArrived (g : Wg) (fl : Nat) (wt : Wait) (now : Nat) (arr : Word) :
    (g.waiting fl wt now).allArrived arr = g.allArrived arr := by
  have hended : ∀ k : Nat, ((g.waiting fl wt now).flights[k]?).map (·.ended) = (g.flights[k]?).map (·.ended) := by
    intro k
    cases hk : g.flights[k]? with
    | none =>
      simp only [Wg.waiting, getElem?_modAt, hk]
      split
      · next hkf => rw [← hkf, hk]; rfl
      · rfl
    | some h =>
      obtain ⟨x, since, hx, -⟩ := Wg.waiting_flight_eq hk fl wt now
      simp [hx]
  have hlen : (g.waiting fl wt now).flights.length = g.flights.length := length_modAt _ _ _
  simp only [Wg.allArrived, hended, hlen]

/-- The state in which a flight has arrived at a barrier and waits there; `mark` notes its arrival. -/
def State.arrivedAt (s : State) (w fl : Nat) (wt : Wait) (mark : Wg → Wg) : State := (s.stall (.wg w fl) wt).modWg w mark

theorem State.arrivedAt_mem (s : State) (w fl : Nat) (wt : Wait) (mark : Wg → Wg) : (s.arrivedAt w fl wt mark).mem = s.mem := by
  simp [State.arrivedAt]

theorem State.arrivedAt_launches (s : State) (w fl : Nat) (wt : Wait) (mark : Wg → Wg) :
    (s.arrivedAt w fl wt mark).launches = s.launches := by
  simp [State.arrivedAt, State.stall]

theorem State.arrivedAt_look {s : State} {w : Nat} {g : Wg} (hg : look s.wgs w = some g) (hst : g.st = .running) (fl : Nat) (wt : Wait)
    (mark : Wg → Wg) (v : Nat) : look (s.arrivedAt w fl wt mark).wgs v =
      if v = w then some (mark (g.waiting fl wt s.clk.toNat)) else look s.wgs v := by
  have hrun : s.halting (.wg w fl) = false := halting_running (g := g) hg hst
  rw [State.arrivedAt, stall_running hrun]
  simp only [State.modFlight, State.modWg_wgs, look_alter, if_true, hg, Option.map_some]
  by_cases hv : v = w
  · rw [if_pos hv, if_pos hv]
    rfl
  · rw [if_neg hv, if_neg hv, if_neg hv]

/-- An arrival leaves a workgroup in its tether. -/
theorem State.tetherOf_congr {s t : State} {w : Nat} {g g' : Wg} (hg : look s.wgs w = some g) (hg' : look t.wgs w = some g')
    (hl : t.launches = s.launches) (hlaunch : g'.launch = g.launch) (htether : g'.tether = g.tether) :
    t.tetherOf (.wg w 0) = s.tetherOf (.wg w 0) := by
  simp [State.tetherOf, State.wgOf, hg, hg', hl, hlaunch, htether]

/-- The note of an arrival at BAR, and at BART. -/
def markBar (fl : Nat) (g : Wg) : Wg := { g with barArr := setBit g.barArr fl true }
def markBart (fl : Nat) (g : Wg) : Wg := { g with bartArr := setBit g.bartArr fl true }

theorem exec_bar (o : VFmt) (s : State) : exec (.bar o) s = arrive o.g .bar markBar s := rfl
theorem exec_bart (o : VFmt) (s : State) : exec (.bart o) s = arrive o.g .bart markBart s := rfl

section
variable {s : State} {w fl : Nat} {g : Wg} {f : Flight} (hc : s.cur = some (.wg w fl)) (hg : look s.wgs w = some g)
  (hf : g.flights[fl]? = some f) {gd : BitVec 4} (ha : f.acting gd ≠ []) (hw : f.wait = .ready)
include hc hg hf ha hw

/-- A flight with accesses outstanding does not arrive (R163, R230). -/
theorem arrive_drain {wt : Wait} (hwt : wt ≠ .ready) (mark : Nat → Wg → Wg) (h : f.accessesDone = false) :
    arrive gd wt mark s = .next (s.stall (.wg w fl) .drain) := by
  have hi : s.issuer = some (.wg w fl, f) := State.issuer_of hc (by simp [State.flight?, hg, hf])
  rw [arrive, onceWith_acts hi ha]
  dsimp only
  rw [if_neg (by rw [hw]; exact hwt.symm), if_pos (by simp [h])]

theorem arrive_arrives {wt : Wait} (hwt : wt ≠ .ready) (mark : Nat → Wg → Wg) (h : f.accessesDone = true) :
    arrive gd wt mark s = .next ((s.arrivedAt w fl wt (mark fl)).barrierCheck w) := by
  have hi : s.issuer = some (.wg w fl, f) := State.issuer_of hc (by simp [State.flight?, hg, hf])
  rw [arrive, onceWith_acts hi ha]
  dsimp only
  rw [if_neg (by rw [hw]; exact hwt.symm), if_neg (by simp [h])]
  rfl

end

/-! ### Arrivals and releases (R163) -/

section
variable {s : State} {w fl : Nat} {g : Wg} (hg : look s.wgs w = some g) (hst : g.st = .running)
include hg hst

/-- After an arrival and the check of BAR, the workgroup has the arrival noted, and its flights released if it was the last; the others
are as before. -/
theorem look_after_bar (det : Bool) (wt : Wait) (mark : Wg → Wg) (v : Nat) :
    look ((s.arrivedAt w fl wt mark).modWg w (Wg.releaseBar det)).wgs v =
      if v = w then some ((mark (g.waiting fl wt s.clk.toNat)).releaseBar det) else look s.wgs v := by
  rw [State.modWg_wgs, look_alter, State.arrivedAt_look hg hst, State.arrivedAt_look hg hst, if_pos rfl]
  by_cases hv : v = w
  · rw [if_pos hv, if_pos hv, Option.map_some]
  · rw [if_neg hv, if_neg hv, if_neg hv]

theorem tetherOf_after_bar (det : Bool) (wt : Wait) {mark : Wg → Wg} (hl : ∀ x, (mark x).launch = x.launch)
    (ht : ∀ x, (mark x).tether = x.tether) :
    ((s.arrivedAt w fl wt mark).modWg w (Wg.releaseBar det)).tetherOf (.wg w 0) = s.tetherOf (.wg w 0) := by
  obtain ⟨-, hlaunch, htether⟩ := Wg.releaseBar_frame det (mark (g.waiting fl wt s.clk.toNat))
  exact State.tetherOf_congr hg (by rw [look_after_bar hg hst, if_pos rfl]) (State.arrivedAt_launches s w fl wt mark)
    (hlaunch.trans (hl _)) (htether.trans (ht _))

/-- An arrival at BAR releases nobody from a BART where nobody has arrived there. -/
theorem barrierCheck_bar (hq : ∀ L T y, s.tetherOf (.wg w fl) = some (L, T, y) → ∀ u ∈ y.wgs, ∀ h, look s.wgs u = some h → h.bartArr = 0) :
    look ((s.arrivedAt w fl .bar (markBar fl)).barrierCheck w).wgs w = some
      ((markBar fl (g.waiting fl .bar s.clk.toNat)).releaseBar ((s.arrivedAt w fl .bar (markBar fl)).det (.wg w 0))) := by
  have hlook := look_after_bar hg hst (fl := fl) ((s.arrivedAt w fl .bar (markBar fl)).det (.wg w 0)) .bar (markBar fl)
  have htether := tetherOf_after_bar hg hst (fl := fl) ((s.arrivedAt w fl .bar (markBar fl)).det (.wg w 0)) .bar
    (mark := markBar fl) (fun _ => rfl) (fun _ => rfl)
  rw [State.barrierCheck_eq]
  cases hs : s.tetherOf (.wg w 0) with
  | none => rw [State.bartCheck_alone (htether.trans hs), hlook, if_pos rfl]
  | some x =>
    obtain ⟨L, T, y⟩ := x
    rw [State.bartCheck_quiet (htether.trans hs) _ (.inl fun u hu h hh => ?_), hlook, if_pos rfl]
    rw [hlook] at hh
    split at hh
    · next huw =>
      obtain rfl := Option.some.inj hh
      exact (Wg.releaseBar_frame _ _).1.trans (hq L T y hs w (huw ▸ hu) g hg)
    · exact hq L T y hs u hu h hh

/-- With no arrival at BAR noted, a check of the barriers is one of BART. -/
theorem barrierCheck_bart (hbar : g.barArr = 0) : ∃ s1 : State, (∀ v, look s1.wgs v =
      if v = w then some (markBart fl (g.waiting fl .bart s.clk.toNat)) else look s.wgs v) ∧
    s1.tetherOf (.wg w 0) = s.tetherOf (.wg w 0) ∧
    (s.arrivedAt w fl .bart (markBart fl)).barrierCheck w = s1.bartCheck ((s.arrivedAt w fl .bart (markBart fl)).det (.wg w 0)) w := by
  refine ⟨_, fun v => ?_, tetherOf_after_bar hg hst _ .bart (mark := markBart fl) (fun _ => rfl) (fun _ => rfl), State.barrierCheck_eq _ _⟩
  rw [look_after_bar hg hst, Wg.releaseBar_same (g := markBart fl (g.waiting fl .bart s.clk.toNat)) (.inl hbar)]

end

/-- The flights that wait at a BAR, once all have arrived. -/
theorem bar_releases {g : Wg} {fl : Nat} (hfl : fl < 32) (det : Bool) (now : Nat) (hstop : ∀ h ∈ g.flights, h.stopped = false)
    (hall : ∀ (k : Nat) h, g.flights[k]? = some h → k ≠ fl → g.barArr.getLsbD k = true ∨ h.ended = true) :
    let g' := (markBar fl (g.waiting fl .bar now)).releaseBar det
    g'.barArr = 0 ∧ g'.barK = g.barK + 1 ∧
      ∀ (k : Nat) h, g.flights[k]? = some h → ∃ h', g'.flights[k]? = some h' ∧ RegsKept h h' ∧ PredsKept h h' ∧ h'.fsr = h.fsr ∧
        (k = fl ∨ g.barArr.getLsbD k = true → h'.wait = .ready ∧ h'.ix = h.ix + 1 ∧ h'.retired = h.retired + 1) := by
  have hbit := getLsbD_setBit_true g.barArr hfl
  have h0 : (markBar fl (g.waiting fl .bar now)).barArr ≠ 0 := by
    intro he
    have := (hbit fl).2 (.inl rfl)
    rw [show setBit g.barArr fl true = 0 from he] at this
    simp at this
  have harr : (markBar fl (g.waiting fl .bar now)).allArrived (markBar fl (g.waiting fl .bar now)).barArr = true := by
    refine (Wg.waiting_allArrived g fl .bar now _).trans ((Wg.allArrived_iff _ _).2 fun k h hk => ?_)
    by_cases hkf : k = fl
    · exact .inl ((hbit k).2 (.inl hkf))
    · exact (hall k h hk hkf).imp (fun hb => (hbit k).2 (.inr hb)) id
  obtain ⟨hzero, hcount, hflights⟩ := Wg.releaseBar_all det h0 harr
  refine ⟨hzero, hcount, fun k h hk => ?_⟩
  obtain ⟨x, since, hx, -⟩ := Wg.waiting_flight_eq hk fl .bar now
  have hk' := hflights k
  rw [show (markBar fl (g.waiting fl .bar now)).flights = (g.waiting fl .bar now).flights from rfl, hx, Option.map_some] at hk'
  refine ⟨_, hk', ?_⟩
  by_cases hb : (setBit g.barArr fl true).getLsbD k = true
  · rw [show (markBar fl (g.waiting fl .bar now)).barArr = setBit g.barArr fl true from rfl, if_pos hb]
    obtain ⟨hr, hp, hfsr⟩ := Flight.released_kept det { h with wait := x, parkAt := since }
    exact ⟨hr, hp, hfsr, fun _ => Flight.released_ready det (f := { h with wait := x, parkAt := since }) (hstop h (List.mem_of_getElem? hk))⟩
  · rw [show (markBar fl (g.waiting fl .bar now)).barArr = setBit g.barArr fl true from rfl, if_neg hb]
    exact ⟨⟨fun _ => rfl, fun _ _ _ => rfl⟩, ⟨fun _ => rfl, fun _ _ => rfl⟩, rfl, fun ha => absurd ((hbit k).2 ha) hb⟩

/-- A flight that waits at a BAR for another one. -/
theorem bar_waits {g : Wg} {fl k : Nat} {f h : Flight} (hfl : fl < 32) (det : Bool) (now : Nat) (hf : g.flights[fl]? = some f)
    (hk : g.flights[k]? = some h) (hkf : k ≠ fl) (hb : g.barArr.getLsbD k = false) (he : h.ended = false) :
    let g' := (markBar fl (g.waiting fl .bar now)).releaseBar det
    g'.barArr.getLsbD fl = true ∧ g'.barK = g.barK ∧
      ∃ f', g'.flights[fl]? = some f' ∧ f'.wait = .bar ∧ f'.ix = f.ix ∧ f'.retired = f.retired ∧ RegsKept f f' := by
  have hnot : (markBar fl (g.waiting fl .bar now)).allArrived (markBar fl (g.waiting fl .bar now)).barArr = false := by
    refine (Wg.waiting_allArrived g fl .bar now _).trans (Bool.eq_false_iff.2 fun hall => ?_)
    rcases (Wg.allArrived_iff _ _).1 hall k h hk with ha | ha
    · rcases (getLsbD_setBit_true g.barArr hfl k).1 ha with rfl | ha
      · exact hkf rfl
      · rw [hb] at ha
        cases ha
    · rw [he] at ha
      cases ha
  obtain ⟨x, since, hx, hwt⟩ := Wg.waiting_flight_eq hf fl .bar now
  intro g'
  rw [show g' = markBar fl (g.waiting fl .bar now) from Wg.releaseBar_same (.inr hnot)]
  exact ⟨(getLsbD_setBit_true g.barArr hfl fl).2 (.inl rfl), rfl, _, hx, hwt rfl, rfl, rfl, fun _ => rfl, fun _ _ _ => rfl⟩

/-- A workgroup once a flight of its tether has arrived at a BART: its arrivals, with that one; whether all have arrived; its flights, as
before but for what they wait for. -/
theorem bart_marked {s s1 : State} {w fl u : Nat} {g gu : Wg} (hfl : fl < 32) (hg : look s.wgs w = some g)
    (hlook : ∀ v, look s1.wgs v = if v = w then some (markBart fl (g.waiting fl .bart s.clk.toNat)) else look s.wgs v)
    (hgu : look s.wgs u = some gu) :
    ∃ x, look s1.wgs u = some x ∧ x.bartK = gu.bartK ∧
      (∀ k, x.bartArr.getLsbD k = true ↔ (u = w ∧ k = fl) ∨ gu.bartArr.getLsbD k = true) ∧
      (x.allArrived x.bartArr = true ↔
        ∀ (k : Nat) h, gu.flights[k]? = some h → ((u = w ∧ k = fl) ∨ gu.bartArr.getLsbD k = true) ∨ h.ended = true) ∧
      ∀ (k : Nat) h, gu.flights[k]? = some h → ∃ wt since, x.flights[k]? = some { h with wait := wt, parkAt := since } := by
  by_cases huw : u = w
  · obtain rfl : g = gu := Option.some.inj (hg.symm.trans (huw ▸ hgu))
    have hbit : ∀ k, (setBit g.bartArr fl true).getLsbD k = true ↔ (u = w ∧ k = fl) ∨ g.bartArr.getLsbD k = true := fun k => by
      simp [getLsbD_setBit_true g.bartArr hfl k, huw]
    refine ⟨markBart fl (g.waiting fl .bart s.clk.toNat), by rw [hlook, if_pos huw], rfl, hbit, ?_, fun k h hk => ?_⟩
    · refine Iff.trans (iff_of_eq (congrArg (· = true) (Wg.waiting_allArrived g fl .bart _ (setBit g.bartArr fl true)))) ?_
      simp only [Wg.allArrived_iff, hbit]
    · obtain ⟨x, since, hx, -⟩ := Wg.waiting_flight_eq hk fl .bart s.clk.toNat
      exact ⟨x, since, hx⟩
  · refine ⟨gu, by rw [hlook, if_neg huw, hgu], rfl, fun k => by simp [huw], ?_, fun k h hk => ⟨h.wait, h.parkAt, hk⟩⟩
    simp only [Wg.allArrived_iff, huw, false_and, false_or]

section
variable {o : VFmt} {s : State} {w fl L T : Nat} {g : Wg} {f : Flight} {y : Tether} (hc : s.cur = some (.wg w fl))
  (hg : look s.wgs w = some g) (hf : g.flights[fl]? = some f) (ha : f.acting o.g ≠ []) (hw : f.wait = .ready)
  (hd : f.accessesDone = true) (hst : g.st = .running) (hfl : fl < 32) (hbar : g.barArr = 0)
  (hy : s.tetherOf (.wg w 0) = some (L, T, y))
include hc hg hf ha hw hd hst hfl hbar hy

/-- The last flight of a tether to arrive at a BART releases all. -/
theorem bart_releases (hnd : y.wgs.Nodup) (hwy : w ∈ y.wgs)
    (hall : ∀ u ∈ y.wgs, ∀ gu, look s.wgs u = some gu → ∀ (k : Nat) h, gu.flights[k]? = some h → (u ≠ w ∨ k ≠ fl) →
      gu.bartArr.getLsbD k = true ∨ h.ended = true) :
    ∃ t, exec (.bart o) s = .next t ∧ t.mem = s.mem ∧ ∀ u ∈ y.wgs, ∀ gu, look s.wgs u = some gu → ∃ gu', look t.wgs u = some gu' ∧
      gu'.bartArr = 0 ∧ gu'.bartK = gu.bartK + 1 ∧
      ∀ (k : Nat) h, gu.flights[k]? = some h → gu.bartArr.getLsbD k = true ∨ (u = w ∧ k = fl) → h.stopped = false →
        ∃ h', gu'.flights[k]? = some h' ∧ h'.wait = .ready ∧ h'.ix = h.ix + 1 ∧ h'.retired = h.retired + 1 ∧ RegsKept h h' := by
  obtain ⟨s1, hlook, htether, hcheck⟩ := barrierCheck_bart hg hst (fl := fl) hbar
  have hmarked := fun {u : Nat} {gu : Wg} (h : look s.wgs u = some gu) => bart_marked (s1 := s1) (u := u) hfl hg hlook h
  have harrived : ∀ u ∈ y.wgs, ∀ x, look s1.wgs u = some x → x.allArrived x.bartArr = true := by
    intro u hu x hx
    obtain ⟨gu, hgu⟩ : ∃ gu, look s.wgs u = some gu := by
      rw [hlook] at hx
      split at hx
      · next huw => exact ⟨g, huw ▸ hg⟩
      · exact ⟨x, hx⟩
    obtain ⟨x', hx', -, -, harr, -⟩ := hmarked hgu
    obtain rfl := Option.some.inj (hx.symm.trans hx')
    refine harr.2 fun k h hk => ?_
    by_cases hown : u = w ∧ k = fl
    · exact .inl (.inl hown)
    · exact (hall u hu gu hgu k h hk (by tauto)).imp .inr id
  have hsome : ∃ u ∈ y.wgs, ∃ x, look s1.wgs u = some x ∧ x.bartArr ≠ 0 := by
    obtain ⟨x, hx, -, hbit, -⟩ := hmarked hg
    refine ⟨w, hwy, x, hx, fun h0 => ?_⟩
    have := (hbit fl).2 (.inl ⟨rfl, rfl⟩)
    simp [h0] at this
  have hrelease := State.bartCheck_release (htether.trans hy) ((s.arrivedAt w fl .bart (markBart fl)).det (.wg w 0)) harrived hsome
  refine ⟨_, (exec_bart o s).trans (arrive_arrives hc hg hf ha hw (by simp) markBart hd),
    (State.barrierCheck_mem _ _).trans (State.arrivedAt_mem _ _ _ _ _), fun u hu gu hgu => ?_⟩
  obtain ⟨x, hx, hcount, hbit, -, hflight⟩ := hmarked hgu
  refine ⟨_, by rw [hcheck, hrelease, State.look_foldl_modWg _ _ hnd, if_pos hu, hx, Option.map_some], rfl, congrArg (· + 1) hcount,
    fun k h hk hor hs => ?_⟩
  obtain ⟨wt, since, hk'⟩ := hflight k h hk
  refine ⟨_, by rw [Wg.releaseBart_flights, hk', Option.map_some, if_pos ((hbit k).2 hor.symm)], ?_⟩
  obtain ⟨hready, hix, hretired⟩ := Flight.released_ready ((s.arrivedAt w fl .bart (markBart fl)).det (.wg w 0))
    (f := { h with wait := wt, parkAt := since }) hs
  exact ⟨hready, hix, hretired, (Flight.released_kept _ { h with wait := wt, parkAt := since }).1⟩

/-- A flight that arrives at a BART while another of its tether has still to waits there. -/
theorem bart_waits {u k : Nat} {gu : Wg} {h : Flight} (huy : u ∈ y.wgs) (hgu : look s.wgs u = some gu) (hk : gu.flights[k]? = some h)
    (hne : u ≠ w ∨ k ≠ fl) (hb : gu.bartArr.getLsbD k = false) (he : h.ended = false) :
    ∃ t g' f', exec (.bart o) s = .next t ∧ t.mem = s.mem ∧ look t.wgs w = some g' ∧ g'.bartArr.getLsbD fl = true ∧ g'.bartK = g.bartK ∧
      g'.flights[fl]? = some f' ∧ f'.wait = .bart ∧ f'.ix = f.ix ∧ f'.retired = f.retired ∧ RegsKept f f' ∧
      ∀ v x, v ≠ w → look s.wgs v = some x → look t.wgs v = some x := by
  obtain ⟨s1, hlook, htether, hcheck⟩ := barrierCheck_bart hg hst (fl := fl) hbar
  obtain ⟨x, hx, -, -, harr, -⟩ := bart_marked (s1 := s1) (u := u) hfl hg hlook hgu
  have hnot : x.allArrived x.bartArr = false := Bool.eq_false_iff.2 fun hall => by
    rcases harr.1 hall k h hk with (⟨huw, hkf⟩ | ha) | ha
    · exact hne.elim (· huw) (· hkf)
    · simp [hb] at ha
    · simp [he] at ha
  have hquiet := State.bartCheck_quiet (htether.trans hy) ((s.arrivedAt w fl .bart (markBart fl)).det (.wg w 0))
    (.inr ⟨u, huy, x, hx, hnot⟩)
  obtain ⟨wt, since, hflight, hwt⟩ := Wg.waiting_flight_eq hf fl .bart s.clk.toNat
  refine ⟨_, markBart fl (g.waiting fl .bart s.clk.toNat), _,
    (exec_bart o s).trans (arrive_arrives hc hg hf ha hw (by simp) markBart hd),
    (State.barrierCheck_mem _ _).trans (State.arrivedAt_mem _ _ _ _ _), by rw [hcheck, hquiet, hlook, if_pos rfl],
    (getLsbD_setBit_true g.bartArr hfl fl).2 (.inl rfl), rfl, hflight, hwt rfl, rfl, rfl, ⟨fun _ => rfl, fun _ _ _ => rfl⟩,
    fun v z hv hz => ?_⟩
  rw [hcheck, hquiet, hlook, if_neg hv, hz]

end

/-- Settles O33: an arrival notes itself and checks the barriers; the flights of a release are read off the rebuilt lists. -/
theorem barriers : Obligations.Barriers := by
  refine ⟨?_, ?_, ?_, ?_⟩
  · intro o s w fl g f hc hg hf ha hw hout
    have hd : f.accessesDone = false := accessesDone_eq_false.2 hout
    exact ⟨arrive_drain hc hg hf ha hw (by simp) markBar hd, arrive_drain hc hg hf ha hw (by simp) markBart hd⟩
  · intro o s w fl g f hc hg hf ha hw hd hst hfl _ hstop hq
    exact ⟨_, _, (exec_bar o s).trans (arrive_arrives hc hg hf ha hw (by simp) markBar hd),
      (State.barrierCheck_mem _ _).trans (State.arrivedAt_mem _ _ _ _ _), barrierCheck_bar hg hst hq,
      (Wg.releaseBar_length _ _).trans (length_modAt _ _ _), bar_releases hfl _ _ hstop,
      fun k h hk hkf hb he => bar_waits hfl _ _ hf hk hkf hb he⟩
  · intro o s w fl L T g f y hc hg hf ha hw hd hst hfl _ hbar hy hwy hnd hall
    exact bart_releases hc hg hf ha hw hd hst hfl hbar hy hnd hwy hall
  · intro o s w fl L T u k g gu f h y hc hg hf ha hw hd hst hfl _ hbar hy _ huy hgu hk hne hb he
    exact bart_waits hc hg hf ha hw hd hst hfl hbar hy huy hgu hk hne hb he

end Sys2Proof.Machine
end

section
/-! SUPPORT. Completion counters in memory: an entry is read back as it was written, and what leaves a counter as it is (R147, R148). -/

namespace Sys2Proof.Machine

open Sys2Proof.Claim

/-! ### Little-endian bytes -/

@[simp] theorem toBytes_length (n x : Nat) : (toBytes n x).length = n := by
  induction n generalizing x with
  | zero => rfl
  | succ n ih => simp [toBytes, ih]

theorem ofBytes_toBytes (n x : Nat) : ofBytes (toBytes n x) = x % 256 ^ n := by
  induction n generalizing x with
  | zero => simp [toBytes, ofBytes, Nat.mod_one]
  | succ n ih =>
    have hx : x % 256 ^ (n + 1) = x % 256 + 256 * (x / 256 % 256 ^ n) := by rw [Nat.pow_succ', Nat.mod_mul]
    rw [toBytes, ofBytes, ih, hx, BitVec.toNat_ofNat]

theorem ofBytes_lt (bs : List Byte) : ofBytes bs < 256 ^ bs.length := by
  induction bs with
  | nil => simp [ofBytes]
  | cons b bs ih =>
    have hb := b.isLt
    simp only [ofBytes, List.length_cons, Nat.pow_succ']
    omega

theorem ofBytes_append (as bs : List Byte) : ofBytes (as ++ bs) = ofBytes as + 256 ^ as.length * ofBytes bs := by
  induction as with
  | nil => simp [ofBytes]
  | cons a as ih =>
    simp only [List.cons_append, ofBytes, ih, List.length_cons, Nat.pow_succ']
    ring

theorem State.getNat_putNat (s : State) (k n x : Nat) : (s.putNat k n x).getNat k n = x % 256 ^ n := by
  have h := readBytes_writeBytes (toBytes n x) s.mem k
  rw [toBytes_length] at h
  rw [State.getNat, State.putNat_mem, h, ofBytes_toBytes]

/-! ### The entry of a counter (R147) -/

/-- The fields of an entry fit their places. -/
structure Ctr.Fits (c : Ctr) : Prop where
  target : c.target < 2 ^ 32
  done : c.done < 2 ^ 32
  conf : c.conf < 2 ^ 32
  state : c.state < 16
  level : c.level < 16
  reason : c.reason < 256
  parent : c.parent < 4096
  firstBad : c.firstBad < 16
  tdone : c.tdone < 2 ^ 64
  tconf : c.tconf < 2 ^ 64

theorem bits_lt (x h l : Nat) : bits x h l < 2 ^ (h + 1 - l) := Nat.mod_lt _ (by positivity)

theorem Ctr.ofNat_fits (x : Nat) : (Ctr.ofNat x).Fits :=
  ⟨bits_lt .., bits_lt .., bits_lt .., bits_lt .., bits_lt .., bits_lt .., bits_lt .., bits_lt .., bits_lt .., bits_lt ..⟩

theorem Ctr.ofNat_toNat {c : Ctr} (h : c.Fits) : Ctr.ofNat (c.toNat % 256 ^ 32) = c := by
  obtain ⟨h1, h2, h3, h4, h5, h6, h7, h8, h9, h10⟩ := h
  obtain ⟨target, done, conf, state, level, reason, parent, firstBad, tdone, tconf⟩ := c
  simp only at h1 h2 h3 h4 h5 h6 h7 h8 h9 h10
  simp only [Ctr.ofNat, Ctr.toNat, bits, Ctr.mk.injEq]
  refine ⟨?_, ?_, ?_, ?_, ?_, ?_, ?_, ?_, ?_, ?_⟩ <;> omega

/-! ### A counter of the state (R148) -/

theorem State.ctr_fits (s : State) (part ctx i : Nat) : (s.ctr part ctx i).Fits := Ctr.ofNat_fits _

/-- A counter lies in memory, at a place that its context's translation gives. -/
theorem State.ctr_congr {s t : State} (hm : t.mem = s.mem) {part ctx : Nat} (hc : t.transOf part ctx = s.transOf part ctx) (i : Nat) :
    t.ctr part ctx i = s.ctr part ctx i := by
  simp only [State.ctr, State.ctrKey, State.getNat, hm, hc]

theorem State.transOf_congr {s t : State} (hp : t.parts = s.parts) (part ctx : Nat) : t.transOf part ctx = s.transOf part ctx := by
  simp only [State.transOf, State.part, hp]

theorem State.ctr_parts {s t : State} (hm : t.mem = s.mem) (hp : t.parts = s.parts) (part ctx i : Nat) :
    t.ctr part ctx i = s.ctr part ctx i := State.ctr_congr hm (State.transOf_congr hp part ctx) i

/-- Writing a counter's entry changes memory alone. -/
theorem State.putCtr_eq (s : State) (part ctx i : Nat) (c : Ctr) :
    s.putCtr part ctx i c = s.putNat (s.ctrKey part ctx i) 32 c.toNat := rfl

@[simp] theorem State.putCtr_parts (s : State) (part ctx i : Nat) (c : Ctr) : (s.putCtr part ctx i c).parts = s.parts := by
  rw [State.putCtr, State.putNat_parts]
@[simp] theorem State.putCtr_launches (s : State) (part ctx i : Nat) (c : Ctr) : (s.putCtr part ctx i c).launches = s.launches := by
  rw [State.putCtr, State.putNat_launches]
@[simp] theorem State.putCtr_agenda (s : State) (part ctx i : Nat) (c : Ctr) : (s.putCtr part ctx i c).agenda = s.agenda := by
  rw [State.putCtr, State.putNat_agenda]
@[simp] theorem State.putCtr_clk (s : State) (part ctx i : Nat) (c : Ctr) : (s.putCtr part ctx i c).clk = s.clk := by
  rw [State.putCtr, State.putNat_clk]
@[simp] theorem State.putCtr_sigs (s : State) (part ctx i : Nat) (c : Ctr) : (s.putCtr part ctx i c).sigs = s.sigs := by
  rw [State.putCtr, State.putNat_sigs]
@[simp] theorem State.putCtr_cancels (s : State) (part ctx i : Nat) (c : Ctr) : (s.putCtr part ctx i c).cancels = s.cancels := by
  rw [State.putCtr, State.putNat_cancels]

theorem State.ctrKey_congr {s t : State} (hp : t.parts = s.parts) (part ctx i : Nat) : t.ctrKey part ctx i = s.ctrKey part ctx i := by
  rw [State.ctrKey, State.ctrKey, State.transOf_congr hp]

theorem State.putCtr_key (s : State) (part ctx i j : Nat) (c : Ctr) : (s.putCtr part ctx i c).ctrKey part ctx j = s.ctrKey part ctx j :=
  State.ctrKey_congr (s.putCtr_parts part ctx i c) part ctx j

theorem State.ctr_putCtr (s : State) (part ctx i : Nat) {c : Ctr} (h : c.Fits) : (s.putCtr part ctx i c).ctr part ctx i = c := by
  rw [State.ctr, State.putCtr_key, State.putCtr, State.getNat_putNat, Ctr.ofNat_toNat h]

theorem State.ctr_putCtr_ne (s : State) (part ctx : Nat) {i j : Nat} (h : j ≠ i) (c : Ctr) :
    (s.putCtr part ctx i c).ctr part ctx j = s.ctr part ctx j := by
  rw [State.ctr, State.putCtr_key, State.ctr, State.getNat, State.getNat]
  congr 2
  apply List.map_congr_left
  intro k hk
  have hk := List.mem_range.mp hk
  exact readByte_writeBytes_ne _ _ _ _ (by rw [toBytes_length]; simp only [State.ctrKey]; omega)

theorem State.putCtr_frame (s : State) (part ctx i : Nat) (c : Ctr) {k : Nat} (h : k < s.ctrKey part ctx i ∨ s.ctrKey part ctx i + 32 ≤ k) :
    readByte (s.putCtr part ctx i c).mem k = readByte s.mem k :=
  readByte_writeBytes_ne _ _ _ _ (by rwa [toBytes_length])

end Sys2Proof.Machine
end

section
/-! SUPPORT. Operations that take their place as an event of their lowest acting thread: when they are held and when they are done (R225,
R173), and the forms of a control program alone (R49). -/

namespace Sys2Proof.Machine

open Sys2Proof.Claim

/-- A flight that waits for its effect tick stops nowhere: the wait ends as its operations drain. -/
theorem stall_op (s : State) (r : FlightRef) : s.stall r .op =
    { s.modFlight r (fun f => { f with wait := .op, parkAt := s.clk.toNat }) with cur := if s.cur = some r then none else s.cur } := by
  have h : ∀ f, (!Wait.op.drains || s.stranded r f .op) = false := fun _ => rfl
  simp only [State.stall, h, Bool.and_false, Bool.false_and, Bool.false_eq_true, if_false]

section
variable {s : State} {r : FlightRef} {f : Flight} (hi : s.issuer = some (r, f)) {g : BitVec 4} (ha : f.acting g ≠ [])
  (cls : State → FlightRef → Flight → Nat) (body : FlightRef → Flight → State)
include hi ha

theorem pathOp_drain (hd : s.det r = false) (hc : s.threadClear r (f.lowTid g) s.uid = false) :
    pathOp g cls body s = .next (s.stall r .drain) := by
  rw [pathOp, pathOpWith, onceWith_acts hi ha]
  simp only [hd, hc, Bool.false_eq_true, if_false]

theorem pathOp_held (hd : s.det r = true) (ho : f.opDue = none) (hc : 0 < cls s r f) :
    let e := max (s.now r + cls s r f) f.lastE
    pathOp g cls body s = .next ((s.modFlight r (fun f => { f with opDue := some e, lastE := e, busy := s.now r })).stall r .op) := by
  rw [pathOp, pathOpWith, onceWith_acts hi ha]
  have h0 : (decide (cls s r f = 0) && s.threadClear r (f.lowTid g) s.uid) = false := by simp [Nat.ne_of_gt hc]
  simp only [hd, ho, h0, Bool.false_eq_true, if_true, if_false]

theorem pathOp_placed (hp : Placed s r f g) : pathOp g cls body s = .next (body r f) := by
  obtain ⟨hclear, hdue⟩ := hp
  rw [pathOp, pathOpWith, onceWith_acts hi ha]
  cases hd : s.det r with
  | false => simp only [hclear hd, Bool.false_eq_true, if_true, if_false]
  | true =>
    obtain ⟨n, hn⟩ := Option.ne_none_iff_exists'.mp (hdue hd)
    simp only [hn, if_true]

end

/-- An instruction that is such an operation obeys the rule of these operations, where its body does what the rule says. -/
theorem pathOp_rule {i : Instr} {g : BitVec 4} {cls : State → FlightRef → Flight → Nat} {body : State → FlightRef → Flight → State}
    (hx : ∀ s, exec i s = pathOp g cls (body s) s) {P : State → FlightRef → Flight → Prop}
    (hP : ∀ s r f, s.issuer = some (r, f) → exec i s = .next (body s r f) → P s r f) :
    PathOp i g false (fun _ _ => True) cls P := by
  intro s r f hi _
  have hf := (State.issuer_some hi).2
  refine ⟨fun ha => ?_, fun ha hd hc => ?_, fun ha hd ho hc => ?_, fun ha hp => hP s r f hi ?_⟩
  · rw [hx, pathOp, pathOpWith, onceWith_idle hi ha]
  · rw [hx, pathOp_drain hi ha _ _ hd hc]
  · have hnow : s.now r = (s.part (s.partOf r)).tick := by simp only [State.now, hd, if_true]
    refine ⟨_, { f with opDue := some (max (s.now r + cls s r f) f.lastE), lastE := max (s.now r + cls s r f) f.lastE, busy := s.now r,
                        wait := .op, parkAt := s.clk.toNat }, (hx s).trans (pathOp_held hi ha _ _ hd ho hc), ?_⟩
    refine ⟨by rw [State.stall_mem, State.modFlight_mem], ?_, Or.inl rfl, by rw [hnow], rfl, ⟨fun _ => rfl, fun _ _ _ => rfl⟩,
      ⟨fun _ => rfl, fun _ _ => rfl⟩, rfl⟩
    rw [stall_op]
    change State.flight? (State.modFlight _ _ _) r = _
    rw [State.flight?_modFlight, if_pos rfl, State.flight?_modFlight, if_pos rfl, hf, State.modFlight_clk]
    rfl
  · rw [hx, pathOp_placed hi ha _ _ hp]

/-! ### Forms of a control program alone (R49) -/

theorem controlOnly_wg {s : State} {w fl : Nat} {f : Flight} (hi : s.issuer = some (.wg w fl, f)) (k : FlightRef → Flight → State) :
    controlOnly s k = .next (s.trap (.wg w fl) { cause := 0x04, sub := 0, kind := 0, info := 0, org := none }) := by
  rw [controlOnly, withIssuer_next hi]
  rfl

theorem controlOnly_ctl {s : State} {die part : Nat} {f : Flight} (hi : s.issuer = some (.ctl die part, f))
    (k : FlightRef → Flight → State) : controlOnly s k = .next (k (.ctl die part) f) := by
  rw [controlOnly, withIssuer_next hi]

end Sys2Proof.Machine
end

section
/-! SUPPORT. Signals to a counter, its final states, arming and cancelling (R149, R150, R167). -/

namespace Sys2Proof.Machine

open Sys2Proof.Claim

/-! ### The device's own updates -/

@[simp] theorem State.wakeWaiters_mem (s : State) (part ctx : Nat) : (s.wakeWaiters part ctx).mem = s.mem := rfl
@[simp] theorem State.wakeWaiters_parts (s : State) (part ctx : Nat) : (s.wakeWaiters part ctx).parts = s.parts := rfl
@[simp] theorem State.wakeWaiters_launches (s : State) (part ctx : Nat) : (s.wakeWaiters part ctx).launches = s.launches := rfl
@[simp] theorem State.wakeWaiters_cancels (s : State) (part ctx : Nat) : (s.wakeWaiters part ctx).cancels = s.cancels := rfl

/-- An update of the device changes the agenda alone. -/
theorem State.stepFive_kept (s : State) (part : Nat) (i : Instr) : (s.stepFive part i).mem = s.mem ∧ (s.stepFive part i).parts = s.parts ∧
    (s.stepFive part i).launches = s.launches ∧ (s.stepFive part i).cancels = s.cancels := by
  unfold State.stepFive
  split <;> exact ⟨rfl, rfl, rfl, rfl⟩

theorem State.mem_stepFive (s : State) (part : Nat) (i : Instr) : Move.event i ∈ (s.stepFive part i).agenda := by
  unfold State.stepFive
  split <;> simp

theorem State.launchAt_congr {s t : State} (h : t.launches = s.launches) (part ctx i : Nat) :
    t.launchAt part ctx i = s.launchAt part ctx i := by
  simp only [State.launchAt, h]

theorem State.launchAt_nil {s : State} (h : s.launches = []) (part ctx i : Nat) : s.launchAt part ctx i = none := by
  simp [State.launchAt, h]

/-! ### A counter's final state (R149, R150) -/

/-- The state that a counter takes: DONE, where every signal has been confirmed, is CONFIRMED. -/
def Ctr.final (c : Ctr) (st : Nat) : Nat := if st = 1 ∧ c.conf = c.target then 2 else st

/-- A counter's entry in its final state. -/
def Ctr.finished (c : Ctr) (st clk : Nat) : Ctr :=
  { c with state := c.final st, tdone := clk, tconf := if c.final st = 2 then clk else c.tconf }

theorem Ctr.finished_fits {c : Ctr} (h : c.Fits) {st : Nat} (hst : st < 16) (clk : Dword) : (c.finished st clk.toNat).Fits := by
  have hf : c.final st < 16 := by unfold Ctr.final; split <;> omega
  refine { h with state := hf, tdone := clk.isLt, tconf := ?_ }
  simp only [Ctr.finished]
  split
  · exact clk.isLt
  · exact h.tconf

section
variable {s : State} {part ctx i : Nat} (h : s.launchAt part ctx i = none)
include h

/-- A counter that counts no launch becomes final: its entry is written, launches that wait on it are looked at, its parent is signalled. -/
theorem State.finish_eq (st : Nat) : s.finish part ctx i st =
    if (s.ctr part ctx i).parent = 0xFFF then
      (s.putCtr part ctx i ((s.ctr part ctx i).finished st s.clk.toNat)).wakeWaiters part ctx
    else ((s.putCtr part ctx i ((s.ctr part ctx i).finished st s.clk.toNat)).wakeWaiters part ctx).stepFive part
      (.counterSignal part ctx (s.ctr part ctx i).parent st (some i) []) := by
  have hl : ∀ c, (s.putCtr part ctx i c).launchAt part ctx i = none := fun c =>
    (State.launchAt_congr (s.putCtr_launches part ctx i c) part ctx i).trans h
  simp only [State.finish, hl, Ctr.finished, Ctr.final, stDone, stConfirmed, noCounter]
  congr

theorem State.finish_kept (st : Nat) :
    (s.finish part ctx i st).mem = (s.putCtr part ctx i ((s.ctr part ctx i).finished st s.clk.toNat)).mem ∧
    (s.finish part ctx i st).parts = s.parts ∧ (s.finish part ctx i st).launches = s.launches ∧
    (s.finish part ctx i st).cancels = s.cancels := by
  have hp := s.putCtr_parts part ctx i ((s.ctr part ctx i).finished st s.clk.toNat)
  have hl := s.putCtr_launches part ctx i ((s.ctr part ctx i).finished st s.clk.toNat)
  have hc := s.putCtr_cancels part ctx i ((s.ctr part ctx i).finished st s.clk.toNat)
  rw [State.finish_eq h]
  generalize s.putCtr part ctx i ((s.ctr part ctx i).finished st s.clk.toNat) = u at hp hl hc ⊢
  by_cases hn : (s.ctr part ctx i).parent = 0xFFF
  · rw [if_pos hn]
    exact ⟨u.wakeWaiters_mem part ctx, (u.wakeWaiters_parts part ctx).trans hp, (u.wakeWaiters_launches part ctx).trans hl,
      (u.wakeWaiters_cancels part ctx).trans hc⟩
  · rw [if_neg hn]
    obtain ⟨km, kp, kl, kc⟩ := State.stepFive_kept (u.wakeWaiters part ctx) part
      (.counterSignal part ctx (s.ctr part ctx i).parent st (some i) [])
    exact ⟨km.trans (u.wakeWaiters_mem part ctx), (kp.trans (u.wakeWaiters_parts part ctx)).trans hp,
      (kl.trans (u.wakeWaiters_launches part ctx)).trans hl, (kc.trans (u.wakeWaiters_cancels part ctx)).trans hc⟩

theorem State.finish_ctr {st : Nat} (hst : st < 16) : (s.finish part ctx i st).ctr part ctx i = (s.ctr part ctx i).finished st s.clk.toNat := by
  obtain ⟨hm, hp, -, -⟩ := State.finish_kept h st
  rw [State.ctr_parts hm (hp.trans (s.putCtr_parts part ctx i _).symm)]
  exact State.ctr_putCtr s part ctx i (Ctr.finished_fits (s.ctr_fits part ctx i) hst s.clk)

theorem State.finish_signals_parent (st : Nat) (hp : (s.ctr part ctx i).parent ≠ 0xFFF) :
    Move.event (.counterSignal part ctx (s.ctr part ctx i).parent st (some i) []) ∈ (s.finish part ctx i st).agenda := by
  rw [State.finish_eq h]
  simp only [hp, if_false]
  exact State.mem_stepFive ..

end

/-! ### Signals (R149) -/

/-- The state with other unconfirmed signals. -/
def State.withSigs (s : State) (gs : List Sig) : State := { s with sigs := gs }

theorem State.withSigs_ctr (s : State) (gs : List Sig) (part ctx i : Nat) : (s.withSigs gs).ctr part ctx i = s.ctr part ctx i :=
  State.ctr_parts rfl rfl part ctx i

/-- A signal from a child that is not CONFIRMED yet, or with cores to wait for. -/
def State.unsure (s : State) (part ctx : Nat) (child : Option Nat) (cores : List Nat) : Bool :=
  match child with
  | some j => (s.ctr part ctx j).state != stConfirmed
  | none => !cores.isEmpty

/-- A signal that is to be confirmed: it raises DONECNT to `done`. -/
def Ctr.opens (c : Ctr) (done st : Nat) (unsure : Bool) : Bool := st == stDone && unsure && done != c.done

/-- A counter's entry after n signals with state st. -/
def Ctr.counted (c : Ctr) (n st : Nat) (unsure : Bool) : Ctr :=
  let done := min (c.done + n) c.target
  { c with
    done
    firstBad := if st ≠ stDone ∧ c.firstBad = 0 then st else c.firstBad
    conf := if c.opens done st unsure || st != stDone then c.conf else c.conf + (done - c.done) }

/-- The state with a signal counted: the entry is written, the signal kept where it is to be confirmed. -/
def State.counting (s : State) (part ctx i n st : Nat) (child : Option Nat) (cores : List Nat) : State :=
  let c := s.ctr part ctx i
  let done := min (c.done + n) c.target
  { s.putCtr part ctx i (c.counted n st (s.unsure part ctx child cores)) with
    sigs := if c.opens done st (s.unsure part ctx child cores) then s.sigs ++ [⟨part, ctx, i, done - c.done, child, cores, [], []⟩] else s.sigs }

theorem Ctr.counted_conf (c : Ctr) (n st : Nat) (unsure : Bool) : (c.counted n st unsure).conf =
    if st = 1 ∧ unsure = false then c.conf + (min (c.done + n) c.target - c.done) else c.conf := by
  by_cases h1 : st = 1 <;> cases unsure <;> simp [Ctr.counted, Ctr.opens, stDone, h1]
  omega

theorem Ctr.counted_fits {c : Ctr} (h : c.Fits) {n st : Nat} (hst : st < 16) (hc : c.conf ≤ c.done) (hd : c.done ≤ c.target) (unsure : Bool) :
    (c.counted n st unsure).Fits := by
  have ht := h.target
  have hf := h.conf
  refine { h with done := ?_, conf := ?_, firstBad := ?_ }
  · simp only [Ctr.counted]; omega
  · rw [Ctr.counted_conf]; split <;> omega
  · simp only [Ctr.counted]
    split
    · exact hst
    · exact h.firstBad

theorem State.signal_ignored {s : State} {part ctx i : Nat} (h : (s.ctr part ctx i).state ≠ 0 ∨ 0xFFF ≤ i) (n st : Nat) (child : Option Nat)
    (cores : List Nat) : s.signal part ctx i n st child cores = s := by
  have h' : noCounter ≤ i ∨ (s.ctr part ctx i).state ≠ stPending := h.symm
  simp only [State.signal, h', if_true]

theorem State.signal_eq {s : State} {part ctx i : Nat} (hs : (s.ctr part ctx i).state = 0) (hi : i < 0xFFF)
    (n st : Nat) (child : Option Nat) (cores : List Nat) :
    s.signal part ctx i n st child cores =
      let c := (s.ctr part ctx i).counted n st (s.unsure part ctx child cores)
      let t := s.counting part ctx i n st child cores
      let stops : Bool := match t.launchAt part ctx i with
        | some (_, l) => l.cancelled || l.killed.isSome
        | none => false
      if min ((s.ctr part ctx i).done + n) (s.ctr part ctx i).target ≠ (s.ctr part ctx i).target ∨ stops = true then t
      else
        let invalid : Bool := match t.launchAt part ctx i with
          | some (k, _) => ((t.runOf k).map (fun p => p.2.status == 6)).getD false
          | none => false
        t.finish part ctx i (if invalid then stInvalid else if c.firstBad = 0 then stDone else c.firstBad) := by
  have h0 : ¬ (noCounter ≤ i ∨ (s.ctr part ctx i).state ≠ stPending) := by simp only [noCounter, stPending]; omega
  unfold State.signal
  rw [if_neg h0]
  rfl

theorem State.counting_eq (s : State) (part ctx i n st : Nat) (child : Option Nat) (cores : List Nat) : ∃ gs,
    s.counting part ctx i n st child cores =
      { s.putCtr part ctx i ((s.ctr part ctx i).counted n st (s.unsure part ctx child cores)) with sigs := gs } := ⟨_, rfl⟩

theorem State.counting_kept (s : State) (part ctx i n st : Nat) (child : Option Nat) (cores : List Nat) :
    let t := s.counting part ctx i n st child cores
    t.mem = (s.putCtr part ctx i ((s.ctr part ctx i).counted n st (s.unsure part ctx child cores))).mem ∧ t.parts = s.parts ∧
    t.launches = s.launches ∧ t.agenda = s.agenda ∧ t.clk = s.clk := by
  have hp := s.putCtr_parts part ctx i ((s.ctr part ctx i).counted n st (s.unsure part ctx child cores))
  have hl := s.putCtr_launches part ctx i ((s.ctr part ctx i).counted n st (s.unsure part ctx child cores))
  have ha := s.putCtr_agenda part ctx i ((s.ctr part ctx i).counted n st (s.unsure part ctx child cores))
  have hc := s.putCtr_clk part ctx i ((s.ctr part ctx i).counted n st (s.unsure part ctx child cores))
  obtain ⟨gs, hgs⟩ := s.counting_eq part ctx i n st child cores
  rw [hgs]
  generalize s.putCtr part ctx i ((s.ctr part ctx i).counted n st (s.unsure part ctx child cores)) = u at hp hl ha hc ⊢
  exact ⟨rfl, hp, hl, ha, hc⟩

theorem State.counting_ctr {s : State} {part ctx i n st : Nat} (child : Option Nat) (cores : List Nat) (hst : st < 16) (hc : (s.ctr part ctx i).conf ≤ (s.ctr part ctx i).done)
    (hd : (s.ctr part ctx i).done ≤ (s.ctr part ctx i).target) :
    (s.counting part ctx i n st child cores).ctr part ctx i = (s.ctr part ctx i).counted n st (s.unsure part ctx child cores) := by
  obtain ⟨hm, hp, -⟩ := s.counting_kept part ctx i n st child cores
  rw [State.ctr_parts hm (hp.trans (s.putCtr_parts part ctx i _).symm)]
  exact State.ctr_putCtr s part ctx i (Ctr.counted_fits (s.ctr_fits part ctx i) hst hc hd _)

section
variable {s : State} {part ctx i : Nat} (hs : (s.ctr part ctx i).state = 0) (hi : i < 0xFFF) {n st : Nat} (child : Option Nat)
  (cores : List Nat)
include hs hi

/-- A signal that is not the last is counted. -/
theorem State.signal_short (hd : min ((s.ctr part ctx i).done + n) (s.ctr part ctx i).target ≠ (s.ctr part ctx i).target) :
    s.signal part ctx i n st child cores = s.counting part ctx i n st child cores := by
  rw [State.signal_eq hs hi]
  exact if_pos (Or.inl hd)

/-- The last signal to a counter that counts no launch is counted, and the counter becomes final. -/
theorem State.signal_last (hd : min ((s.ctr part ctx i).done + n) (s.ctr part ctx i).target = (s.ctr part ctx i).target)
    (hl : s.launchAt part ctx i = none) :
    s.signal part ctx i n st child cores =
      let bad := if st ≠ 1 ∧ (s.ctr part ctx i).firstBad = 0 then st else (s.ctr part ctx i).firstBad
      (s.counting part ctx i n st child cores).finish part ctx i (if bad = 0 then 1 else bad) := by
  have hl' : (s.counting part ctx i n st child cores).launchAt part ctx i = none := by
    rw [State.launchAt_congr (s.counting_kept part ctx i n st child cores).2.2.1, hl]
  rw [State.signal_eq hs hi]
  simp only [hl', hd, ne_eq, not_true_eq_false, Bool.false_eq_true, or_self, if_false]
  rfl

end

/-- What a signal does to a counter (R149, R150). -/
theorem signalRule : SignalRule := by
  intro s part ctx i n st child cores c t d bad sure conf
  have hsure : s.unsure part ctx child cores = !sure := by cases child <;> rfl
  have hconf : (c.counted n st (s.unsure part ctx child cores)).conf = conf := by
    simp only [Ctr.counted_conf, hsure, Bool.not_eq_false', conf, d]
  have hcnt : c.counted n st (s.unsure part ctx child cores) = { c with done := d, conf, firstBad := bad } := by
    rw [← hconf]
    rfl
  refine ⟨fun h => State.signal_ignored h n st child cores, fun hs hi hst hf1 hcd hdt => ⟨fun hd => ?_, fun hd hl => ?_⟩⟩
  · have ht : t = s.counting part ctx i n st child cores := State.signal_short hs hi child cores hd
    obtain ⟨hm, hp, -, ha, -⟩ := s.counting_kept part ctx i n st child cores
    rw [ht, State.counting_ctr child cores hst hcd hdt]
    exact ⟨hcnt, ha, fun k hk => by rw [hm]; exact s.putCtr_frame part ctx i _ hk⟩
  · have hbad : bad < 16 ∧ bad ≠ 1 := by
      have hb : c.firstBad < 16 := (s.ctr_fits part ctx i).firstBad
      simp only [bad]
      split <;> omega
    have ht : t = (s.counting part ctx i n st child cores).finish part ctx i (if bad = 0 then 1 else bad) :=
      State.signal_last hs hi child cores hd hl
    obtain ⟨-, -, hlu, -, hclk⟩ := s.counting_kept part ctx i n st child cores
    have hu := State.counting_ctr (n := n) child cores hst hcd hdt
    rw [hcnt] at hu
    have hl' := (State.launchAt_congr hlu part ctx i).trans hl
    have hctr := State.finish_ctr hl' (st := if bad = 0 then 1 else bad) (by split <;> omega)
    have hpar := State.finish_signals_parent hl' (if bad = 0 then 1 else bad)
    rw [hu] at hctr hpar
    rw [ht, hctr]
    refine ⟨?_, rfl, ?_, rfl, fun hp => ?_⟩
    · by_cases hb : bad = 0
      · simp [Ctr.finished, Ctr.final, hb, hd]
      · simp [Ctr.finished, Ctr.final, hb, hbad.2]
    · exact congrArg BitVec.toNat hclk
    · have hb : (if bad ≠ 0 then bad else 1) = if bad = 0 then 1 else bad := by split <;> simp_all
      rw [hb]
      exact hpar hp

/-! ### Arming and cancelling (R149, R167) -/

/-- The entry of a counter that has been armed. -/
def Ctr.armed (target parent level : Nat) : Ctr :=
  { target := target % 2 ^ 32, done := 0, conf := 0, state := stPending, level, reason := 0, parent, firstBad := 0, tdone := 0, tconf := 0 }

theorem Ctr.armed_fits (target : Nat) {parent level : Nat} (hp : parent < 4096) (hl : level < 16) : (Ctr.armed target parent level).Fits :=
  ⟨Nat.mod_lt _ (by decide), Nat.two_pow_pos 32, Nat.two_pow_pos 32, Nat.two_pow_pos 4, hl, Nat.two_pow_pos 8, hp, Nat.two_pow_pos 4,
    Nat.two_pow_pos 64, Nat.two_pow_pos 64⟩

theorem State.arm_eq (s : State) (part ctx i target parent level : Nat) : ∃ gs,
    s.arm part ctx i target parent level = (s.putCtr part ctx i (Ctr.armed target parent level)).withSigs gs := by
  unfold State.arm Ctr.armed
  exact ⟨_, rfl⟩

/-- Arming (R149). -/
theorem armRule : ArmRule := by
  intro s part ctx i target parent level hp hl
  obtain ⟨gs, h⟩ := s.arm_eq part ctx i target parent level
  rw [h, State.withSigs_ctr, State.ctr_putCtr s part ctx i (Ctr.armed_fits target hp hl), Ctr.armed, stPending]

theorem State.chains_self (s : State) (part ctx : Nat) {i : Nat} (hi : i < 0xFFF) : s.chains part ctx i i = true := by
  have h : ¬ noCounter ≤ i := by simp only [noCounter]; omega
  rw [State.chains, State.meets, if_neg h, BEq.rfl, Bool.true_or]

theorem filter_range_eq_singleton {p : Nat → Bool} {n i : Nat} (hi : i < n) (h : ∀ j, j < n → (p j = true ↔ j = i)) :
    (List.range n).filter p = [i] := by
  have hp : (List.range n).filter p = (List.range n).filter (· == i) :=
    List.filter_congr fun j hj => by
      rw [Bool.eq_iff_iff, h j (List.mem_range.mp hj), beq_iff_eq]
  rw [hp, List.filter_beq, List.count_eq_one_of_mem List.nodup_range (List.mem_range.mpr hi)]
  rfl

theorem State.workRuns_alone {s : State} {part ctx i : Nat} (hl : s.launches = []) (hc : s.cancels = [(part, (ctx, i))]) :
    s.workRuns part ctx i = false := by
  simp [State.workRuns, hl, hc]

theorem State.settleCancels_nil {s : State} (h : s.cancels = []) (n : Nat) :
    State.settleCancels (n + 1) s = { s with cancels := [] } := by
  simp only [State.settleCancels, h, List.filter_nil, List.find?_nil]

/-- A counter that is the only one being cancelled, and that counts no launch, becomes CANCELLED. -/
theorem State.settleCancels_alone {s : State} {part ctx i : Nat} (hs : (s.ctr part ctx i).state = 0) (hl : s.launches = [])
    (hc : s.cancels = [(part, (ctx, i))]) (n : Nat) :
    State.settleCancels (n + 1) s = State.settleCancels n ({ s with cancels := [] }.finish part ctx i 3) := by
  have hp : (s.ctr part ctx i).state == stPending := by rw [hs]; rfl
  simp only [State.settleCancels, hc, List.filter_cons, hp, if_true, List.filter_nil, List.find?_cons, State.workRuns_alone hl hc,
    Bool.not_false, bne_self_eq_false, Bool.false_eq_true, if_false, stCancelled]

theorem State.settled_alone {s : State} {part ctx i : Nat} (hs : (s.ctr part ctx i).state = 0) (hl : s.launches = [])
    (hc : s.cancels = [(part, (ctx, i))]) : ((State.settleCancels 2 s).ctr part ctx i).state = 3 := by
  have hl0 : ({ s with cancels := [] } : State).launchAt part ctx i = none := State.launchAt_nil hl part ctx i
  obtain ⟨-, -, -, hk⟩ := State.finish_kept hl0 3
  have hf := State.finish_ctr hl0 (st := 3) (by decide)
  rw [State.settleCancels_alone hs hl hc 1, State.settleCancels_nil hk]
  generalize ({ s with cancels := [] } : State).finish part ctx i 3 = u at hf ⊢
  exact congrArg Ctr.state ((State.ctr_parts (s := u) rfl rfl part ctx i).trans hf)

/-- A counter below which nothing else is PENDING, where no launch is there and nothing else is being cancelled, is cancelled alone. -/
theorem State.cancelCounter_alone {s : State} {part ctx i : Nat} (hs : (s.ctr part ctx i).state = 0) (hi : i < 0xFFF) (hc : s.cancels = [])
    (hl : s.launches = []) (h : ∀ j, j < 0xFFF → j ≠ i → (s.ctr part ctx j).state ≠ 0 ∨ s.chains part ctx j i = false) :
    s.cancelCounter part ctx i = State.settleCancels 2 { s with cancels := [(part, (ctx, i))] } := by
  have hset : (List.range noCounter).filter (fun j => (s.ctr part ctx j).state == stPending && s.chains part ctx j i) = [i] := by
    refine filter_range_eq_singleton hi fun j hj => ⟨fun hp => ?_, fun he => ?_⟩
    · by_contra hne
      have hp : (s.ctr part ctx j).state = 0 ∧ s.chains part ctx j i = true := by simpa [stPending] using hp
      rcases h j hj hne with h1 | h1
      · exact h1 hp.1
      · rw [hp.2] at h1; cases h1
    · rw [he, hs, State.chains_self s part ctx hi]; rfl
  have h0 : ¬ (noCounter ≤ i ∨ (s.ctr part ctx i).state ≠ stPending) := by simp only [noCounter, stPending]; omega
  simp only [State.cancelCounter, h0, if_false, hset, hl, hc, List.filter_nil, List.map_nil, List.foldl_nil, List.map_cons,
    List.contains_nil, List.filter_cons, Bool.not_false, if_true, List.nil_append, List.length_singleton]

/-- Cancelling (R167). -/
theorem cancelRule : CancelRule := by
  intro s part ctx i
  refine ⟨fun h => ?_, fun hs hi hc hl h => ?_⟩
  · rw [State.cancelCounter, if_pos (show noCounter ≤ i ∨ (s.ctr part ctx i).state ≠ stPending from h.symm)]
  · have hu : ({ s with cancels := [(part, (ctx, i))] } : State).ctr part ctx i = s.ctr part ctx i := State.ctr_parts rfl rfl part ctx i
    rw [State.cancelCounter_alone hs hi hc hl h]
    exact State.settled_alone ((congrArg Ctr.state hu).trans hs) hl rfl

end Sys2Proof.Machine
end

section
/-! SUPPORT. COUNTER_SIGNAL, CSIG and CANCEL, and the obligation on counters (R165, R167, R168). -/

namespace Sys2Proof.Machine

open Sys2Proof.Claim

theorem exec_counterSignal (part slot i st : Nat) (child : Option Nat) (cores : List Nat) (s : State) :
    exec (.counterSignal part slot i st child cores) s = execCounterSignal part slot i st child cores s := rfl
theorem exec_csig (o : EFmt) (s : State) : exec (.csig o) s = execCsig o s := rfl
theorem exec_cancel (o : EFmt) (s : State) : exec (.cancel o) s = execCancel o s := rfl
theorem exec_csigIdx (o : EFmt) (s : State) : exec (.csigIdx o) s = execCsigIdx o s := rfl
theorem exec_csigArm (o : EFmt) (s : State) : exec (.csigArm o) s = execCsigArm o s := rfl
theorem exec_cancelIdx (o : EFmt) (s : State) : exec (.cancelIdx o) s = execCancelIdx o s := rfl

theorem bits_level (x : Nat) : bits x 1 0 = x % 4 := by simp [bits]
theorem bits_index (x : Nat) : bits x 11 0 = x % 4096 := by simp [bits]
theorem bits_armLevel (x : Nat) : bits x 17 16 = x / 2 ^ 16 % 4 := rfl

/-- COUNTER_SIGNAL: the signal of a child that is SUSPECT by now counts as that (R149). -/
theorem exec_counterSignal_eq (s : State) (part slot i st : Nat) (child : Option Nat) (cores : List Nat) :
    (st ≠ 1 ∨ (∀ j, child = some j → (s.ctr part slot j).state ≠ 7) →
      exec (.counterSignal part slot i st child cores) s = .next (s.signal part slot i 1 st child cores)) ∧
    (∀ j, st = 1 → child = some j → (s.ctr part slot j).state = 7 →
      exec (.counterSignal part slot i st child cores) s = .next (s.signal part slot i 1 7 child cores)) := by
  rw [exec_counterSignal]
  unfold execCounterSignal
  refine ⟨fun h => ?_, ?_⟩
  · cases child with
    | none => simp
    | some j =>
      have hn : ¬ (st = stDone ∧ ((s.ctr part slot j).state == stSuspect) = true) := fun ⟨h1, h2⟩ =>
        (h.resolve_left (not_not.mpr h1)) j rfl (beq_iff_eq.mp h2)
      simp only [hn, if_false]
  · rintro j rfl rfl h7
    simp [h7, stDone, stSuspect]

/-! ### The counter that an instruction names, and what is done to it -/

/-- CSIG signals for the cores that ran its tether, its own among them (R168, R357). -/
theorem State.signalCores_tether {s : State} {r : FlightRef} {L T : Nat} {y : Tether} {x : Launch} (ht : s.tetherOf r = some (L, T, y))
    (hx : look s.launches L = some x) :
    s.signalCores r = if s.coreOf r ∈ (look x.ran T).getD [] then (look x.ran T).getD [] else (look x.ran T).getD [] ++ [s.coreOf r] := by
  cases r with
  | ctl die part => cases ht
  | wg w fl =>
    have hr : s.ranCores L T = (look x.ran T).getD [] := by rw [State.ranCores, hx]; rfl
    simp only [State.signalCores, ht, hr, List.contains_iff_mem]

theorem State.csigBy_none (s : State) (r : FlightRef) (f : Flight) (d x : Nat) :
    s.csigBy r f d x none = s.retire r (f.setS d 0xFFFFFFFF) := rfl

theorem State.cancelBy_none (s : State) (r : FlightRef) (f : Flight) (d : Nat) :
    s.cancelBy r f d none = s.retire r (f.setS d 0xFFFFFFFF) := rfl

/-- The counter whose index a register holds; 0xFFF names none. -/
theorem Flight.counter_eq (f : Flight) (r : Nat) :
    f.counter r = if (f.s r).toNat % 4096 = 0xFFF then none else some ((f.s r).toNat % 4096) := by
  rw [Flight.counter, bits_index]
  rfl

/-! ### Forms of a control program -/

section
variable {s : State} {die part : Nat} {f : Flight} (hi : s.issuer = some (.ctl die part, f)) {g : BitVec 4} (ha : f.acting g ≠ [])
  (body : FlightRef → Flight → State)
include hi ha

theorem controlSig_drain (hc : s.threadClear (.ctl die part) (f.lowTid g) s.uid = false) :
    controlSig g body s = .next (s.stall (.ctl die part) .drain) := by
  have h1 := (actsOnce_iff f g).mpr ha
  rw [controlSig, controlOnly_ctl hi]
  simp only [h1, hc, Bool.not_true, Bool.false_eq_true, if_false]

theorem controlSig_acts (hc : s.threadClear (.ctl die part) (f.lowTid g) s.uid = true) :
    controlSig g body s = .next (body (.ctl die part) f) := by
  have h1 := (actsOnce_iff f g).mpr ha
  rw [controlSig, controlOnly_ctl hi]
  simp only [h1, hc, Bool.not_true, Bool.false_eq_true, if_false, if_true]

end

theorem csig_pathOp (o : EFmt) : PathOp (.csig o) o.g false (fun _ _ => True)
    (fun s r _ => s.ctrClass r (s.levelCounter r (o.imm.toNat % 4))) (fun s r f =>
    (s.levelCounter r (o.imm.toNat % 4) = none → exec (.csig o) s = .next (s.retire r (f.setS o.d.toNat 0xFFFFFFFF))) ∧
    ∀ i, s.levelCounter r (o.imm.toNat % 4) = some i →
      let n := (f.s o.x.toNat).toNat
      (∀ L T x y, s.tetherOf r = some (L, T, y) → look s.launches L = some x →
        let ran := (look x.ran T).getD []
        let t := if n = 0 then s else s.signal (s.partOf r) (s.ctxOf r) i n 1 none (if s.coreOf r ∈ ran then ran else ran ++ [s.coreOf r])
        exec (.csig o) s = .next (t.retire r (f.setS o.d.toNat (BitVec.ofNat 32 (t.ctr (s.partOf r) (s.ctxOf r) i).done))))) := by
  refine pathOp_rule (body := fun s r f => s.csigBy r f o.d.toNat o.x.toNat (s.levelCounter r (o.imm.toNat % 4)))
    (fun s => by rw [exec_csig, execCsig, bits_level]) fun s r f hi hx => ⟨fun hn => ?_, fun i hi' => ?_⟩
  · rw [hx, hn, State.csigBy_none]
  · intro n L T x y ht hL
    rw [hx, hi', State.csigBy, State.signalCores_tether ht hL]
    rfl

theorem cancel_once (o : EFmt) : Once (.cancel o) o.g (fun s r f =>
    (s.levelCounter r (o.imm.toNat % 4) = none → exec (.cancel o) s = .next (s.retire r (f.setS o.d.toNat 0xFFFFFFFF))) ∧
    ∀ i, s.levelCounter r (o.imm.toNat % 4) = some i → exec (.cancel o) s = .next
      ((s.retire r (f.setS o.d.toNat (BitVec.ofNat 32 (s.ctr (s.partOf r) (s.ctxOf r) i).state))).cancelCounter (s.partOf r) (s.ctxOf r) i)) := by
  intro s r f hi
  have hx : exec (.cancel o) s = onceWith o.g (fun r f => s.cancelBy r f o.d.toNat (s.levelCounter r (o.imm.toNat % 4))) s := by
    rw [exec_cancel, execCancel, bits_level]
  refine ⟨fun ha => hx.trans (onceWith_idle hi ha _), fun ha => ?_⟩
  have hy := hx.trans (onceWith_acts hi ha _)
  exact ⟨fun hn => by rw [hy, hn, State.cancelBy_none], fun i hi' => by rw [hy, hi']; rfl⟩

/-- The forms with an index trap outside a control program. -/
theorem index_forms_priv (o : EFmt) (i : Instr) (h : i = .csigIdx o ∨ i = .csigArm o ∨ i = .cancelIdx o) (s : State) (w fl : Nat) (f : Flight)
    (hi : s.issuer = some (.wg w fl, f)) :
    exec i s = .next (s.trap (.wg w fl) { cause := 0x04, sub := 0, kind := 0, info := 0, org := none }) := by
  rcases h with rfl | rfl | rfl
  · exact controlOnly_wg hi _
  · exact controlOnly_wg hi _
  · exact controlOnly_wg hi _

section
variable {s : State} {die part : Nat} {f : Flight} (hi : s.issuer = some (.ctl die part, f)) {o : EFmt} (ha : f.acting o.g ≠ [])
include hi ha

theorem cancelIdx_acts : exec (.cancelIdx o) s = .next (s.cancelBy (.ctl die part) f o.d.toNat (f.counter o.h.toNat)) := by
  have h1 := (actsOnce_iff f o.g).mpr ha
  rw [exec_cancelIdx, execCancelIdx, controlOnly_ctl hi]
  simp only [h1, if_true]

variable (hc : s.threadClear (.ctl die part) (f.lowTid o.g) s.uid = true)
include hc

theorem csigIdx_acts : exec (.csigIdx o) s = .next (s.csigBy (.ctl die part) f o.d.toNat o.x.toNat (f.counter o.h.toNat)) :=
  controlSig_acts hi ha _ hc

theorem csigArm_acts : exec (.csigArm o) s = .next (match f.counter o.h.toNat with
    | none => s.retire (.ctl die part) (f.setS o.d.toNat 0xFFFFFFFF)
    | some i =>
      if (s.ctr part (s.ctxOf (.ctl die part)) i).state = stPending then s.retire (.ctl die part) (f.setS o.d.toNat 0xFFFFFFFF)
      else (s.arm part (s.ctxOf (.ctl die part)) i (f.s o.x.toNat).toNat (bits (f.s (o.x.toNat + 1)).toNat 11 0)
        (bits (f.s (o.x.toNat + 1)).toNat 17 16)).retire (.ctl die part) (f.setS o.d.toNat 0)) :=
  controlSig_acts hi ha _ hc

end

/-- Settles O37: the rules of signals, arming and cancelling, and each form of CSIG and CANCEL through the counter that it names. -/
theorem counters : Obligations.Counters := by
  refine ⟨signalRule, armRule, cancelRule, exec_counterSignal_eq, csig_pathOp, cancel_once, index_forms_priv,
    fun o s die part f hi ha hc => ⟨controlSig_drain hi ha _ hc, controlSig_drain hi ha _ hc⟩, ?_⟩
  intro o s die part f hi ha hc r i x y gives
  have hidx := csigIdx_acts hi ha hc
  have harm := csigArm_acts hi ha hc
  have hcan := cancelIdx_acts hi ha
  rw [Flight.counter_eq] at hidx harm hcan
  refine ⟨fun h => ?_, fun h hn => ?_, fun h hn => ?_, fun h hs => ?_, fun h hs => ?_, fun h => ?_⟩
  · rw [if_pos h] at hidx harm hcan
    exact ⟨hidx, harm, hcan⟩
  · rw [if_neg h] at hidx
    rw [hidx, State.csigBy]
    simp only [hn, if_false]
    rfl
  · rw [if_neg h] at hidx
    rw [hidx, State.csigBy]
    simp only [hn]
    rfl
  · rw [if_neg h] at harm
    exact harm.trans (congrArg _ (if_pos hs))
  · rw [if_neg h, bits_index, bits_armLevel] at harm
    exact harm.trans (congrArg _ (if_neg hs))
  · rw [if_neg h] at hcan
    exact hcan

end Sys2Proof.Machine
end

section
/-! SUPPORT. Commands at the head of a queue: what becomes of them as their body says (R374, R375, R377). -/

namespace Sys2Proof.Machine

open Sys2Proof.Claim

/-- What a command comes to, by what its body says of the state without it. -/
def State.commandEnds (s : State) (src : CmdSrc) (c : List Byte) : State × CmdEnd → State
  | (_, .hold) => s
  | (_, .stay f) => f s
  | (t, .code x) => State.pump src 65536 (t.owe (cmdPart src c) (cmdEntry src (cmdPart src c) (s.cmdSeq src) x))
  | (t, .later) => State.pump src 65536 t

section
variable {s : State} {src : CmdSrc} {c : List Byte} {code : Nat} (hh : s.headCmd src = some c) (hc : fieldAt c 0 1 = code)
  (hp : src = .pf → fieldAt c 1 1 < 16 ∧ fieldAt c 2 6 = 0) {body : State → Nat → Word → List Byte → State × CmdEnd}
include hh hc hp

theorem command_eq : command src code body s = .next (s.commandEnds src c (body (s.popCmd src) (cmdPart src c) (s.cmdSeq src) c)) := by
  have hpf : ¬ (src = .pf ∧ (16 ≤ cmdPart src c ∨ fieldAt c 2 6 ≠ 0)) := by
    rintro ⟨rfl, h⟩
    obtain ⟨h1, h2⟩ := hp rfl
    simp only [cmdPart] at h
    omega
  simp only [command, hh, hc, ne_eq, not_true_eq_false, if_false, hpf]
  rfl

theorem command_code {t : State} {x : Nat} (hb : body (s.popCmd src) (cmdPart src c) (s.cmdSeq src) c = (t, .code x)) :
    command src code body s =
      .next (State.pump src 65536 (t.owe (cmdPart src c) (cmdEntry src (cmdPart src c) (s.cmdSeq src) x))) := by
  rw [command_eq hh hc hp, hb, State.commandEnds]

theorem command_hold {t : State} (hb : body (s.popCmd src) (cmdPart src c) (s.cmdSeq src) c = (t, .hold)) :
    command src code body s = .next s := by
  rw [command_eq hh hc hp, hb, State.commandEnds]

theorem command_stay {t : State} {f : State → State} (hb : body (s.popCmd src) (cmdPart src c) (s.cmdSeq src) c = (t, .stay f)) :
    command src code body s = .next (f s) := by
  rw [command_eq hh hc hp, hb, State.commandEnds]

theorem command_later {t : State} (hb : body (s.popCmd src) (cmdPart src c) (s.cmdSeq src) c = (t, .later)) :
    command src code body s = .next (State.pump src 65536 t) := by
  rw [command_eq hh hc hp, hb, State.commandEnds]

end

/-- A partition after one partition is changed. -/
theorem State.part_modPart (s : State) (p : Nat) (f : Part → Part) (j : Nat) :
    (s.modPart p f).part j = if j = p ∧ p < s.parts.length then f (s.part p) else s.part j := by
  simp only [State.part, State.modPart_parts, List.getD_eq_getElem?_getD, getElem?_modAt]
  by_cases h : j = p
  · subst h
    by_cases hl : j < s.parts.length <;> simp [hl]
  · simp [h]

/-- A change of a partition that keeps something of it. -/
theorem State.part_modPart_kept {α : Type} (g : Part → α) (s : State) (p : Nat) {f : Part → Part} (h : ∀ x, g (f x) = g x) (j : Nat) :
    g ((s.modPart p f).part j) = g (s.part j) := by
  rw [State.part_modPart]
  split
  · next hj => rw [h, hj.1]
  · rfl

/-- A command that leaves its queue moves its ring and its positions alone. -/
theorem State.popCmd_part_kept {α : Type} (g : Part → α) (h : ∀ (x : Part) rs ss, g { x with rings := rs, seqs := ss } = g x) (s : State)
    (src : CmdSrc) (j : Nat) : g ((s.popCmd src).part j) = g (s.part j) := by
  cases src with
  | pf => rfl
  | vf k q =>
    rw [State.popCmd, State.modCmd]
    exact (State.part_modPart_kept g _ k (fun x => h x x.rings _) j).trans (State.part_modPart_kept g s k (fun x => h x _ x.seqs) j)

/-- The VF of a queue whose head is taken is not disabled (R350). -/
theorem State.headCmd_vf {s : State} {k q : Nat} {c : List Byte} (h : s.headCmd (.vf k q) = some c) : (s.part k).vfOff = 0 := by
  rw [State.headCmd] at h
  by_contra hv
  have ht : s.takes? (.vf k q) = false := by simp [State.takes?, hv]
  simp [ht] at h

end Sys2Proof.Machine
end

section
/-! SUPPORT. Fields of records, accepted launches, and the obligation on launching (R151, R152, R153, R166). -/

namespace Sys2Proof.Machine

open Sys2Proof.Claim

/-! ### Fields of a record (R151) -/

/-- A field is its low part and, above it, its high part. -/
theorem fieldAt_add (bs : List Byte) (off a b : Nat) : fieldAt bs off (a + b) = fieldAt bs off a + 256 ^ a * fieldAt bs (off + a) b := by
  have hs : slice bs off (a + b) = slice bs off a ++ slice bs (off + a) b := by
    rw [slice, slice, slice, List.take_add, List.drop_drop]
  rw [fieldAt, fieldAt, fieldAt, hs, ofBytes_append]
  by_cases h : off + a ≤ bs.length
  · rw [slice, List.length_take, List.length_drop, Nat.min_eq_left (by omega)]
  · have he : slice bs (off + a) b = [] := by rw [slice, List.drop_eq_nil_of_le (by omega), List.take_nil]
    rw [he, ofBytes, Nat.mul_zero, Nat.mul_zero]

theorem fieldAt_lt (bs : List Byte) (off n : Nat) : fieldAt bs off n < 256 ^ n :=
  Nat.lt_of_lt_of_le (ofBytes_lt _) (Nat.pow_le_pow_right (by decide) (List.length_take_le _ _))

/-- Bits of a word that begin and end with whole bytes are a field of their own. -/
theorem recBits_bytes (r : List Byte) (off a n c : Nat) (h : a + n + c = 8) (hn : 0 < n) :
    recBits r off (8 * (a + n) - 1) (8 * a) = fieldAt r (off + a) n := by
  have ha : (2 : Nat) ^ (8 * a) = 256 ^ a := Nat.pow_mul 2 8 a
  have hm : (2 : Nat) ^ (8 * (a + n) - 1 + 1 - 8 * a) = 256 ^ n := by
    rw [show 8 * (a + n) - 1 + 1 - 8 * a = 8 * n by omega]
    exact Nat.pow_mul 2 8 n
  have h8 : fieldAt r off 8 = fieldAt r off (a + (n + c)) := by rw [← h, Nat.add_assoc]
  rw [recBits, bits, h8, fieldAt_add, ha, hm, Nat.add_mul_div_left _ _ (by positivity),
    Nat.div_eq_of_lt (fieldAt_lt r off a), Nat.zero_add, fieldAt_add, Nat.add_mul_mod_self_left,
    Nat.mod_eq_of_lt (fieldAt_lt r (off + a) n)]

/-- Bits below a whole number of bytes. -/
theorem recBits_low (r : List Byte) (off : Nat) : recBits r off 11 0 = fieldAt r off 2 % 4096 := by
  have h := fieldAt_add r off 2 6
  rw [recBits, bits, h]
  omega

theorem recBits_mid (r : List Byte) (off : Nat) : recBits r off 27 16 = fieldAt r (off + 2) 2 % 4096 := by
  have h := fieldAt_add r off 2 6
  have h' := fieldAt_add r (off + 2) 2 4
  have hl := fieldAt_lt r off 2
  rw [recBits, bits, h, h']
  omega

/-! ### An accepted launch (R152) -/

/-- The counter that a record names, its parent, and the number of signals it waits for. -/
theorem Launch.ctrl_eq (l : Launch) : l.ctrl = fieldAt l.record 0x50 2 % 4096 := recBits_low l.record 0x50

theorem Launch.tetherCount_eq (l : Launch) : l.tetherCount = fieldAt l.record 0x08 4 / max (fieldAt l.record 0x0D 1) 1 := by
  have h1 : recBits l.record 0x08 31 0 = fieldAt l.record 0x08 4 := recBits_bytes l.record 8 0 4 4 rfl (by decide)
  have h2 : recBits l.record 0x08 47 40 = fieldAt l.record 0x0D 1 := recBits_bytes l.record 8 5 1 2 rfl (by decide)
  rw [Launch.tetherCount, h1, h2]

theorem State.logAppend_off {s : State} {part ctx : Nat} (h : ((s.part part).ctx ctx).desc.logbase = 0) (recs : List (List Byte)) :
    s.logAppend part ctx recs = s := by
  rw [State.logAppend]
  exact if_pos (Or.inl h)

theorem State.withSigs_parts (s : State) (gs : List Sig) : (s.withSigs gs).parts = s.parts := rfl
theorem State.withSigs_launches (s : State) (gs : List Sig) : (s.withSigs gs).launches = s.launches := rfl

theorem State.arm_kept (s : State) (part ctx i target parent level : Nat) :
    (s.arm part ctx i target parent level).parts = s.parts ∧ (s.arm part ctx i target parent level).launches = s.launches := by
  obtain ⟨gs, hg⟩ := s.arm_eq part ctx i target parent level
  rw [hg, State.withSigs_parts, State.withSigs_launches, State.putCtr_parts, State.putCtr_launches]
  exact ⟨rfl, rfl⟩

/-- The state with another agenda. -/
def State.withAgenda (s : State) (a : List Move) : State := { s with agenda := a }

theorem State.withAgenda_parts (s : State) (a : List Move) : (s.withAgenda a).parts = s.parts := rfl
theorem State.withAgenda_launches (s : State) (a : List Move) : (s.withAgenda a).launches = s.launches := rfl
theorem State.withAgenda_ctr (s : State) (a : List Move) (part ctx i : Nat) : (s.withAgenda a).ctr part ctx i = s.ctr part ctx i :=
  State.ctr_parts rfl rfl part ctx i

/-- What is looked at anew after an acceptance: a launch that can never be placed. -/
theorem State.events_if (c : Prop) [Decidable c] (s : State) (is : List Instr) : ∃ a, (if c then s.events is else s) = s.withAgenda a := by
  by_cases h : c
  · exact ⟨_, if_pos h⟩
  · exact ⟨s.agenda, if_neg h⟩

/-- The launch that an acceptance makes. -/
def State.newLaunch (s : State) (part ctx q : Nat) (seq : Word) (origin : Nat) (r a : List Byte) : Launch :=
  ⟨(s.part part).nextLaunch, part, ctx, q, seq, origin, r, a, 0, [], [], [], false, none, false, [], []⟩

/-- The state with the launch of an acceptance, whose counter is not yet armed. -/
def State.withLaunch (s : State) (part : Nat) (l : Launch) : State :=
  let next : Word := if l.id + 1 = 0 then 1 else l.id + 1
  let s1 := s.modPart part (fun p => { p with nextLaunch := next })
  { s1 with uid := s1.uid + 1, launches := put s1.launches s1.uid l }

theorem State.withLaunch_part (s : State) (part : Nat) (l : Launch) (j : Nat) : (s.withLaunch part l).part j =
    if j = part ∧ part < s.parts.length then { s.part part with nextLaunch := if l.id + 1 = 0 then 1 else l.id + 1 } else s.part j :=
  State.part_modPart s part _ j

theorem State.withLaunch_look (s : State) (part : Nat) (l : Launch) : look (s.withLaunch part l).launches s.uid = some l :=
  look_put_same s.launches s.uid l

/-- The counter of a launch that has been armed: one signal for each tether, and XSIG more (R149). -/
theorem State.armed_launch_ctr (s : State) (l : Launch) :
    let c := (s.arm l.part l.ctx l.ctrl (l.tetherCount + recBits l.record 0x60 31 0) (recBits l.record 0x50 27 16) 0).ctr l.part l.ctx
      (fieldAt l.record 0x50 2 % 4096)
    c.state = 0 ∧ c.done = 0 ∧ c.level = 0 ∧ c.parent = fieldAt l.record 0x52 2 % 4096 ∧
      c.target = (fieldAt l.record 0x08 4 / max (fieldAt l.record 0x0D 1) 1 + fieldAt l.record 0x60 4) % 2 ^ 32 := by
  have hx : recBits l.record 0x60 31 0 = fieldAt l.record 0x60 4 := recBits_bytes l.record 0x60 0 4 4 rfl (by decide)
  rw [← Launch.ctrl_eq, armRule s l.part l.ctx l.ctrl _ _ 0 (bits_lt ..) (by decide), Launch.tetherCount_eq, hx, recBits_mid]
  exact ⟨rfl, rfl, rfl, rfl, rfl⟩

theorem State.takeLaunch_eq {s : State} {part ctx : Nat} (hlog : ((s.part part).ctx ctx).desc.logbase = 0) (q : Nat) (seq : Word) (origin : Nat)
    (r a : List Byte) :
    let l := s.newLaunch part ctx q seq origin r a
    let t := (s.withLaunch part l).arm part ctx l.ctrl (l.tetherCount + recBits r 0x60 31 0) (recBits r 0x50 27 16) 0
    ∃ ag, s.takeLaunch part ctx q seq origin r a = (t.withAgenda ag, l.id) := by
  intro l t
  have hlog' : ((t.part part).ctx ctx).desc.logbase = 0 := by
    have hp : t.part part = (s.withLaunch part l).part part := by rw [State.part, State.part, (State.arm_kept ..).1]
    rw [hp, State.withLaunch_part]
    split <;> exact hlog
  obtain ⟨ag, hag⟩ := State.events_if (t.dep l = Dep.never) t [.tetherPlace s.uid []]
  refine ⟨ag, ?_⟩
  rw [← hag]
  have hlg := State.logAppend_off hlog' (launchRecs origin (q % 16) seq (s.part part).nextLaunch r a s.clk.toNat)
  change (if (t.logAppend part ctx (launchRecs origin (q % 16) seq (s.part part).nextLaunch r a s.clk.toNat)).dep l = Dep.never then
      (t.logAppend part ctx (launchRecs origin (q % 16) seq (s.part part).nextLaunch r a s.clk.toNat)).events [.tetherPlace s.uid []]
    else t.logAppend part ctx (launchRecs origin (q % 16) seq (s.part part).nextLaunch r a s.clk.toNat), l.id) = _
  rw [hlg]

theorem State.acceptLaunch_takes {s : State} {part ctx va : Nat} {r a : List Byte} (hva : va % 256 = 0)
    (hr : s.readVa part ctx va 256 = some r) (ha : s.readVa part ctx (fieldAt r 0x80 8) 64 = some a)
    (hn : s.launchReason part ctx (some r) (some a) = none) (q : Nat) (seq : Word) (origin : Nat) :
    s.acceptLaunch part ctx q seq origin va = s.takeLaunch part ctx q seq origin r a := by
  simp only [State.acceptLaunch, hva, if_true, hr, Option.bind_some, ha, hn, Option.getD_some]

/-- A record that is accepted (R152). -/
theorem acceptRule : AcceptRule := by
  intro s part ctx q origin va seq r a hpart hva hr ha hn hlog _
  let l := s.newLaunch part ctx q seq origin r a
  obtain ⟨ag, ht⟩ := State.takeLaunch_eq hlog q seq origin r a
  refine ⟨_, l.id, l, (State.acceptLaunch_takes hva hr ha hn q seq origin).trans ht, rfl, ?_, rfl, rfl, rfl, rfl, rfl, rfl, rfl, rfl, rfl, rfl,
    ?_, ?_⟩
  · rw [State.withAgenda_launches, (State.arm_kept ..).2]
    exact s.withLaunch_look part l
  · rw [State.part, State.withAgenda_parts, (State.arm_kept ..).1]
    exact (congrArg Part.nextLaunch (s.withLaunch_part part l part)).trans (congrArg Part.nextLaunch (if_pos ⟨rfl, hpart⟩))
  · rw [State.withAgenda_ctr]
    exact State.armed_launch_ctr (s.withLaunch part l) l

/-! ### LAUNCH and LAUNCH_COMMAND -/

theorem exec_launch (o : EFmt) (s : State) : exec (.launch o) s = execLaunch o s := rfl
theorem exec_launchCommand (src : CmdSrc) (s : State) : exec (.launchCommand src) s = execLaunchCommand src s := rfl

/-- What LAUNCH does in its place (R166). -/
def State.launchBody (o : EFmt) (s : State) (r : FlightRef) (f : Flight) : State :=
  let w := fun (i : Nat) => f.s (o.p.toNat + i)
  let part := s.partOf r
  let ctx := s.ctxOf r
  let va := (f.s64 o.p.toNat).toNat
  let q := (w 2).toNat
  if w 3 ≠ 0 then s.fault r cIllegalOp 2 0
  else if va % 256 ≠ 0 ∨ 16 ≤ q ∨ s.queueFull part ctx q then s.retire r (f.setS o.d.toNat 0)
  else match s.recordStop part ctx va with
    | some e => s.memStop r 1 e
    | none =>
      let seq := (s.part part).seqs.getD q 0
      let s1 := s.modPart part (fun p => { p with seqs := modAt p.seqs q (· + 1) })
      let (s2, lid) := s1.acceptLaunch part ctx q seq 1 va
      s2.retire r (f.setS o.d.toNat lid)

theorem execLaunch_eq (o : EFmt) (s : State) :
    execLaunch o s = pathOp o.g (fun s r f => s.vaClass r (f.s64 o.p.toNat).toNat) (State.launchBody o s) s := rfl

/-- A rejected launch (R153). -/
theorem acceptLaunch_rejects (s : State) (part ctx q origin va : Nat) (seq : Word) (reason : Nat) :
    let record := if va % 256 = 0 then s.readVa part ctx va 256 else none
    s.launchReason part ctx record (record.bind (fun r => s.readVa part ctx (fieldAt r 0x80 8) 64)) = some reason →
    s.acceptLaunch part ctx q seq origin va =
      (s.owe part { queue := q, seq, lid := 0, kind := 1, code := 0, reason, origin, part := 0, state := 5, ctr := none }, 0) := by
  intro record h
  simp only [State.acceptLaunch]
  rw [h]
  rfl

theorem launchCommand_accepts (s : State) (k q x : Nat) (c : List Byte) (hh : s.headCmd (.vf k q) = some c) (hc : fieldAt c 0 1 = 0x01)
    (hx : (s.popCmd (.vf k q)).cmdCtx k = some x) (hl : (s.popCmd (.vf k q)).logFull k x 11 = false) :
    exec (.launchCommand (.vf k q)) s = .next (State.pump (.vf k q) 65536
      ((s.popCmd (.vf k q)).acceptLaunch k x q (s.cmdSeq (.vf k q)) 0 (fieldAt c 8 8)).1) := by
  have hv : ((s.popCmd (.vf k q)).part k).vfOff = 0 :=
    (State.popCmd_part_kept Part.vfOff (fun _ _ _ => rfl) s _ k).trans (State.headCmd_vf hh)
  rw [exec_launchCommand, execLaunchCommand]
  refine command_later hh hc (fun h => by cases h) ?_
  simp only [cmdPart, hv, hx, hl, ne_eq, not_true_eq_false, if_false, Bool.false_eq_true]
  rfl

/-- Settles O38: acceptance and rejection of a record, and LAUNCH and LAUNCH_COMMAND through them. -/
theorem launching : Obligations.Launching := by
  refine ⟨acceptRule, acceptLaunch_rejects, fun o => ?_, launchCommand_accepts⟩
  refine pathOp_rule (fun s => (exec_launch o s).trans (execLaunch_eq o s)) fun s r f hi hx => ?_
  intro va q part zero
  refine ⟨fun hz => ?_, fun hz h => ?_, fun e hz hva hq hf he => ?_, fun hz hva hq hf hn => ?_⟩
  · rw [hx, State.launchBody]
    exact congrArg _ (if_pos hz)
  · rw [hx, State.launchBody]
    exact congrArg _ ((if_neg (not_not.mpr hz)).trans (if_pos h))
  · have h1 : ¬ (va % 256 ≠ 0 ∨ 16 ≤ q ∨ s.queueFull part (s.ctxOf r) q = true) := by simp [hva, hq, hf]
    rw [hx, State.launchBody]
    refine congrArg _ ((if_neg (not_not.mpr hz)).trans ((if_neg h1).trans ?_))
    simp only [part, va] at he
    rw [he]
  · have h1 : ¬ (va % 256 ≠ 0 ∨ 16 ≤ q ∨ s.queueFull part (s.ctxOf r) q = true) := by simp [hva, hq, hf]
    rw [hx, State.launchBody]
    refine congrArg _ ((if_neg (not_not.mpr hz)).trans ((if_neg h1).trans ?_))
    simp only [part, va] at hn
    rw [hn]

end Sys2Proof.Machine
end

section
/-! SUPPORT. Confirmation and suspicion of signals, error reports, scan turns, and the obligation on them (R149, R150, R356–R358, R362). -/

namespace Sys2Proof.Machine

open Sys2Proof.Claim

/-! ### Confirmation and suspicion (R149, R150) -/

@[simp] theorem State.putCtr_wgs (s : State) (part ctx i : Nat) (c : Ctr) : (s.putCtr part ctx i c).wgs = s.wgs := by
  rw [State.putCtr, State.putNat_wgs]
@[simp] theorem State.putCtr_cores (s : State) (part ctx i : Nat) (c : Ctr) : (s.putCtr part ctx i c).cores = s.cores := by
  rw [State.putCtr, State.putNat_cores]

theorem State.core_congr {s t : State} (h : t.cores = s.cores) (c : Nat) : t.core c = s.core c := by
  rw [State.core, State.core, h]

theorem State.core_modCore (s : State) (c : Nat) (f : Core → Core) : (s.modCore c f).core c = f (s.core c) := by
  rw [State.core, State.modCore_cores, sget_sput_same]

theorem State.withSigs_core (s : State) (gs : List Sig) (c : Nat) : (s.withSigs gs).core c = s.core c := rfl

/-- The signals but one. -/
def State.sigsBut (s : State) (g : Sig) : List Sig := s.sigs.filter (fun x => x != g)

/-- The signals that a counter has sent to its parents. -/
def sentBy (gs : List Sig) (part ctx i : Nat) : List Sig := gs.filter (fun x => x.part == part && x.ctx == ctx && x.child == some i)

theorem sentBy_eq_nil {gs : List Sig} {part ctx i : Nat} (h : ∀ x ∈ gs, x.part = part → x.ctx = ctx → x.child ≠ some i) :
    sentBy gs part ctx i = [] := by
  simp only [sentBy, List.filter_eq_nil_iff, Bool.and_eq_true, beq_iff_eq]
  exact fun x hx ⟨⟨hp, hc⟩, hi⟩ => h x hx hp hc hi

section
variable (n : Nat) (s : State) (g : Sig)

/-- CONFCNT of the signal's counter with it. -/
def State.confirmed (s : State) (g : Sig) : Nat := min ((s.ctr g.part g.ctx g.idx).conf + g.count) (s.ctr g.part g.ctx g.idx).target

theorem State.confirmed_lt : s.confirmed g < 2 ^ 32 := Nat.lt_of_le_of_lt (Nat.min_le_right _ _) (s.ctr_fits ..).target

/-- A signal that leaves its counter short of CONFIRMED raises CONFCNT. -/
theorem State.confirm_short (h : (s.ctr g.part g.ctx g.idx).state ≠ 1 ∨ s.confirmed g ≠ (s.ctr g.part g.ctx g.idx).target) :
    State.confirm (n + 1) s g =
      (s.withSigs (s.sigsBut g)).putCtr g.part g.ctx g.idx { s.ctr g.part g.ctx g.idx with conf := s.confirmed g } := by
  rw [State.confirm]
  exact if_neg (by simp only [stDone]; exact fun ⟨h1, h2⟩ => h.elim (· h1) (· h2))

/-- A signal with which a DONE counter becomes CONFIRMED confirms what the counter has sent. -/
theorem State.confirm_full (h : (s.ctr g.part g.ctx g.idx).state = 1) (hc : s.confirmed g = (s.ctr g.part g.ctx g.idx).target) :
    State.confirm (n + 1) s g = (sentBy (s.sigsBut g) g.part g.ctx g.idx).foldl (State.confirm n)
      ((s.withSigs (s.sigsBut g)).putCtr g.part g.ctx g.idx
        { s.ctr g.part g.ctx g.idx with conf := s.confirmed g, state := 2, tconf := s.clk.toNat }) := by
  rw [State.confirm]
  refine (if_pos ⟨h, hc⟩).trans ?_
  simp only [State.putCtr_sigs]
  rfl

end

/-- Confirmation (R149, R150, R357). -/
theorem confirmRule : ConfirmRule := by
  intro n s g c conf t rest
  have hfit := s.ctr_fits g.part g.ctx g.idx
  refine ⟨fun h => ?_, fun h hc => ?_⟩
  · have ht : t = _ := State.confirm_short n s g h
    have hf : ({ c with conf } : Ctr).Fits := { hfit with conf := s.confirmed_lt g }
    rw [ht]
    exact ⟨State.ctr_putCtr _ _ _ _ hf, State.putCtr_sigs .., State.putCtr_wgs .., State.putCtr_agenda ..⟩
  · have hf : ({ c with conf, state := 2, tconf := s.clk.toNat } : Ctr).Fits :=
      { hfit with conf := s.confirmed_lt g, state := by show 2 < 16; decide, tconf := s.clk.isLt }
    exact ⟨_, State.ctr_putCtr (s.withSigs rest) _ _ _ hf, State.putCtr_sigs .., State.confirm_full n s g h hc⟩

/-- Suspicion (R150, R358). -/
theorem suspectRule : SuspectRule := by
  intro n s part ctx i c t
  have hfit := s.ctr_fits part ctx i
  refine ⟨fun h => ?_, fun h => ?_, fun h0 h1 => ?_⟩
  · have hf : ({ c with state := 7 } : Ctr).Fits := { hfit with state := by show 7 < 16; decide }
    refine ⟨_, State.ctr_putCtr s _ _ _ hf, State.putCtr_sigs .., ?_⟩
    refine (if_pos h).trans ?_
    simp only [State.putCtr_sigs]
    rfl
  · have hf : ({ c with firstBad := if c.firstBad = 0 then 7 else c.firstBad } : Ctr).Fits :=
      { hfit with firstBad := by dsimp only; split <;> [decide; exact hfit.firstBad] }
    have h1 : ¬ c.state = 1 := by omega
    have ht : t = s.putCtr part ctx i { c with firstBad := if c.firstBad = 0 then 7 else c.firstBad } := (if_neg h1).trans (if_pos h)
    rw [ht]
    exact ⟨State.ctr_putCtr s _ _ _ hf, State.putCtr_sigs ..⟩
  · exact (if_neg h1).trans (if_neg h0)

/-! ### Error reports (R362) -/

/-- A report sets its class's status bit and joins the error log. -/
theorem State.logErr_logged (s : State) {cls : Nat} (hc : cls < 3) (code at_ : Nat) {names : List ErrName} {P : List ErrName → Prop}
    (h : P names) : Logged s (s.logErr cls code at_ names) cls at_ P := by
  refine ⟨rfl, fun i hi => ?_, _, rfl, rfl, rfl, rfl, h⟩
  have hb : ∀ c < 3, ∀ j < 3, ((1#3) <<< c).getLsbD j = decide (j = c) := by decide
  rw [← hb cls hc i hi]
  exact BitVec.getLsbD_or

theorem State.logErr_ctr (s : State) (cls code at_ : Nat) (names : List ErrName) (part ctx i : Nat) :
    (s.logErr cls code at_ names).ctr part ctx i = s.ctr part ctx i := State.ctr_parts rfl rfl part ctx i

/-! ### The jobs that a failed turn makes SUSPECT (R358) -/

theorem State.mem_suspects_self (n : Nat) {s : State} {part ctx i : Nat} (h : (s.ctr part ctx i).state < 2) :
    (part, (ctx, i)) ∈ State.suspects (n + 1) s (part, (ctx, i)) := by
  have h' : (s.ctr part ctx i).state = stDone ∨ (s.ctr part ctx i).state = stPending := by simp only [stDone, stPending]; omega
  simp only [State.suspects, h', if_true, List.mem_append, List.mem_singleton, true_or]

theorem State.suspects_unfinal (n : Nat) (s : State) : ∀ (x y : Nat × (Nat × Nat)), y ∈ State.suspects n s x →
    (s.ctr y.1 y.2.1 y.2.2).state < 2 := by
  induction n with
  | zero => intro x y h; simp [State.suspects] at h
  | succ n ih =>
    rintro ⟨part, ctx, i⟩ y h
    simp only [State.suspects, List.mem_append] at h
    rcases h with h | h
    · split at h
      · next hs =>
        rw [List.mem_singleton.mp h]
        simp only [stDone, stPending] at hs
        dsimp only
        omega
      · simp at h
    · split at h
      · obtain ⟨g, -, hg⟩ := List.mem_flatMap.mp h
        exact ih _ y hg
      · simp at h

/-- Keeping the first of each element keeps the elements. -/
theorem mem_foldl_firsts {α : Type} [BEq α] [LawfulBEq α] (l : List α) (acc : List α) (y : α) :
    y ∈ l.foldl (fun l x => if l.contains x then l else l ++ [x]) acc ↔ y ∈ acc ∨ y ∈ l := by
  induction l generalizing acc with
  | nil => simp
  | cons x l ih =>
    rw [List.foldl_cons, ih]
    by_cases h : acc.contains x = true
    · have hx : x ∈ acc := List.contains_iff_mem.mp h
      simp only [h, if_true, List.mem_cons]
      constructor
      · rintro (ha | hl) <;> tauto
      · rintro (ha | rfl | hl) <;> tauto
    · simp only [h, Bool.false_eq_true, if_false, List.mem_append, List.mem_cons, List.not_mem_nil, or_false, or_assoc]

theorem State.mem_suspectJobs (s : State) (core : Nat) (y : Nat × (Nat × Nat)) : y ∈ s.suspectJobs core ↔
    ∃ g ∈ s.sigs.filter (fun g => g.need.contains core), y ∈ State.suspects 4096 s (g.part, (g.ctx, g.idx)) := by
  rw [State.suspectJobs, mem_foldl_firsts, List.mem_flatMap]
  simp

/-- The report of a failed core names it and the jobs that it makes SUSPECT. -/
theorem State.failNames (s : State) (core : Nat) :
    let ns := ErrName.core core :: (s.suspectJobs core).map (fun x => ErrName.job x.1 x.2.1 x.2.2)
    ErrName.core core ∈ ns ∧
      (∀ g ∈ s.sigs.filter (fun g => g.need.contains core), (s.ctr g.part g.ctx g.idx).state < 2 → ErrName.job g.part g.ctx g.idx ∈ ns) ∧
      ∀ k x i, ErrName.job k x i ∈ ns → (s.ctr k x i).state < 2 := by
  refine ⟨List.mem_cons_self, fun g hg h => List.mem_cons_of_mem _ ?_, fun k x i h => ?_⟩
  · exact List.mem_map.mpr ⟨_, (s.mem_suspectJobs core _).mpr ⟨g, hg, State.mem_suspects_self 4095 h⟩, rfl⟩
  · rcases List.mem_cons.mp h with h | h
    · cases h
    · obtain ⟨y, hy, he⟩ := List.mem_map.mp h
      obtain ⟨g, -, hg⟩ := (s.mem_suspectJobs core y).mp hy
      have hu := State.suspects_unfinal 4096 s _ y hg
      cases he
      exact hu

/-! ### Scan turns (R356, R357) -/

theorem exec_scanTurnStart (core : Nat) (s : State) : exec (.scanTurnStart core) s = execScanTurnStart core s := rfl
theorem exec_scanTurnEnd (core : Nat) (s : State) : exec (.scanTurnEnd core) s = execScanTurnEnd core s := rfl
theorem exec_scanTurnFail (core : Nat) (s : State) : exec (.scanTurnFail core) s = execScanTurnFail core s := rfl

theorem Sig.passes_eq (core : Nat) (g : Sig) : g.passes core = { g with passed := (g.passes core).passed } := by
  unfold Sig.passes
  split <;> rfl

theorem Sig.mem_passes (core : Nat) (g : Sig) (x : Nat) : x ∈ (g.passes core).passed ↔ x ∈ g.passed ∨ (x = core ∧ core ∈ g.begun) := by
  unfold Sig.passes
  split
  · next h =>
    have hb : core ∈ g.begun := by simpa using (Bool.and_eq_true_iff.mp h).1
    simp [hb]
  · next h =>
    have hb : core ∈ g.begun → core ∈ g.passed := by simpa using h
    exact ⟨Or.inl, fun hx => hx.elim id fun ⟨he, hc⟩ => he ▸ hb hc⟩

theorem Sig.ready_iff (g : Sig) : g.ready = true ↔ g.child = none ∧ ∀ x ∈ g.need, x ∈ g.passed := by
  simp [Sig.ready]

/-- A core whose turn can begin or be prepared: enabled, not fenced, not being scanned. -/
def State.scannable (s : State) (core : Nat) : Prop :=
  s.image.cores.getLsbD core = true ∧ (s.core core).fenced = false ∧ (s.core core).scanning = false

/-- The rotation moves on from a core whose turn it is. -/
def State.rotated (s : State) (core : Nat) : State :=
  if s.nextScan (boardOfCore core) = some core then { s with scanPos := s.scanPos.set (boardOfCore core) (core % 64 + 1) } else s

theorem State.rotated_kept (s : State) (core : Nat) : (s.rotated core).cores = s.cores ∧ (s.rotated core).sigs = s.sigs ∧
    (s.rotated core).mem = s.mem ∧ (s.rotated core).wgs = s.wgs := by
  unfold State.rotated
  split <;> exact ⟨rfl, rfl, rfl, rfl⟩

theorem State.rotated_scanPos {s : State} {core : Nat} (h : s.nextScan (boardOfCore core) = some core)
    (hl : boardOfCore core < s.scanPos.length) : (s.rotated core).scanPos.getD (boardOfCore core) 0 = core % 64 + 1 := by
  rw [State.rotated, if_pos h]
  simp [hl]

section
variable {s : State} {core : Nat} (hcore : core < 512)
include hcore

theorem scanTurnStart_illegal (h : ¬ s.scannable core) : exec (.scanTurnStart core) s = .next s := by
  rw [exec_scanTurnStart, execScanTurnStart]
  refine congrArg _ (if_pos ?_)
  by_contra hn
  exact h (by simpa [State.scannable, hcore, and_assoc] using hn)

variable (h : s.scannable core)
include h

/-- SCAN_TURN_START of such a core, by what the core's turn has come to. -/
theorem scanTurnStart_legal : exec (.scanTurnStart core) s = .next (
    if !(s.core core).closed then
      if s.nextScan (boardOfCore core) = some core then s.modCore core (fun c => { c with closed := true, turnAt := s.clk.toNat }) else s
    else if s.clk.toNat < (s.core core).turnAt + 100000 ∨
        (List.range 64).any (fun i => (s.core (boardOfCore core * 64 + i)).scanning) = true then s
    else
      let s2 := (s.vacate core).rotated core
      if !(s2.onCore core).isEmpty then s2
      else { s2.modCore core (fun c => { c with scanning := true, turnAt := s.clk.toNat }) with sigs := s2.sigs.map (Sig.begins core) }) := by
  obtain ⟨h1, h2, h3⟩ := h
  rw [exec_scanTurnStart, execScanTurnStart]
  refine congrArg _ (if_neg ?_)
  simp [hcore, h1, h2, h3]

theorem scanTurnStart_closes (ho : (s.core core).closed = false) (hn : s.nextScan (boardOfCore core) = some core) :
    exec (.scanTurnStart core) s = .next (s.modCore core (fun c => { c with closed := true, turnAt := s.clk.toNat })) := by
  rw [scanTurnStart_legal hcore h, ho, if_pos hn]
  rfl

theorem scanTurnStart_notNext (ho : (s.core core).closed = false) (hn : s.nextScan (boardOfCore core) ≠ some core) :
    exec (.scanTurnStart core) s = .next s := by
  rw [scanTurnStart_legal hcore h, ho, if_neg hn]
  rfl

theorem scanTurnStart_early (hcl : (s.core core).closed = true) (ht : s.clk.toNat < (s.core core).turnAt + 100000) :
    exec (.scanTurnStart core) s = .next s := by
  rw [scanTurnStart_legal hcore h, hcl]
  exact congrArg _ (if_pos (Or.inl ht))

variable (hq : ∀ i, i < 64 → (s.core (boardOfCore core * 64 + i)).scanning = false) (hcl : (s.core core).closed = true)
  (hnow : (s.core core).turnAt + 100000 ≤ s.clk.toNat)
include hq hcl hnow

/-- 100 µs after a core has closed, its turn begins, or is deferred while the core is not empty. -/
theorem scanTurnStart_due : exec (.scanTurnStart core) s = .next (
    let t := (s.vacate core).rotated core
    if !(t.onCore core).isEmpty then t
    else (t.modCore core (fun c => { c with scanning := true, turnAt := s.clk.toNat })).withSigs (t.sigs.map (Sig.begins core))) := by
  have hbusy : ¬ (s.clk.toNat < (s.core core).turnAt + 100000 ∨
      (List.range 64).any (fun i => (s.core (boardOfCore core * 64 + i)).scanning) = true) := by
    simp only [List.any_eq_true, List.mem_range, not_or, not_exists, not_and, Bool.not_eq_true]
    exact ⟨by omega, hq⟩
  rw [scanTurnStart_legal hcore h, hcl, if_neg hbusy]
  rfl

theorem scanTurnStart_begins (he : s.onCore core = []) : ∃ t, exec (.scanTurnStart core) s = .next t ∧ (t.core core).scanning = true ∧
    (t.core core).turnAt = s.clk.toNat ∧ t.sigs = s.sigs.map (Sig.begins core) ∧ t.mem = s.mem ∧
    t.scanPos = (s.rotated core).scanPos := by
  have hv : s.vacate core = s := by rw [State.vacate, he]; rfl
  obtain ⟨hc, hs, hm, hw⟩ := s.rotated_kept core
  have hon : ((s.rotated core).onCore core).isEmpty = true := by
    rw [State.onCore, hw]
    exact List.isEmpty_iff.mpr he
  rw [scanTurnStart_due hcore h hq hcl hnow, hv]
  generalize s.rotated core = u at hs hm hon ⊢
  refine ⟨_, rfl, ?_⟩
  simp only [hon, Bool.not_true, Bool.false_eq_true, if_false]
  rw [State.withSigs_core, State.core_modCore, ← hs]
  exact ⟨rfl, rfl, rfl, hm, rfl⟩

theorem scanTurnStart_defers (he : (s.vacate core).onCore core ≠ []) : ∃ t, exec (.scanTurnStart core) s = .next t ∧
    t.core core = (s.vacate core).core core ∧ t.sigs = (s.vacate core).sigs := by
  obtain ⟨hc, hs, hm, hw⟩ := (s.vacate core).rotated_kept core
  have hon : (((s.vacate core).rotated core).onCore core).isEmpty = false := by
    rw [State.onCore, hw, ← Bool.not_eq_true, List.isEmpty_iff]
    exact he
  rw [scanTurnStart_due hcore h hq hcl hnow]
  refine ⟨(s.vacate core).rotated core, ?_, State.core_congr hc core, hs⟩
  simp only [hon, Bool.not_false, if_true]

end

/-- Core c's turn has ended for the signals, and the core is open again. -/
def State.reopened (s : State) (core : Nat) : State :=
  (s.modCore core (fun c => { c with scanning := false, closed := false })).withSigs (s.sigs.map (Sig.passes core))

/-- A core that has failed a turn. -/
def State.fencedCore (s : State) (core : Nat) : State :=
  s.modCore core (fun c => { c with scanning := false, closed := false, fenced := true })

theorem State.reopened_core (s : State) (core : Nat) :
    (s.reopened core).core core = { s.core core with scanning := false, closed := false } := by
  rw [State.reopened, State.withSigs_core, State.core_modCore]

theorem State.fencedCore_core (s : State) (core : Nat) :
    (s.fencedCore core).core core = { s.core core with scanning := false, closed := false, fenced := true } := s.core_modCore core _

section
variable {s : State} {core : Nat}

theorem scanTurnEnd_early (h : (s.core core).scanning = false ∨ s.clk.toNat < (s.core core).turnAt + 250000) :
    exec (.scanTurnEnd core) s = .next s := by
  rw [exec_scanTurnEnd, execScanTurnEnd]
  refine congrArg _ (if_pos ?_)
  simpa using h

variable (h : (s.core core).scanning = true)
include h

theorem scanTurnEnd_due (hnow : (s.core core).turnAt + 250000 ≤ s.clk.toNat) : exec (.scanTurnEnd core) s = .next
    (((s.sigs.map (Sig.passes core)).filter Sig.ready).foldl (fun s g => State.confirm 4096 s g) (s.reopened core)) := by
  rw [exec_scanTurnEnd, execScanTurnEnd]
  refine congrArg _ ((if_neg ?_).trans rfl)
  simp only [h, Bool.not_true, Bool.false_or, decide_eq_true_eq]
  omega

theorem scanTurnFail_fails : exec (.scanTurnFail core) s = .next
    (((s.sigs.filter (fun g => g.need.contains core)).foldl (fun s g => State.suspect 4096 s (g.part, g.ctx, g.idx))
      (s.fencedCore core)).logErr 1 errSuspect core (.core core :: (s.suspectJobs core).map (fun x => .job x.1 x.2.1 x.2.2))) := by
  rw [exec_scanTurnFail, execScanTurnFail, if_pos h]
  rfl

end

/-- Confirmation of the one signal of a DONE counter that nothing above holds. -/
theorem State.confirm_alone {s : State} {g : Sig} (h : (s.ctr g.part g.ctx g.idx).state = 1)
    (hc : (s.ctr g.part g.ctx g.idx).target ≤ (s.ctr g.part g.ctx g.idx).conf + g.count)
    (hno : ∀ x ∈ s.sigs, x.part = g.part → x.ctx = g.ctx → x.child ≠ some g.idx) (n : Nat) :
    State.confirm (n + 1) s g = (s.withSigs (s.sigsBut g)).putCtr g.part g.ctx g.idx
      { s.ctr g.part g.ctx g.idx with conf := (s.ctr g.part g.ctx g.idx).target, state := 2, tconf := s.clk.toNat } := by
  have hf : s.confirmed g = (s.ctr g.part g.ctx g.idx).target := Nat.min_eq_right hc
  have hn : sentBy (s.sigsBut g) g.part g.ctx g.idx = [] := sentBy_eq_nil fun x hx => hno x (List.mem_of_mem_filter hx)
  rw [State.confirm_full n s g h hf, hn, hf, List.foldl_nil]

/-- Suspicion of the one signal of a DONE counter that nothing above holds. -/
theorem State.suspect_alone {s : State} {part ctx i : Nat} (h : (s.ctr part ctx i).state = 1)
    (hno : ∀ x ∈ s.sigs, x.part = part → x.ctx = ctx → x.child ≠ some i) (n : Nat) :
    State.suspect (n + 1) s (part, (ctx, i)) = s.putCtr part ctx i { s.ctr part ctx i with state := 7 } := by
  have hn : sentBy s.sigs part ctx i = [] := sentBy_eq_nil hno
  refine (if_pos h).trans ?_
  simp only [State.putCtr_sigs]
  change List.foldl _ _ (sentBy s.sigs part ctx i) = _
  rw [hn]
  rfl

section
variable {s : State} {core : Nat} (h : (s.core core).scanning = true) {g : Sig} (hs : (s.ctr g.part g.ctx g.idx).state = 1)
  (hno : ∀ x ∈ s.sigs, x.part = g.part → x.ctx = g.ctx → x.child ≠ some g.idx)
include h hs hno

/-- A turn that ends confirms the one signal that waited for it alone. -/
theorem scanTurnEnd_confirms (ht : (s.core core).turnAt + 250000 ≤ s.clk.toNat) (hg : (s.sigs.map (Sig.passes core)).filter Sig.ready = [g])
    (hc : (s.ctr g.part g.ctx g.idx).target ≤ (s.ctr g.part g.ctx g.idx).conf + g.count) :
    exec (.scanTurnEnd core) s = .next (((s.reopened core).withSigs ((s.reopened core).sigsBut g)).putCtr g.part g.ctx g.idx
      { s.ctr g.part g.ctx g.idx with conf := (s.ctr g.part g.ctx g.idx).target, state := 2, tconf := s.clk.toNat }) := by
  have hu : (s.reopened core).ctr g.part g.ctx g.idx = s.ctr g.part g.ctx g.idx := State.ctr_parts rfl rfl ..
  have hno' : ∀ x ∈ (s.reopened core).sigs, x.part = g.part → x.ctx = g.ctx → x.child ≠ some g.idx := by
    intro x hx
    obtain ⟨y, hy, rfl⟩ := List.mem_map.mp hx
    rw [y.passes_eq core]
    exact hno y hy
  have hconf := State.confirm_alone (s := s.reopened core) (by rw [hu]; exact hs) (by rw [hu]; exact hc) hno' 4095
  rw [hu] at hconf
  rw [scanTurnEnd_due h ht, hg]
  exact congrArg _ hconf

/-- A failed turn makes SUSPECT the one counter whose unconfirmed signal the core executed a part of. -/
theorem scanTurnFail_suspects (hg : s.sigs.filter (fun g => g.need.contains core) = [g]) : ∃ names,
    exec (.scanTurnFail core) s = .next (((s.fencedCore core).putCtr g.part g.ctx g.idx
      { s.ctr g.part g.ctx g.idx with state := 7 }).logErr 1 errSuspect core names) := by
  have hu : (s.fencedCore core).ctr g.part g.ctx g.idx = s.ctr g.part g.ctx g.idx := State.ctr_parts rfl rfl ..
  have hsus := State.suspect_alone (s := s.fencedCore core) (by rw [hu]; exact hs) hno 4095
  rw [hu] at hsus
  rw [scanTurnFail_fails h, hg]
  exact ⟨_, congrArg (fun u => Host.Outcome.next (State.logErr u _ _ _ _)) hsus⟩

end

/-- Settles O55: confirmation and suspicion, and each event of a scan turn. -/
theorem scanTurns : Obligations.ScanTurns := by
  refine ⟨confirmRule, suspectRule, fun s core hcore => ?_⟩
  intro c legal
  refine ⟨fun h => scanTurnStart_illegal hcore h, fun h ho hn => ?_, fun h ho hn => ?_,
    fun h hcl ht => ?_, fun h hcl ht he hq => ?_, fun h hcl ht he hq => scanTurnStart_defers hcore h hq hcl ht he, fun h => ⟨?_, ?_⟩,
    fun _ ht => scanTurnEnd_early (Or.inr ht), fun g => ⟨g.passes_eq core, g.mem_passes core, g.ready_iff⟩, fun h ht => ⟨?_, fun g hg hs hc hno => ?_⟩,
    fun h => ⟨?_, fun g hg hs hno => ?_⟩⟩
  · exact ⟨_, scanTurnStart_closes hcore h ho hn, s.core_modCore core _, rfl, rfl⟩
  · exact scanTurnStart_notNext hcore h ho hn
  · exact scanTurnStart_early hcore h hcl ht
  · obtain ⟨t, hx, h1, h2, h3, h4, h5⟩ := scanTurnStart_begins hcore h hq hcl ht he
    exact ⟨t, hx, h1, h2, h3, h4, fun hn hl => by rw [h5, State.rotated_scanPos hn hl]⟩
  · exact scanTurnEnd_early (Or.inl h)
  · have h : (s.core core).scanning = false := h
    rw [exec_scanTurnFail, execScanTurnFail, h]
    rfl
  · exact ⟨s.reopened core, s.reopened_core core, rfl, rfl, rfl, scanTurnEnd_due h ht⟩
  · have hf : ({ s.ctr g.part g.ctx g.idx with conf := (s.ctr g.part g.ctx g.idx).target, state := 2, tconf := s.clk.toNat } : Ctr).Fits :=
      { s.ctr_fits g.part g.ctx g.idx with conf := (s.ctr_fits g.part g.ctx g.idx).target, state := by show 2 < 16; decide, tconf := s.clk.isLt }
    refine ⟨_, scanTurnEnd_confirms h hs hno ht hg hc, ?_⟩
    rw [State.ctr_putCtr _ _ _ _ hf, State.core_congr (State.putCtr_cores ..)]
    exact ⟨s.reopened_core core, rfl, rfl, rfl⟩
  · exact ⟨s.fencedCore core, _, s.fencedCore_core core, rfl, rfl, rfl, scanTurnFail_fails h,
      State.logErr_logged _ (by decide) _ _ (s.failNames core)⟩
  · have hf : ({ s.ctr g.part g.ctx g.idx with state := 7 } : Ctr).Fits :=
      { s.ctr_fits g.part g.ctx g.idx with state := by show 7 < 16; decide }
    obtain ⟨names, hx⟩ := scanTurnFail_suspects h hs hno hg
    have hcore : ∀ u : State, (u.logErr 1 errSuspect core names).core core = u.core core := fun _ => rfl
    refine ⟨_, hx, ?_⟩
    rw [State.logErr_ctr, State.ctr_putCtr _ _ _ _ hf, hcore, State.core_congr (State.putCtr_cores ..)]
    exact ⟨congrArg Core.fenced (s.fencedCore_core core), rfl⟩

end Sys2Proof.Machine
end

section
/-! SUPPORT. The commands of the host, and the obligation on them (R149, R194, R195, R360, R365, R366, R374, R377, R380). -/

namespace Sys2Proof.Machine

open Sys2Proof.Claim

theorem exec_inval (src : CmdSrc) (s : State) : exec (.inval src) s = execInval src s := rfl
theorem exec_fresume (src : CmdSrc) (s : State) : exec (.fresume src) s = execFresume src s := rfl
theorem exec_armCmd (src : CmdSrc) (s : State) : exec (.arm src) s = execArm src s := rfl
theorem exec_logput (src : CmdSrc) (s : State) : exec (.logput src) s = execLogput src s := rfl
theorem exec_capture (src : CmdSrc) (s : State) : exec (.capture src) s = execCapture src s := rfl
theorem exec_clearlost (src : CmdSrc) (s : State) : exec (.clearlost src) s = execClearlost src s := rfl
theorem exec_diereset (src : CmdSrc) (s : State) : exec (.diereset src) s = execDiereset src s := rfl
theorem exec_ctlrun (src : CmdSrc) (s : State) : exec (.ctlrun src) s = execCtlrun src s := rfl

/-! ### LAUNCH from the PF -/

theorem launchCommand_pf : Command (.launchCommand .pf) .pf 0x01 (fun s0 k seq c done held later =>
    ((s0.part k).vfOff ≠ 0 → done s0 0xFE) ∧
    ((s0.part k).vfOff = 0 → s0.cmdCtx k = none → held) ∧
    (∀ x, (s0.part k).vfOff = 0 → s0.cmdCtx k = some x → (s0.logFull k x 11 = true → held) ∧
      (s0.logFull k x 11 = false → later (s0.acceptLaunch k x 16 seq 0 (opWord c 0)).1))) := by
  intro s c hh hc hp _ k seq
  simp only [exec_launchCommand, execLaunchCommand]
  refine ⟨fun hv => ?_, fun hv hx => ?_, fun x hv hx => ⟨fun hl => ?_, fun hl => ?_⟩⟩
  · exact command_code hh hc hp (if_pos hv)
  · refine command_hold hh hc hp (t := s.popCmd .pf) ?_
    simp only [k] at hv hx
    simp only [hv, hx, ne_eq, not_true_eq_false, if_false]
  · refine command_hold hh hc hp (t := s.popCmd .pf) ?_
    simp only [k] at hv hx hl
    simp only [hv, hx, hl, ne_eq, not_true_eq_false, if_false, if_true]
  · refine command_later hh hc hp ?_
    simp only [k] at hv hx hl
    simp only [hv, hx, hl, ne_eq, not_true_eq_false, if_false, Bool.false_eq_true]
    rfl

/-! ### INVAL (R194, R388) -/

theorem TlbEntry.within_iff (lo n : Nat) (e : TlbEntry) : e.within lo n = true ↔ lo < e.vpage * 4096 + 4096 ∧ e.vpage * 4096 < lo + n := by
  simp [TlbEntry.within]

/-- Cached translations that a command drops, with the times noted for its queue. -/
def State.dropTlb (s : State) (k lo n : Nat) (invals : List (Nat × Nat)) : State :=
  s.modPart k (fun p => { p with tlb := p.tlb.filter (fun e => !e.within lo n), invals })

theorem State.mem_dropTlb {s : State} {k : Nat} (hk : k < s.parts.length) (lo n : Nat) (invals : List (Nat × Nat)) (e : TlbEntry) :
    e ∈ ((s.dropTlb k lo n invals).part k).tlb ↔ e ∈ (s.part k).tlb ∧ ¬ (lo < e.vpage * 4096 + 4096 ∧ e.vpage * 4096 < lo + n) := by
  rw [State.dropTlb, State.part_modPart, if_pos ⟨rfl, hk⟩]
  simp only [List.mem_filter, Bool.not_eq_true', ← Bool.not_eq_true, TlbEntry.within_iff]

/-- The times that an INVAL leaves noted for its queue: the present one, where it drops an entry of a SPAN page. -/
def State.invalTimes (s : State) (src : CmdSrc) (k lo n : Nat) : List (Nat × Nat) :=
  if ((s.part k).tlb.filter (TlbEntry.within lo n)).any (fun e => e.leaf.span) then put (s.part k).invals (cmdQueue src) s.cyc
  else (s.part k).invals

/-- An INVAL waits: an access of the range has not taken its place, or a SPAN page's entry was dropped less than 4,096 cycles ago. -/
def State.invalWaits (s : State) (src : CmdSrc) (k lo n : Nat) : Bool :=
  s.outstandingIn k lo n || ((look (s.invalTimes src k lo n) (cmdQueue src)).map (fun t => decide (s.cyc < t + 4096))).getD false

theorem execInval_eq (src : CmdSrc) (s : State) : execInval src s = command src 0x02 (fun s0 k _ c =>
    let lo := vaLocal (BitVec.ofNat 64 (opWord c 0))
    if s0.invalWaits src k lo (opWord c 1) then (s0, .stay (fun s => s.dropTlb k lo (opWord c 1) (s0.invalTimes src k lo (opWord c 1))))
    else ((s0.dropTlb k lo (opWord c 1) (s0.invalTimes src k lo (opWord c 1))).modPart k (fun p => { p with invals := del p.invals (cmdQueue src) }),
      .code 0)) s := rfl

theorem State.any_within {s : State} {k lo n : Nat} :
    ((s.part k).tlb.filter (TlbEntry.within lo n)).any (fun e => e.leaf.span) = true ↔
      ∃ e ∈ (s.part k).tlb, (lo < e.vpage * 4096 + 4096 ∧ e.vpage * 4096 < lo + n) ∧ e.leaf.span = true := by
  simp only [List.any_eq_true, List.mem_filter, TlbEntry.within_iff, and_assoc]

theorem inval_done (src : CmdSrc) : Command (.inval src) src 0x02 (fun s0 k _ c done _ _ =>
    let lo := vaLocal (BitVec.ofNat 64 (opWord c 0))
    let inside := fun (e : TlbEntry) => lo < e.vpage * 4096 + 4096 ∧ e.vpage * 4096 < lo + opWord c 1
    s0.outstandingIn k lo (opWord c 1) = false → (∀ e ∈ (s0.part k).tlb, inside e → e.leaf.span = false) →
    (∀ t, look (s0.part k).invals (cmdQueue src) = some t → t + 4096 ≤ s0.cyc) → k < s0.parts.length →
      ∃ t, done t 0 ∧ t.mem = s0.mem ∧ ∀ e, e ∈ (t.part k).tlb ↔ e ∈ (s0.part k).tlb ∧ ¬ inside e) := by
  intro s c hh hc hp _ k seq lo inside ho hs ht hk
  have hgone : (((s.popCmd src).part k).tlb.filter (TlbEntry.within lo (opWord c 1))).any (fun e => e.leaf.span) = false := by
    rw [← Bool.not_eq_true, State.any_within]
    rintro ⟨e, he, hin, hspan⟩
    rw [hs e he hin] at hspan
    cases hspan
  have hinv : (s.popCmd src).invalTimes src k lo (opWord c 1) = ((s.popCmd src).part k).invals := by
    rw [State.invalTimes, hgone]
    rfl
  have hw : (s.popCmd src).invalWaits src k lo (opWord c 1) = false := by
    rw [State.invalWaits, ho, hinv]
    cases hl : look ((s.popCmd src).part k).invals (cmdQueue src) with
    | none => rfl
    | some t => simpa using ht t hl
  simp only [exec_inval, execInval_eq]
  refine ⟨_, command_code hh hc hp (if_neg (ne_of_eq_of_ne hw Bool.false_ne_true)), rfl, fun e => ?_⟩
  exact (iff_of_eq (congrArg (e ∈ ·) (State.part_modPart_kept Part.tlb _ k (by intro _; rfl) k))).trans
    (State.mem_dropTlb hk lo (opWord c 1) _ e)

/-- What the head of a queue depends on. -/
theorem State.headCmd_modPart (s : State) (k : Nat) {f : Part → Part} (hr : ∀ p, (f p).rings = p.rings) (hd : ∀ p, (f p).desc = p.desc)
    (hv : ∀ p, (f p).vfOff = p.vfOff) (src : CmdSrc) : (s.modPart k f).headCmd src = s.headCmd src := by
  cases src with
  | pf => rfl
  | vf j q =>
    simp only [State.headCmd, State.cmdRing, State.takes?, State.part_modPart_kept Part.rings s k hr,
      State.part_modPart_kept Part.desc s k hd, State.part_modPart_kept Part.vfOff s k hv]
    rfl

theorem State.dropTlb_headCmd (s : State) (k lo n : Nat) (invals : List (Nat × Nat)) (src : CmdSrc) :
    (s.dropTlb k lo n invals).headCmd src = s.headCmd src :=
  s.headCmd_modPart k (by intro _; rfl) (by intro _; rfl) (by intro _; rfl) src

theorem inval_waits (s : State) (src : CmdSrc) (c : List Byte) (hh : s.headCmd src = some c) (hc : fieldAt c 0 1 = 0x02)
    (hp : src = .pf → fieldAt c 1 1 < 16 ∧ fieldAt c 2 6 = 0) :
    let k := cmdPart src c
    let lo := vaLocal (BitVec.ofNat 64 (opWord c 0))
    let inside := fun (e : TlbEntry) => lo < e.vpage * 4096 + 4096 ∧ e.vpage * 4096 < lo + opWord c 1
    k < s.parts.length → s.outstandingIn k lo (opWord c 1) = true ∨ (∃ e ∈ (s.part k).tlb, inside e ∧ e.leaf.span = true) →
      ∃ t, exec (.inval src) s = .next t ∧ t.headCmd src = some c ∧ t.mem = s.mem ∧
        ∀ e, e ∈ (t.part k).tlb ↔ e ∈ (s.part k).tlb ∧ ¬ inside e := by
  intro k lo inside hk h
  have htlb : ((s.popCmd src).part k).tlb = (s.part k).tlb := State.popCmd_part_kept Part.tlb (fun _ _ _ => rfl) s src k
  have hout : (s.popCmd src).outstandingIn k lo (opWord c 1) = s.outstandingIn k lo (opWord c 1) := by
    have hw : (s.popCmd src).wgs = s.wgs := by cases src <;> rfl
    rw [State.outstandingIn, hw, State.popCmd_part_kept Part.ctls (fun _ _ _ => rfl) s src k]
    rfl
  have hwait : (s.popCmd src).invalWaits src k lo (opWord c 1) = true := by
    rw [State.invalWaits, hout]
    rcases h with h | h
    · rw [h, Bool.true_or]
    · have hany := State.any_within.mpr (htlb ▸ h)
      rw [State.invalTimes, hany, if_pos rfl, look_put_same]
      simp
  rw [exec_inval, execInval_eq]
  refine ⟨_, command_stay hh hc hp (if_pos hwait), (State.dropTlb_headCmd ..).trans hh, rfl,
    State.mem_dropTlb hk lo (opWord c 1) _⟩

/-! ### FRESUME (R195) -/

theorem fresume_command (src : CmdSrc) : Command (.fresume src) src 0x03 (fun s0 k _ c done _ _ =>
    ((∀ x, s0.cmdCtx k = some x → ∀ p ∈ ((s0.part k).ctx x).faults, p.1 ≠ opWord c 0) → done s0 0xFE) ∧
    (∀ x page, s0.cmdCtx k = some x → x < 16 → ((s0.part k).ctx x).faults.find? (fun p => p.1 == opWord c 0) = some (opWord c 0, page) →
      done ((s0.modCtx k x (fun y => { y with faults := y.faults.filter (fun p => p.1 != opWord c 0) })).resumePage k x page) 0)) := by
  intro s c hh hc hp _ k seq
  simp only [exec_fresume, execFresume]
  refine ⟨fun h => ?_, fun x page hx hlt hf => ?_⟩
  · refine command_code hh hc hp ?_
    have hn : (List.range 16).find? (fun x => (((s.popCmd src).part k).ctx x).faults.any (fun p => p.1 == opWord c 0) &&
        ((s.popCmd src).cmdCtx k == some x)) = none := by
      rw [List.find?_eq_none]
      intro x _ hb
      simp only [Bool.and_eq_true, List.any_eq_true, beq_iff_eq] at hb
      obtain ⟨⟨p, hp, he⟩, hx⟩ := hb
      exact h x hx p hp he
    simp only [k] at hn
    rw [hn]
  · refine command_code hh hc hp ?_
    have hany : (((s.popCmd src).part k).ctx x).faults.any (fun p => p.1 == opWord c 0) = true :=
      List.any_eq_true.mpr ⟨_, List.mem_of_find?_eq_some hf, by simp⟩
    have hn : (List.range 16).find? (fun x => (((s.popCmd src).part k).ctx x).faults.any (fun p => p.1 == opWord c 0) &&
        ((s.popCmd src).cmdCtx k == some x)) = some x := by
      rw [List.find?_range_eq_some]
      refine ⟨by rw [hany, hx]; simp, List.mem_range.mpr hlt, fun j hj => ?_⟩
      rw [hx]
      simp only [Bool.not_and, Bool.or_eq_true, Bool.not_eq_true', beq_eq_false_iff_ne, ne_eq, Option.some.injEq]
      exact Or.inr (by omega)
    simp only [k] at hn hf
    rw [hn]
    simp only [hf]
    rfl

/-- A flight that waits for a page that is resumed is ready (R195). -/
theorem resumePage_wakes (s : State) (k x page w fl : Nat) (g : Wg) (f : Flight) (hg : look s.wgs w = some g) (hf : g.flights[fl]? = some f)
    (hk : g.part = k) (hx : g.ctx = x) (hw : f.wait = .fault page) :
    ∃ h, (s.resumePage k x page).flight? (.wg w fl) = some h ∧ h = { f with wait := .ready } := by
  refine ⟨_, ?_, rfl⟩
  have hwgs : look (s.resumePage k x page).wgs w =
      some { g with flights := g.flights.map (fun f => if f.wait = Wait.fault page then { f with wait := .ready } else f) } := by
    simp only [State.resumePage, State.ctxFlights, look_mapVals, hg, Option.map_some, hk, hx, ne_eq, not_true_eq_false, or_self, if_false]
  simp only [State.flight?, hwgs, Option.bind_some, List.getElem?_map, hf, Option.map_some, hw, if_true]

/-! ### ARM (R149) -/

theorem arm_command (src : CmdSrc) : Command (.arm src) src 0x05 (fun s0 k _ c done held _ =>
    let i := opWord c 0
    (0xFFF ≤ i ∨ 3 < opWord c 3 → done s0 0xFE) ∧
    (i < 0xFFF → opWord c 3 ≤ 3 → (s0.cmdCtx k = none → held) ∧ (∀ x, s0.cmdCtx k = some x →
      ((s0.ctr k x i).state = 0 → done s0 1) ∧
      ((s0.ctr k x i).state ≠ 0 → done (s0.arm k x i (opWord c 1) (opWord c 2 % 4096) (opWord c 3)) 0)))) := by
  intro s c hh hc hp _ k seq i
  simp only [exec_armCmd, execArm]
  refine ⟨fun h => command_code hh hc hp (if_pos h), fun hi h3 => ?_⟩
  have hn : ¬ (noCounter ≤ opWord c 0 ∨ 3 < opWord c 3) := by simp only [noCounter]; omega
  refine ⟨fun hx => ?_, fun x hx => ⟨fun hs => ?_, fun hs => ?_⟩⟩
  · refine command_hold hh hc hp (t := s.popCmd src) ?_
    simp only [k] at hx
    simp only [hn, if_false, hx]
  · refine command_code hh hc hp ?_
    simp only [k, i] at hx hs
    simp only [hn, if_false, hx, hs, stPending, if_true]
  · refine command_code hh hc hp ?_
    simp only [k, i] at hx hs
    simp only [hn, if_false, hx, hs, stPending]
    rfl

/-! ### CAPTURE (R366) -/

theorem capture_command (src : CmdSrc) : Command (.capture src) src 0x0A (fun s0 k _ _ done held _ => ∀ x, s0.cmdCtx k = some x →
    let busy := (∃ p ∈ s0.launches, p.2.part = k ∧ p.2.ctx = x ∧ p.2.ended = false) ∧
      ¬ (((s0.part k).ctx x).st = .saved ∧ ((s0.part k).ctx x).drained = true)
    (busy ∨ s0.logFull k x (s0.captureRecs k x).length = true → held) ∧
    (¬ busy → s0.logFull k x (s0.captureRecs k x).length = false → done (s0.logAppend k x (s0.captureRecs k x)) 0)) := by
  intro s c hh hc hp _ k seq x hx busy
  simp only [exec_capture, execCapture]
  have hbusy : ((s.popCmd src).launches.any (fun p => p.2.part == k && p.2.ctx == x && !p.2.ended) &&
      !((((s.popCmd src).part k).ctx x).st == .saved && (((s.popCmd src).part k).ctx x).drained)) = true ↔ busy := by
    simp [busy, and_assoc]
    exact fun _ _ _ _ _ _ => imp_iff_not_or.symm
  simp only [k] at hx hbusy
  refine ⟨fun h => ?_, fun hb hl => ?_⟩
  · refine command_hold hh hc hp (t := s.popCmd src) ?_
    simp only [hx]
    rw [if_pos (by rw [Bool.or_eq_true, hbusy]; exact h)]
  · refine command_code hh hc hp ?_
    simp only [hx]
    rw [if_neg (by rw [Bool.or_eq_true, hbusy]; exact not_or.mpr ⟨hb, ne_of_eq_of_ne hl Bool.false_ne_true⟩)]

/-! ### LOGPUT (R365) -/

/-- A number among bytes, read back. -/
theorem fieldAt_toBytes (as rest : List Byte) (n x off : Nat) (h : as.length = off) : fieldAt (as ++ (toBytes n x ++ rest)) off n = x % 256 ^ n := by
  rw [fieldAt, slice, List.drop_append_of_le_length (Nat.le_of_eq h.symm), List.drop_of_length_le (Nat.le_of_eq h), List.nil_append,
    List.take_append_of_le_length (Nat.le_of_eq (toBytes_length n x).symm), List.take_of_length_le (Nat.le_of_eq (toBytes_length n x)),
    ofBytes_toBytes]

/-- The fields of a log record (R365). -/
theorem logRec_fields (kind origin queue lid a b clk : Nat) :
    let bs := logRec kind origin queue lid a b clk
    bs.length = 32 ∧ fieldAt bs 0 1 = kind % 256 ∧ fieldAt bs 2 1 = queue % 256 ∧ fieldAt bs 8 8 = a % 256 ^ 8 ∧ fieldAt bs 16 8 = b % 256 ^ 8 ∧
      fieldAt bs 24 8 = clk % 256 ^ 8 := by
  have hl : (logRec kind origin queue lid a b clk).length = 32 := by simp [logRec]
  have h0 := fieldAt_toBytes [] (toBytes 1 origin ++ (toBytes 1 queue ++ ([0] ++ (toBytes 4 lid ++ (toBytes 8 a ++ (toBytes 8 b ++ toBytes 8 clk))))))
    1 kind 0 rfl
  have h2 := fieldAt_toBytes (toBytes 1 kind ++ toBytes 1 origin) ([0] ++ (toBytes 4 lid ++ (toBytes 8 a ++ (toBytes 8 b ++ toBytes 8 clk))))
    1 queue 2 (by simp)
  have h8 := fieldAt_toBytes (toBytes 1 kind ++ toBytes 1 origin ++ toBytes 1 queue ++ [0] ++ toBytes 4 lid) (toBytes 8 b ++ toBytes 8 clk)
    8 a 8 (by simp)
  have h16 := fieldAt_toBytes (toBytes 1 kind ++ toBytes 1 origin ++ toBytes 1 queue ++ [0] ++ toBytes 4 lid ++ toBytes 8 a) (toBytes 8 clk)
    8 b 16 (by simp)
  have h24 := fieldAt_toBytes (toBytes 1 kind ++ toBytes 1 origin ++ toBytes 1 queue ++ [0] ++ toBytes 4 lid ++ toBytes 8 a ++ toBytes 8 b) []
    8 clk 24 (by simp)
  simp only [List.nil_append, List.append_nil, List.append_assoc] at h0 h2 h8 h16 h24
  refine ⟨hl, ?_⟩
  simp only [logRec, List.append_assoc]
  exact ⟨h0, h2, h8, h16, h24⟩

theorem opWord_lt (c : List Byte) (i : Nat) : opWord c i < 256 ^ 8 := fieldAt_lt c _ 8

theorem logput_command (src : CmdSrc) : Command (.logput src) src 0x09 (fun s0 k seq c done held _ => ∀ x, s0.cmdCtx k = some x →
    (s0.logFull k x 1 = true → held) ∧
    (s0.logFull k x 1 = false → ∃ bs : List Byte, bs.length = 32 ∧ fieldAt bs 0 1 = 4 ∧ fieldAt bs 8 8 = opWord c 0 ∧
      fieldAt bs 16 8 = seq.toNat ∧ fieldAt bs 24 8 = s0.clk.toNat ∧ fieldAt bs 2 1 = cmdQueue src % 16 % 256 ∧
      done (s0.logAppend k x [bs]) 0)) := by
  intro s c hh hc hp _ k seq x hx
  simp only [exec_logput, execLogput]
  simp only [k] at hx
  refine ⟨fun hl => ?_, fun hl => ?_⟩
  · refine command_hold hh hc hp (t := s.popCmd src) ?_
    simp only [k] at hl
    simp only [hx, hl, if_true]
  · obtain ⟨hlen, h0, h2, h8, h16, h24⟩ := logRec_fields 4 0 (cmdQueue src % 16) 0 (opWord c 0) seq.toNat (s.popCmd src).clk.toNat
    have hseq : seq.toNat < 256 ^ 8 := Nat.lt_of_lt_of_le seq.isLt (by decide)
    refine ⟨_, hlen, h0, h8.trans (Nat.mod_eq_of_lt (opWord_lt c 0)), h16.trans (Nat.mod_eq_of_lt hseq),
      h24.trans (Nat.mod_eq_of_lt (s.popCmd src).clk.isLt), h2, command_code hh hc hp ?_⟩
    simp only [k] at hl
    simp only [hx, hl, Bool.false_eq_true, if_false]
    rfl

/-! ### CLEARLOST (R360) -/

/-- A sector with zeros written. -/
theorem readByte_zeroSector (m : List Host.Cell) (k a : Nat) :
    readByte (writeBytes m (128 * k) (List.replicate 128 0)) a = if a / 128 = k then 0 else readByte m a := by
  by_cases h : a / 128 = k
  · rw [if_pos h]
    have hi : a - 128 * k < (List.replicate 128 (0 : Byte)).length := by rw [List.length_replicate]; omega
    have ha : a = 128 * k + (a - 128 * k) := by omega
    rw [ha, readByte_writeBytes _ _ _ _ hi]
    exact List.getElem_replicate hi
  · rw [if_neg h]
    exact readByte_writeBytes_ne _ _ _ _ (by rw [List.length_replicate]; omega)

theorem readByte_zeroSectors (ks : List Nat) (m : List Host.Cell) (a : Nat) :
    readByte (ks.foldl (fun m k => writeBytes m (128 * k) (List.replicate 128 0)) m) a = if a / 128 ∈ ks then 0 else readByte m a := by
  induction ks generalizing m with
  | nil => simp
  | cons k ks ih =>
    rw [List.foldl_cons, ih, readByte_zeroSector]
    by_cases h1 : a / 128 ∈ ks <;> by_cases h2 : a / 128 = k <;> simp [h1, h2]

/-- A sector begins within a range of bytes, or holds its first byte. -/
theorem sector_in_range (pa n k : Nat) : (List.range ((n + 127) / 128 + 1)).any (fun i =>
    decide (pa / 128 * 128 + 128 * i < pa + n) && (pa / 128 * 128 + 128 * i) / 128 == k) = true ↔ pa / 128 ≤ k ∧ 128 * k < pa + n := by
  simp only [List.any_eq_true, List.mem_range, Bool.and_eq_true, decide_eq_true_eq, beq_iff_eq]
  constructor
  · rintro ⟨i, -, hlt, hk⟩
    omega
  · rintro ⟨h1, h2⟩
    exact ⟨k - pa / 128, by omega, by omega, by omega⟩

theorem clearlost_command : Command (.clearlost .pf) .pf 0x08 (fun s0 _ _ c done _ _ => ∃ t, done t 0 ∧
    (∀ x, x ∈ t.lost ↔ x ∈ s0.lost ∧ ¬ (opWord c 0 / 128 ≤ x ∧ 128 * x < opWord c 0 + opWord c 1)) ∧
    (Memory.wf s0.mem = true → ∀ a, readByte t.mem a =
      if a / 128 ∈ s0.lost ∧ opWord c 0 / 128 ≤ a / 128 ∧ 128 * (a / 128) < opWord c 0 + opWord c 1 then 0 else readByte s0.mem a)) := by
  intro s c hh hc hp _ k seq
  simp only [exec_clearlost, execClearlost]
  refine ⟨_, command_code hh hc hp rfl, fun x => ?_, fun _ a => ?_⟩
  · simp only [List.mem_filter, Bool.not_eq_true', List.contains_eq_mem, decide_eq_false_iff_not, sector_in_range]
    tauto
  · simp only [readByte_zeroSectors, List.mem_filter, sector_in_range]

/-! ### DIERESET (R380) -/

/-- A die after it is changed. -/
theorem State.die_modDie {s : State} {d : Nat} (h : d < s.dies.length) (f : Die → Die) : (s.modDie d f).die d = f (s.die d) := by
  rw [State.die, State.modDie_dies, List.getD_eq_getElem?_getD, getElem?_modAt, if_pos rfl, State.die, List.getD_eq_getElem?_getD,
    List.getElem?_eq_getElem h]
  rfl

/-- A die that is OUT and is reset anew. -/
theorem State.reset_die {s : State} {d : Nat} (h : d < s.dies.length) :
    ((s.dieTo d 3).modDie d Die.count).die d =
      Die.count { s.die d with st := 3, tchg := s.clk.extractLsb' 10 32 } := by
  have h' : d < (s.dieTo d 3).dies.length := by rw [State.dieTo, State.modDie_dies, length_modAt]; exact h
  rw [State.die_modDie h', State.dieTo, State.die_modDie h]

theorem diereset_command : Command (.diereset .pf) .pf 0x0C (fun s0 _ _ c done _ _ =>
    let d := opWord c 0
    (4 ≤ d → done s0 0xFE) ∧ (d < 4 → (s0.die d).st = 0 → done (s0.fenceDie d) 0) ∧
    (d < 4 → (s0.die d).st = 6 → ∃ t, done t 0 ∧ (d < s0.dies.length → (t.die d).st = 3 ∧ (t.die d).tries = 0 ∧
      (t.die d).resets = if (s0.die d).resets = 255 then 255 else (s0.die d).resets + 1)) ∧
    (d < 4 → (s0.die d).st = 7 → done s0 2) ∧
    (d < 4 → (s0.die d).st ≠ 0 → (s0.die d).st ≠ 6 → (s0.die d).st ≠ 7 → done s0 1)) := by
  intro s c hh hc hp _ k seq d
  simp only [exec_diereset, execDiereset]
  refine ⟨fun h => command_code hh hc hp (if_pos h), fun h hs => ?_, fun h hs => ?_, fun h hs => ?_, fun h h0 h6 h7 => ?_⟩
  all_goals have hd : ¬ 4 ≤ opWord c 0 := Nat.not_le.mpr h
  · refine command_code hh hc hp ?_
    simp only [d] at hs
    simp only [hd, if_false, hs]
    rfl
  · refine ⟨(((s.popCmd .pf).dieTo d 3).modDie d Die.count).logErr 1 errDie d (((s.popCmd .pf).partsOn d).map .part),
      command_code hh hc hp ?_, fun hl => ?_⟩
    · simp only [d] at hs
      simp only [hd, if_false, hs, d]
    · have ht : State.die ((((s.popCmd .pf).dieTo d 3).modDie d Die.count).logErr 1 errDie d (((s.popCmd .pf).partsOn d).map .part)) d =
        (((s.popCmd .pf).dieTo d 3).modDie d Die.count).die d := rfl
      rw [ht, State.reset_die hl]
      exact ⟨rfl, rfl, rfl⟩
  · refine command_code hh hc hp ?_
    simp only [d] at hs
    simp only [hd, if_false, hs]
  · refine command_code hh hc hp ?_
    simp only [hd, if_false]
    split
    · next h => exact absurd h h0
    · next h => exact absurd h h6
    · next h => exact absurd h h7
    · rfl

/-! ### CTLRUN (R169) -/

theorem Flight.fresh_s (rows : Nat) (entry : Dword) (s015 : List Word) (tids : List Word) (r : Nat) :
    (Flight.fresh rows entry s015 tids).s r = if r < 16 then s015.getD r 0 else 0 := by
  have h := sget_foldl_sput (List.range 16) [] (fun i => s015.getD i 0) r
  simp only [List.mem_range] at h
  exact h

/-- The control program that CTLRUN starts. -/
def controlFlight (entry : Dword) (args : List Byte) : Flight :=
  { Flight.fresh 0 entry ((List.range 16).map (fun i => BitVec.ofNat 32 (fieldAt args (4 * i) 4))) (List.replicate 32 0) with
    exited := 0xFFFFFFFE, late := 0 }

/-- A control program takes a die's place in its partition. -/
def State.startControl (s : State) (k die : Nat) (y : Ctl) : State := s.modPart k (fun p => { p with ctls := put p.ctls die y })

theorem controlFlight_s (entry : Dword) (args : List Byte) (i : Nat) :
    (controlFlight entry args).s i = if i < 16 then BitVec.ofNat 32 (fieldAt args (4 * i) 4) else 0 := by
  refine (Flight.fresh_s 0 entry _ (List.replicate 32 0) i).trans ?_
  by_cases h : i < 16 <;> simp [h]

theorem ctlrun_command : Command (.ctlrun .pf) .pf 0x15 (fun s0 k _ c done held later =>
    (s0.cmdCtx k = none → held) ∧
    (∀ x, s0.cmdCtx k = some x → (s0.readVa k x (opWord c 2) 64 = none → done s0 0xFE) ∧
      (∀ args, s0.readVa k x (opWord c 2) 64 = some args → (4 ≤ opWord c 0 → done s0 0xFE) ∧
        (opWord c 0 < 4 → (look (s0.part k).ctls (opWord c 0)).isSome → done s0 1) ∧
        (opWord c 0 < 4 → look (s0.part k).ctls (opWord c 0) = none → k < s0.parts.length →
          ∃ (t : State) (y : Ctl), later t ∧ look (t.part k).ctls (opWord c 0) = some y ∧ y.ctx = x ∧ y.halted = false ∧ t.mem = s0.mem ∧
            y.flight.exited = 0xFFFFFFFE ∧ y.flight.pc.getD 0 0 = BitVec.ofNat 64 (opWord c 1) ∧
            ∀ i, y.flight.s i = if i < 16 then BitVec.ofNat 32 (fieldAt args (4 * i) 4) else 0)))) := by
  intro s c hh hc hp _ k seq
  simp only [exec_ctlrun, execCtlrun]
  refine ⟨fun hx => ?_, fun x hx => ⟨fun hr => ?_, fun args hr => ⟨fun h => ?_, fun h hl => ?_, fun h hl hk => ?_⟩⟩⟩
  · refine command_hold hh hc hp (t := s.popCmd .pf) ?_
    simp only [k] at hx
    simp only [hx]
  · refine command_code hh hc hp ?_
    simp only [k] at hx hr
    simp only [hx, hr]
  · refine command_code hh hc hp ?_
    simp only [k] at hx hr
    simp only [hx, hr, h, if_true]
  · refine command_code hh hc hp ?_
    have hd : ¬ 4 ≤ opWord c 0 := Nat.not_le.mpr h
    simp only [k] at hx hr hl
    simp only [hx, hr, hd, if_false, hl, if_true]
  · have hd : ¬ 4 ≤ opWord c 0 := Nat.not_le.mpr h
    refine ⟨(s.popCmd .pf).startControl k (opWord c 0) ⟨x, seq, controlFlight (BitVec.ofNat 64 (opWord c 1)) args, false, none⟩,
      ⟨x, seq, controlFlight (BitVec.ofNat 64 (opWord c 1)) args, false, none⟩, command_later hh hc hp ?_, ?_, rfl, rfl, rfl, rfl, rfl,
      controlFlight_s _ args⟩
    · simp only [k] at hx hr hl
      simp only [hx, hr, hd, if_false, hl, Option.isSome_none, Bool.false_eq_true]
      rfl
    · rw [State.startControl, State.part_modPart, if_pos ⟨rfl, hk⟩]
      exact look_put_same _ _ _

/-- Settles O52: each command, by what its body does at the head of a queue. -/
theorem hostCommands : Obligations.HostCommands :=
  ⟨launchCommand_pf, inval_done, inval_waits, fresume_command, resumePage_wakes, arm_command, logput_command, capture_command,
    clearlost_command, diereset_command, ctlrun_command⟩

end Sys2Proof.Machine
end

section
/-! SUPPORT. A migration that changes a register: the state that refutes the obligation on ticks and moves (R157, R207, R303, R333). -/

namespace Sys2Proof.Machine

open Sys2Proof.Claim

/-- Lane 0's part of a load from device 1, refused there: its home was down. -/
def refusedPiece : Piece where
  lane := 0
  tid := 0
  first := 0
  va := 0
  len := 4
  keys := []
  dev := some 1
  sent := false
  back := false
  span := false
  due := 0
  locked := false
  done := false
  refused := 4

/-- A split load of lane 0 into v5 that stands on the replay list. -/
def refusedLoad : Acc where
  id := 0
  kind := .load false true
  bytes := 4
  t := 5
  lanes := 1
  pieces := [refusedPiece]
  out := []
  got := []
  arrived := 0
  granules := []
  early := false
  lease := 0
  landed := []
  fault := none

/-- A stopped flight with that load outstanding, whose v5 of lane 0 holds 7. -/
def refusedFlight : Flight :=
  { Flight.fresh 32 0 [] (List.replicate 32 0) with vregs := [(5, 7)], stopped := true, nLoads := 1, accs := [refusedLoad] }

/-- Its workgroup stands halted on core 0. -/
def refusedWg : Wg where
  launch := 0
  part := 0
  ctx := 0
  wgid := 0
  tether := 0
  rank := 0
  core := 0
  flights := [refusedFlight]
  acc := List.replicate 8 none
  barK := 0
  bartK := 0
  sortK := 0
  barArr := 0
  bartArr := 0
  sortArr := 0
  sortIn := []
  st := .halted
  dbg := false
  trapped := false
  firstFlt := 0xFF
  firstAt := 0
  entryOwed := false
  entryAt := none
  resolve := none
  cancelled := false
  replay := []
  scratchBase := 0
  scratchBytes := 0
  rows := 32
  rowAt := List.range 32
  age := 0
  away := Away.none

/-- The matrix engine of quad 0 is fenced, the partition owns quad 1 too, and no plane leads to other devices. -/
def refusedState : State :=
  { State.reset with
    wgs := [(1, refusedWg)]
    mxes := [(0, { Mxe.reset with fenced := true })]
    parts := [{ Part.reset with desc := { PartDesc.off with quads := 3 } }] }

/-- Core 2, in quad 1, can take the workgroup. -/
theorem refusedState_refuge : refusedState.refuge 1 refusedWg 2 = true := by decide +kernel

theorem refusedState_det : refusedState.det (.wg 1 0) = false := by decide +kernel

/-- v5 of lane 0 of the workgroup's flight after an event. -/
def v5After (o : Out) : Option Word :=
  match o with
  | .next t => (t.flight? (.wg 1 0)).map (fun f => f.v 0 5)
  | _ => none

/-- The workgroup resumes as it moves, and its load, which no plane can carry, is given zeros. -/
theorem migrate_zeros_v5 : v5After (exec (.migrate 1 2) refusedState) = some 0 := by decide +kernel

/-- Refutes O49: a halted workgroup that leaves a fenced quad resumes in the same event, which sends its replay list again; a load from
another device to which no plane leads then fails at once and gives zeros, so that a register of a migrated flight is not kept. -/
theorem not_ticksAndMoves : ¬ Obligations.TicksAndMoves := by
  rintro ⟨-, -, -, hmigrate, -⟩
  obtain ⟨-, -, -, hfenced⟩ := hmigrate refusedState 1 2 refusedWg rfl
  obtain ⟨hmoves, -⟩ := hfenced rfl rfl refusedState_det
  obtain ⟨t, g', hx, hg', -, -, -, -, hkept⟩ := hmoves refusedState_refuge
  obtain ⟨f', hf', ⟨-, hv⟩, -⟩ := hkept 0 refusedFlight rfl
  have hzero := migrate_zeros_v5
  rw [hx] at hzero
  have hflight : t.flight? (.wg 1 0) = some f' := by simp only [State.flight?, hg', Option.bind_some, hf']
  have hseven : f'.v 0 5 = 7 := hv 0 5 (by decide)
  simp only [v5After, hflight, Option.map_some, hseven] at hzero
  exact absurd hzero (by decide)

end Sys2Proof.Machine
end

section
/-! SUPPORT. Clearance tokens: their fields, reissues, and the commands on them (R353–R355). -/

namespace Sys2Proof.Machine

open Sys2Proof.Claim

theorem exec_scrub (k : Nat) (s : State) : exec (.scrub k) s = execScrub k s := rfl
theorem exec_tokenRecord (k : Nat) (s : State) : exec (.tokenRecord k) s = execTokenRecord k s := rfl
theorem exec_tokreq (src : CmdSrc) (s : State) : exec (.tokreq src) s = execTokreq src s := rfl
theorem exec_tokread (src : CmdSrc) (s : State) : exec (.tokread src) s = execTokread src s := rfl

/-! ### Parts of byte lists -/

/-- A part of a byte list that stands at its place. -/
theorem slice_append (as bs rest : List Byte) {off n : Nat} (ha : as.length = off) (hb : bs.length = n) :
    slice (as ++ (bs ++ rest)) off n = bs := by
  rw [slice, List.drop_left' ha, List.take_left' hb]

theorem slice_length {bs : List Byte} {off n : Nat} (h : off + n ≤ bs.length) : (slice bs off n).length = n := by
  rw [slice, List.length_take, List.length_drop]
  omega

/-! ### The length of a hash (log 19) -/

theorem shaRounds_length (kws v : List Word) (h : v.length = 8) : (kws.foldl shaRound v).length = 8 := by
  induction kws generalizing v with
  | nil => exact h
  | cons kw kws ih => exact ih _ rfl

theorem shaBlocks_length (n : Nat) (h : List Word) (m : List Byte) (hh : h.length = 8) : (shaBlocks n h m).length = 8 := by
  induction n generalizing h m with
  | zero => exact hh
  | succ n ih =>
    refine ih _ _ ?_
    rw [shaBlock, List.length_zipWith, shaRounds_length _ _ hh, hh]
    rfl

theorem sha256_length (m : List Byte) : (sha256 m).length = 32 := by
  have h := shaBlocks_length ((shaPad m).length / 64) shaInit (shaPad m) rfl
  simp only [sha256, List.length_flatMap, List.length_reverse, toBytes_length, List.map_const', List.sum_replicate, h]
  rfl

theorem sha256_half (m : List Byte) : ((sha256 m).take 16).length = 16 := by
  rw [List.length_take, sha256_length]
  rfl

/-! ### The fields of a token (R354) -/

/-- The first sixteen bytes of a token. -/
def tokenHead (part vf flags : Nat) : List Byte :=
  toBytes 8 0x314B54434C43584E ++ (toBytes 2 1 ++ (toBytes 2 flags ++ (toBytes 1 part ++ (toBytes 1 vf ++ toBytes 2 0))))

/-- The tenants that a token names. -/
def tokenTenants (outTen inTen : Dword) : List Byte := toBytes 8 outTen.toNat ++ toBytes 8 inTen.toNat

/-- What follows COUNTER. -/
def tokenTail (nonce : BitVec 256) (clk ns : Nat) : List Byte :=
  toBytes 32 nonce.toNat ++ (toBytes 8 clk ++ (toBytes 4 ns ++ List.replicate 12 0))

/-- The bytes of a token that are signed. -/
def tokenSigned (part vf flags : Nat) (outTen inTen : Dword) (nonce : BitVec 256) (clk ns counter : Nat) (scope : List Byte) : List Byte :=
  tokenHead part vf flags ++ (deviceId ++ (tokenTenants outTen inTen ++ ((sha256 scope).take 16 ++ (toBytes 8 counter ++ tokenTail nonce clk ns))))

theorem deviceId_length : deviceId.length = 16 := sha256_half _

theorem tokenSigned_length (part vf flags : Nat) (outTen inTen : Dword) (nonce : BitVec 256) (clk ns counter : Nat) (scope : List Byte) :
    (tokenSigned part vf flags outTen inTen nonce clk ns counter scope).length = 128 := by
  simp [tokenSigned, tokenHead, tokenTenants, tokenTail, deviceId_length, sha256_length]

/-- Bytes under the device's signatures, in a token's 4,096 bytes. -/
def signedBytes (b : List Byte) : List Byte :=
  b ++ ((List.range 64).map (Config.ed25519Sign edKey b) ++ ((List.range 3309).map (Config.mldsaSign dsaKey b) ++ List.replicate 595 0))

theorem signedBytes_length {b : List Byte} (h : b.length = 128) : (signedBytes b).length = 4096 := by
  simp only [signedBytes, List.length_append, h, List.length_map, List.length_range, List.length_replicate]

/-- What is signed, and the signatures, at their places. -/
theorem signedBytes_parts {b : List Byte} (h : b.length = 128) :
    (signedBytes b).take 128 = b ∧ ((signedBytes b).drop 128).take 64 = (List.range 64).map (Config.ed25519Sign edKey b) ∧
      ((signedBytes b).drop 192).take 3309 = (List.range 3309).map (Config.mldsaSign dsaKey b) ∧
      (signedBytes b).drop 3501 = List.replicate 595 0 := by
  have h64 : ((List.range 64).map (Config.ed25519Sign edKey b)).length = 64 := by rw [List.length_map, List.length_range]
  have h3309 : ((List.range 3309).map (Config.mldsaSign dsaKey b)).length = 3309 := by rw [List.length_map, List.length_range]
  rw [signedBytes]
  generalize (List.range 64).map (Config.ed25519Sign edKey b) = c at h64 ⊢
  generalize (List.range 3309).map (Config.mldsaSign dsaKey b) = d at h3309 ⊢
  generalize List.replicate 595 (0 : Byte) = e
  have hd : (b ++ (c ++ (d ++ e))).drop 192 = d ++ e := by
    rw [← List.append_assoc]
    exact List.drop_left' (by rw [List.length_append, h, h64])
  refine ⟨List.take_left' h, ?_, ?_, ?_⟩
  · rw [List.drop_left' h, List.take_left' h64]
  · rw [hd, List.take_left' h3309]
  · rw [show 3501 = 192 + 3309 from rfl, ← List.drop_drop, hd, List.drop_left' h3309]

/-- A part within what is signed. -/
theorem slice_signedBytes {b : List Byte} (h : b.length = 128) {off n : Nat} (hn : off + n ≤ 128) :
    slice (signedBytes b) off n = slice b off n := by
  rw [signedBytes, slice, slice, List.drop_append_of_le_length (by omega), List.take_append_of_le_length (by rw [List.length_drop]; omega)]

theorem tokenBody_eq (part vf flags : Nat) (outTen inTen : Dword) (nonce : BitVec 256) (clk ns : Nat) :
    tokenBody part vf flags outTen inTen nonce clk ns = tokenHead part vf flags ++
      (List.replicate 16 0 ++ (tokenTenants outTen inTen ++ (List.replicate 24 0 ++ tokenTail nonce clk ns))) := by
  simp only [tokenBody, le, tokenHead, tokenTenants, tokenTail, List.append_assoc]

/-- Signing takes the whole of a body but for DEVID, SCOPEH and COUNTER. -/
theorem signedToken_tokenBody (part vf flags : Nat) (outTen inTen : Dword) (nonce : BitVec 256) (clk ns counter : Nat) (scope : List Byte) :
    signedToken (tokenBody part vf flags outTen inTen nonce clk ns) scope counter =
      signedBytes (tokenSigned part vf flags outTen inTen nonce clk ns counter scope) := by
  have hb := tokenBody_eq part vf flags outTen inTen nonce clk ns
  have hhead : (tokenHead part vf flags).length = 16 := by simp [tokenHead]
  have h0 : (tokenBody part vf flags outTen inTen nonce clk ns).take 16 = tokenHead part vf flags := by rw [hb, List.take_left' hhead]
  have h1 : slice (tokenBody part vf flags outTen inTen nonce clk ns) 32 16 = tokenTenants outTen inTen := by
    rw [hb, ← List.append_assoc]
    exact slice_append _ _ _ (by simp [hhead]) (by simp [tokenTenants])
  have h2 : slice (tokenBody part vf flags outTen inTen nonce clk ns) 72 56 = tokenTail nonce clk ns := by
    rw [hb, ← List.append_assoc, ← List.append_assoc, ← List.append_assoc, ← List.append_nil (tokenTail nonce clk ns)]
    exact slice_append _ _ _ (by simp [hhead, tokenTenants]) (by simp [tokenTail])
  have hs : tokenHead part vf flags ++ deviceId ++ tokenTenants outTen inTen ++ (sha256 scope).take 16 ++ le 8 counter ++
      tokenTail nonce clk ns = tokenSigned part vf flags outTen inTen nonce clk ns counter scope := by
    simp only [tokenSigned, le, List.append_assoc]
  rw [signedToken, h0, h1, h2, hs, signedBytes, List.append_assoc, List.append_assoc]

/-- A part beyond the first bytes of a list. -/
theorem slice_skip {as : List Byte} {k off : Nat} (ha : as.length = k) (h : k ≤ off) (bs : List Byte) (n : Nat) :
    slice (as ++ bs) off n = slice bs (off - k) n := by
  rw [slice, slice, List.drop_append, ha, List.drop_eq_nil_of_le (ha.trans_le h), List.nil_append]

theorem fieldAt_skip {as : List Byte} {k off : Nat} (ha : as.length = k) (h : k ≤ off) (bs : List Byte) (n : Nat) :
    fieldAt (as ++ bs) off n = fieldAt bs (off - k) n := congrArg ofBytes (slice_skip ha h bs n)

theorem fieldAt_past {k off : Nat} (h : k ≤ off) (x : Nat) (bs : List Byte) (n : Nat) :
    fieldAt (toBytes k x ++ bs) off n = fieldAt bs (off - k) n := fieldAt_skip (toBytes_length k x) h bs n

/-- The number that a list of bytes begins with. -/
theorem fieldAt_first (n x : Nat) (bs : List Byte) : fieldAt (toBytes n x ++ bs) 0 n = x % 256 ^ n := fieldAt_toBytes [] bs n x 0 rfl

theorem tokenHead_fields {part vf flags : Nat} (hpart : part < 256) (hvf : vf < 256) (hflags : flags < 2 ^ 16) (rest : List Byte) :
    let b := tokenHead part vf flags ++ rest
    fieldAt b 0 8 = 0x314B54434C43584E ∧ fieldAt b 8 2 = 1 ∧ fieldAt b 10 2 = flags ∧ fieldAt b 12 1 = part ∧ fieldAt b 13 1 = vf := by
  simp only [tokenHead, List.append_assoc, fieldAt_past, fieldAt_first, Nat.reduceLeDiff, Nat.reduceSub]
  omega

theorem tokenTenants_fields (outTen inTen : Dword) (rest : List Byte) :
    let b := tokenTenants outTen inTen ++ rest
    fieldAt b 0 8 = outTen.toNat ∧ fieldAt b 8 8 = inTen.toNat := by
  have hout := outTen.isLt
  have hin := inTen.isLt
  simp only [tokenTenants, List.append_assoc, fieldAt_past, fieldAt_first, Nat.reduceLeDiff, Nat.reduceSub]
  omega

theorem tokenTail_fields {clk ns : Nat} (nonce : BitVec 256) (hclk : clk < 2 ^ 64) (hns : ns < 2 ^ 32) :
    let b := tokenTail nonce clk ns
    fieldAt b 0 32 = nonce.toNat ∧ fieldAt b 32 8 = clk ∧ fieldAt b 40 4 = ns := by
  have hnonce := nonce.isLt
  simp only [tokenTail, fieldAt_past, fieldAt_first, Nat.reduceLeDiff, Nat.reduceSub]
  omega

/-- The fields of what is signed (R354). -/
theorem tokenSigned_fields {part vf flags clk ns counter : Nat} (outTen inTen : Dword) (nonce : BitVec 256) (scope : List Byte)
    (hpart : part < 256) (hvf : vf < 256) (hflags : flags < 2 ^ 16) (hclk : clk < 2 ^ 64) (hns : ns < 2 ^ 32) (hcounter : counter < 2 ^ 64) :
    let b := tokenSigned part vf flags outTen inTen nonce clk ns counter scope
    (fieldAt b 0 8 = 0x314B54434C43584E ∧ fieldAt b 8 2 = 1 ∧ fieldAt b 10 2 = flags ∧ fieldAt b 12 1 = part ∧ fieldAt b 13 1 = vf) ∧
      (fieldAt b 32 8 = outTen.toNat ∧ fieldAt b 40 8 = inTen.toNat) ∧ slice b 48 16 = (sha256 scope).take 16 ∧ slice b 16 16 = deviceId ∧
      fieldAt b 64 8 = counter ∧ (fieldAt b 72 32 = nonce.toNat ∧ fieldAt b 104 8 = clk ∧ fieldAt b 112 4 = ns) := by
  have hhead : (tokenHead part vf flags).length = 16 := by simp [tokenHead]
  have hten : (tokenTenants outTen inTen).length = 16 := by simp [tokenTenants]
  have hsc := sha256_half scope
  rw [tokenSigned]
  refine ⟨tokenHead_fields hpart hvf hflags _, ?_, ?_, slice_append _ _ _ hhead deviceId_length, ?_, ?_⟩
  · simp only [fieldAt_skip hhead, fieldAt_skip deviceId_length, Nat.reduceLeDiff, Nat.reduceSub]
    exact tokenTenants_fields outTen inTen _
  · simp only [slice_skip hhead, slice_skip deviceId_length, Nat.reduceLeDiff, Nat.reduceSub]
    exact slice_append _ _ _ hten hsc
  · simp only [fieldAt_skip hhead, fieldAt_skip deviceId_length, fieldAt_skip hten, fieldAt_skip hsc, fieldAt_first, Nat.reduceLeDiff,
      Nat.reduceSub]
    exact Nat.mod_eq_of_lt hcounter
  · simp only [fieldAt_skip hhead, fieldAt_skip deviceId_length, fieldAt_skip hten, fieldAt_skip hsc, fieldAt_past, Nat.reduceLeDiff,
      Nat.reduceSub]
    exact tokenTail_fields nonce hclk hns

/-- R354: the fields of a token, and its size. -/
theorem signedToken_fields {part vf flags clk ns counter : Nat} (outTen inTen : Dword) (nonce : BitVec 256) (scope : List Byte)
    (hpart : part < 256) (hvf : vf < 256) (hflags : flags < 2 ^ 16) (hclk : clk < 2 ^ 64) (hns : ns < 2 ^ 32) (hcounter : counter < 2 ^ 64) :
    TokenFields (signedToken (tokenBody part vf flags outTen inTen nonce clk ns) scope counter) part vf flags counter clk ns outTen inTen
      nonce scope ∧ (signedToken (tokenBody part vf flags outTen inTen nonce clk ns) scope counter).length = 4096 := by
  have hl := tokenSigned_length part vf flags outTen inTen nonce clk ns counter scope
  have hf := tokenSigned_fields outTen inTen nonce scope hpart hvf hflags hclk hns hcounter
  rw [signedToken_tokenBody]
  generalize tokenSigned part vf flags outTen inTen nonce clk ns counter scope = b at hl hf ⊢
  have hs : ∀ {off n : Nat}, off + n ≤ 128 → slice (signedBytes b) off n = slice b off n := fun h => slice_signedBytes hl h
  have hn : ∀ {off n : Nat}, off + n ≤ 128 → fieldAt (signedBytes b) off n = fieldAt b off n := fun h => congrArg ofBytes (hs h)
  obtain ⟨⟨h0, h8, h10, h12, h13⟩, ⟨h32, h40⟩, h48, h16, h64, h72, h104, h112⟩ := hf
  obtain ⟨htake, hed, hml, hpad⟩ := signedBytes_parts hl
  refine ⟨⟨(hn (by decide)).trans h0, (hn (by decide)).trans h8, (hn (by decide)).trans h10, (hn (by decide)).trans h12,
    (hn (by decide)).trans h13, (hn (by decide)).trans h32, (hn (by decide)).trans h40, (hs (by decide)).trans h48,
    (hs (by decide)).trans h16, (hn (by decide)).trans h64, (hn (by decide)).trans h72, (hn (by decide)).trans h104,
    (hn (by decide)).trans h112, ?_, ?_, hpad⟩, signedBytes_length hl⟩
  · rw [htake, hed]
  · rw [htake, hml]

/-! ### Reissues and reads (R355) -/

theorem reissued_parts {tok nonce : List Byte} (ht : tok.length = 4096) (hn : nonce.length = 32) :
    let b := reissued tok nonce
    b.length = 128 ∧ fieldAt b 10 2 = Nat.lor (fieldAt tok 10 2) 8 ∧ (b.drop 72).take 32 = nonce ∧ b.take 10 = tok.take 10 ∧
      (b.drop 12).take 60 = (tok.drop 12).take 60 := by
  intro b
  have h10 : (tok.take 10).length = 10 := by rw [List.length_take, ht]; rfl
  have h60 : (slice tok 12 60).length = 60 := slice_length (by omega)
  have h24 : (slice tok 104 24).length = 24 := slice_length (by omega)
  have hlor : Nat.lor (fieldAt tok 10 2) 8 < 256 ^ 2 := Nat.or_lt_two_pow (n := 16) (fieldAt_lt tok 10 2) (by decide)
  have hb : b = tok.take 10 ++ (toBytes 2 (Nat.lor (fieldAt tok 10 2) 8) ++ (slice tok 12 60 ++ (nonce ++ slice tok 104 24))) := by
    simp only [b, reissued, le, List.append_assoc, List.take_of_length_le (Nat.le_of_eq hn)]
  rw [hb]
  refine ⟨?_, (fieldAt_toBytes _ _ _ _ _ h10).trans (Nat.mod_eq_of_lt hlor), ?_, List.take_left' h10, ?_⟩
  · simp only [List.length_append, h10, h60, h24, hn, toBytes_length]
  · rw [← List.append_assoc, ← List.append_assoc]
    exact slice_append _ _ _ (by simp only [List.length_append, h10, h60, toBytes_length]) hn
  · rw [← List.append_assoc]
    exact slice_append _ _ _ (by simp only [List.length_append, h10, toBytes_length]) h60

theorem tokreq_command (src : CmdSrc) : Command (.tokreq src) src 0x06 (fun s0 k _ c done held _ =>
    ((s0.part k).cur = none ∨ (s0.part k).token = [] → held) ∧
    (∀ x, (s0.part k).cur = some x → (s0.part k).token ≠ [] →
      let y := s0.sign k (reissued (s0.part k).token ((c.drop 8).take 32))
      done (y.1.record k x y.2 true) 0)) := by
  intro s c hh hc hp _ k seq
  simp only [exec_tokreq, execTokreq]
  refine ⟨fun h => ?_, fun x hx ht => command_code hh hc hp ?_⟩
  · refine command_hold hh hc hp (t := s.popCmd src) ?_
    simp only [k] at h
    cases hx : ((s.popCmd src).part (cmdPart src c)).cur with
    | none => simp only
    | some x =>
      have ht : ((s.popCmd src).part (cmdPart src c)).token = [] := h.resolve_left (by rw [hx]; exact Option.some_ne_none x)
      simp only [ht, List.isEmpty_nil, if_true]
  · have he : ((s.popCmd src).part (cmdPart src c)).token.isEmpty = false := by
      rw [← Bool.not_eq_true, List.isEmpty_iff]
      exact ht
    simp only [k] at hx
    simp only [hx, he, Bool.false_eq_true, if_false]
    rfl

theorem tokread_command (src : CmdSrc) : Command (.tokread src) src 0x07 (fun s0 k _ c done _ _ =>
    ((s0.part k).token = [] → done s0 0xFE) ∧
    ((s0.part k).token ≠ [] → done (s0.putBytes (opWord c 0) (s0.part k).token) 0 ∧
      (s0.putBytes (opWord c 0) (s0.part k).token).mem = writeBytes s0.mem (opWord c 0) (s0.part k).token)) := by
  intro s c hh hc hp _ k seq
  simp only [exec_tokread, execTokread]
  refine ⟨fun h => command_code hh hc hp ?_, fun h => ⟨command_code hh hc hp ?_, rfl⟩⟩
  · exact if_pos (List.isEmpty_iff.mpr h)
  · exact if_neg (fun he => h (List.isEmpty_iff.mp he))

end Sys2Proof.Machine
end

section
/-! SUPPORT. TOKEN_RECORD and SCRUB (R351, R352, R355), and what a walk of a partition's tables depends on (R187, R191, R192). -/

namespace Sys2Proof.Machine

open Sys2Proof.Claim

/-! ### What an address of a context names depends on -/

/-- Two states have the same tables, translations and resources for a partition. -/
structure State.MapsAs (s t : State) (k : Nat) : Prop where
  mem : t.mem = s.mem
  image : t.image = s.image
  badChans : t.badChans = s.badChans
  free : t.free = s.free
  planes : t.planes = s.planes
  desc : (t.part k).desc = (s.part k).desc
  tlb : (t.part k).tlb = (s.part k).tlb
  ctxs : (t.part k).ctxs = (s.part k).ctxs

section
variable {s t : State} {k : Nat} (h : s.MapsAs t k)
include h

theorem State.MapsAs.mappable (pa : Nat) : t.mappable k pa = s.mappable k pa := by
  simp only [State.mappable, State.served, State.inTwinWindow, State.inCountPlane, h.image, h.badChans, h.desc]

theorem State.MapsAs.stage2 (c : TransCtx) (ipa : Nat) : t.stage2 c ipa = s.stage2 c ipa := by
  simp only [State.stage2, h.mem]

theorem State.MapsAs.tableAddr (c : TransCtx) : t.tableAddr k c = s.tableAddr k c := by
  funext ipa
  simp only [State.tableAddr, h.stage2, h.mappable]

theorem State.MapsAs.walk (c : TransCtx) (va : Nat) : t.walk k c va = s.walk k c va := by
  simp only [State.walk, h.mem, h.tableAddr, h.stage2]

theorem State.MapsAs.leaf (x : Nat) (va : Dword) : t.leaf k x va = s.leaf k x va := by
  have hc : t.transOf k x = s.transOf k x := by simp only [State.transOf, Part.ctx, h.ctxs]
  have hl : ∀ v, t.tlbLook k x v = s.tlbLook k x v := fun v => by simp only [State.tlbLook, h.tlb]
  rw [State.leaf, State.leaf, hc, hl, h.free, h.walk]

theorem State.MapsAs.translate (x : Nat) (va : Dword) (n : Need) : t.translate k x va n = s.translate k x va n := by
  simp only [State.translate, h.leaf, h.mappable]

theorem State.MapsAs.vaKeys (x va len : Nat) (n : Need) : t.vaKeys k x va len n = s.vaKeys k x va len n := by
  simp only [State.vaKeys, State.vaKey, h.image, h.translate]

theorem State.MapsAs.spanCut (x va len : Nat) : t.spanCut k x va len = s.spanCut k x va len := by
  simp only [State.spanCut, State.planesUp, h.planes, h.leaf]

end


/-! ### TOKEN_RECORD (R355) -/

/-- The oldest token that is due leaves the list, and COUNTER rises. -/
def State.takeToken (s : State) (k : Nat) (due : List (List Byte × Option Nat)) : State :=
  { s.modPart k (fun p => { p with tokenDue := due }) with counter := s.counter + 1 }

theorem State.takeToken_mapsAs (s : State) (k : Nat) (due : List (List Byte × Option Nat)) : s.MapsAs (s.takeToken k due) k :=
  ⟨rfl, rfl, rfl, rfl, rfl, State.part_modPart_kept Part.desc s k (by intro _; rfl) k, State.part_modPart_kept Part.tlb s k (by intro _; rfl) k,
    State.part_modPart_kept Part.ctxs s k (by intro _; rfl) k⟩

theorem execTokenRecord_ctx {s : State} {k slot : Nat} {body : List Byte} {due : List (List Byte × Option Nat)}
    (h : (s.part k).tokenDue = (body, some slot) :: due) : execTokenRecord k s = .next ((s.takeToken k due).record k slot
      (signedToken body (s.part k).written (s.counter + 1).toNat) due.isEmpty) := by
  have hw := State.part_modPart_kept Part.written s k (f := fun p => { p with tokenDue := due }) (by intro _; rfl) k
  rw [execTokenRecord, h]
  simp only [State.sign, hw]
  rfl

theorem execTokenRecord_none {s : State} {k : Nat} (h : (s.part k).tokenDue = []) : execTokenRecord k s = .next s := by
  rw [execTokenRecord, h]

/-- A write to memory that may fail, and then has no effect. -/
def State.writeIf (s : State) (k slot va : Nat) (bs : List Byte) : State := (s.writeVa k slot va bs).getD s

theorem State.writeIf_some {s : State} {k slot va : Nat} {bs : List Byte} {ks : List Nat} (h : s.vaKeys k slot va bs.length { w := true } = some ks)
    (hs : s.spanCut k slot va bs.length = false) : s.writeIf k slot va bs = { s with mem := writeKeys s.mem (ks.zip bs) } := by
  simp only [State.writeIf, State.writeVa, h, hs, Option.map_some, Bool.false_eq_true, if_false, Option.getD_some]

theorem State.writeIf_none {s : State} {k slot va : Nat} {bs : List Byte}
    (h : s.vaKeys k slot va bs.length { w := true } = none ∨ s.spanCut k slot va bs.length = true) : s.writeIf k slot va bs = s := by
  cases hk : s.vaKeys k slot va bs.length { w := true } with
  | none => simp only [State.writeIf, State.writeVa, hk, Option.map_none, Option.getD_none]
  | some ks =>
    have hs := h.resolve_left (by rw [hk]; exact Option.some_ne_none ks)
    simp only [State.writeIf, State.writeVa, hk, hs, Option.map_some, if_true, Option.getD_some]

theorem State.writeIf_kept {α : Type} (g : State → α) (hg : ∀ (s : State) m, g { s with mem := m } = g s) (s : State) (k slot va : Nat)
    (bs : List Byte) : g (s.writeIf k slot va bs) = g s := by
  by_cases h : s.vaKeys k slot va bs.length { w := true } = none ∨ s.spanCut k slot va bs.length = true
  · rw [State.writeIf_none h]
  · obtain ⟨hk, hs⟩ := not_or.mp h
    obtain ⟨ks, hk⟩ := Option.ne_none_iff_exists'.mp hk
    rw [State.writeIf_some hk (Bool.not_eq_true _ ▸ hs)]
    exact hg s _

/-- The state after a token is written to its context's buffer (R355). -/
def State.buffered (s : State) (k slot : Nat) (tok : List Byte) : State :=
  if ((s.part k).ctx slot).desc.tokbuf = 0 then s else s.writeIf k slot ((s.part k).ctx slot).desc.tokbuf.toNat tok

theorem State.buffered_kept {α : Type} (g : State → α) (hg : ∀ (s : State) m, g { s with mem := m } = g s) (s : State) (k slot : Nat)
    (tok : List Byte) : g (s.buffered k slot tok) = g s := by
  rw [State.buffered]
  split
  · rfl
  · exact State.writeIf_kept g hg s _ _ _ _

/-- The nonces of a partition after a token is recorded. -/
def Part.noncesWith (p : Part) (tok : List Byte) (present : Bool) : List (BitVec 256) :=
  if present then (let ns := p.nonces ++ [BitVec.ofNat 256 (fieldAt tok 72 32)]; ns.drop (ns.length - 16)) else p.nonces

theorem State.record_eq (s : State) (k slot : Nat) (tok : List Byte) (present : Bool) : s.record k slot tok present =
    (s.buffered k slot tok).modPart k (fun p => { p with token := tok, nonces := p.noncesWith tok present }) := rfl

theorem tokenRecord_rule {s : State} {k slot : Nat} {body : List Byte} {due : List (List Byte × Option Nat)}
    (hd : (s.part k).tokenDue = (body, some slot) :: due) (hk : k < s.parts.length) :
    let tok := signedToken body (s.part k).written (s.counter + 1).toNat
    let buf := ((s.part k).ctx slot).desc.tokbuf
    let keys := s.vaKeys k slot buf.toNat tok.length { w := true }
    ∃ t, exec (.tokenRecord k) s = .next t ∧ t.counter = s.counter + 1 ∧ (t.part k).token = tok ∧ (t.part k).tokenDue = due ∧
      (buf = 0 ∨ keys = none ∨ s.spanCut k slot buf.toNat tok.length = true → t.mem = s.mem) ∧
      (∀ ks, buf ≠ 0 → keys = some ks → s.spanCut k slot buf.toNat tok.length = false → t.mem = writeKeys s.mem (ks.zip tok)) ∧
      (due ≠ [] → (t.part k).nonces = (s.part k).nonces) ∧
      (due = [] → (t.part k).nonces =
        ((s.part k).nonces ++ [BitVec.ofNat 256 (fieldAt tok 72 32)]).drop ((s.part k).nonces.length + 1 - 16)) := by
  intro tok buf keys
  have hm := s.takeToken_mapsAs k due
  have hcounter : (s.takeToken k due).counter = s.counter + 1 := rfl
  have hpart : (s.takeToken k due).part k = { s.part k with tokenDue := due } := by
    exact (State.part_modPart s k _ k).trans (if_pos ⟨rfl, hk⟩)
  have hlen : k < (s.takeToken k due).parts.length := by
    simpa only [State.takeToken, State.modPart_parts, length_modAt] using hk
  rw [exec_tokenRecord, execTokenRecord_ctx hd]
  generalize s.takeToken k due = u at hm hpart hcounter hlen ⊢
  have hub : ((u.part k).ctx slot).desc.tokbuf = buf := by rw [hpart]; rfl
  have hpb : (u.buffered k slot tok).part k = u.part k := State.buffered_kept (fun s => s.part k) (fun _ _ => rfl) u k slot tok
  have hlb : k < (u.buffered k slot tok).parts.length := by
    rwa [State.buffered_kept (fun s => s.parts.length) (fun _ _ => rfl) u k slot tok]
  have hrec : ((u.record k slot tok due.isEmpty).part k) = { u.part k with token := tok, nonces := (u.part k).noncesWith tok due.isEmpty } := by
    rw [State.record_eq, State.part_modPart, if_pos ⟨rfl, hlb⟩, hpb]
  refine ⟨_, rfl, ?_, ?_, ?_, fun h => ?_, fun ks hb hks hs => ?_, fun h => ?_, fun h => ?_⟩
  · exact (State.buffered_kept State.counter (fun _ _ => rfl) u k slot tok).trans hcounter
  · rw [hrec]
  · rw [hrec, hpart]
  · refine (?_ : (u.buffered k slot tok).mem = s.mem)
    rw [State.buffered, hub]
    by_cases hb : buf = 0
    · rw [if_pos hb, hm.mem]
    · rw [if_neg hb, State.writeIf_none (by rw [hm.vaKeys, hm.spanCut]; exact h.resolve_left hb), hm.mem]
  · refine (?_ : (u.buffered k slot tok).mem = _)
    rw [State.buffered, hub, if_neg hb, State.writeIf_some (by rw [hm.vaKeys]; exact hks) (by rw [hm.spanCut]; exact hs), hm.mem]
  · rw [hrec, hpart]
    exact if_neg (fun he => h (List.isEmpty_iff.mp he))
  · rw [hrec, hpart]
    refine (if_pos (List.isEmpty_iff.mpr h)).trans ?_
    simp only [List.length_append, List.length_singleton]

/-! ### What a scrub clears (R351, R352) -/

theorem look_filter_key {α : Type} (p : Nat → Bool) (m : List (Nat × α)) (k : Nat) :
    look (m.filter (fun c => p c.1)) k = if p k then look m k else none := by
  induction m with
  | nil => simp
  | cons c m ih =>
    obtain ⟨j, v⟩ := c
    by_cases hk : k = j
    · subst hk
      by_cases hp : p k <;> simp [hp, look_cons, ih]
    · by_cases hj : p j <;> simp [hj, look_cons, hk, ih]

theorem readByte_filter (p : Nat → Bool) (m : List Host.Cell) (k : Nat) :
    readByte (m.filter (fun c => p c.1)) k = if p k then readByte m k else 0 := by
  rw [readByte, sget, look_filter_key]
  split <;> rfl

/-- A byte that a scrub leaves. -/
def State.scrubKeeps (s : State) (k : Nat) (all : Bool) (key : Nat) : Bool := s.scratchKept k all key && s.chipKept k all key

theorem State.readByte_clear (s : State) (k : Nat) (all : Bool) (key : Nat) :
    readByte (s.clear k all).mem key = if s.scrubKeeps k all key then readByte s.mem key else 0 := readByte_filter (s.scrubKeeps k all) s.mem key

/-- A scrub of every resource leaves nothing in a scratchpad of the partition that no workgroup holds. -/
theorem State.scrubKeeps_scratch {s : State} {k core n : Nat} (hc : core < 512) (hn : n < 2 ^ 19) (h : (s.part k).desc.hasCore core = true)
    (hr : inRanges (s.heldScratch core) n = false) : s.scrubKeeps k true (2 ^ 44 + core * 2 ^ 30 + n) = false := by
  have hcore : (2 ^ 44 + core * 2 ^ 30 + n - 2 ^ 44) / 2 ^ 30 = core := by omega
  have hoff : (2 ^ 44 + core * 2 ^ 30 + n - 2 ^ 44) % 2 ^ 30 = n := by omega
  have hlo : 2 ^ 44 ≤ 2 ^ 44 + core * 2 ^ 30 + n := by omega
  have hhi : 2 ^ 44 + core * 2 ^ 30 + n < 2 ^ 48 := by omega
  simp only [State.scrubKeeps, State.scratchKept, hcore, hoff, hlo, hhi, Part.scrubs, h, hr, decide_true, Bool.true_or, Bool.and_self,
    Bool.not_true, Bool.or_self, Bool.false_and]

theorem State.clear_part {s : State} {k : Nat} (hk : k < s.parts.length) (all : Bool) :
    (s.clear k all).part k = { s.part k with tlb := [], nonces := [], token := [], clean := (s.part k).desc } :=
  (State.part_modPart _ k _ k).trans (if_pos ⟨rfl, hk⟩)

theorem State.clear_length (s : State) (k : Nat) (all : Bool) : (s.clear k all).parts.length = s.parts.length := length_modAt ..

/-- No resource of a partition has come since a scrub that left it all its own. -/
theorem Part.changed_clean (p : Part) (h : p.clean = p.desc) : p.changed = false := by
  have hq : ∀ {n : Nat} (x : BitVec n), x &&& ~~~x = 0 := fun x => BitVec.and_not_self x
  have hw : ∀ a : Nat × Nat, (meetWindows a a).2 = a.2 := fun a => by simp only [meetWindows, Nat.max_self, Nat.min_self]; omega
  rw [Part.changed, h]
  simp only [PartDesc.beyond, hq, hw]
  simp

/-- With no LAZY context but one that is kept, there is nothing to save. -/
theorem State.saveLazy_none {s : State} {k : Nat} {keep : Option Nat}
    (h : ∀ x, x < 16 → ((s.part k).ctx x).st = .lazy → keep = some x) : s.saveLazy k keep = s := by
  have hl : (List.range 16).filter (fun x => ((s.part k).ctx x).st == .lazy && keep != some x) = [] := by
    refine List.filter_eq_nil_iff.mpr (fun x hx hb => ?_)
    obtain ⟨h1, h2⟩ := Bool.and_eq_true_iff.mp hb
    rw [h x (List.mem_range.mp hx) (by simpa using h1)] at h2
    simp at h2
  rw [State.saveLazy, hl]
  simp

/-- The body of the token that a scrub leaves due (R354). -/
def State.scrubBody (s : State) (k slot t0 : Nat) : List Byte :=
  tokenBody k (s.part k).desc.vf.toNat ((if (s.part k).anyLazy then 1 else 0) + if (s.part k).formed then 0 else 4) (s.part k).lastTenant
    ((s.part k).ctx slot).desc.tenant ((s.part k).ctx slot).desc.nonce s.clk.toNat (s.clk.toNat - t0)

/-- A partition after a scrub for a context of a tenant that is coming. -/
def Part.scrubbed (p : Part) (slot : Nat) (tenant : Dword) (body : List Byte) : Part :=
  { p with scrubDue := none, lastTenant := tenant, formed := true, tokenDue := p.tokenDue ++ [(body, some slot)] }

theorem execScrub_waits {s : State} {k : Nat} (h : (s.part k).scrubDue = none ∨ (s.part k).cur ≠ none ∨ s.fabricQuiet k = false) :
    execScrub k s = .next s := by
  cases hd : (s.part k).scrubDue with
  | none => simp only [execScrub, hd]
  | some t0 =>
    have h := h.resolve_left (by rw [hd]; exact Option.some_ne_none t0)
    have hw : ((s.part k).cur.isSome || !s.fabricQuiet k) = true := by
      rcases h with h | h
      · rw [Option.isSome_iff_ne_none.mpr h, Bool.true_or]
      · rw [h, Bool.not_false, Bool.or_true]
    cases hx : (s.part k).switch.bind (·.target) with
    | none => simp only [execScrub, hd, hx]
    | some slot => simp only [execScrub, hd, hx, hw, if_true]

theorem execScrub_eq {s : State} {k t0 slot : Nat} {x : Switch} (hd : (s.part k).scrubDue = some t0) (hx : (s.part k).switch = some x)
    (ht : x.target = some slot) (hc : (s.part k).cur = none) (hq : s.fabricQuiet k = true)
    (hl : ∀ x, x < 16 → ((s.part k).ctx x).st = .lazy → (s.part k).last = some x) :
    execScrub k s = .next (((s.clear k ((s.part k).newTenant slot)).modPart k
      (fun p => p.scrubbed slot ((s.part k).ctx slot).desc.tenant (s.scrubBody k slot t0))).events [.contextRestore k slot, .tokenRecord k]) := by
  simp only [execScrub, hd, hx, Option.bind_some, ht, hc, hq, Option.isSome_none, Bool.not_true, Bool.or_self, Bool.false_eq_true, if_false,
    State.saveLazy_none hl]
  rfl

theorem scrub_rule (s : State) (k : Nat) : ((s.part k).scrubDue = none ∨ (s.part k).cur ≠ none ∨ s.fabricQuiet k = false → exec (.scrub k) s = .next s) ∧
    (∀ t0 x slot, (s.part k).scrubDue = some t0 → (s.part k).switch = some x → x.target = some slot → (s.part k).cur = none →
      s.fabricQuiet k = true → k < s.parts.length → Memory.wf s.mem = true →
      (∀ x, x < 16 → ((s.part k).ctx x).st = .lazy → (s.part k).last = some x) →
      let flags := (if (s.part k).anyLazy then 1 else 0) + if (s.part k).formed then 0 else 4
      let inc := ((s.part k).ctx slot).desc
      let all := (s.part k).newTenant slot
      ∃ t, exec (.scrub k) s = .next t ∧ (t.part k).scrubDue = none ∧ (t.part k).lastTenant = inc.tenant ∧ (t.part k).formed = true ∧
        (t.part k).changed = false ∧ (t.part k).tlb = [] ∧ (t.part k).nonces = [] ∧ (t.part k).token = [] ∧ (t.part k).clean = (s.part k).desc ∧
        (t.part k).tokenDue = (s.part k).tokenDue ++ [(tokenBody k (s.part k).desc.vf.toNat flags (s.part k).lastTenant inc.tenant inc.nonce s.clk.toNat
          (s.clk.toNat - t0), some slot)] ∧
        Move.event (.contextRestore k slot) ∈ t.agenda ∧ Move.event (.tokenRecord k) ∈ t.agenda ∧
        (∀ key, readByte t.mem key = if s.scratchKept k all key && s.chipKept k all key then readByte s.mem key else 0) ∧
        ∀ core n, all = true → core < 512 → n < 2 ^ 19 → (s.part k).desc.hasCore core = true → inRanges (s.heldScratch core) n = false →
          readByte t.mem (2 ^ 44 + core * 2 ^ 30 + n) = 0) := by
  rw [exec_scrub]
  refine ⟨execScrub_waits, fun t0 x slot hd hx ht hc hq hk _ hl => ?_⟩
  intro flags inc all
  have hp : ((s.clear k all).modPart k (fun p => p.scrubbed slot inc.tenant (s.scrubBody k slot t0))).part k =
      { s.part k with tlb := [], nonces := [], token := [], clean := (s.part k).desc }.scrubbed slot inc.tenant (s.scrubBody k slot t0) := by
    rw [State.part_modPart, if_pos ⟨rfl, by rwa [State.clear_length]⟩, State.clear_part hk]
  refine ⟨_, execScrub_eq hd hx ht hc hq hl, ?_⟩
  have hpart := (rfl : (((s.clear k all).modPart k (fun p => p.scrubbed slot inc.tenant (s.scrubBody k slot t0))).events
    [.contextRestore k slot, .tokenRecord k]).part k = _).trans hp
  rw [hpart]
  refine ⟨rfl, rfl, rfl, Part.changed_clean _ rfl, rfl, rfl, rfl, rfl, rfl, List.mem_cons_self, List.mem_cons_of_mem _ List.mem_cons_self,
    s.readByte_clear k all, fun core n ha h1 h2 h3 h4 => ?_⟩
  refine (s.readByte_clear k all _).trans (if_neg ?_)
  rw [ha, State.scrubKeeps_scratch h1 h2 h3 h4]
  exact Bool.false_ne_true

theorem tokens : Claim.Tokens := by
  refine ⟨?_, scrub_rule, fun s k slot body due => tokenRecord_rule, fun s k h => execTokenRecord_none h, tokreq_command, fun tok nonce => reissued_parts,
    tokread_command⟩
  intro body scope counter part vf flags clk ns outTen inTen nonce hpart hvf hflags hclk hns hcounter hb
  rw [hb]
  exact signedToken_fields outTen inTen nonce scope hpart hvf hflags hclk hns hcounter

end Sys2Proof.Machine
end

section
/-! SUPPORT. What the steps by which a VF ends and its tethers are killed leave as it is (R150, R350, R363, R375). -/

namespace Sys2Proof.Machine

open Sys2Proof.Claim

/-! ### Launches and tethers that only go on towards their end -/

/-- A tether on its way to its end: a kill in progress stays, and staging that is discarded stays away (R363). -/
structure Tether.To (y z : Tether) : Prop where
  dying : y.dying.isSome = true → z.dying.isSome = true
  stage : y.stage = [] → z.stage = []
  begun : y.dying = none → z.dying = none ∨ z.stage = []

theorem Tether.To.refl (y : Tether) : y.To y := ⟨id, id, fun h => Or.inl h⟩

theorem Tether.To.trans {x y z : Tether} (h : x.To y) (h' : y.To z) : x.To z :=
  ⟨h'.dying ∘ h.dying, h'.stage ∘ h.stage, fun hx => (h.begun hx).elim h'.begun (fun hs => Or.inr (h'.stage hs))⟩

/-- A launch on its way to its end: its names stay, and a final state, a cancel and the places given up stay too (R150). -/
structure Launch.To (l x : Launch) : Prop where
  part : x.part = l.part
  ctx : x.ctx = l.ctx
  queue : x.queue = l.queue
  id : x.id = l.id
  seq : x.seq = l.seq
  origin : x.origin = l.origin
  ended : l.ended = true → x.ended = true
  cancelled : l.cancelled = true → x.cancelled = true
  again : l.again = [] → x.again = []
  tethers : ∀ n y, look l.tethers n = some y → ∃ z, look x.tethers n = some z ∧ y.To z

theorem Launch.To.refl (l : Launch) : l.To l :=
  ⟨rfl, rfl, rfl, rfl, rfl, rfl, fun h => h, fun h => h, fun h => h, fun _ y h => ⟨y, h, .refl y⟩⟩

theorem Launch.To.trans {l x z : Launch} (h : l.To x) (h' : x.To z) : l.To z where
  part := h'.part.trans h.part
  ctx := h'.ctx.trans h.ctx
  queue := h'.queue.trans h.queue
  id := h'.id.trans h.id
  seq := h'.seq.trans h.seq
  origin := h'.origin.trans h.origin
  ended := h'.ended ∘ h.ended
  cancelled := h'.cancelled ∘ h.cancelled
  again := h'.again ∘ h.again
  tethers n y hy := by
    obtain ⟨y1, h1, ht1⟩ := h.tethers n y hy
    obtain ⟨y2, h2, ht2⟩ := h'.tethers n y1 h1
    exact ⟨y2, h2, ht1.trans ht2⟩

/-- Every launch of a state is there in another, further on its way. -/
def LaunchesTo (m m' : List (Nat × Launch)) : Prop := ∀ key l, look m key = some l → ∃ x, look m' key = some x ∧ l.To x

theorem LaunchesTo.of_eq {m m' : List (Nat × Launch)} (h : m' = m) : LaunchesTo m m' := fun _ l hl => ⟨l, h ▸ hl, .refl l⟩

theorem LaunchesTo.trans {a b c : List (Nat × Launch)} (h : LaunchesTo a b) (h' : LaunchesTo b c) : LaunchesTo a c := fun key l hl => by
  obtain ⟨x, hx, h1⟩ := h key l hl
  obtain ⟨z, hz, h2⟩ := h' key x hx
  exact ⟨z, hz, h1.trans h2⟩

theorem LaunchesTo.alter {m : List (Nat × Launch)} (key : Nat) {f : Launch → Launch} (h : ∀ l, Launch.To l (f l)) : LaunchesTo m (alter m key f) :=
  fun j l hl => by
    by_cases hj : j = key
    · subst hj
      exact ⟨f l, by rw [look_alter_same, hl]; rfl, h l⟩
    · exact ⟨l, by rw [look_alter_ne _ _ hj, hl], .refl l⟩

theorem Launch.To.of_tethers {l : Launch} {f : Nat → Tether → Tether} (h : ∀ n y, Tether.To y (f n y)) :
    ∀ n y, look l.tethers n = some y → ∃ z, look (mapVals l.tethers f) n = some z ∧ y.To z :=
  fun n y hy => ⟨f n y, by rw [look_mapVals, hy]; rfl, h n y⟩

/-! ### What VF_DISABLE speaks of -/

/-- Another state of the same partitions: what is running, how far a disabling has come and the contexts of one, the dies, PF ring 16 while it
is full, the moves that are due, and the launches, on their way. -/
structure State.KeepsVf (k : Nat) (s t : State) : Prop where
  count : t.parts.length = s.parts.length
  cur : (t.part k).cur = (s.part k).cur
  vfOff : (t.part k).vfOff = (s.part k).vfOff
  ctxs : (t.part k).ctxs = (s.part k).ctxs
  up : t.dieUp = s.dieUp
  ring : (s.pfRing 16).full = true → t.pfRing 16 = s.pfRing 16
  agenda : s.agenda ⊆ t.agenda
  launches : LaunchesTo s.launches t.launches

theorem State.KeepsVf.refl (k : Nat) (s : State) : s.KeepsVf k s :=
  ⟨rfl, rfl, rfl, rfl, rfl, fun _ => rfl, fun _ h => h, .of_eq rfl⟩

theorem State.KeepsVf.full {k : Nat} {s t : State} (h : s.KeepsVf k t) (hf : (s.pfRing 16).full = true) : (t.pfRing 16).full = true := by
  rw [h.ring hf, hf]

theorem State.KeepsVf.trans {k : Nat} {s t u : State} (h : s.KeepsVf k t) (h' : t.KeepsVf k u) : s.KeepsVf k u where
  count := h'.count.trans h.count
  cur := h'.cur.trans h.cur
  vfOff := h'.vfOff.trans h.vfOff
  ctxs := h'.ctxs.trans h.ctxs
  up := h'.up.trans h.up
  ring hf := (h'.ring (h.full hf)).trans (h.ring hf)
  agenda _ hm := h'.agenda (h.agenda hm)
  launches := h.launches.trans h'.launches

/-- Besides, no entry for PF ring 16 is due that was not, while the ring is full. -/
structure State.KeepsPf (k : Nat) (s t : State) : Prop extends s.KeepsVf k t where
  direct : (s.pfRing 16).full = true → t.pfDirect = s.pfDirect

theorem State.KeepsPf.refl (k : Nat) (s : State) : s.KeepsPf k s := ⟨.refl k s, fun _ => rfl⟩

theorem State.KeepsPf.trans {k : Nat} {s t u : State} (h : s.KeepsPf k t) (h' : t.KeepsPf k u) : s.KeepsPf k u :=
  ⟨h.toKeepsVf.trans h'.toKeepsVf, fun hf => (h'.direct (h.full hf)).trans (h.direct hf)⟩

/-- No control program of a partition comes to a die that had none. -/
def State.NoNewCtl (k : Nat) (s t : State) : Prop := ∀ d, look (s.part k).ctls d = none → look (t.part k).ctls d = none

/-- Both. -/
structure State.Stays (k : Nat) (s t : State) : Prop extends s.KeepsPf k t where
  ctls : s.NoNewCtl k t

theorem State.Stays.refl (k : Nat) (s : State) : s.Stays k s := ⟨.refl k s, fun _ h => h⟩

theorem State.Stays.trans {k : Nat} {s t u : State} (h : s.Stays k t) (h' : t.Stays k u) : s.Stays k u :=
  ⟨h.toKeepsPf.trans h'.toKeepsPf, fun d hd => h'.ctls d (h.ctls d hd)⟩

/-- A change of other parts of the state. -/
theorem State.Stays.of_frame {k : Nat} {s t : State} (hp : t.parts = s.parts) (hd : t.dies = s.dies) (hr : t.pfRings = s.pfRings)
    (hq : t.pfDirect = s.pfDirect) (hl : t.launches = s.launches) (ha : s.agenda ⊆ t.agenda) : s.Stays k t := by
  have hk : t.part k = s.part k := by rw [State.part, State.part, hp]
  refine ⟨⟨⟨by rw [hp], by rw [hk], by rw [hk], by rw [hk], ?_, fun _ => ?_, ha, .of_eq hl⟩, fun _ => hq⟩, fun d h => by rwa [hk]⟩
  · funext d
    rw [State.dieUp, State.dieUp, State.die, State.die, hd]
  · rw [State.pfRing, State.pfRing, hr]

/-- Moves that are put at the front of the agenda. -/
theorem State.Stays.events {k : Nat} (s : State) (is : List Instr) : s.Stays k (s.events is) :=
  .of_frame rfl rfl rfl rfl rfl (fun _ h => List.mem_append_right _ h)

theorem State.Stays.putBytes {k : Nat} (s : State) (key : Nat) (bs : List Byte) : s.Stays k (s.putBytes key bs) :=
  .of_frame rfl rfl rfl rfl rfl (fun _ h => h)

theorem State.Stays.wgs {k : Nat} (s : State) (wgs : List (Nat × Wg)) : s.Stays k { s with wgs } :=
  .of_frame rfl rfl rfl rfl rfl (fun _ h => h)

/-- A change of a partition that keeps what is running, how far a disabling has come, and its contexts. -/
theorem State.KeepsPf.modPart {k : Nat} (s : State) (p : Nat) {f : Part → Part}
    (h : ∀ x, (f x).cur = x.cur ∧ (f x).vfOff = x.vfOff ∧ (f x).ctxs = x.ctxs) : s.KeepsPf k (s.modPart p f) where
  count := length_modAt ..
  cur := State.part_modPart_kept Part.cur s p (fun x => (h x).1) k
  vfOff := State.part_modPart_kept Part.vfOff s p (fun x => (h x).2.1) k
  ctxs := State.part_modPart_kept Part.ctxs s p (fun x => (h x).2.2) k
  up := rfl
  ring _ := rfl
  agenda _ hm := hm
  launches := .of_eq rfl
  direct _ := rfl

/-- One that leaves no die with a control program that had none. -/
theorem State.Stays.modPart {k : Nat} (s : State) (p : Nat) {f : Part → Part}
    (h : ∀ x, (f x).cur = x.cur ∧ (f x).vfOff = x.vfOff ∧ (f x).ctxs = x.ctxs)
    (hc : ∀ x d, look x.ctls d = none → look (f x).ctls d = none) : s.Stays k (s.modPart p f) where
  toKeepsPf := .modPart s p h
  ctls d hd := by
    rw [State.part_modPart]
    split
    · next hj =>
      rw [hj.1] at hd
      exact hc _ d hd
    · exact hd

/-- One step after another. -/
theorem State.Stays.foldl {k : Nat} {α : Type} {f : State → α → State} (h : ∀ s a, State.Stays k s (f s a)) (l : List α) (s : State) :
    s.Stays k (l.foldl f s) := by
  induction l generalizing s with
  | nil => exact .refl k s
  | cons a l ih => exact (h s a).trans (ih _)

/-! ### Completion entries (R364, R375) -/

theorem State.Stays.flushQueue {k : Nat} (part q n : Nat) (s : State) : s.Stays k (State.flushQueue part q n s) := by
  induction n generalizing s with
  | zero => exact .refl k s
  | succ n ih =>
    rw [State.flushQueue]
    split
    · split
      · exact (State.Stays.modPart s part (by intro x; exact ⟨rfl, rfl, rfl⟩) (by intro x d h; exact h)).trans (ih _)
      · split
        · exact .refl k s
        · refine State.Stays.trans ?_ (ih _)
          exact ((State.Stays.putBytes s _ _).trans (State.Stays.modPart _ part (by intro x; exact ⟨rfl, rfl, rfl⟩) (by intro x d h; exact h))).trans
            (State.Stays.modPart _ part (by intro x; exact ⟨rfl, rfl, rfl⟩) (by intro x d h; exact h))
    · exact .refl k s

/-- An entry is written for PF ring 16, where that has room. -/
theorem State.Stays.pfWritten {k : Nat} (s : State) (hf : (s.pfRing 16).full ≠ true) (key : Nat) (bs : List Byte) :
    s.Stays k ((s.putBytes key bs).modPf 16 Ring.produced) :=
  ⟨⟨⟨rfl, rfl, rfl, rfl, rfl, fun h => absurd h hf, fun _ h => h, .of_eq rfl⟩, fun h => absurd h hf⟩, fun _ h => h⟩

/-- The direct entries move up, where the ring has room. -/
theorem State.Stays.pfMoved {k : Nat} (s : State) (hf : (s.pfRing 16).full ≠ true) (pfDirect : List (List Byte)) :
    s.Stays k { s with pfDirect } :=
  ⟨⟨⟨rfl, rfl, rfl, rfl, rfl, fun _ => rfl, fun _ h => h, .of_eq rfl⟩, fun h => absurd h hf⟩, fun _ h => h⟩

/-- The place of the next command of the PF is passed. -/
theorem State.Stays.pfPassed {k : Nat} (s : State) (pfOut : Word) (pfOwed : List OwedEntry) : s.Stays k { s with pfOut, pfOwed } :=
  .of_frame rfl rfl rfl rfl rfl (fun _ h => h)

theorem State.Stays.flushPf {k : Nat} (n : Nat) (s : State) : s.Stays k (State.flushPf n s) := by
  induction n generalizing s with
  | zero => exact .refl k s
  | succ n ih =>
    rw [State.flushPf]
    split
    · exact (State.Stays.pfPassed s _ _).trans (ih _)
    · split
      · exact .refl k s
      · next hf =>
        split
        · refine State.Stays.trans ?_ (ih _)
          exact (State.Stays.pfMoved s hf _).trans (.pfWritten _ (by exact hf) _ _)
        · split
          · refine State.Stays.trans ?_ (ih _)
            exact (State.Stays.pfPassed s _ _).trans (.pfWritten _ (by exact hf) _ _)
          · exact .refl k s

theorem State.Stays.owe {k : Nat} (s : State) (part : Nat) (o : OwedEntry) : s.Stays k (s.owe part o) := by
  rw [State.owe]
  split
  · exact (State.Stays.pfPassed s _ _).trans (.flushPf _ _)
  · exact (State.Stays.modPart s part (by intro x; exact ⟨rfl, rfl, rfl⟩) (by intro x d h; exact h)).trans (.flushQueue _ _ _ _)

/-! ### The end of a launch's run and the kill of a tether (R316, R363) -/

theorem State.Stays.endRun {k : Nat} (s : State) (key : Nat) : s.Stays k (s.endRun key) :=
  State.Stays.trans (t := s.modRun key (fun r => { r with closed := true, status := if r.status = 0 then 5 else r.status }))
    (.of_frame rfl rfl rfl rfl rfl (fun _ h => h)) (.events _ _)

theorem State.Stays.reissue {k : Nat} (s : State) (key tether : Nat) (mine : FlightRef → Bool) : s.Stays k (s.reissue key tether mine) :=
  .of_frame rfl rfl rfl rfl rfl (fun _ h => h)

theorem State.Stays.closeNp {k : Nat} (s : State) (r : FlightRef) (f : Flight) : s.Stays k (s.closeNp r f) := by
  have hm : ∀ x, s.Stays k (s.modPart (s.partOf r) (fun p => { p with debt := p.debt + x })) := fun x =>
    .modPart s _ (by intro x; exact ⟨rfl, rfl, rfl⟩) (by intro x d h; exact h)
  simp only [State.closeNp]
  split
  · exact .refl k s
  · split
    · exact (hm _).trans (.events _ _)
    · exact hm _

theorem State.Stays.closeSections {k : Nat} (s : State) (w : Nat) : s.Stays k (s.closeSections w) := by
  rw [State.closeSections]
  split
  · refine State.Stays.trans (.foldl (fun s j => ?_) _ _) (.wgs _ _)
    split
    · exact .closeNp _ _ _
    · exact .refl k s
  · exact .refl k s

theorem State.Stays.freeMxe {k : Nat} (s : State) (w : Nat) : s.Stays k (s.freeMxe w) := by
  rw [State.freeMxe]
  split
  · exact .refl k s
  · exact .of_frame rfl rfl rfl rfl rfl (fun _ h => h)

theorem State.Stays.modFlight {k : Nat} (s : State) (r : FlightRef) (f : Flight → Flight) : s.Stays k (s.modFlight r f) := by
  cases r with
  | wg w fl => exact .wgs s _
  | ctl die part =>
    refine .modPart s part (by intro x; exact ⟨rfl, rfl, rfl⟩) (fun x d h => ?_)
    by_cases hd : d = die
    · rw [hd] at h ⊢
      exact (look_alter_same _ _ _).trans (congrArg _ h)
    · exact (look_alter_ne _ _ hd).trans h

theorem State.Stays.passSlot {k : Nat} {s t : State} {r : FlightRef} {n : Dword} (h : s.passSlot r n = some t) : s.Stays k t := by
  rw [State.passSlot] at h
  split at h
  · cases h
  · split at h
    · cases h
      exact .of_frame rfl rfl rfl rfl rfl (fun _ h => h)
    · cases h

theorem State.Stays.passAll {k : Nat} (r : FlightRef) (n : Dword) (m : Nat) (s : State) : s.Stays k (State.passAll r n m s) := by
  induction m generalizing s with
  | zero => exact .refl k s
  | succ m ih =>
    rw [State.passAll]
    split
    · next h => exact (State.Stays.passSlot h).trans (ih _)
    · exact .refl k s

theorem State.Stays.lessCopies {k : Nat} (s : State) (r : FlightRef) : s.Stays k (s.lessCopies r) := .modFlight _ _ _

theorem State.Stays.modCore {k : Nat} (s : State) (c : Nat) (f : Core → Core) : s.Stays k (s.modCore c f) :=
  .of_frame rfl rfl rfl rfl rfl (fun _ h => h)

/-- A PF ring other than 16 moves. -/
theorem State.Stays.modPf {k : Nat} (s : State) {i : Nat} (hi : i ≠ 16) (f : Ring → Ring) : s.Stays k (s.modPf i f) :=
  ⟨⟨⟨rfl, rfl, rfl, rfl, rfl, fun _ => congrArg (·.getD Ring.off) (look_put_ne _ _ hi.symm), fun _ h => h, .of_eq rfl⟩, fun _ => rfl⟩,
    fun _ h => h⟩

/-- A die's record changes that keeps its status. -/
theorem State.Stays.modDie {k : Nat} (s : State) (d : Nat) {f : Die → Die} (h : ∀ x, (f x).st = x.st) : s.Stays k (s.modDie d f) := by
  refine ⟨⟨⟨rfl, rfl, rfl, rfl, ?_, fun _ => rfl, fun _ h => h, .of_eq rfl⟩, fun _ => rfl⟩, fun _ h => h⟩
  funext e
  have hst : ((s.modDie d f).die e).st = (s.die e).st := by
    rw [State.die, State.die, State.modDie_dies, List.getD_eq_getElem?_getD, List.getD_eq_getElem?_getD, getElem?_modAt]
    split
    · next he =>
      rw [he]
      cases s.dies[d]? with
      | none => rfl
      | some x => exact h x
    · rfl
  rw [State.dieUp, State.dieUp, hst]

theorem State.Stays.writeEvent {k : Nat} (s : State) (d : Nat) (owner : Option FlightRef) (bs : List Byte) :
    s.Stays k (s.writeEvent d owner bs) := by
  have h := (State.Stays.putBytes (k := k) s ((s.pfRing (48 + d)).entryAt (s.pfRing (48 + d)).prod 32) bs).trans
    (.modPf _ (i := 48 + d) (by omega) Ring.produced)
  cases owner with
  | none => exact h
  | some r => exact h.trans (.lessCopies _ r)

theorem State.Stays.postEvent {k : Nat} (s : State) (d : Nat) (owner : Option FlightRef) (bs : List Byte) :
    s.Stays k (s.postEvent d owner bs) := by
  rw [State.postEvent]
  split
  · exact .modDie s d (by intro x; rfl)
  · exact .writeEvent s d owner bs

theorem State.Stays.endCopy {k : Nat} (s : State) (core n : Nat) (c : Copy) (status nbytes flags count : Nat) :
    s.Stays k (s.endCopy core n c status nbytes flags count) := (State.Stays.modCore s core _).trans (.postEvent _ _ _ _)

theorem State.Stays.finishCopy {k : Nat} (s : State) (core n : Nat) (c : Copy) : s.Stays k (s.finishCopy core n c) := .endCopy s core n c _ _ _ _

theorem State.Stays.closeCopy {k : Nat} (s : State) (core n : Nat) (c : Copy) : s.Stays k (s.closeCopy core n c) := by
  refine State.Stays.trans ?_ (.finishCopy _ _ _ _)
  split
  · split
    · exact .refl k s
    · exact .passAll _ _ _ _
  · exact .refl k s

theorem State.Stays.failSlot {k : Nat} (s : State) (core : Nat) (c : Copy) : s.Stays k (s.failSlot core c) := by
  rw [State.failSlot]
  split
  · exact .refl k s
  · refine State.Stays.trans ?_ (.wgs _ _)
    split
    · exact .modCore s core _
    · split
      · exact .of_frame rfl rfl rfl rfl rfl (fun _ h => h)
      · exact .refl k s

theorem State.Stays.stopCopy {k : Nat} (s : State) (core n : Nat) (c : Copy) (status : Nat) : s.Stays k (s.stopCopy core n c status) := by
  refine State.Stays.trans ?_ (.endCopy _ _ _ _ _ _ _ _)
  split
  · exact .refl k s
  · exact .failSlot s core c

theorem State.Stays.cancelCopies {k : Nat} (s : State) (core : Nat) (mine : FlightRef → Bool) : s.Stays k (s.cancelCopies core mine) := by
  refine .foldl (fun s p => ?_) _ s
  split
  · exact .refl k s
  · split
    · split
      · exact .refl k s
      · exact .closeCopy _ _ _ _
    · exact .stopCopy _ _ _ _ _

end Sys2Proof.Machine
end

section
/-! SUPPORT. Launches cancelled by the host, control programs ended, tethers killed: the steps by which a VF ends (R150, R169, R342, R350). -/

namespace Sys2Proof.Machine

open Sys2Proof.Claim

/-- Of a fold of steps that each relate two states, the step for one member of the list, between what comes before and after. -/
theorem foldl_step_of_mem {σ α : Type} {R : σ → σ → Prop} (refl : ∀ s, R s s) (trans : ∀ s t u, R s t → R t u → R s u) {f : σ → α → σ}
    (step : ∀ s a, R s (f s a)) {l : List α} {a : α} (h : a ∈ l) (s : σ) : ∃ u, R s u ∧ R (f u a) (l.foldl f s) := by
  have all : ∀ (l : List α) s, R s (l.foldl f s) := fun l => by
    induction l with
    | nil => exact refl
    | cons b l ih => exact fun s => trans _ _ _ (step s b) (ih _)
  induction l generalizing s with
  | nil => cases h
  | cons b l ih =>
    rcases List.mem_cons.mp h with rfl | h
    · exact ⟨s, refl s, all l _⟩
    · obtain ⟨u, hu, ht⟩ := ih h (f s b)
      exact ⟨u, trans _ _ _ (step s b) hu, ht⟩

/-! ### A launch that the host cancels (R150, R350) -/

/-- A launch that the host has cancelled. -/
def Launch.byHost (x : Launch) : Launch :=
  { x with
    ended := true
    cancelled := true
    again := []
    tethers := mapVals x.tethers (fun _ t => { t with norelaunch := true }) }

theorem Launch.to_byHost (l : Launch) : l.To l.byHost :=
  ⟨rfl, rfl, rfl, rfl, rfl, rfl, fun _ => rfl, fun _ => rfl, fun _ => rfl,
    Launch.To.of_tethers (f := fun _ t => { t with norelaunch := true }) (fun _ _ => ⟨fun h => h, fun h => h, Or.inl⟩)⟩

/-- Its completion entry, which goes to the PF. -/
def Launch.hostEntry (l : Launch) : OwedEntry :=
  { queue := l.queue % 16, seq := l.seq, lid := l.id, kind := 1, code := 0, reason := 0, origin := l.origin, part := l.part,
    state := stCancelledByHost, ctr := none }

def Launch.hostBytes (l : Launch) : List Byte := compBytes l.hostEntry 0 stCancelledByHost 0 true

/-- The launch is over and its entry is due at the PF, once its counter's entry is written. -/
def State.hostEnded (u : State) (key : Nat) (l : Launch) : State :=
  { (u.modLaunch key Launch.byHost).endRun key with pfDirect := u.pfDirect ++ [l.hostBytes] }

/-- Its own queue goes on without an entry. -/
def State.hostVoided (u : State) (l : Launch) : State := u.owe l.part (voidEntry { l.hostEntry with queue := l.queue })

/-- The counter of a launch that the host cancels. -/
def State.hostCounter (s : State) (l : Launch) : Ctr :=
  { s.ctr l.part l.ctx l.ctrl with state := stCancelledByHost, tdone := s.clk.toNat }

/-- The signal to the counter's PARENT, where it has one. -/
def State.hostSignal (t : State) (l : Launch) (parent : Nat) : State :=
  if parent = noCounter then t else t.events [.counterSignal l.part l.ctx parent stCancelledByHost (some l.ctrl) []]

/-- What becomes of the launch once its counter's entry is written. -/
def State.hostOver (u : State) (key : Nat) (l : Launch) (parent : Nat) : State := ((u.hostEnded key l).hostVoided l).hostSignal l parent

theorem State.hostCancel_eq {s : State} {key : Nat} {l : Launch} (h : look s.launches key = some l) :
    s.hostCancel key = (s.putCtr l.part l.ctx l.ctrl (s.hostCounter l)).hostOver key l (s.ctr l.part l.ctx l.ctrl).parent := by
  obtain ⟨u, hu⟩ : ∃ u, u = s.putCtr l.part l.ctx l.ctrl
    { s.ctr l.part l.ctx l.ctrl with state := stCancelledByHost, tdone := s.clk.toNat } := ⟨_, rfl⟩
  rw [State.hostCancel, h]
  dsimp only [State.hostCounter]
  rw [← hu]
  rfl

theorem State.Stays.putCtr {k : Nat} (s : State) (part ctx i : Nat) (c : Ctr) : s.Stays k (s.putCtr part ctx i c) := .putBytes s _ _

theorem State.Stays.hostSignal {k : Nat} (t : State) (l : Launch) (parent : Nat) : t.Stays k (t.hostSignal l parent) := by
  rw [State.hostSignal]
  split
  · exact .refl k t
  · exact .events t _

/-- Entries that become due for the PF, and nothing else. -/
theorem State.KeepsVf.pfDirect {k : Nat} (s : State) (pfDirect : List (List Byte)) :
    s.KeepsVf k { s with pfDirect } ∧ s.NoNewCtl k { s with pfDirect } :=
  ⟨⟨rfl, rfl, rfl, rfl, rfl, fun _ => rfl, fun _ h => h, .of_eq rfl⟩, fun _ h => h⟩

theorem State.Stays.modLaunch {k : Nat} (s : State) (key : Nat) {f : Launch → Launch} (h : ∀ l, Launch.To l (f l)) :
    s.Stays k (s.modLaunch key f) :=
  ⟨⟨⟨rfl, rfl, rfl, rfl, rfl, fun _ => rfl, fun _ h => h, .alter key h⟩, fun _ => rfl⟩, fun _ h => h⟩

theorem State.hostEnded_keeps {k : Nat} (u : State) (key : Nat) (l : Launch) :
    u.KeepsVf k (u.hostEnded key l) ∧ u.NoNewCtl k (u.hostEnded key l) := by
  have h1 := (State.Stays.modLaunch (k := k) u key Launch.to_byHost).trans (.endRun _ key)
  have h2 := State.KeepsVf.pfDirect (k := k) ((u.modLaunch key Launch.byHost).endRun key) (u.pfDirect ++ [l.hostBytes])
  exact ⟨h1.toKeepsVf.trans h2.1, fun d hd => h2.2 d (h1.ctls d hd)⟩

/-- What follows the launch's own end. -/
theorem State.Stays.hostOver {k : Nat} (u : State) (key : Nat) (l : Launch) (parent : Nat) :
    (u.hostEnded key l).Stays k (u.hostOver key l parent) := (State.Stays.owe _ _ _).trans (.hostSignal _ l parent)

theorem State.hostCancel_none {s : State} {key : Nat} (h : look s.launches key = none) : s.hostCancel key = s := by
  rw [State.hostCancel, h]

theorem State.hostCancel_keeps {k : Nat} (s : State) (key : Nat) :
    s.KeepsVf k (s.hostCancel key) ∧ s.NoNewCtl k (s.hostCancel key) := by
  cases h : look s.launches key with
  | none =>
    rw [State.hostCancel_none h]
    exact ⟨.refl k s, fun _ h => h⟩
  | some l =>
    rw [State.hostCancel_eq h]
    have h1 := State.Stays.putCtr (k := k) s l.part l.ctx l.ctrl (s.hostCounter l)
    have h2 := State.hostEnded_keeps (k := k) (s.putCtr l.part l.ctx l.ctrl (s.hostCounter l)) key l
    have h3 := State.Stays.hostOver (k := k) (s.putCtr l.part l.ctx l.ctrl (s.hostCounter l)) key l (s.ctr l.part l.ctx l.ctrl).parent
    exact ⟨(h1.toKeepsVf.trans h2.1).trans h3.toKeepsVf, fun d hd => h3.ctls d (h2.2 d (h1.ctls d hd))⟩

/-- The launch is over, and gives up the places it had to fill again. -/
theorem State.hostOver_launch {u : State} {key : Nat} {l : Launch} (h : look u.launches key = some l) (parent : Nat) :
    ∃ x, look (u.hostOver key l parent).launches key = some x ∧ x.ended = true ∧ x.cancelled = true ∧ x.again = [] := by
  have h1 : look (u.hostEnded key l).launches key = some l.byHost := (look_alter_same _ _ _).trans (by rw [h]; rfl)
  obtain ⟨x, hx, ht⟩ := (State.Stays.hostOver (k := 0) u key l parent).launches key _ h1
  exact ⟨x, hx, ht.ended rfl, ht.cancelled rfl, ht.again rfl⟩

theorem State.hostCancel_launch {s : State} {key : Nat} {l : Launch} (h : look s.launches key = some l) :
    ∃ x, look (s.hostCancel key).launches key = some x ∧ x.ended = true ∧ x.cancelled = true ∧ x.again = [] := by
  rw [State.hostCancel_eq h]
  exact State.hostOver_launch (by rw [State.putCtr_launches, h]) _

/-- The same entries are due for the PF. -/
def State.SameDirect (s t : State) : Prop := t.pfDirect = s.pfDirect

theorem State.SameDirect.trans {s t u : State} (h : s.SameDirect t) (h' : t.SameDirect u) : s.SameDirect u := Eq.trans h' h
theorem State.SameDirect.modPart (s : State) (p : Nat) (f : Part → Part) : s.SameDirect (s.modPart p f) := s.modPart_pfDirect p f
theorem State.SameDirect.putBytes (s : State) (key : Nat) (bs : List Byte) : s.SameDirect (s.putBytes key bs) := s.putBytes_pfDirect key bs

theorem State.SameDirect.flushQueue (part q n : Nat) (s : State) : s.SameDirect (State.flushQueue part q n s) := by
  induction n generalizing s with
  | zero => exact Eq.refl _
  | succ n ih =>
    rw [State.flushQueue]
    split
    · split
      · exact (State.SameDirect.modPart s _ _).trans (ih _)
      · split
        · exact Eq.refl _
        · refine State.SameDirect.trans ?_ (ih _)
          exact ((State.SameDirect.putBytes s _ _).trans (.modPart _ _ _)).trans (.modPart _ _ _)
    · exact Eq.refl _

theorem State.owe_direct {s : State} {part : Nat} {o : OwedEntry} (h : o.queue ≠ 16 ∨ (s.pfRing 16).full = true) :
    (s.owe part o).pfDirect = s.pfDirect := by
  by_cases hq : o.queue = 16
  · exact (State.Stays.owe (k := 0) s part o).direct (h.resolve_left (fun hn => hn hq))
  · rw [State.owe, if_neg hq]
    exact (State.SameDirect.modPart s _ _).trans (.flushQueue _ _ _ _)

theorem State.hostSignal_direct (t : State) (l : Launch) (parent : Nat) : (t.hostSignal l parent).pfDirect = t.pfDirect := by
  rw [State.hostSignal]
  split <;> rfl

theorem State.hostOver_direct {u : State} {key : Nat} {l : Launch} (hq : l.queue ≠ 16 ∨ (u.pfRing 16).full = true) (parent : Nat) :
    (u.hostOver key l parent).pfDirect = u.pfDirect ++ [l.hostBytes] := by
  rw [State.hostOver, State.hostSignal_direct, State.hostVoided, State.owe_direct]
  · rfl
  · exact hq

theorem State.hostCancel_direct {s : State} {key : Nat} {l : Launch} (h : look s.launches key = some l)
    (hq : l.queue ≠ 16 ∨ (s.pfRing 16).full = true) : (s.hostCancel key).pfDirect = s.pfDirect ++ [l.hostBytes] := by
  rw [State.hostCancel_eq h, State.hostOver_direct]
  · rw [State.putCtr, State.putNat_pfDirect]
  · rw [State.pfRing, State.putCtr, State.putNat_pfRings]
    exact hq

/-! ### The entry that goes to the PF (R375) -/

theorem toBytes_add (a b x : Nat) : toBytes (a + b) x = toBytes a x ++ toBytes b (x / 256 ^ a) := by
  induction a generalizing x with
  | zero => simp [toBytes]
  | succ a ih => rw [Nat.succ_add, toBytes, ih, toBytes, List.cons_append, Nat.pow_succ', Nat.div_div_eq_div_mul]

/-- A field of a number's bytes. -/
theorem fieldAt_number (off n rest x : Nat) : fieldAt (toBytes (off + (n + rest)) x) off n = x / 256 ^ off % 256 ^ n := by
  rw [toBytes_add, toBytes_add]
  exact fieldAt_toBytes _ _ _ _ _ (toBytes_length _ _)

theorem Launch.hostBytes_fields (l : Launch) : l.hostBytes.length = 32 ∧ (l.origin < 2 → fieldAt l.hostBytes 20 4 = l.id.toNat ∧
    fieldAt l.hostBytes 16 4 = l.seq.toNat ∧ fieldAt l.hostBytes 15 1 = 1 ∧ fieldAt l.hostBytes 14 1 = 0 ∧
    fieldAt l.hostBytes 12 1 = 16 * 6 + l.queue % 16) := by
  refine ⟨toBytes_length _ _, fun ho => ?_⟩
  have hid := l.id.isLt
  have hseq := l.seq.isLt
  have hb : l.hostBytes = toBytes 32 (0 * 2 ^ 192 + l.id.toNat * 2 ^ 160 + l.seq.toNat * 2 ^ 128 + 1 * 2 ^ 120 + 0 * 2 ^ 112 + 0 * 2 ^ 104 +
    6 * 2 ^ 100 + l.queue % 16 * 2 ^ 96 + (l.part % 16 * 2 ^ 92 + 2 ^ 91) + l.origin * 2 ^ 90 + 0) := rfl
  rw [hb]
  refine ⟨(fieldAt_number 20 4 8 _).trans ?_, (fieldAt_number 16 4 12 _).trans ?_, (fieldAt_number 15 1 16 _).trans ?_,
    (fieldAt_number 14 1 17 _).trans ?_, (fieldAt_number 12 1 19 _).trans ?_⟩ <;> omega

/-! ### Its counter and its PARENT (R149, R150) -/

/-- Places in a queue's order without an entry write nothing. -/
theorem State.flushQueue_void {part : Nat} (q n : Nat) {s : State} (h : ∀ o ∈ (s.part part).owed, o.kind = 0) :
    (State.flushQueue part q n s).mem = s.mem := by
  induction n generalizing s with
  | zero => rfl
  | succ n ih =>
    rw [State.flushQueue]
    split
    · next o ho =>
      rw [if_pos (h o (List.mem_of_find?_eq_some ho)), ih, State.modPart_mem]
      intro x hx
      rw [State.part_modPart] at hx
      split at hx
      · exact h x (List.mem_of_mem_filter hx)
      · exact h x hx
    · rfl

theorem State.owe_void {u : State} {part : Nat} {o : OwedEntry} (hq : o.queue ≠ 16) (hk : o.kind = 0) (h : (u.part part).owed = []) :
    (u.owe part o).mem = u.mem := by
  rw [State.owe, if_neg hq, State.flushQueue_void, State.modPart_mem]
  intro x hx
  rw [State.part_modPart] at hx
  split at hx
  · rw [h, List.nil_append, List.mem_singleton] at hx
    rw [hx, hk]
  · rw [h] at hx
    cases hx

theorem State.hostOver_ctr {u : State} (key : Nat) {l : Launch} (parent : Nat) (hq : l.queue ≠ 16) (h : (u.part l.part).owed = []) :
    (u.hostOver key l parent).ctr l.part l.ctx l.ctrl = u.ctr l.part l.ctx l.ctrl := by
  have hm : (u.hostOver key l parent).mem = u.mem := by
    have hs : ∀ t : State, (t.hostSignal l parent).mem = t.mem := fun t => by
      rw [State.hostSignal]
      split <;> rfl
    rw [State.hostOver, hs, State.hostVoided, State.owe_void (by exact hq) (by rfl) (by exact h)]
    rfl
  refine State.ctr_congr hm ?_ _
  have hc := (State.hostEnded_keeps (k := l.part) u key l).1.trans (State.Stays.hostOver u key l parent).toKeepsVf
  rw [State.transOf, State.transOf, Part.ctx, Part.ctx, hc.ctxs]

theorem State.hostCounter_fits (s : State) (l : Launch) : (s.hostCounter l).Fits :=
  { s.ctr_fits l.part l.ctx l.ctrl with state := by show 6 < 16; decide, tdone := s.clk.isLt }

theorem State.hostCancel_ctr {s : State} {key : Nat} {l : Launch} (h : look s.launches key = some l) (hq : l.queue ≠ 16)
    (ho : (s.part l.part).owed = []) : (s.hostCancel key).ctr l.part l.ctx l.ctrl = s.hostCounter l := by
  have hp : ((s.putCtr l.part l.ctx l.ctrl (s.hostCounter l)).part l.part).owed = [] := by
    rw [State.part, State.putCtr_parts]
    exact ho
  rw [State.hostCancel_eq h, State.hostOver_ctr key _ hq hp, State.ctr_putCtr _ _ _ _ (s.hostCounter_fits l)]

theorem State.hostCancel_signals {s : State} {key : Nat} {l : Launch} (h : look s.launches key = some l)
    (hp : (s.ctr l.part l.ctx l.ctrl).parent ≠ noCounter) :
    Move.event (.counterSignal l.part l.ctx (s.ctr l.part l.ctx l.ctrl).parent 6 (some l.ctrl) []) ∈ (s.hostCancel key).agenda := by
  rw [State.hostCancel_eq h, State.hostOver, State.hostSignal, if_neg hp]
  exact List.mem_cons_self

/-- A launch of one of a partition's own queues that the host cancels (R150, R375). -/
theorem hostCancel_rule (s : State) (k key : Nat) (l : Launch) (h : look s.launches key = some l) (hk : l.part = k) (hq : l.queue < 16) :
    let c := s.ctr l.part l.ctx l.ctrl
    let t := s.hostCancel key
    (∃ x, look t.launches key = some x ∧ x.ended = true ∧ x.cancelled = true ∧ x.again = []) ∧
    (∃ bs : List Byte, t.pfDirect = s.pfDirect ++ [bs] ∧ bs.length = 32 ∧ (l.origin < 2 → fieldAt bs 20 4 = l.id.toNat)) ∧
    ((s.part k).owed = [] → (t.ctr l.part l.ctx l.ctrl).state = 6 ∧ (t.ctr l.part l.ctx l.ctrl).tdone = s.clk.toNat) ∧
    (c.parent ≠ 0xFFF → Move.event (.counterSignal l.part l.ctx c.parent 6 (some l.ctrl) []) ∈ t.agenda) := by
  have hq' : l.queue ≠ 16 := Nat.ne_of_lt hq
  obtain ⟨hlen, hfields⟩ := l.hostBytes_fields
  refine ⟨State.hostCancel_launch h, ⟨l.hostBytes, State.hostCancel_direct h (Or.inl hq'), hlen, fun ho => (hfields ho).1⟩, fun ho => ?_,
    State.hostCancel_signals h⟩
  rw [State.hostCancel_ctr h hq' (by rw [hk]; exact ho)]
  exact ⟨rfl, rfl⟩

end Sys2Proof.Machine
end

section
/-! SUPPORT. Control programs that end, tethers that are killed and the context that is forced out as a VF ends (R169, R342, R350, R363). -/

namespace Sys2Proof.Machine

open Sys2Proof.Claim

/-! ### The end of control programs (R169) -/

/-- A control program leaves its die. -/
def State.ctlGone (s : State) (d k : Nat) : State :=
  { s.modPart k (fun p => { p with ctls := del p.ctls d }) with cur := if s.cur = some (FlightRef.ctl d k) then none else s.cur }

/-- The entry of the command that started a control program. -/
def Ctl.endEntry (c : Ctl) (k : Nat) : OwedEntry :=
  { queue := 16, seq := c.cmdSeq, lid := 0, kind := 2, code := 0, reason := 0, origin := 0, part := k, state := 0, ctr := none }

theorem State.endControl_none {s : State} {d k : Nat} (h : look (s.part k).ctls d = none) : s.endControl d k = s := by
  rw [State.endControl, h]

theorem State.endControl_some {s : State} {d k : Nat} {c : Ctl} (h : look (s.part k).ctls d = some c) :
    s.endControl d k = ((s.ctlGone d k).passCtl k).owe k (c.endEntry k) := by
  rw [State.endControl, h]
  rfl

/-- A control program goes from one die to another. -/
def State.ctlMoved (s : State) (k d e : Nat) (c : Ctl) : State :=
  { s.modPart k (fun p => { p with ctls := put (del p.ctls d) e c }) with
    cur := if s.cur = some (FlightRef.ctl d k) then some (.ctl e k) else s.cur }

/-- A control program passes, if at all, from a die that is not admitted to one that is. -/
theorem State.passCtl_cases (s : State) (k : Nat) : s.passCtl k = s ∨
    ∃ d e c, s.passCtl k = s.ctlMoved k d e c ∧ (d, c) ∈ (s.part k).ctls ∧ s.dieUp d = false ∧ s.dieUp e = true ∧ e < 4 := by
  rw [State.passCtl]
  split
  · next d c e hd he =>
    split
    · exact Or.inl rfl
    · have h1 := List.find?_some hd
      have h2 := List.find?_some he
      exact Or.inr ⟨d, e, c, rfl, List.mem_of_find?_eq_some hd, by simpa using h1, h2, List.mem_range.mp (List.mem_of_find?_eq_some he)⟩
  · exact Or.inl rfl

theorem State.KeepsPf.withCur {k : Nat} (s : State) (cur : Option FlightRef) : s.KeepsPf k { s with cur } :=
  ⟨⟨rfl, rfl, rfl, rfl, rfl, fun _ => rfl, fun _ h => h, .of_eq rfl⟩, fun _ => rfl⟩

theorem State.KeepsPf.ctlGone {k : Nat} (s : State) (d p : Nat) : s.KeepsPf k (s.ctlGone d p) :=
  (State.KeepsPf.modPart s p (by intro x; exact ⟨rfl, rfl, rfl⟩)).trans (.withCur _ _)

theorem State.KeepsPf.passCtl {k : Nat} (s : State) (p : Nat) : s.KeepsPf k (s.passCtl p) := by
  rcases s.passCtl_cases p with h | ⟨d, e, c, h, _⟩
  · rw [h]
    exact .refl k s
  · rw [h]
    exact (State.KeepsPf.modPart s p (by intro x; exact ⟨rfl, rfl, rfl⟩)).trans (.withCur _ _)

theorem State.KeepsPf.endControl {k : Nat} (s : State) (d p : Nat) : s.KeepsPf k (s.endControl d p) := by
  cases h : look (s.part p).ctls d with
  | none =>
    rw [State.endControl_none h]
    exact .refl k s
  | some c =>
    rw [State.endControl_some h]
    exact ((State.KeepsPf.ctlGone s d p).trans (.passCtl _ p)).trans (State.Stays.owe _ _ _).toKeepsPf

theorem State.ctlGone_ctls {s : State} {k : Nat} (hk : k < s.parts.length) (d : Nat) :
    ((s.ctlGone d k).part k).ctls = del (s.part k).ctls d := by
  have h : (s.ctlGone d k).part k = { s.part k with ctls := del (s.part k).ctls d } :=
    (State.part_modPart s k _ k).trans (if_pos ⟨rfl, hk⟩)
  rw [h]

theorem State.ctlGone_noNew (s : State) (d k : Nat) : s.NoNewCtl k (s.ctlGone d k) := fun e he => by
  by_cases hk : k < s.parts.length
  · rw [State.ctlGone_ctls hk]
    by_cases h : e = d
    · rw [h, look_del_same]
    · rw [look_del_ne _ h, he]
  · have h : (s.ctlGone d k).part k = s.part k := (State.part_modPart s k _ k).trans (if_neg (fun h => hk h.2))
    rw [h, he]

/-- A die that is not admitted, or is none of the four, comes by no control program. -/
theorem State.passCtl_closed {s : State} {k d : Nat} (hd : s.dieUp d = false ∨ 4 ≤ d) (h : look (s.part k).ctls d = none) :
    look ((s.passCtl k).part k).ctls d = none := by
  rcases s.passCtl_cases k with h1 | ⟨a, e, c, h1, _, _, hup, he⟩
  · rw [h1, h]
  · have hne : d ≠ e := by
      rintro rfl
      rcases hd with hd | hd
      · rw [hd] at hup
        cases hup
      · omega
    rw [h1]
    by_cases hk : k < s.parts.length
    · have hp : (s.ctlMoved k a e c).part k = { s.part k with ctls := put (del (s.part k).ctls a) e c } :=
        (State.part_modPart s k _ k).trans (if_pos ⟨rfl, hk⟩)
      rw [hp]
      refine (look_put_ne _ _ hne).trans ?_
      by_cases hda : d = a
      · rw [hda, look_del_same]
      · rw [look_del_ne _ hda, h]
    · have hp : (s.ctlMoved k a e c).part k = s.part k := (State.part_modPart s k _ k).trans (if_neg (fun h => hk h.2))
      rw [hp, h]

theorem look_ne_none_of_mem {α : Type} {m : List (Nat × α)} {k : Nat} {x : α} (h : (k, x) ∈ m) : look m k ≠ none := by
  induction m with
  | nil => cases h
  | cons p m ih =>
    obtain ⟨j, v⟩ := p
    rw [look_cons]
    split
    · exact Option.some_ne_none v
    · next hne =>
      rcases List.mem_cons.mp h with h | h
      · cases h
        exact absurd rfl hne
      · exact ih h

theorem mem_of_look {α : Type} {m : List (Nat × α)} {k : Nat} {x : α} (h : look m k = some x) : (k, x) ∈ m := by
  induction m with
  | nil => cases h
  | cons p m ih =>
    obtain ⟨j, v⟩ := p
    rw [look_cons] at h
    split at h
    · next hj =>
      cases h
      rw [hj]
      exact List.mem_cons_self
    · exact List.mem_cons_of_mem _ (ih h)

/-- With every control program on an admitted die, none passes. -/
theorem State.passCtl_up {s : State} {k : Nat} (h : ∀ d, s.dieUp d = false → look (s.part k).ctls d = none) : s.passCtl k = s := by
  rcases s.passCtl_cases k with h1 | ⟨d, e, c, _, hm, hd, _⟩
  · exact h1
  · exact absurd (h d hd) (look_ne_none_of_mem hm)

theorem State.endControl_closed {s : State} {k d e : Nat} (hd : s.dieUp d = false ∨ 4 ≤ d) (h : look (s.part k).ctls d = none) :
    look ((s.endControl e k).part k).ctls d = none := by
  cases hc : look (s.part k).ctls e with
  | none => rwa [State.endControl_none hc]
  | some c =>
    rw [State.endControl_some hc]
    exact (State.Stays.owe _ _ _).ctls d (State.passCtl_closed hd (s.ctlGone_noNew e k d h))

/-- The control program of a die that is not admitted ends for good. -/
theorem State.endControl_down {s : State} {k d : Nat} (hk : k < s.parts.length) (hd : s.dieUp d = false) :
    look ((s.endControl d k).part k).ctls d = none := by
  cases hc : look (s.part k).ctls d with
  | none => rwa [State.endControl_none hc]
  | some c =>
    rw [State.endControl_some hc]
    refine (State.Stays.owe _ _ _).ctls d (State.passCtl_closed (Or.inl hd) ?_)
    rw [State.ctlGone_ctls hk, look_del_same]

/-- Where every control program is on an admitted die, one ends and no die comes by another. -/
theorem State.endControl_up {s : State} {k d : Nat} (hk : k < s.parts.length)
    (h : ∀ d, s.dieUp d = false → look (s.part k).ctls d = none) :
    s.NoNewCtl k (s.endControl d k) ∧ look ((s.endControl d k).part k).ctls d = none := by
  cases hc : look (s.part k).ctls d with
  | none =>
    rw [State.endControl_none hc]
    exact ⟨fun _ h => h, hc⟩
  | some c =>
    have hp : (s.ctlGone d k).passCtl k = s.ctlGone d k := State.passCtl_up (fun e he => s.ctlGone_noNew d k e (h e he))
    rw [State.endControl_some hc, hp]
    have ho := (State.Stays.owe (k := k) (s.ctlGone d k) k (c.endEntry k)).ctls
    exact ⟨fun e he => ho e (s.ctlGone_noNew d k e he), ho d (by rw [State.ctlGone_ctls hk, look_del_same])⟩

/-- The control programs of dies that are not admitted end. -/
theorem State.endControls_down {k : Nat} (ds : List Nat) {s : State} (hk : k < s.parts.length) (hd : ∀ d ∈ ds, s.dieUp d = false) :
    let t := ds.foldl (fun s d => s.endControl d k) s
    s.KeepsPf k t ∧ (∀ d, s.dieUp d = false ∨ 4 ≤ d → look (s.part k).ctls d = none → look (t.part k).ctls d = none) ∧
      ∀ d ∈ ds, look (t.part k).ctls d = none := by
  induction ds generalizing s with
  | nil => exact ⟨.refl k s, fun _ _ h => h, fun d h => by cases h⟩
  | cons a ds ih =>
    have h1 := State.KeepsPf.endControl (k := k) s a k
    have hup : ∀ d, (s.endControl a k).dieUp d = s.dieUp d := fun d => congrFun h1.up d
    obtain ⟨h2, h3, h4⟩ := ih (s := s.endControl a k) (by rwa [h1.count]) (fun d h => (hup d).trans (hd d (List.mem_cons_of_mem a h)))
    refine ⟨h1.trans h2, fun d hc h => h3 d (by rwa [hup]) (State.endControl_closed hc h), fun d h => ?_⟩
    rcases List.mem_cons.mp h with rfl | h
    · have hda := hd d List.mem_cons_self
      exact h3 d (Or.inl ((hup d).trans hda)) (State.endControl_down hk hda)
    · exact h4 d h

/-- Then those of the admitted ones. -/
theorem State.endControls_up {k : Nat} (ds : List Nat) {s : State} (hk : k < s.parts.length)
    (h : ∀ d, s.dieUp d = false → look (s.part k).ctls d = none) :
    let t := ds.foldl (fun s d => s.endControl d k) s
    s.KeepsPf k t ∧ s.NoNewCtl k t ∧ ∀ d ∈ ds, look (t.part k).ctls d = none := by
  induction ds generalizing s with
  | nil => exact ⟨.refl k s, fun _ h => h, fun d h => by cases h⟩
  | cons a ds ih =>
    have h1 := State.KeepsPf.endControl (k := k) s a k
    obtain ⟨hn, ha⟩ := State.endControl_up (d := a) hk h
    obtain ⟨h2, h3, h4⟩ := ih (s := s.endControl a k) (by rwa [h1.count])
      (fun d hd => hn d (h d ((congrFun h1.up d).symm.trans hd)))
    refine ⟨h1.trans h2, fun d hd => h3 d (hn d hd), fun d hd => ?_⟩
    rcases List.mem_cons.mp hd with rfl | hd
    · exact h3 d ha
    · exact h4 d hd

/-- The dies whose control programs end, in their order. -/
def State.ctlDies (s : State) : List Nat := (List.range 4).filter (fun d => !s.dieUp d) ++ List.range 4

theorem State.KeepsPf.endControls {k : Nat} (p : Nat) (ds : List Nat) (s : State) :
    s.KeepsPf k (ds.foldl (fun s d => s.endControl d p) s) := by
  induction ds generalizing s with
  | nil => exact .refl k s
  | cons a ds ih => exact (State.KeepsPf.endControl s a p).trans (ih _)

/-- R350: the control programs of a partition end. -/
theorem State.endControls_all {k : Nat} {s : State} (hk : k < s.parts.length) {up : Nat → Bool} (hup : s.dieUp = up)
    (h4 : ∀ d, 4 ≤ d → look (s.part k).ctls d = none) (d : Nat) :
    look ((((List.range 4).filter (fun d => !up d) ++ List.range 4).foldl (fun s d => s.endControl d k) s).part k).ctls d = none := by
  have hdown : ∀ d ∈ (List.range 4).filter (fun d => !up d), s.dieUp d = false := fun d hd => by
    rw [hup]
    simpa using List.of_mem_filter hd
  obtain ⟨h1, h2, h3⟩ := State.endControls_down _ hk hdown
  rw [List.foldl_append]
  generalize ((List.range 4).filter (fun d => !up d)).foldl (fun s d => s.endControl d k) s = u at h1 h2 h3 ⊢
  have hhigh : ∀ d, 4 ≤ d → look (u.part k).ctls d = none := fun d hd => h2 d (Or.inr hd) (h4 d hd)
  have hlow : ∀ d, u.dieUp d = false → look (u.part k).ctls d = none := fun d hd => by
    by_cases h : d < 4
    · rw [h1.up, hup] at hd
      exact h3 d (List.mem_filter.mpr ⟨List.mem_range.mpr h, by rw [hd]; rfl⟩)
    · exact hhigh d (by omega)
  obtain ⟨_, h5, h6⟩ := State.endControls_up (List.range 4) (by rwa [h1.count]) hlow
  by_cases h : d < 4
  · exact h6 d (List.mem_range.mpr h)
  · exact h5 d (hhigh d (by omega))

/-! ### The kill of a tether (R363) -/

/-- A tether whose kill begins: its staging is discarded. -/
def Tether.killed (y : Tether) (reason : Nat) (fr : FlightRef) (out : Nat) : Tether := { y with stage := [], dying := some (reason, (fr, out)) }

theorem Tether.to_killed (y : Tether) (reason : Nat) (fr : FlightRef) (out : Nat) : y.To (y.killed reason fr out) :=
  ⟨fun _ => rfl, fun _ => rfl, fun _ => Or.inr rfl⟩

theorem Launch.to_modTether (l : Launch) (t : Nat) {f : Tether → Tether} (h : ∀ y, Tether.To y (f y)) :
    l.To { l with tethers := alter l.tethers t f } where
  part := rfl
  ctx := rfl
  queue := rfl
  id := rfl
  seq := rfl
  origin := rfl
  ended h := h
  cancelled h := h
  again h := h
  tethers n y hy := by
    by_cases hn : n = t
    · rw [hn] at hy ⊢
      exact ⟨f y, by rw [look_alter_same, hy]; rfl, h y⟩
    · exact ⟨y, by rw [look_alter_ne _ _ hn, hy], .refl y⟩

theorem Launch.to_kills (l : Launch) (kills : List (Nat × Nat)) : l.To { l with kills } :=
  ⟨rfl, rfl, rfl, rfl, rfl, rfl, fun h => h, fun h => h, fun h => h, fun _ y hy => ⟨y, hy, .refl y⟩⟩

/-- A workgroup of a killed tether stops at once. -/
def State.killWg (s : State) (w : Nat) : State :=
  match look s.wgs w with
  | some g => (((s.closeSections w).cancelCopies g.core (fun r => ofWg r w)).freeMxe w).modWg w (fun g =>
      { g with st := .killed, flights := g.flights.map (fun f => { (if f.stopped || f.ended then f else f.stopHere) with slot := none }) })
  | none => s

theorem State.Stays.killWg {k : Nat} (s : State) (w : Nat) : s.Stays k (s.killWg w) := by
  rw [State.killWg]
  split
  · exact (((State.Stays.closeSections s w).trans (.cancelCopies _ _ _)).trans (.freeMxe _ w)).trans (.wgs _ _)
  · exact .refl k s

/-- The kill is counted, and noted in its tether. -/
def State.killNoted (s : State) (l t reason : Nat) (fr : FlightRef) (out : Nat) : State :=
  (s.modLaunch l (fun x => { x with kills := put x.kills t (x.killsOf t + 1) })).modTether l t (fun y => y.killed reason fr out)

/-- The tether's positions go back, and its launch's run ends, where the kill ends the launch. -/
def State.killEnding (s : State) (l t reason : Nat) (y : Tether) : State :=
  let mine := fun (r : FlightRef) => y.wgs.any (ofWg r)
  let s3 := s.reissue l t mine
  let s4 := if (match look s3.launches l with | some x => x.killOutcome t y != 0 | none => false) then s3.endRun l else s3
  { s4 with cur := match s4.cur with
      | some r => if mine r then none else some r
      | none => none }.events [.tetherKill l t reason]

theorem State.startKill_eq {s : State} {l t reason : Nat} {fr : FlightRef} {out : Nat} {y : Tether} (h : s.tether? l t = some y)
    (hd : y.dying = none) :
    s.startKill l t reason fr out = ((y.wgs.foldl State.killWg s).killNoted l t reason fr out).killEnding l t reason y := by
  rw [State.startKill, h]
  simp only [hd, Option.isSome_none, Bool.false_eq_true, if_false]
  rfl

theorem State.Stays.withCur {k : Nat} (s : State) (cur : Option FlightRef) : s.Stays k { s with cur } :=
  .of_frame rfl rfl rfl rfl rfl (fun _ h => h)

theorem State.Stays.killEnding {k : Nat} (s : State) (l t reason : Nat) (y : Tether) : s.Stays k (s.killEnding l t reason y) := by
  have h1 := State.Stays.reissue (k := k) s l t (fun r => y.wgs.any (ofWg r))
  have h2 : ∀ b : Bool, s.Stays k (if b then (s.reissue l t (fun r => y.wgs.any (ofWg r))).endRun l
      else s.reissue l t (fun r => y.wgs.any (ofWg r))) := fun b => by
    cases b
    · exact h1
    · exact h1.trans (.endRun _ l)
  rw [State.killEnding]
  refine State.Stays.trans ?_ (State.Stays.events _ _)
  refine State.Stays.trans ?_ (State.Stays.withCur _ _)
  exact h2 _

theorem State.Stays.killNoted {k : Nat} (s : State) (l t reason : Nat) (fr : FlightRef) (out : Nat) :
    s.Stays k (s.killNoted l t reason fr out) :=
  (State.Stays.modLaunch s l (fun x => x.to_kills _)).trans (.modLaunch _ l (fun x => x.to_modTether t (fun y => y.to_killed reason fr out)))

theorem State.startKill_none {s : State} {l t reason : Nat} {fr : FlightRef} {out : Nat}
    (h : ∀ y, s.tether? l t = some y → y.dying.isSome = true) : s.startKill l t reason fr out = s := by
  cases hy : s.tether? l t with
  | none => rw [State.startKill, hy]
  | some y =>
    rw [State.startKill, hy]
    exact if_pos (h y hy)

theorem State.Stays.startKill {k : Nat} (s : State) (l t reason : Nat) (fr : FlightRef) (out : Nat) :
    s.Stays k (s.startKill l t reason fr out) := by
  by_cases h : ∀ y, s.tether? l t = some y → y.dying.isSome = true
  · rw [State.startKill_none h]
    exact .refl k s
  · simp only [not_forall, Option.not_isSome_iff_eq_none] at h
    obtain ⟨y, hy, hd⟩ := h
    rw [State.startKill_eq hy hd]
    exact ((State.Stays.foldl State.Stays.killWg y.wgs s).trans (.killNoted _ l t reason fr out)).trans (.killEnding _ l t reason y)

/-- A tether is there, and dying, with nothing staged if it was alive in another state. -/
def State.Dies (s : State) (l t : Nat) (y : Tether) : Prop :=
  ∃ z, s.tether? l t = some z ∧ z.dying.isSome = true ∧ (y.dying = none → z.stage = [])

theorem State.tether?_some {s : State} {l t : Nat} {y : Tether} :
    s.tether? l t = some y ↔ ∃ x, look s.launches l = some x ∧ look x.tethers t = some y := by
  rw [State.tether?, Option.bind_eq_some_iff]

theorem LaunchesTo.tether {s u : State} (h : LaunchesTo s.launches u.launches) {l t : Nat} {y : Tether} (hy : s.tether? l t = some y) :
    ∃ z, u.tether? l t = some z ∧ y.To z := by
  obtain ⟨x, hx, hy⟩ := State.tether?_some.mp hy
  obtain ⟨x', hx', ht⟩ := h l x hx
  obtain ⟨z, hz, hyz⟩ := ht.tethers t y hy
  exact ⟨z, State.tether?_some.mpr ⟨x', hx', hz⟩, hyz⟩

theorem State.Dies.to {s u : State} {l t : Nat} {y : Tether} (hd : s.Dies l t y) (h : LaunchesTo s.launches u.launches) : u.Dies l t y := by
  obtain ⟨z, hz, h1, h2⟩ := hd
  obtain ⟨z', hz', hto⟩ := LaunchesTo.tether h hz
  exact ⟨z', hz', hto.dying h1, fun hy => hto.stage (h2 hy)⟩

theorem State.killNoted_tether {s : State} {l t reason : Nat} {fr : FlightRef} {out : Nat} {y : Tether} (h : s.tether? l t = some y) :
    (s.killNoted l t reason fr out).tether? l t = some (y.killed reason fr out) := by
  obtain ⟨x, hx, hy⟩ := State.tether?_some.mp h
  refine State.tether?_some.mpr ⟨_, (look_alter_same _ _ _).trans (congrArg _ ((look_alter_same _ _ _).trans (congrArg _ hx))), ?_⟩
  exact (look_alter_same _ _ _).trans (congrArg _ hy)

/-- The tether that is killed is dying then; one that came to this state alive, or without staging, has none. -/
theorem State.startKill_dies {s : State} {l t reason : Nat} {fr : FlightRef} {out : Nat} {y z : Tether} (h : s.tether? l t = some z)
    (hto : y.To z) : (s.startKill l t reason fr out).Dies l t y := by
  cases hd : z.dying with
  | some d =>
    rw [State.startKill_none (fun z' hz' => by rw [h] at hz'; cases hz'; rw [hd]; rfl)]
    refine ⟨z, h, by rw [hd]; rfl, fun hy => (hto.begun hy).resolve_left (by rw [hd]; exact Option.some_ne_none d)⟩
  | none =>
    rw [State.startKill_eq h hd]
    obtain ⟨z1, h1, _⟩ := LaunchesTo.tether (State.Stays.foldl (k := 0) State.Stays.killWg z.wgs s).launches h
    have h2 : ((z.wgs.foldl State.killWg s).killNoted l t reason fr out).Dies l t y :=
      ⟨_, State.killNoted_tether h1, rfl, fun _ => rfl⟩
    exact h2.to (State.Stays.killEnding (k := 0) _ l t reason z).launches

/-! ### Mode F without an overrun (R342) -/

/-- The tethers of a context, each with its launch's key. -/
def State.tethersOf (s : State) (k c : Nat) : List (Nat × (Nat × List Nat)) :=
  (s.launches.filter (fun p => p.2.part == k && p.2.ctx == c)).flatMap (fun p => p.2.tethers.map (fun t => (p.1, (t.1, t.2.wgs))))

theorem State.mem_tethersOf {s : State} {key n : Nat} {l : Launch} {y : Tether} (h : look s.launches key = some l)
    (hy : look l.tethers n = some y) : (key, (n, y.wgs)) ∈ s.tethersOf l.part l.ctx := by
  refine List.mem_flatMap.mpr ⟨(key, l), List.mem_filter.mpr ⟨mem_of_look h, by simp⟩, ?_⟩
  exact List.mem_map.mpr ⟨(n, y), mem_of_look hy, rfl⟩

/-- The kill of one tether of a context that is forced out. -/
def State.forceKill (s : State) (x : Nat × (Nat × List Nat)) : State := s.startKill x.1 x.2.1 3 (.wg (x.2.2.headD 0) 0) 0

/-- A context begins to be forced out. -/
def State.forcing (s : State) (k c : Nat) : State := s.modCtx k c (fun c => { c with st := .forcing })

theorem State.forceOut_eq (s : State) (k c : Nat) :
    s.forceOut k c none = ((s.tethersOf k c).foldl State.forceKill (s.forcing k c)).settleCtx k := rfl

/-- The running context has left its partition; what follows are completion entries and moves. -/
def State.leftCtx (s : State) (k c : Nat) : State :=
  let s1 := ((s.keepGrants k c).modCtx k c (fun x => { x with st := .saved, drained := x.st == .draining, tick := (s.part k).tick })).modPart k (fun p =>
    { p with cur := none, lastTenant := (p.ctx c).desc.tenant })
  { s1 with
    wgs := mapVals s1.wgs (fun w g => if g.part ≠ k ∨ g.ctx ≠ c ∨ g.st = .switchedOut then g else
      { g with st := .switchedOut, flights := g.flights.map (s.seatOut (s.det (.wg w 0))) })
    cur := match s1.cur with
      | some r => if s1.partOf r = k ∧ (s1.wgOf r).isSome then none else some r
      | none => none }

theorem State.Stays.leaveCtx {k : Nat} (s : State) (p c : Nat) : (s.leftCtx p c).Stays k (s.leaveCtx p c .saved) := by
  have h := (State.Stays.modPart (k := k) (s.leftCtx p c) p (f := fun p => { p with onLeave := [] }) (by intro x; exact ⟨rfl, rfl, rfl⟩)
    (by intro x d h; exact h)).trans (.foldl (f := fun s o => s.owe p o) (fun s o => .owe s p o) ((s.leftCtx p c).part p).onLeave _)
  have he : ∀ is, (s.leftCtx p c).Stays k (State.events _ is) := fun is => h.trans (.events _ is)
  show (s.leftCtx p c).Stays k (if ((s.leftCtx p c).part p).vfOff = 1 then _ else _)
  split
  · exact he _
  · split
    · exact he _
    · exact h

theorem State.leftCtx_part {s : State} {k : Nat} (hk : k < s.parts.length) (c : Nat) : ((s.leftCtx k c).part k).cur = none := by
  have hl : k < ((s.keepGrants k c).modCtx k c (fun x => { x with st := .saved, drained := x.st == .draining, tick := (s.part k).tick })).parts.length :=
    by
    simp only [State.modCtx, State.modPart_parts, length_modAt, State.keepGrants]
    exact hk
  exact congrArg Part.cur ((State.part_modPart _ k _ k).trans (if_pos ⟨rfl, hl⟩))

/-- Leaving a partition changes what is running in it, and its context slots. -/
theorem State.leftCtx_kept {α : Type} (g : Part → α) (hg : ∀ (x : Part) cur ctxs ten, g { x with cur, ctxs, lastTenant := ten } = g x)
    (s : State) (k c : Nat) : g ((s.leftCtx k c).part k) = g (s.part k) := by
  have hc : ∀ (u : State) (f : Ctx → Ctx), g ((u.modCtx k c f).part k) = g (u.part k) := fun u f =>
    State.part_modPart_kept g u k (fun x => hg x x.cur _ x.lastTenant) k
  exact ((State.part_modPart_kept g _ k (fun x => hg x none x.ctxs _) k).trans (hc _ _)).trans (hc s _)

/-- What becomes of a partition whose context is forced out: it runs on until its tethers have gone, or has left. -/
structure State.ForcedOut (k c : Nat) (s t : State) : Prop where
  vfOff : (t.part k).vfOff = (s.part k).vfOff
  cur : (t.part k).cur = none ∨ (t.part k).cur = some c ∧ (c < (s.part k).ctxs.length → ((t.part k).ctx c).st = .forcing)
  ctls : s.NoNewCtl k t
  direct : (s.pfRing 16).full = true → t.pfDirect = s.pfDirect
  launches : LaunchesTo s.launches t.launches

theorem State.leaveCtx_forcedOut {s : State} {k : Nat} (hk : k < s.parts.length) (c : Nat) : s.ForcedOut k c (s.leaveCtx k c .saved) := by
  have h := State.Stays.leaveCtx (k := k) s k c
  have hctl : ((s.leftCtx k c).part k).ctls = (s.part k).ctls := State.leftCtx_kept Part.ctls (by intros; rfl) s k c
  have hoff : ((s.leftCtx k c).part k).vfOff = (s.part k).vfOff := State.leftCtx_kept Part.vfOff (by intros; rfl) s k c
  exact ⟨h.vfOff.trans hoff, Or.inl (h.cur.trans (State.leftCtx_part hk c)), fun d hd => h.ctls d (by rw [hctl]; exact hd),
    fun hf => h.direct hf, h.launches⟩

/-- The slot of a context that is being forced out. -/
theorem State.forcing_st {s : State} {k : Nat} (hk : k < s.parts.length) (c : Nat) :
    (c < (s.part k).ctxs.length → (((s.forcing k c).part k).ctx c).st = .forcing) ∧ (((s.forcing k c).part k).ctx c).st ≠ .halting := by
  have hp : (s.forcing k c).part k = { s.part k with ctxs := modAt (s.part k).ctxs c (fun c => { c with st := .forcing }) } :=
    (State.part_modPart s k _ k).trans (if_pos ⟨rfl, hk⟩)
  rw [hp]
  simp only [Part.ctx, List.getD_eq_getElem?_getD, getElem?_modAt, if_true]
  by_cases h : c < (s.part k).ctxs.length
  · rw [List.getElem?_eq_getElem h]
    exact ⟨fun _ => rfl, fun h => by cases h⟩
  · rw [List.getElem?_eq_none (by omega)]
    exact ⟨fun hc => absurd hc h, fun h => by cases h⟩

/-- A context that is being forced out stays as it is or leaves. -/
theorem State.settleCtx_cases {u : State} {k c : Nat} (hc : (u.part k).cur = some c) (h : ((u.part k).ctx c).st ≠ .halting) :
    u.settleCtx k = u ∨ u.settleCtx k = u.leaveCtx k c .saved := by
  rw [State.settleCtx, hc]
  dsimp only
  split
  · split
    · exact Or.inr rfl
    · exact Or.inl rfl
  · split
    · exact Or.inr rfl
    · exact Or.inl rfl
  · next hh => exact absurd hh h
  · exact Or.inl rfl

theorem State.ForcedOut.of_stays {k c : Nat} {s t : State} (h : s.Stays k t) (hc : (s.part k).cur = some c)
    (hst : c < (s.part k).ctxs.length → ((s.part k).ctx c).st = .forcing) : s.ForcedOut k c t where
  vfOff := h.vfOff
  cur := Or.inr ⟨h.cur.trans hc, fun hl => by rw [Part.ctx, h.ctxs]; exact hst hl⟩
  ctls := h.ctls
  direct := h.direct
  launches := h.launches

theorem State.ForcedOut.after {k c : Nat} {s u t : State} (h : s.Stays k u) (h' : u.ForcedOut k c t) : s.ForcedOut k c t where
  vfOff := h'.vfOff.trans h.vfOff
  cur := by rw [← h.ctxs]; exact h'.cur
  ctls d hd := h'.ctls d (h.ctls d hd)
  direct hf := (h'.direct (h.full hf)).trans (h.direct hf)
  launches := h.launches.trans h'.launches

theorem State.settleCtx_forcedOut {u : State} {k c : Nat} (hk : k < u.parts.length) (hc : (u.part k).cur = some c)
    (hst : c < (u.part k).ctxs.length → ((u.part k).ctx c).st = .forcing) (hnh : ((u.part k).ctx c).st ≠ .halting) :
    u.ForcedOut k c (u.settleCtx k) := by
  rcases State.settleCtx_cases hc hnh with h | h
  · rw [h]
    exact .of_stays (.refl k u) hc hst
  · rw [h]
    exact State.leaveCtx_forcedOut hk c

theorem State.forcing_kept {α : Type} (g : Part → α) (hg : ∀ (x : Part) ctxs, g { x with ctxs } = g x) (s : State) (k c : Nat) :
    g ((s.forcing k c).part k) = g (s.part k) := State.part_modPart_kept g s k (fun x => hg x _) k

/-- Mode F on the running context: every tether of it is dying. -/
theorem State.forceOut_rule {s : State} {k c : Nat} (hk : k < s.parts.length) (hc : (s.part k).cur = some c) :
    s.ForcedOut k c (s.forceOut k c none) ∧ ∀ key n l y, look s.launches key = some l → l.part = k → l.ctx = c → look l.tethers n = some y →
      ∀ x, Tether.To x y → (s.forceOut k c none).Dies key n x := by
  obtain ⟨hst, hnh⟩ := State.forcing_st hk c
  have hcur : ((s.forcing k c).part k).cur = some c := (State.forcing_kept Part.cur (by intros; rfl) s k c).trans hc
  have hoff : ((s.forcing k c).part k).vfOff = (s.part k).vfOff := State.forcing_kept Part.vfOff (by intros; rfl) s k c
  have hctl : ((s.forcing k c).part k).ctls = (s.part k).ctls := State.forcing_kept Part.ctls (by intros; rfl) s k c
  have hlen : ((s.forcing k c).part k).ctxs.length = (s.part k).ctxs.length :=
    State.part_modPart_kept (fun p => p.ctxs.length) s k (fun x => length_modAt ..) k
  have hcount : k < (s.forcing k c).parts.length := by rwa [State.forcing, State.modCtx, State.modPart_parts, length_modAt]
  have hkill : ∀ (u : State) x, u.Stays k (u.forceKill x) := fun u x => .startKill _ _ _ _ _ _
  have h1 : (s.forcing k c).Stays k ((s.tethersOf k c).foldl State.forceKill (s.forcing k c)) := .foldl hkill _ _
  have h2 := State.settleCtx_forcedOut (by rwa [h1.count]) (h1.cur.trans hcur)
    (fun hl => by rw [Part.ctx, h1.ctxs]; exact hst (by rwa [h1.ctxs, hlen] at hl)) (by rw [Part.ctx, h1.ctxs]; exact hnh)
  have h3 := State.ForcedOut.after h1 h2
  rw [← State.forceOut_eq] at h2 h3
  refine ⟨⟨h3.vfOff.trans hoff, by rw [← hlen]; exact h3.cur, fun d hd => h3.ctls d (by rw [hctl]; exact hd), h3.direct, h3.launches⟩, ?_⟩
  intro key n l y hl hp hx hy x hto
  have hm : (key, (n, y.wgs)) ∈ s.tethersOf k c := by
    rw [← hp, ← hx]
    exact State.mem_tethersOf hl hy
  obtain ⟨v, hv, hend⟩ := foldl_step_of_mem (R := State.Stays k) (State.Stays.refl k) (fun _ _ _ => State.Stays.trans) hkill hm (s.forcing k c)
  have hys : (s.forcing k c).tether? key n = some y := State.tether?_some.mpr ⟨l, hl, hy⟩
  obtain ⟨y', hy', hto'⟩ := LaunchesTo.tether hv.launches hys
  exact ((State.startKill_dies hy' (hto.trans hto')).to hend.launches).to h2.launches

end Sys2Proof.Machine
end

section
/-! SUPPORT. VF_DISABLE, and the obligation on clearance tokens and the end of a VF (R150, R189, R350–R355). -/

namespace Sys2Proof.Machine

open Sys2Proof.Claim

theorem exec_vfDisable (k : Nat) (s : State) : exec (.vfDisable k) s = execVfDisable k s := rfl

/-! ### The launches of a disabled VF (R150, R350) -/

/-- The launches of a partition that are to be cancelled, queue by queue. -/
def State.vfLaunches (s : State) (k : Nat) : List Nat :=
  (List.range 17).flatMap (fun q => (s.launches.filter (fun p => p.2.part == k && !p.2.ended && p.2.queue == q)).map Prod.fst)

theorem State.mem_vfLaunches {s : State} {k key : Nat} {l : Launch} (h : look s.launches key = some l) (hk : l.part = k)
    (he : l.ended = false) (hq : l.queue ≤ 16) : key ∈ s.vfLaunches k := by
  refine List.mem_flatMap.mpr ⟨l.queue, List.mem_range.mpr (by omega), List.mem_map.mpr ⟨(key, l), List.mem_filter.mpr ⟨mem_of_look h, ?_⟩, rfl⟩⟩
  simp [hk, he]

theorem State.look_of_mem_vfLaunches {s : State} {k key : Nat} (h : key ∈ s.vfLaunches k) : ∃ l, look s.launches key = some l := by
  obtain ⟨q, _, h⟩ := List.mem_flatMap.mp h
  obtain ⟨p, hp, rfl⟩ := List.mem_map.mp h
  exact Option.ne_none_iff_exists'.mp (look_ne_none_of_mem (List.mem_of_mem_filter hp))

/-- What the cancelling of some launches keeps. -/
theorem State.hostCancels_keeps {k : Nat} (keys : List Nat) (s : State) :
    s.KeepsVf k (keys.foldl State.hostCancel s) ∧ s.NoNewCtl k (keys.foldl State.hostCancel s) := by
  induction keys generalizing s with
  | nil => exact ⟨.refl k s, fun _ h => h⟩
  | cons key keys ih =>
    obtain ⟨h1, h2⟩ := s.hostCancel_keeps (k := k) key
    obtain ⟨h3, h4⟩ := ih (s.hostCancel key)
    exact ⟨h1.trans h3, fun d hd => h4 d (h2 d hd)⟩

/-- A launch on its way as the host cancels it. -/
def Launch.HostCancelled (x : Launch) : Prop := x.ended = true ∧ x.cancelled = true ∧ x.again = []

theorem Launch.HostCancelled.to {l x : Launch} (h : l.HostCancelled) (ht : l.To x) : x.HostCancelled :=
  ⟨ht.ended h.1, ht.cancelled h.2.1, ht.again h.2.2⟩

theorem State.hostCancels_launch {keys : List Nat} {key : Nat} (hm : key ∈ keys) {s : State} {l : Launch} (h : look s.launches key = some l) :
    ∃ x, look (keys.foldl State.hostCancel s).launches key = some x ∧ x.HostCancelled := by
  obtain ⟨u, hu, hend⟩ := foldl_step_of_mem (R := State.KeepsVf 0) (State.KeepsVf.refl 0) (fun _ _ _ => State.KeepsVf.trans)
    (fun s key => (State.hostCancel_keeps s key).1) hm s
  obtain ⟨l1, h1, _⟩ := hu.launches key l h
  obtain ⟨x, hx, hc⟩ := State.hostCancel_launch h1
  obtain ⟨z, hz, ht⟩ := hend.launches key x hx
  exact ⟨z, hz, Launch.HostCancelled.to hc ht⟩

/-- With PF ring 16 full, the entries of the launches wait for it in their order. -/
theorem State.hostCancels_direct (keys : List Nat) {s : State} (hf : (s.pfRing 16).full = true)
    (hl : ∀ key ∈ keys, ∃ l, look s.launches key = some l) :
    ∃ bs : List (List Byte), (keys.foldl State.hostCancel s).pfDirect = s.pfDirect ++ bs ∧ bs.length = keys.length ∧
      ∀ (i key : Nat) l, keys[i]? = some key → look s.launches key = some l → ∃ x : Launch, bs[i]? = some x.hostBytes ∧ l.To x := by
  induction keys generalizing s with
  | nil => exact ⟨[], (List.append_nil _).symm, rfl, fun i key l h => by simp at h⟩
  | cons key keys ih =>
    obtain ⟨l, hkey⟩ := hl key List.mem_cons_self
    have hk := (State.hostCancel_keeps (k := 0) s key).1
    obtain ⟨bs, h1, h2, h3⟩ := ih (s := s.hostCancel key) (hk.full hf) (fun j hj => by
      obtain ⟨l', hl'⟩ := hl j (List.mem_cons_of_mem key hj)
      obtain ⟨x, hx, _⟩ := hk.launches j l' hl'
      exact ⟨x, hx⟩)
    refine ⟨l.hostBytes :: bs, ?_, by rw [List.length_cons, h2, List.length_cons], fun i j l' hj hl' => ?_⟩
    · rw [List.foldl_cons, h1, State.hostCancel_direct hkey (Or.inr hf), List.append_assoc, List.singleton_append]
    · cases i with
      | zero =>
        rw [List.getElem?_cons_zero, Option.some.injEq] at hj
        rw [← hj, hkey, Option.some.injEq] at hl'
        exact ⟨l, rfl, hl' ▸ .refl l⟩
      | succ i =>
        obtain ⟨x, hx, ht⟩ := hk.launches j l' hl'
        obtain ⟨y, hy, ht'⟩ := h3 i j x hj hx
        exact ⟨y, hy, ht.trans ht'⟩

/-! ### The first step of VF_DISABLE (R350) -/

/-- The partition accepts nothing further; with no context running, the second step is due. -/
def State.vfBegun (s : State) (k : Nat) : State :=
  if (s.part k).cur.isNone then (s.modPart k (fun p => { p with vfOff := 1 })).events [.vfDisable k] else s.modPart k (fun p => { p with vfOff := 1 })

/-- Its launches are cancelled. -/
def State.vfCancelled (s : State) (k : Nat) : State := (s.vfLaunches k).foldl State.hostCancel (s.vfBegun k)

/-- Its control programs end. -/
def State.vfEnded (s : State) (k : Nat) : State :=
  s.ctlDies.foldl (fun s d => s.endControl d k)
    (State.flushPf ((s.vfCancelled k).pfDirect.length + (s.vfCancelled k).pfOwed.length + 1) (s.vfCancelled k))

/-- Its running context is forced out. -/
def State.vfFirst (s : State) (k : Nat) : State :=
  match (s.part k).cur with
  | some c => (s.vfEnded k).forceOut k c none
  | none => s.vfEnded k

theorem execVfDisable_eq (k : Nat) (s : State) : execVfDisable k s = .next (
    if (s.part k).vfOff = 0 then s.vfFirst k
    else if (s.part k).vfOff = 1 && (s.part k).cur.isNone && s.fabricQuiet k then ((s.cancelCounters k).discard k).scrubOff k
    else s) := rfl

/-- What the partition's state is once it accepts nothing further. -/
theorem State.vfBegun_part {s : State} {k : Nat} (hk : k < s.parts.length) : (s.vfBegun k).part k = { s.part k with vfOff := 1 } := by
  have h : (s.modPart k (fun p => { p with vfOff := 1 })).part k = { s.part k with vfOff := 1 } :=
    (State.part_modPart s k _ k).trans (if_pos ⟨rfl, hk⟩)
  rw [State.vfBegun]
  split
  · exact h
  · exact h

theorem State.vfBegun_kept {α : Type} (g : State → α) (hg : ∀ (x : State) parts agenda, g { x with parts, agenda } = g x) (s : State) (k : Nat) :
    g (s.vfBegun k) = g s := by
  rw [State.vfBegun]
  split
  · exact hg s _ _
  · exact hg s _ s.agenda

theorem State.vfBegun_agenda {s : State} {k : Nat} (h : (s.part k).cur = none) : Move.event (.vfDisable k) ∈ (s.vfBegun k).agenda := by
  rw [State.vfBegun, h, Option.isNone_none, if_pos rfl]
  exact List.mem_cons_self

theorem State.vfCancelled_keeps (s : State) (k : Nat) :
    (s.vfBegun k).KeepsVf k (s.vfCancelled k) ∧ (s.vfBegun k).NoNewCtl k (s.vfCancelled k) := State.hostCancels_keeps _ _

theorem State.vfEnded_keepsPf (s : State) (k : Nat) : (s.vfCancelled k).KeepsPf k (s.vfEnded k) :=
  (State.Stays.flushPf _ _).toKeepsPf.trans (.endControls k _ _)

theorem State.vfEnded_keeps (s : State) (k : Nat) : (s.vfBegun k).KeepsVf k (s.vfEnded k) :=
  (s.vfCancelled_keeps k).1.trans (s.vfEnded_keepsPf k).toKeepsVf

theorem State.vfBegun_length (s : State) (k : Nat) : (s.vfBegun k).parts.length = s.parts.length := by
  rw [State.vfBegun]
  split
  · exact length_modAt ..
  · exact length_modAt ..

theorem State.vfEnded_ctls {s : State} {k : Nat} (hk : k < s.parts.length) (h4 : ∀ d, 4 ≤ d → look (s.part k).ctls d = none) (d : Nat) :
    look ((s.vfEnded k).part k).ctls d = none := by
  have h1 := (State.vfCancelled_keeps s k).1.trans (State.Stays.flushPf (k := k) ((s.vfCancelled k).pfDirect.length +
    (s.vfCancelled k).pfOwed.length + 1) (s.vfCancelled k)).toKeepsVf
  have hup : (s.vfBegun k).dieUp = s.dieUp := State.vfBegun_kept State.dieUp (by intros; rfl) s k
  refine State.endControls_all (by rw [h1.count, State.vfBegun_length]; exact hk) (h1.up.trans hup) (fun d hd => ?_) d
  refine (State.Stays.flushPf _ _).ctls d ((s.vfCancelled_keeps k).2 d ?_)
  rw [State.vfBegun_part hk]
  exact h4 d hd

theorem State.vfEnded_direct {s : State} (k : Nat) (hf : (s.pfRing 16).full = true) :
    ∃ bs : List (List Byte), (s.vfEnded k).pfDirect = s.pfDirect ++ bs ∧ bs.length = (s.vfLaunches k).length ∧
      ∀ (i key : Nat) l, (s.vfLaunches k)[i]? = some key → look s.launches key = some l → ∃ x : Launch, bs[i]? = some x.hostBytes ∧ l.To x := by
  have hl : (s.vfBegun k).launches = s.launches := State.vfBegun_kept State.launches (by intros; rfl) s k
  have hr : (s.vfBegun k).pfRing 16 = s.pfRing 16 := State.vfBegun_kept (State.pfRing · 16) (by intros; rfl) s k
  have hd : (s.vfBegun k).pfDirect = s.pfDirect := State.vfBegun_kept State.pfDirect (by intros; rfl) s k
  have hfb : ((s.vfBegun k).pfRing 16).full = true := by rw [hr, hf]
  obtain ⟨bs, h1, h2, h3⟩ := State.hostCancels_direct (s.vfLaunches k) hfb (fun key hm => by
    rw [hl]
    exact State.look_of_mem_vfLaunches hm)
  refine ⟨bs, ?_, h2, fun i key l hi h => h3 i key l hi (by rw [hl, h])⟩
  rw [(s.vfEnded_keepsPf k).direct ((s.vfCancelled_keeps k).1.full hfb), ← hd]
  exact h1

theorem State.vfEnded_launch {s : State} {key : Nat} {l : Launch} (k : Nat) (h : look s.launches key = some l) :
    ∃ x, look (s.vfEnded k).launches key = some x ∧ l.To x ∧ (l.part = k → l.ended = false → l.queue ≤ 16 → x.HostCancelled) := by
  have hl : (s.vfBegun k).launches = s.launches := State.vfBegun_kept State.launches (by intros; rfl) s k
  obtain ⟨x, hx, ht⟩ := (s.vfEnded_keeps k).launches key l (by rw [hl, h])
  refine ⟨x, hx, ht, fun hk he hq => ?_⟩
  obtain ⟨y, hy, hc⟩ := State.hostCancels_launch (State.mem_vfLaunches h hk he hq) (s := s.vfBegun k) (by rw [hl, h])
  obtain ⟨z, hz, ht'⟩ := (s.vfEnded_keepsPf k).launches key y hy
  rw [hx, Option.some.injEq] at hz
  exact hz ▸ hc.to ht'

/-- The first step of the end of a VF. -/
theorem vfFirst_rule {s : State} {k : Nat} (hk : k < s.parts.length) (h0 : (s.part k).vfOff = 0) :
    ∃ t, exec (.vfDisable k) s = .next t ∧ (t.part k).vfOff = 1 ∧
      ((s.part k).cur = none → (t.part k).cur = none ∧ Move.event (.vfDisable k) ∈ t.agenda) ∧
      (∀ c, (s.part k).cur = some c → (t.part k).cur = none ∨ ((t.part k).cur = some c ∧ (c < (s.part k).ctxs.length → ((t.part k).ctx c).st = .forcing))) ∧
      ((∀ d, 4 ≤ d → look (s.part k).ctls d = none) → ∀ d, look (t.part k).ctls d = none) ∧
      (∀ key l, look s.launches key = some l → l.part = k → ∃ x, look t.launches key = some x ∧
        (l.ended = false → l.queue ≤ 16 → x.HostCancelled) ∧
        ∀ n y, look l.tethers n = some y → ∃ z, look x.tethers n = some z ∧
          ((s.part k).cur = some l.ctx → z.dying.isSome = true ∧ (y.dying = none → z.stage = []))) ∧
      ((s.pfRing 16).full = true → ∃ bs : List (List Byte), t.pfDirect = s.pfDirect ++ bs ∧ bs.length = (s.vfLaunches k).length ∧
          ∀ (i key : Nat) l, (s.vfLaunches k)[i]? = some key → look s.launches key = some l → ∃ x : Launch, bs[i]? = some x.hostBytes ∧ l.To x) := by
  have hb := State.vfBegun_part hk
  have hkeep := s.vfEnded_keeps k
  have hcur : ((s.vfEnded k).part k).cur = (s.part k).cur := by rw [hkeep.cur, hb]
  have hoff : ((s.vfEnded k).part k).vfOff = 1 := by rw [hkeep.vfOff, hb]
  have hctxs : ((s.vfEnded k).part k).ctxs = (s.part k).ctxs := by rw [hkeep.ctxs, hb]
  refine ⟨s.vfFirst k, by rw [exec_vfDisable, execVfDisable_eq, if_pos h0], ?_⟩
  cases hc : (s.part k).cur with
  | none =>
    have ht : s.vfFirst k = s.vfEnded k := by rw [State.vfFirst, hc]
    rw [ht]
    refine ⟨hoff, fun _ => ⟨hcur.trans hc, hkeep.agenda (State.vfBegun_agenda hc)⟩, nofun, State.vfEnded_ctls hk,
      fun key l hl hlk => ?_, State.vfEnded_direct k⟩
    obtain ⟨x, hx, hto, hcan⟩ := State.vfEnded_launch k hl
    refine ⟨x, hx, hcan hlk, fun n y hy => ?_⟩
    obtain ⟨z, hz, _⟩ := hto.tethers n y hy
    exact ⟨z, hz, nofun⟩
  | some c =>
    have ht : s.vfFirst k = (s.vfEnded k).forceOut k c none := by rw [State.vfFirst, hc]
    obtain ⟨hout, hdies⟩ := State.forceOut_rule (s := s.vfEnded k) (by rw [hkeep.count, State.vfBegun_length]; exact hk) (hcur.trans hc)
    rw [ht]
    refine ⟨hout.vfOff.trans hoff, nofun, fun c' h => ?_, fun h4 d => hout.ctls d (State.vfEnded_ctls hk h4 d),
      fun key l hl hlk => ?_, fun hf => ?_⟩
    · rw [Option.some.injEq] at h
      rw [← h, ← hctxs]
      exact hout.cur
    · obtain ⟨x, hx, hto, hcan⟩ := State.vfEnded_launch k hl
      obtain ⟨x', hx', hto'⟩ := hout.launches key x hx
      refine ⟨x', hx', fun he hq => (hcan hlk he hq).to hto', fun n y hy => ?_⟩
      obtain ⟨z, hz, hyz⟩ := hto.tethers n y hy
      obtain ⟨z', hz', _⟩ := hto'.tethers n z hz
      refine ⟨z', hz', fun hcx => ?_⟩
      rw [Option.some.injEq] at hcx
      obtain ⟨w, hw, hd⟩ := hdies key n x z hx (hto.part.trans hlk) (hto.ctx.trans hcx.symm) hz y hyz
      obtain ⟨x'', hx'', hw⟩ := State.tether?_some.mp hw
      rw [hx', Option.some.injEq] at hx''
      rw [← hx'', hz', Option.some.injEq] at hw
      rwa [← hw] at hd
    · obtain ⟨bs, h1, h2⟩ := State.vfEnded_direct k hf
      have hr : (s.vfBegun k).pfRing 16 = s.pfRing 16 := State.vfBegun_kept (State.pfRing · 16) (by intros; rfl) s k
      exact ⟨bs, (hout.direct (hkeep.full (by rw [hr, hf]))).trans h1, h2⟩

/-! ### The second step: what is discarded (R189, R350) -/

theorem State.foldl_kept {α β : Type} (g : State → β) {f : State → α → State} (h : ∀ s a, g (f s a) = g s) (l : List α) (s : State) :
    g (l.foldl f s) = g s := by
  induction l generalizing s with
  | nil => rfl
  | cons a l ih => exact (ih _).trans (h s a)

/-- The counters of a partition change memory alone. -/
theorem State.cancelCounters_kept {α : Type} (g : State → α) (hg : ∀ (s : State) m, g { s with mem := m } = g s) (s : State) (k : Nat) :
    g (s.cancelCounters k) = g s :=
  State.foldl_kept g (fun s _ => State.foldl_kept g (fun s _ => hg s _) _ s) _ s

theorem State.freeMxe_kept {α : Type} (g : State → α) (hg : ∀ (s : State) wgs mxes, g { s with wgs, mxes } = g s) (s : State) (w : Nat) :
    g (s.freeMxe w) = g s := by
  rw [State.freeMxe]
  split
  · rfl
  · exact hg s _ _

theorem State.removeWg_kept {α : Type} (g : State → α) (hg : ∀ (s : State) wgs mxes launches cur, g { s with wgs, mxes, launches, cur } = g s)
    (s : State) (w : Nat) : g (s.removeWg w) = g s := by
  rw [State.removeWg]
  refine (hg _ _ (State.mxes _) (State.launches _) _).trans ?_
  split
  · exact (hg (s.freeMxe w) (s.freeMxe w).wgs (s.freeMxe w).mxes _ (s.freeMxe w).cur).trans
      (State.freeMxe_kept g (fun s wgs mxes => hg s wgs mxes s.launches s.cur) s w)
  · rfl

theorem mem_of_mem_del {α : Type} {m : List (Nat × α)} {i : Nat} {p : Nat × α} (h : p ∈ del m i) : p ∈ m ∧ p.1 ≠ i := by
  induction m with
  | nil => cases h
  | cons q m ih =>
    obtain ⟨j, v⟩ := q
    rw [del] at h
    split at h
    · obtain ⟨h1, h2⟩ := ih h
      exact ⟨List.mem_cons_of_mem _ h1, h2⟩
    · next hj =>
      rcases List.mem_cons.mp h with rfl | h
      · exact ⟨List.mem_cons_self, Ne.symm hj⟩
      · obtain ⟨h1, h2⟩ := ih h
        exact ⟨List.mem_cons_of_mem _ h1, h2⟩

/-- A workgroup of one state is one of another, by its name, its partition and its core. -/
def State.HasWg (s : State) (p : Nat × Wg) : Prop := ∃ q ∈ s.wgs, q.1 = p.1 ∧ q.2.part = p.2.part ∧ q.2.core = p.2.core

theorem State.hasWg_of_mem {s : State} {p : Nat × Wg} (h : p ∈ s.wgs) : s.HasWg p := ⟨p, h, rfl, rfl, rfl⟩

theorem State.HasWg.trans {s t : State} {p : Nat × Wg} (h : t.HasWg p) (hs : ∀ q ∈ t.wgs, s.HasWg q) : s.HasWg p := by
  obtain ⟨q, hq, h1, h2, h3⟩ := h
  obtain ⟨r, hr, h4, h5, h6⟩ := hs q hq
  exact ⟨r, hr, h4.trans h1, h5.trans h2, h6.trans h3⟩

theorem State.freeMxe_hasWg {s : State} {w : Nat} {p : Nat × Wg} (h : p ∈ (s.freeMxe w).wgs) : s.HasWg p := by
  rw [State.freeMxe] at h
  split at h
  · exact State.hasWg_of_mem h
  · obtain ⟨q, hq, rfl⟩ := List.mem_map.mp h
    refine ⟨q, hq, rfl, ?_, ?_⟩ <;> dsimp only <;> split <;> rfl

theorem State.removeWg_hasWg {s : State} {w : Nat} {p : Nat × Wg} (h : p ∈ (s.removeWg w).wgs) : p.1 ≠ w ∧ s.HasWg p := by
  rw [State.removeWg] at h
  obtain ⟨h1, h2⟩ := mem_of_mem_del h
  refine ⟨h2, ?_⟩
  split at h1
  · exact State.freeMxe_hasWg h1
  · exact State.hasWg_of_mem h1

theorem State.removeWgs_hasWg (ws : List Nat) {s : State} {p : Nat × Wg} (h : p ∈ (ws.foldl State.removeWg s).wgs) : p.1 ∉ ws ∧ s.HasWg p := by
  induction ws generalizing s with
  | nil => exact ⟨List.not_mem_nil, State.hasWg_of_mem h⟩
  | cons w ws ih =>
    obtain ⟨h1, q, hq, h2, h3, h4⟩ := ih h
    obtain ⟨h5, h6⟩ := State.removeWg_hasWg hq
    refine ⟨fun hm => ?_, ?_⟩
    · rcases List.mem_cons.mp hm with hm | hm
      · exact h5 (h2.trans hm)
      · exact h1 hm
    · exact State.HasWg.trans ⟨q, hq, h2, h3, h4⟩ (fun q hq => (State.removeWg_hasWg hq).2)

/-- The workgroups of a partition. -/
def State.wgsOf (s : State) (k : Nat) : List Nat := (s.wgs.filter (fun p => p.2.part == k)).map (·.1)

theorem State.discard_wgs {s : State} {k : Nat} {p : Nat × Wg} (h : p ∈ (s.discard k).wgs) : p.2.part ≠ k ∧ s.HasWg p := by
  obtain ⟨h1, h2⟩ := State.removeWgs_hasWg (s.wgsOf k) (s := s) h
  refine ⟨fun hp => h1 ?_, h2⟩
  obtain ⟨q, hq, h3, h4, _⟩ := h2
  exact List.mem_map.mpr ⟨q, List.mem_filter.mpr ⟨hq, by simp [h4, hp]⟩, h3⟩

/-- A context slot that is discarded. -/
def Ctx.discarded (c : Ctx) : Ctx :=
  { c with
    st := .absent, onList := false, trans := Ctx.reset.trans, dom := Ctx.reset.dom, faults := [], trapOwed := [], reports := [], grants := [] }

theorem State.removeWgs_parts (ws : List Nat) (s : State) : (ws.foldl State.removeWg s).parts = s.parts :=
  State.foldl_kept State.parts (State.removeWg_kept State.parts (by intros; rfl)) ws s

theorem State.discard_part {s : State} {k : Nat} (hk : k < s.parts.length) :
    (s.discard k).part k = { s.part k with last := none, ctxs := (s.part k).ctxs.map Ctx.discarded } := by
  have hp := s.removeWgs_parts (s.wgsOf k)
  have h1 : ((s.wgsOf k).foldl State.removeWg s).part k = s.part k := by rw [State.part, State.part, hp]
  have hl : k < ((s.wgsOf k).foldl State.removeWg s).parts.length := by rwa [hp]
  refine (State.part_modPart _ k _ k).trans ((if_pos ⟨rfl, by exact hl⟩).trans ?_)
  exact congrArg (fun p : Part => { p with last := none, ctxs := p.ctxs.map Ctx.discarded }) h1

theorem State.discard_launches {s : State} {k : Nat} : ∀ p ∈ (s.discard k).launches, p.2.part ≠ k := fun p hp => by
  have h := List.of_mem_filter (p := fun p : Nat × Launch => p.2.part != k) hp
  simpa using h

theorem State.discard_sigs {s : State} {k : Nat} : ∀ g ∈ (s.discard k).sigs, g.part ≠ k := fun g hg => by
  have h := List.of_mem_filter (p := fun g : Sig => g.part != k) hg
  simpa using h

theorem State.discard_length (s : State) (k : Nat) : (s.discard k).parts.length = s.parts.length :=
  (length_modAt ..).trans (congrArg List.length (s.removeWgs_parts (s.wgsOf k)))

theorem State.discard_clk (s : State) (k : Nat) : (s.discard k).clk = s.clk :=
  State.foldl_kept State.clk (State.removeWg_kept State.clk (by intros; rfl)) (s.wgsOf k) s

theorem State.discard_agenda (s : State) (k x i st : Nat) (c : Option Nat) (cs : List Nat) :
    Move.event (.counterSignal k x i st c cs) ∉ (s.discard k).agenda := fun h => by
  have h := (List.mem_filter.mp h).2
  simp at h

/-! ### The second step: the scrub (R350, R352) -/

/-- The token of R350. -/
def State.vfToken (s : State) (k : Nat) : List Byte :=
  tokenBody k (s.part k).desc.vf.toNat 2 (s.part k).lastTenant 0
    (BitVec.ofNat 256 (ofBytes ((List.range 32).map (fun i => Config.freeByte (s.free + i))))) s.clk.toNat (Config.freeNat s.free % 40001)

/-- The choices that the token's nonce takes. -/
def State.nonceTaken (s : State) : State := { s with free := s.free + 32 }

/-- A partition whose VF has ended. -/
def Part.vfGone (p : Part) (body : List Byte) : Part :=
  { p with vfOff := 2, formed := false, lastTenant := 0, switch := none, tokenDue := p.tokenDue ++ [(body, none)] }

theorem State.scrubOff_eq (s : State) (k : Nat) :
    s.scrubOff k = ((s.nonceTaken.clear k true).modPart k (fun p => p.vfGone (s.vfToken k))).events [.tokenRecord k] := rfl

theorem State.scrubOff_part {s : State} {k : Nat} (hk : k < s.parts.length) : (s.scrubOff k).part k =
    { s.part k with tlb := [], nonces := [], token := [], clean := (s.part k).desc }.vfGone (s.vfToken k) := by
  have hl : k < (s.nonceTaken.clear k true).parts.length := by rwa [State.clear_length]
  rw [State.scrubOff_eq]
  refine (State.part_modPart _ k _ k).trans ((if_pos ⟨rfl, hl⟩).trans ?_)
  rw [State.clear_part (by exact hk)]
  rfl

/-- No workgroup holds scratchpad bytes on a core that has none. -/
theorem State.heldScratch_none {s : State} {core : Nat} (h : ∀ p ∈ s.wgs, p.2.core ≠ core) (n : Nat) : inRanges (s.heldScratch core) n = false := by
  have he : s.wgs.filter (fun p => p.2.core == core && p.2.away.scratch.isNone) = [] :=
    List.filter_eq_nil_iff.mpr (fun p hp => by simp [h p hp])
  rw [State.heldScratch, he]
  rfl

/-- The second step of the end of a VF. -/
theorem vfSecond_rule {s : State} {k : Nat} (hk : k < s.parts.length) (h1 : (s.part k).vfOff = 1) (hc : (s.part k).cur = none)
    (hq : s.fabricQuiet k = true) :
    ∃ t, exec (.vfDisable k) s = .next t ∧ (t.part k).vfOff = 2 ∧ (t.part k).formed = false ∧
      (∀ c ∈ (t.part k).ctxs, c.st = .absent ∧ c.onList = false) ∧ (∀ p ∈ t.wgs, p.2.part ≠ k) ∧ (∀ p ∈ t.launches, p.2.part ≠ k) ∧
      (∀ g ∈ t.sigs, g.part ≠ k) ∧ (∀ x i st c cs, Move.event (.counterSignal k x i st c cs) ∉ t.agenda) ∧
      (t.part k).tlb = [] ∧ (t.part k).nonces = [] ∧ (t.part k).token = [] ∧
      (∃ nonce ns, (t.part k).tokenDue = (s.part k).tokenDue ++
        [(tokenBody k (s.part k).desc.vf.toNat 2 (s.part k).lastTenant 0 nonce s.clk.toNat ns, none)]) ∧
      Move.event (.tokenRecord k) ∈ t.agenda ∧
      ∀ core n, core < 512 → n < 2 ^ 19 → (s.part k).desc.hasCore core = true → (∀ p ∈ s.wgs, p.2.core = core → p.2.part = k) →
        readByte t.mem (2 ^ 44 + core * 2 ^ 30 + n) = 0 := by
  have hparts : (s.cancelCounters k).parts = s.parts := State.cancelCounters_kept State.parts (by intros; rfl) s k
  have hpart : (s.cancelCounters k).part k = s.part k := by rw [State.part, State.part, hparts]
  have hwgs : (s.cancelCounters k).wgs = s.wgs := State.cancelCounters_kept State.wgs (by intros; rfl) s k
  have hclk : (s.cancelCounters k).clk = s.clk := State.cancelCounters_kept State.clk (by intros; rfl) s k
  have hd := State.discard_part (s := s.cancelCounters k) (k := k) (by rwa [hparts])
  have hlen : k < ((s.cancelCounters k).discard k).parts.length := by rwa [State.discard_length, hparts]
  have hgone : ∀ p ∈ ((s.cancelCounters k).discard k).wgs, p.2.part ≠ k ∧ s.HasWg p := fun p hp => by
    obtain ⟨h1, q, hq, h2⟩ := State.discard_wgs hp
    exact ⟨h1, q, hwgs ▸ hq, h2⟩
  have hsig := State.discard_agenda (s.cancelCounters k) k
  have hdl := State.discard_launches (s := s.cancelCounters k) (k := k)
  have hds := State.discard_sigs (s := s.cancelCounters k) (k := k)
  have hdc := (s.cancelCounters k).discard_clk k
  rw [hpart] at hd
  rw [hclk] at hdc
  refine ⟨((s.cancelCounters k).discard k).scrubOff k, ?_, ?_⟩
  · rw [exec_vfDisable, execVfDisable_eq, if_neg (by rw [h1]; decide), if_pos (by rw [h1, hc, hq]; rfl)]
  generalize (s.cancelCounters k).discard k = u at hd hlen hgone hsig hdl hds hdc ⊢
  have hp := State.scrubOff_part hlen
  rw [hp, hd]
  refine ⟨rfl, rfl, fun c hc => ?_, fun p hp => (hgone p hp).1, hdl, hds, fun x i st c cs h => ?_, rfl, rfl, rfl, ?_, List.mem_cons_self,
    fun core n hcore hn hown hall => ?_⟩
  · obtain ⟨c0, _, rfl⟩ := List.mem_map.mp hc
    exact ⟨rfl, rfl⟩
  · rcases List.mem_cons.mp h with h | h
    · cases h
    · exact hsig x i st c cs h
  · exact ⟨_, _, by rw [State.vfToken, hd, hdc]; rfl⟩
  · have hheld := State.heldScratch_none (s := u.nonceTaken) (core := core) (fun p hp hpc => by
      obtain ⟨hne, q, hq, _, h2, h3⟩ := hgone p hp
      exact hne (h2.symm.trans (hall q hq (h3.trans hpc)))) n
    refine (State.readByte_clear u.nonceTaken k true _).trans (if_neg ?_)
    have hdesc : (u.nonceTaken.part k).desc = (s.part k).desc := by
      show (u.part k).desc = _
      rw [hd]
    rw [State.scrubKeeps_scratch hcore hn (by rw [hdesc, hown]) hheld]
    exact Bool.false_ne_true

theorem vfDisable_waits {s : State} {k : Nat}
    (h : (s.part k).vfOff = 2 ∨ (s.part k).vfOff = 1 ∧ ((s.part k).cur ≠ none ∨ s.fabricQuiet k = false)) :
    exec (.vfDisable k) s = .next s := by
  rw [exec_vfDisable, execVfDisable_eq]
  rcases h with h | ⟨h, hw⟩
  · rw [if_neg (by rw [h]; decide), if_neg (by rw [h]; exact Bool.false_ne_true)]
  · rw [if_neg (by rw [h]; decide), if_neg]
    rcases hw with hw | hw
    · rw [Option.isNone_eq_false_iff.mpr (Option.isSome_iff_ne_none.mpr hw), Bool.and_false, Bool.false_and]
      exact Bool.false_ne_true
    · rw [hw, Bool.and_false]
      exact Bool.false_ne_true

/-! ### The token of a disabled VF (R350, R376) -/

/-- A token that waits alone for PF ring 32 is written there, while it has room. -/
theorem State.flushTokens_one {u : State} {tok : List Byte} (hp : u.pfTokens = [tok]) (hf : (u.pfRing 32).full = false) :
    State.flushTokens 1 u =
      ({ u with pfTokens := [] }.putBytes ((u.pfRing 32).entryAt (u.pfRing 32).prod 4096) tok).modPf 32 Ring.produced := by
  rw [State.flushTokens, hp]
  simp only [hf, Bool.false_eq_true, if_false]
  rfl

/-- A token joins those that wait for the PF. -/
def State.tokenWaits (s : State) (tok : List Byte) : State := { s with pfTokens := s.pfTokens ++ [tok] }

theorem execTokenRecord_pf {s : State} {k : Nat} {body : List Byte} {due : List (List Byte × Option Nat)}
    (h : (s.part k).tokenDue = (body, none) :: due) :
    execTokenRecord k s = .next (State.flushTokens ((s.takeToken k due).pfTokens.length + 1)
      ((s.takeToken k due).tokenWaits (signedToken body (s.part k).written (s.counter + 1).toNat))) := by
  have hw := State.part_modPart_kept Part.written s k (f := fun p => { p with tokenDue := due }) (by intro _; rfl) k
  rw [execTokenRecord, h]
  simp only [State.sign, hw]
  rfl

theorem tokenRecord_pf {s : State} {k : Nat} (hk : k < s.parts.length) {body : List Byte} {due : List (List Byte × Option Nat)}
    (h : (s.part k).tokenDue = (body, none) :: due) (hp : s.pfTokens = []) (hf : (s.pfRing 32).full = false) :
    ∃ t, exec (.tokenRecord k) s = .next t ∧ t.counter = s.counter + 1 ∧ (t.part k).tokenDue = due ∧ t.pfTokens = [] ∧
        t.mem = writeBytes s.mem ((s.pfRing 32).entryAt (s.pfRing 32).prod 4096) (signedToken body (s.part k).written (s.counter + 1).toNat) ∧
        (t.pfRing 32).prod = (s.pfRing 32).prod + 1 := by
  have hw : (s.takeToken k due).pfTokens = [] := hp
  refine ⟨_, execTokenRecord_pf h, ?_⟩
  rw [hw, List.length_nil, Nat.zero_add, State.flushTokens_one (by rw [State.tokenWaits, hw]; rfl) (by exact hf)]
  refine ⟨rfl, ?_, rfl, rfl, ?_⟩
  · exact congrArg Part.tokenDue ((State.part_modPart s k _ k).trans (if_pos ⟨rfl, hk⟩))
  · exact congrArg (fun r : Option Ring => (r.getD Ring.off).prod) (look_put_same _ _ _)

theorem vfDisabled : Claim.VfDisabled := by
  intro s k h16 hlen
  have hk : k < s.parts.length := by rwa [hlen]
  refine ⟨fun h => ?_, fun h0 => ?_, fun h1 hq => vfDisable_waits (Or.inr ⟨h1, Or.inr hq⟩), fun h1 hc hq => vfSecond_rule hk h1 hc hq,
    fun key l => hostCancel_rule s k key l, fun body due h hp hf => tokenRecord_pf hk h hp hf⟩
  · exact vfDisable_waits (h.imp id (fun h => ⟨h.1, Or.inl h.2⟩))
  · obtain ⟨t, ht, hoff, hnone, hsome, hctl, hl, hd⟩ := vfFirst_rule hk h0
    refine ⟨t, ht, hoff, hnone, hsome, hctl, hl, fun _ hf => ?_⟩
    obtain ⟨bs, h1, h2, h3⟩ := hd hf
    refine ⟨bs, h1, h2, fun i key l hi hkey ho => ?_⟩
    obtain ⟨x, hx, hto⟩ := h3 i key l hi hkey
    obtain ⟨hx32, hfields⟩ := x.hostBytes_fields
    obtain ⟨f20, f16, f15, f14, f12⟩ := hfields (by rw [hto.origin]; exact ho)
    exact ⟨x.hostBytes, hx, hx32, by rw [f20, hto.id], by rw [f16, hto.seq], f15, f14, by rw [f12, hto.queue]⟩

/-- Settles O57: tokens by their layout and what a scrub and a record do, the end of a VF by what its cancels, kills and discards keep. -/
theorem tokensAndVfEnd : Obligations.TokensAndVfEnd := ⟨tokens, vfDisabled⟩

end Sys2Proof.Machine
end
